-- ==== Sys2Proof/Word.lean ====
section
/-! DEFINITION. Word types, sparse maps and the plainest list arithmetic of the model (R6, R7). -/

namespace Sys2Proof

/-- A 64-bit scalar word. -/
abbrev Word := BitVec 64

/-- One byte. -/
abbrev Byte := BitVec 8

/-- The low word (word 0) of a 64-bit value, R58. -/
def Word.lo (w : Word) : BitVec 32 := w.extractLsb' 0 32

/-- The high word (word 1) of a 64-bit value, R58. -/
def Word.hi (w : Word) : BitVec 32 := w.extractLsb' 32 32

/-- `bits(x, hi, lo)` of R10 for a natural number: the field of width `n` at `lo`. -/
def fieldN (x lo n : Nat) : Nat := (x / 2 ^ lo) % 2 ^ n

/-- A sparse map from keys to values: data for numbered units of which few are away from their start. -/
abbrev Sparse (α : Type) := List (Nat × α)

/-- The value at key `k`, or `d` where the map lists none. -/
def Sparse.getD {α : Type} (m : Sparse α) (k : Nat) (d : α) : α :=
  match m with
  | [] => d
  | (a, v) :: t => if a = k then v else Sparse.getD t k d

/-- Writes the value at key `k`, in place where the key is listed. -/
def Sparse.set {α : Type} (m : Sparse α) (k : Nat) (v : α) : Sparse α :=
  match m with
  | [] => [(k, v)]
  | (a, w) :: t => if a = k then (k, v) :: t else (a, w) :: Sparse.set t k v

/-- The little-endian value of a byte list (R6). -/
def leNat : List Byte → Nat
  | [] => 0
  | b :: t => b.toNat + 256 * leNat t

/-- The `n` low bytes of a number, little-endian (R6). -/
def leBytes : Nat → Nat → List Byte
  | 0, _ => []
  | n + 1, x => BitVec.ofNat 8 x :: leBytes n (x / 256)

end Sys2Proof
end

