-- ==== Sys2Proof/Config.lean ====
section
/-! DEFINITION. What an implementation fixes and what the spec leaves open: constants of the module's shape, and
free values, which are opaque so that no proof can see what they are. -/

namespace Sys2Proof.Config

/-- Cores of the module (R2). -/
def cores : Nat := 4096

/-- Clusters of the module (R2). -/
def clusters : Nat := 256

/-- Dies of the module (R1). -/
def dies : Nat := 8

/-- Base of the local window, L of R144. -/
def windowL : Nat := 0xFFFFFFFF00000000

/-- Base of the angle-store window, K of R280. -/
def windowK : Nat := 0xFFFFFFFE00000000

/-- R55 (free value): whether a faithful function delivers the upper one of the two bracketing values. A fixed
function of the function number (the F opcode) and the operand alone, of which the spec states nothing else. -/
opaque faithfulUpper : Nat → BitVec 32 → Bool

/-- Free value: a transcendental function whose enclosures never separate at the model's finest precision. The
exact result is then unknown to the model, and this stands for its truncation (log entry 12). -/
opaque unresolved : Nat → Nat → Nat

/-- R369, R376 to R379 (free value): whether a signature verifies under a key over a message digest. -/
opaque sigVerifies : (key msg sig : Nat) → Bool

/-- R377 (free value): the signature the identity key makes over a report. -/
opaque identitySign : Nat → Nat

/-- R376, R377, R25 (free value): the SHA3-512 digest of a byte string. -/
opaque sha3 : List Byte → Nat

/-- R377 (free value): the digest of the n-th firmware image that the module booted. -/
opaque bootDigest : Nat → Nat

/-- R376 (free value): the signature of the n-th firmware image that the module came with. -/
opaque bootSig : Nat → Nat

/-- R376 (free value): the Tronas root key. -/
opaque rootKey : Nat

/-- R379 (free value): the module serial number. -/
opaque serial : Nat

/-- R379 (free value): the n-th 64-byte random challenge of the security processor. -/
opaque challenge : Nat → Nat

/-- R201, R286, R283 (free value): which of two values an access takes where the spec says that which one is not
fixed. The argument is a counter of the state. -/
opaque openChoice : Nat → Bool

/-- R332 (free value): the z extent, less one, that the scheduler chooses for a SPLITZ node, before its limit. -/
opaque splitZ : Nat → Nat

/-- R146 (free value): the order in which the dispatcher considers free physical banks, as a rotation of 0 to 15. -/
opaque bankRotation : Nat → Nat

/-- R230, R231 (free value): the signature of the n-th rerun that another error strikes. -/
opaque strayWord : Nat → BitVec 64

/-- R374, R372 (free value): what the remote side holds at a host or peer byte that nothing of this module wrote. -/
opaque remoteByte : Nat → Byte

/-- The host address that firmware gives a partition (R369). -/
opaque hostAddress : Nat → Nat

end Sys2Proof.Config
end

