-- ==== Sys2Proof/Machine/Float.lean ====
section
/-! DEFINITION. Floating-point formats and exact arithmetic with one rounding (R28 to R31, R42, R45, R54). -/

namespace Sys2Proof.Machine

/-- A floating-point format: exponent bits and fraction bits (R28). -/
structure Fmt where
  eb : Nat
  fb : Nat
deriving DecidableEq, Repr

/-- BF16 (R28). -/
def fmtBF16 : Fmt := ⟨8, 7⟩
/-- FP16 (R28). -/
def fmtF16 : Fmt := ⟨5, 10⟩
/-- FP32 (R28). -/
def fmtF32 : Fmt := ⟨8, 23⟩
/-- FP64 (R28). -/
def fmtF64 : Fmt := ⟨11, 52⟩

/-- The format of a type offset of R79. -/
def fmtOfT (t : BitVec 2) : Fmt :=
  if t = 0 then fmtBF16 else if t = 1 then fmtF16 else if t = 2 then fmtF32 else fmtF64

/-- Bits of an encoding. -/
def Fmt.width (f : Fmt) : Nat := 1 + f.eb + f.fb

/-- The exponent bias (R28). -/
def Fmt.bias (f : Fmt) : Nat := 2 ^ (f.eb - 1) - 1

/-- The exponent of the smallest subnormal: 2 to this power is the finest spacing (R28). -/
def Fmt.emin (f : Fmt) : Int := 1 - (f.bias : Int) - (f.fb : Int)

/-- The encoding of +infinity. -/
def Fmt.infBits (f : Fmt) : Nat := (2 ^ f.eb - 1) * 2 ^ f.fb

/-- The canonical quiet NaN (R28). -/
def Fmt.qnan (f : Fmt) : Nat := f.infBits + 2 ^ (f.fb - 1)

/-- The sign bit of an encoding. -/
def Fmt.signBit (f : Fmt) : Nat := 2 ^ (f.eb + f.fb)

/-- The encoding with a sign put on a magnitude. -/
def Fmt.withSign (f : Fmt) (neg : Bool) (mag : Nat) : Nat := if neg then f.signBit + mag else mag

/-- A floating-point value: NaN (signaling or not), infinity, or (-1)^neg x m x 2^e. -/
inductive FVal where
  | nan (sig : Bool)
  | inf (neg : Bool)
  | fin (neg : Bool) (m : Nat) (e : Int)
deriving DecidableEq, Repr

/-- The value of an encoding (R28). -/
def decodeF (f : Fmt) (x : Nat) : FVal :=
  let neg := decide (x / f.signBit % 2 = 1)
  let ex := x / 2 ^ f.fb % 2 ^ f.eb
  let fr := x % 2 ^ f.fb
  if ex = 2 ^ f.eb - 1 then
    if fr = 0 then .inf neg else .nan (decide (fr < 2 ^ (f.fb - 1)))
  else if ex = 0 then .fin neg fr f.emin
  else .fin neg (2 ^ f.fb + fr) (f.emin + (ex : Int) - 1)

/-! Flags in the layout of XFLAGS (R46). -/

/-- NV. -/
def flNV : BitVec 8 := 1
/-- DZ. -/
def flDZ : BitVec 8 := 2
/-- OF. -/
def flOF : BitVec 8 := 4
/-- UF. -/
def flUF : BitVec 8 := 8
/-- NX. -/
def flNX : BitVec 8 := 16
/-- DG. -/
def flDG : BitVec 8 := 32
/-- DR. -/
def flDR : BitVec 8 := 64
/-- RG. -/
def flRG : BitVec 8 := 128

/-- A result encoding with the flags it raises. -/
structure FRes where
  bits : Nat
  flags : BitVec 8
deriving DecidableEq, Repr

/-- The rounding modes 0 to 4 of R42. -/
inductive RMode where
  | rne
  | rtz
  | rup
  | rdn
  | rna
deriving DecidableEq, Repr

/-- The mode of a 3-bit code below 5 (R42). -/
def RMode.ofCode (n : Nat) : RMode :=
  match n with
  | 1 => .rtz
  | 2 => .rup
  | 3 => .rdn
  | 4 => .rna
  | _ => .rne

/-- The magnitude (m / 2^k, m exact) rounded to an integer under `rm`, and whether it was exact (R42). -/
def roundShift (rm : RMode) (neg : Bool) (m k : Nat) : Nat × Bool :=
  let n := m / 2 ^ k
  let r := m % 2 ^ k
  let exact := decide (r = 0)
  let twice := 2 * r
  let up :=
    match rm with
    | .rne => decide (2 ^ k < twice) || (decide (twice = 2 ^ k) && decide (n % 2 = 1))
    | .rtz => false
    | .rup => !exact && !neg
    | .rdn => !exact && neg
    | .rna => decide (2 ^ k ≤ twice) && !exact
  (if up then n + 1 else n, exact)

/-- m x 2^e as an integer multiple of 2^q, rounded, and whether that was exact. -/
def roundAt (rm : RMode) (neg : Bool) (m : Nat) (e q : Int) : Nat × Bool :=
  if q ≤ e then (m * 2 ^ (e - q).toNat, true) else roundShift rm neg m (q - e).toNat

/-- The exponent of the leading bit of m x 2^e. -/
def leadExp (m : Nat) (e : Int) : Int := e + (Nat.log2 m : Int)

/-- The quantum exponent at the magnitude m x 2^e. -/
def Fmt.quantum (f : Fmt) (m : Nat) (e : Int) : Int := max (leadExp m e - (f.fb : Int)) f.emin

/-- What an overflow delivers under `rm` (R42). -/
def Fmt.overflow (f : Fmt) (rm : RMode) (neg : Bool) : Nat :=
  let toInf :=
    match rm with
    | .rne | .rna => true
    | .rtz => false
    | .rup => !neg
    | .rdn => neg
  f.withSign neg (if toInf then f.infBits else f.infBits - 1)

/-- One rounding of the exact real (-1)^neg x m x 2^e to the format (R42): overflow raises OF and NX, tininess is
detected after rounding, and a zero keeps the sign given. -/
def roundF (f : Fmt) (rm : RMode) (neg : Bool) (m : Nat) (e : Int) : FRes :=
  if m = 0 then ⟨f.withSign neg 0, 0⟩
  else
    let q := f.quantum m e
    let (n, exact) := roundAt rm neg m e q
    let mag := (q - f.emin).toNat * 2 ^ f.fb + n
    if f.infBits ≤ mag then ⟨f.overflow rm neg, flOF ||| flNX⟩
    else
      let uq := leadExp m e - (f.fb : Int)
      let (un, _) := roundAt rm neg m e uq
      let tiny := decide (leadExp un uq < f.emin + (f.fb : Int))
      ⟨f.withSign neg mag, if exact then 0 else if tiny then flUF ||| flNX else flNX⟩

/-- Stochastic rounding of the exact real to the format with the 32-bit word r (R54). -/
def roundSR (f : Fmt) (r : Nat) (neg : Bool) (m : Nat) (e : Int) : FRes :=
  if m = 0 then ⟨f.withSign neg 0, 0⟩
  else
    let qmax : Int := f.emin + (2 ^ f.eb : Int) - 3
    let q := min (f.quantum m e) qmax
    let d := min e (q - 32)
    let num := m * 2 ^ (e - d).toNat + r * 2 ^ (q - 32 - d).toNat
    let den := 2 ^ (q - d).toNat
    let n := num / den
    let exact := decide (m * 2 ^ (e - d).toNat % den = 0)
    let n := if exact then m * 2 ^ (e - d).toNat / den else n
    let mag := (q - f.emin).toNat * 2 ^ f.fb + n
    if f.infBits ≤ mag then ⟨f.withSign neg f.infBits, flOF ||| flNX⟩
    else ⟨f.withSign neg mag, if exact then 0 else if mag < 2 ^ f.fb then flUF ||| flNX else flNX⟩

/-- How a result is rounded: a mode of R42, or stochastically with the word r (R54). -/
inductive Rounding where
  | mode (rm : RMode)
  | sr (r : Nat)
deriving DecidableEq, Repr

/-- One rounding of an exact real to the format. -/
def roundWith (f : Fmt) (rd : Rounding) (neg : Bool) (m : Nat) (e : Int) : FRes :=
  match rd with
  | .mode rm => roundF f rm neg m e
  | .sr r => roundSR f r neg m e

/-- The exact real m x 2^e rounded to an integer magnitude under a rounding, and whether that was exact. -/
def roundInt (rd : Rounding) (neg : Bool) (m : Nat) (e : Int) : Nat × Bool :=
  match rd with
  | .mode rm => roundAt rm neg m e 0
  | .sr r =>
    if 0 ≤ e then (m * 2 ^ e.toNat, true)
    else
      let k := (-e).toNat
      if m % 2 ^ k = 0 then (m / 2 ^ k, true) else ((m * 2 ^ 32 + r * 2 ^ k) / 2 ^ (k + 32), false)

/-! ### Exact values -/

/-- Whether an operand is a signaling NaN (R29). -/
def FVal.isSig : FVal → Bool
  | .nan s => s
  | _ => false

/-- Whether an operand is a NaN. -/
def FVal.isNan : FVal → Bool
  | .nan _ => true
  | _ => false

/-- Whether a value is a zero of either sign. -/
def FVal.isZero : FVal → Bool
  | .fin _ m _ => m == 0
  | _ => false

/-- The sign of a value that is not a NaN. -/
def FVal.neg? : FVal → Bool
  | .nan _ => false
  | .inf n => n
  | .fin n _ _ => n

/-- The value with its sign inverted. -/
def FVal.negate : FVal → FVal
  | .nan s => .nan s
  | .inf n => .inf !n
  | .fin n m e => .fin (!n) m e

/-- The exact product of two values; NV for 0 x infinity and for a signaling NaN (R45). A NaN result is quiet. -/
def mulX (a b : FVal) : FVal × BitVec 8 :=
  let sig := if a.isSig || b.isSig then flNV else 0
  match a, b with
  | .nan _, .nan _ => (.nan false, sig)
  | .nan _, _ => (.nan false, sig)
  | _, .nan _ => (.nan false, sig)
  | .inf n, .inf k => (.inf (n != k), 0)
  | .inf n, .fin k m _ => if m = 0 then (.nan false, flNV) else (.inf (n != k), 0)
  | .fin n m _, .inf k => if m = 0 then (.nan false, flNV) else (.inf (n != k), 0)
  | .fin n m e, .fin k p g => (.fin (n != k) (m * p) (e + g), 0)

/-- A signed mantissa. -/
def sgnMant (neg : Bool) (m : Nat) : Int := if neg then -(m : Int) else (m : Int)

/-- The exact sum of two values, as a value. A zero sum has the sign IEEE 754 gives it when `down` says that the
rounding is RDN (R112). NV for infinity - infinity and for a signaling NaN. -/
def addX (down : Bool) (a b : FVal) : FVal × BitVec 8 :=
  let sig := if a.isSig || b.isSig then flNV else 0
  match a, b with
  | .nan _, .nan _ => (.nan false, sig)
  | .nan _, _ => (.nan false, sig)
  | _, .nan _ => (.nan false, sig)
  | .inf n, .inf k => if n = k then (.inf n, 0) else (.nan false, flNV)
  | .inf n, .fin _ _ _ => (.inf n, 0)
  | .fin _ _ _, .inf k => (.inf k, 0)
  | .fin n m e, .fin k p g =>
    let d := min e g
    let s := sgnMant n (m * 2 ^ (e - d).toNat) + sgnMant k (p * 2 ^ (g - d).toNat)
    if s = 0 then (.fin (if m = 0 ∧ p = 0 ∧ n = k then n else down) 0 d, 0)
    else (.fin (decide (s < 0)) s.natAbs d, 0)

/-- Whether a rounding is RDN. -/
def Rounding.down : Rounding → Bool
  | .mode .rdn => true
  | _ => false

/-- The rounding of an exact value to the format; a NaN becomes the canonical NaN, and a signaling one raises NV
(R29). -/
def deliver (f : Fmt) (rd : Rounding) (v : FVal) : FRes :=
  match v with
  | .nan s => ⟨f.qnan, if s then flNV else 0⟩
  | .inf n => ⟨f.withSign n f.infBits, 0⟩
  | .fin n m e => roundWith f rd n m e

/-- Delivers a value and adds flags raised on the way. -/
def deliverW (f : Fmt) (rd : Rounding) (x : FVal × BitVec 8) : FRes :=
  let r := deliver f rd x.1
  ⟨r.bits, r.flags ||| x.2⟩

/-- RN_fmt(A + B, rm) (R112). -/
def fAdd (f : Fmt) (rm : RMode) (a b : FVal) : FRes := deliverW f (.mode rm) (addX (rm == .rdn) a b)

/-- RN_fmt(A - B, rm) (R112). -/
def fSub (f : Fmt) (rm : RMode) (a b : FVal) : FRes := fAdd f rm a b.negate

/-- RN_fmt(A x B, rm) (R112). -/
def fMul (f : Fmt) (rm : RMode) (a b : FVal) : FRes := deliverW f (.mode rm) (mulX a b)

/-- RN_fmt(A x B + C, rm) with one rounding; 0 x infinity + NaN raises NV (R112). -/
def fFma (f : Fmt) (rm : RMode) (a b c : FVal) : FRes :=
  let p := mulX a b
  let s := addX (rm == .rdn) p.1 c
  deliverW f (.mode rm) (s.1, s.2 ||| p.2)

/-- RN_fmt(A x B + C x D, rm) with one rounding: the fused rotation of R170. -/
def fDot2 (f : Fmt) (rm : RMode) (a b c d : FVal) : FRes :=
  let p := mulX a b
  let q := mulX c d
  let s := addX (rm == .rdn) p.1 q.1
  deliverW f (.mode rm) (s.1, s.2 ||| p.2 ||| q.2)

/-- The truncated quotient of two positive mantissas as an exact stand-in: n bits at least, and an odd last bit where
it is not exact, so that it rounds as the exact quotient does. -/
def quotMant (n : Nat) (a b : Nat) : Nat × Int :=
  let k := n + Nat.log2 b + 1 - Nat.log2 a
  let q := a * 2 ^ k / b
  if a * 2 ^ k % b = 0 then (q, -(k : Int)) else (2 * q + 1, -(k : Int) - 1)

/-- RN_fmt(A / B, rm) (R112): NV for 0/0 and infinity/infinity, DZ for a finite non-zero value over zero. -/
def fDiv (f : Fmt) (rm : RMode) (a b : FVal) : FRes :=
  let sig := if a.isSig || b.isSig then flNV else 0
  match a, b with
  | .nan _, .nan _ => ⟨f.qnan, sig⟩
  | .nan _, _ => ⟨f.qnan, sig⟩
  | _, .nan _ => ⟨f.qnan, sig⟩
  | .inf _, .inf _ => ⟨f.qnan, flNV⟩
  | .inf n, .fin k _ _ => ⟨f.withSign (n != k) f.infBits, 0⟩
  | .fin n _ _, .inf k => ⟨f.withSign (n != k) 0, 0⟩
  | .fin n m e, .fin k p g =>
    if p = 0 then if m = 0 then ⟨f.qnan, flNV⟩ else ⟨f.withSign (n != k) f.infBits, flDZ⟩
    else if m = 0 then ⟨f.withSign (n != k) 0, 0⟩
    else
      let (q, x) := quotMant (f.fb + 4) m p
      roundF f rm (n != k) q (x + e - g)

/-- Bits of a square root, from bit k - 1 down. -/
def isqrtGo (n : Nat) : Nat → Nat → Nat
  | 0, r => r
  | k + 1, r => if (r + 2 ^ k) * (r + 2 ^ k) ≤ n then isqrtGo n k (r + 2 ^ k) else isqrtGo n k r

/-- The integer square root. -/
def isqrt (n : Nat) : Nat := isqrtGo n (Nat.log2 n / 2 + 1) 0

/-- A stand-in for the square root of m x 2^e: at least n bits, with an odd last bit where it is not exact. -/
def sqrtMant (n : Nat) (m : Nat) (e : Int) : Nat × Int :=
  let k0 := 2 * n + 2 - Nat.log2 m
  let k := if (e - (k0 : Int)) % 2 = 0 then k0 else k0 + 1
  let v := m * 2 ^ k
  let r := isqrt v
  let h := (e - (k : Int)) / 2
  if r * r = v then (r, h) else (2 * r + 1, h - 1)

/-- RN_fmt(sqrt A, rm) with the special values of R56. -/
def fSqrt (f : Fmt) (rm : RMode) (a : FVal) : FRes :=
  match a with
  | .nan s => ⟨f.qnan, if s then flNV else 0⟩
  | .inf n => if n then ⟨f.qnan, flNV⟩ else ⟨f.infBits, 0⟩
  | .fin n m e =>
    if m = 0 then ⟨f.withSign n 0, 0⟩
    else if n then ⟨f.qnan, flNV⟩
    else
      let (r, h) := sqrtMant (f.fb + 4) m e
      roundF f rm false r h

/-- RN_fmt(1 / A, rm) with the special values of R56. -/
def fRcp (f : Fmt) (rm : RMode) (a : FVal) : FRes := fDiv f rm (.fin false 1 0) a

/-- RN_fmt(1 / sqrt A, rm) with the special values of R56. -/
def fRsqrt (f : Fmt) (rm : RMode) (a : FVal) : FRes :=
  match a with
  | .nan s => ⟨f.qnan, if s then flNV else 0⟩
  | .inf n => if n then ⟨f.qnan, flNV⟩ else ⟨0, 0⟩
  | .fin n m e =>
    if m = 0 then ⟨f.withSign n f.infBits, flDZ⟩
    else if n then ⟨f.qnan, flNV⟩
    else
      -- 1 / sqrt(m 2^e) = sqrt(2^(2k) / m) 2^(-k - e/2), with e made even first
      let m' := if e % 2 = 0 then m else 2 * m
      let e' := if e % 2 = 0 then e else e - 1
      let k := f.fb + 6 + Nat.log2 m'
      let r := isqrt (2 ^ (2 * k) / m')
      let x : Int := -(k : Int) - e' / 2
      if r * r * m' = 2 ^ (2 * k) then roundF f rm false r x else roundF f rm false (2 * r + 1) (x - 1)

/-- RN_fmt(hypot(a, b), rm): infinity when either operand is infinite, else NaN when either is a NaN (R138). -/
def fHypot (f : Fmt) (rm : RMode) (a b : FVal) : FRes :=
  let sig := if a.isSig || b.isSig then flNV else 0
  match a, b with
  | .inf _, _ => ⟨f.infBits, sig⟩
  | _, .inf _ => ⟨f.infBits, sig⟩
  | .nan _, _ => ⟨f.qnan, sig⟩
  | _, .nan _ => ⟨f.qnan, sig⟩
  | .fin _ m e, .fin _ p g =>
    let d := min e g
    let s := (m * 2 ^ (e - d).toNat) ^ 2 + (p * 2 ^ (g - d).toNat) ^ 2
    if s = 0 then ⟨0, 0⟩
    else
      let (r, h) := sqrtMant (f.fb + 4) s (2 * d)
      roundF f rm false r h

/-- The order of two finite or infinite values: less, equal, greater; none when unordered (R113). -/
def fCmp (a b : FVal) : Option Ordering :=
  match a, b with
  | .nan _, _ => none
  | _, .nan _ => none
  | .inf n, .inf k => some (if n = k then .eq else if n then .lt else .gt)
  | .inf n, .fin _ _ _ => some (if n then .lt else .gt)
  | .fin _ _ _, .inf k => some (if k then .gt else .lt)
  | .fin n m e, .fin k p g =>
    let d := min e g
    let x := sgnMant n (m * 2 ^ (e - d).toNat)
    let y := sgnMant k (p * 2 ^ (g - d).toNat)
    some (if x < y then .lt else if x = y then .eq else .gt)

/-- IEEE minimumNumber (`big` false) or maximumNumber of two encodings (R31): a lone NaN gives the other operand, two
NaNs the canonical NaN, -0 is below +0, and a signaling NaN raises NV. -/
def fMinMax (f : Fmt) (big : Bool) (x y : Nat) : FRes :=
  let a := decodeF f x
  let b := decodeF f y
  let fl := if a.isSig || b.isSig then flNV else 0
  if a.isNan && b.isNan then ⟨f.qnan, fl⟩
  else if a.isNan then ⟨y, fl⟩
  else if b.isNan then ⟨x, fl⟩
  else
    let aLess :=
      match fCmp a b with
      | some .lt => true
      | some .gt => false
      | _ => a.neg? && !b.neg?
    ⟨if aLess != big then x else y, fl⟩

/-- The value of a finite FVal as a signed mantissa and exponent; none for NaN and infinity. -/
def FVal.dyadic? : FVal → Option (Bool × Nat × Int)
  | .fin n m e => some (n, m, e)
  | _ => none

/-- Whether a value is finite. -/
def FVal.isFin : FVal → Bool
  | .fin _ _ _ => true
  | _ => false

/-- A conversion of a value to a two's-complement integer of n bits: saturating, NV for NaN, infinity and values out
of range after rounding, NX when inexact (R131). The result is the n-bit pattern. -/
def toIntN (rd : Rounding) (n : Nat) (v : FVal) : Nat × BitVec 8 :=
  match v with
  | .nan _ => (0, flNV)
  | .inf neg => (if neg then 2 ^ (n - 1) else 2 ^ (n - 1) - 1, flNV)
  | .fin neg m e =>
    let (k, exact) := roundInt rd neg m e
    if neg then
      if 2 ^ (n - 1) < k then (2 ^ (n - 1), flNV)
      else ((2 ^ n - k) % 2 ^ n, if exact then 0 else flNX)
    else if 2 ^ (n - 1) ≤ k then (2 ^ (n - 1) - 1, flNV)
    else (k, if exact then 0 else flNX)

/-- The exact value of an n-bit two's-complement integer. -/
def intVal (n x : Nat) : FVal :=
  if x % 2 ^ n < 2 ^ (n - 1) then .fin false (x % 2 ^ n) 0 else .fin true (2 ^ n - x % 2 ^ n) 0

/-- The class code of R116. -/
def fClass (f : Fmt) (x : Nat) : Nat :=
  match decodeF f x with
  | .nan s => if s then 2 ^ 8 else 2 ^ 9
  | .inf n => if n then 1 else 2 ^ 7
  | .fin n m _ =>
    if m = 0 then if n then 2 ^ 3 else 2 ^ 4
    else if m < 2 ^ f.fb then if n then 2 ^ 2 else 2 ^ 5
    else if n then 2 ^ 1 else 2 ^ 6

/-- Rounding to an integral value of the same format (R115). `exactKind` raises NX when the value changes. -/
def fRint (f : Fmt) (rm : RMode) (exactKind : Bool) (x : Nat) : FRes :=
  match decodeF f x with
  | .nan s => ⟨f.qnan, if s then flNV else 0⟩
  | .inf _ => ⟨x, 0⟩
  | .fin n m e =>
    if m = 0 then ⟨x, 0⟩
    else
      let (k, exact) := roundAt rm n m e 0
      let r := roundF f rm n k 0
      ⟨r.bits, if exactKind && !exact then flNX else 0⟩

end Sys2Proof.Machine
end

