-- ==== Sys2Proof/Machine/Special.lean ====
section
/-! DEFINITION. The special functions (R55, R56, R136 to R138) and the angle conversions (R39): the exact real value is
enclosed by integer intervals of growing precision until its leading bits are known, and then rounded once. -/

namespace Sys2Proof.Machine

/-- An enclosure of a real number: mid ± err, in units of 2 to the power of minus the working precision. -/
structure Ball where
  mid : Int
  err : Nat
deriving DecidableEq, Repr

/-- The sum of two enclosures. -/
def Ball.add (a b : Ball) : Ball := ⟨a.mid + b.mid, a.err + b.err⟩

/-- The difference of two enclosures. -/
def Ball.sub (a b : Ball) : Ball := ⟨a.mid - b.mid, a.err + b.err⟩

/-- An enclosure times an integer. -/
def Ball.scale (a : Ball) (k : Int) : Ball := ⟨a.mid * k, a.err * k.natAbs⟩

/-- The product of two enclosures at precision w. -/
def Ball.mul (w : Nat) (a b : Ball) : Ball :=
  ⟨a.mid * b.mid / 2 ^ w, (a.mid.natAbs * b.err + b.mid.natAbs * a.err + a.err * b.err) / 2 ^ w + 2⟩

/-- The quotient of two enclosures at precision w; the divisor is positive and far from 0. -/
def Ball.div (w : Nat) (a b : Ball) : Ball :=
  let q := a.mid * 2 ^ w / b.mid
  let lo := b.mid.natAbs - b.err
  ⟨q, (a.err * 2 ^ w + (q.natAbs + 1) * b.err) / (max lo 1) + 2⟩

/-- An enclosure times 2^k. -/
def Ball.shift (a : Ball) (k : Int) : Ball :=
  if 0 ≤ k then ⟨a.mid * 2 ^ k.toNat, a.err * 2 ^ k.toNat⟩
  else ⟨a.mid / 2 ^ (-k).toNat, a.err / 2 ^ (-k).toNat + 2⟩

/-- The exact number 1 at precision w. -/
def Ball.one (w : Nat) : Ball := ⟨2 ^ w, 0⟩

/-- The dyadic number m x 2^e at precision w. -/
def Ball.dyadic (w : Nat) (m e : Int) : Ball :=
  let k := e + (w : Int)
  if 0 ≤ k then ⟨m * 2 ^ k.toNat, 0⟩ else ⟨m / 2 ^ (-k).toNat, 1⟩

/-- Terms of the series of atanh (`alt` false) or atan (`alt` true) of 1/n. -/
def invSeries (alt : Bool) (n2 : Nat) : Nat → Nat → Int → Int → Int
  | 0, _, _, s => s
  | fuel + 1, k, p, s =>
    let t := p / ((2 * k + 1 : Nat) : Int)
    invSeries alt n2 fuel (k + 1) (p / (n2 : Int)) (if alt && k % 2 == 1 then s - t else s + t)

/-- atanh(1/n) or atan(1/n) at precision w, n at least 3. -/
def invBall (alt : Bool) (w n : Nat) : Ball :=
  let terms := w / 3 + 4
  ⟨invSeries alt (n * n) terms 0 (2 ^ w / (n : Int)) 0, 2 * terms + 4⟩

/-- ln 2 = 2 atanh(1/3). -/
def ln2Ball (w : Nat) : Ball := (invBall false w 3).scale 2

/-- pi = 16 atan(1/5) - 4 atan(1/239). -/
def piBall (w : Nat) : Ball := ((invBall true w 5).scale 16).sub ((invBall true w 239).scale 4)

/-- Terms of the exponential series at precision w. -/
def expSeries (w : Nat) (r : Int) : Nat → Nat → Int → Int → Int
  | 0, _, _, s => s
  | fuel + 1, n, t, s =>
    let t' := t * r / (2 ^ w * (n : Int))
    expSeries w r fuel (n + 1) t' (s + t')

/-- e to the power of an enclosed number of magnitude below 1. -/
def expSmall (w : Nat) (r : Ball) : Ball :=
  let terms := w / 3 + 20
  ⟨expSeries w r.mid terms 1 (2 ^ w) (2 ^ w), 4 * terms + 8 + 4 * r.err⟩

/-- e to the power of the enclosed number x, as an enclosure and a power of 2: k is the nearest integer to x / ln 2. -/
def expBall (w : Nat) (x : Ball) : Ball × Int :=
  let l := ln2Ball w
  let k := (2 * x.mid + l.mid) / (2 * l.mid)
  (expSmall w (x.sub (l.scale k)), k)

/-- Terms of atanh z from z^2. -/
def atanhSeries (w : Nat) (z2 : Int) : Nat → Nat → Int → Int → Int
  | 0, _, _, s => s
  | fuel + 1, k, p, s => atanhSeries w z2 fuel (k + 1) (p * z2 / 2 ^ w) (s + p / ((2 * k + 1 : Nat) : Int))

/-- ln(m x 2^e) for m not 0. -/
def lnBall (w : Nat) (m : Nat) (e : Int) : Ball :=
  let l0 := Nat.log2 m
  let l := if 2 ^ (2 * l0 + 1) < m * m then l0 + 1 else l0
  let z := ((m : Int) - 2 ^ l) * 2 ^ w / ((m : Int) + 2 ^ l)
  let terms := w / 4 + 10
  let s : Ball := ⟨atanhSeries w (z * z / 2 ^ w) terms 0 z 0, 6 * terms + 10⟩
  (s.scale 2).add ((ln2Ball w).scale (e + (l : Int)))

/-- Terms of sum (2 x^2)^n / (2n + 1)!!, with 2 x^2 = num / den. -/
def erfSeries (num den : Nat) : Nat → Nat → Nat → Nat → Nat
  | 0, _, _, s => s
  | fuel + 1, n, t, s =>
    let t' := t * num / (den * (2 * n + 1))
    if t' = 0 then s else erfSeries num den fuel (n + 1) t' (s + t')

/-- erf(x) / x for x = m x 2^e, from 2 / sqrt(pi) e^(-x^2) sum (2 x^2)^n / (2n + 1)!!. -/
def erfOverX (w : Nat) (m : Nat) (e : Int) : Ball :=
  let num := 2 * m * m * 2 ^ (2 * e).toNat
  let den := 2 ^ (-(2 * e)).toNat
  let terms := 4 * (num / den) + w + 20
  let s := erfSeries num den terms 1 (2 ^ w) (2 ^ w)
  let sb : Ball := ⟨s, s * terms / 2 ^ w + 2 * terms + 4⟩
  let ex := expBall w (Ball.dyadic w (-((m : Int) * m)) (2 * e))
  let p := piBall w
  let rt : Ball := ⟨isqrt (p.mid.natAbs * 2 ^ w), p.err + 4⟩
  ((Ball.one w).scale 2 |>.div w rt |>.mul w (ex.1.shift ex.2)).mul w sb

/-- Terms of sine and cosine of r: the n-th power over n!, spread over four partial sums by sign and parity. -/
def trigSeries (w : Nat) (r : Int) : Nat → Nat → Int → Int → Int → Int × Int
  | 0, _, _, s, c => (s, c)
  | fuel + 1, n, t, s, c =>
    let t' := t * r / (2 ^ w * (n : Int))
    if n % 4 = 1 then trigSeries w r fuel (n + 1) t' (s + t') c
    else if n % 4 = 2 then trigSeries w r fuel (n + 1) t' s (c - t')
    else if n % 4 = 3 then trigSeries w r fuel (n + 1) t' (s - t') c
    else trigSeries w r fuel (n + 1) t' s (c + t')

/-- Sine and cosine of an enclosed number from 0 to pi / 2. -/
def sinCosBall (w : Nat) (r : Ball) : Ball × Ball :=
  let terms := w / 2 + 30
  let x := trigSeries w r.mid terms 1 (2 ^ w) 0 (2 ^ w)
  (⟨x.1, 8 * terms + 8 + 2 * r.err⟩, ⟨x.2, 8 * terms + 8 + 2 * r.err⟩)

/-- Terms of atan z from z^2. -/
def atanSeries (w : Nat) (z2 : Int) : Nat → Nat → Int → Int → Int
  | 0, _, _, s => s
  | fuel + 1, k, p, s =>
    let t := p / ((2 * k + 1 : Nat) : Int)
    atanSeries w z2 fuel (k + 1) (p * z2 / 2 ^ w) (if k % 2 = 1 then s - t else s + t)

/-- The tangent of half the angle whose tangent is y: y / (1 + sqrt(1 + y^2)). -/
def halfTan (w : Nat) (y : Ball) : Ball :=
  let r := isqrt ((2 ^ w) * (2 ^ w) + y.mid.natAbs * y.mid.natAbs)
  y.div w ⟨(2 ^ w + r : Nat), y.err + 2⟩

/-- atan(a / b) for 0 < a ≤ b, as an enclosure. -/
def atanBall (w a b : Nat) : Ball :=
  let y := halfTan w (halfTan w ⟨((a * 2 ^ w / b : Nat) : Int), 1⟩)
  let terms := w / 3 + 10
  let s : Ball := ⟨atanSeries w (y.mid * y.mid / 2 ^ w) terms 0 y.mid 0, 6 * terms + 10 + y.err⟩
  s.scale 4

/-- The working precisions tried in turn. -/
def precisions : List Nat := [128, 256, 512, 1024, 2048, 4096]

/-- The leading `bits` bits of a positive irrational number, with a set bit below them that stands for the rest:
`f w` encloses the number up to a power of 2. Where no precision separates them, a free value (log entry 12). -/
def leading (bits tag arg : Nat) (f : Nat → Ball × Int) : List Nat → Nat × Int
  | [] => (Config.unresolved tag arg, 0)
  | w :: t =>
    let b := f w
    let lo := b.1.mid - (b.1.err : Int)
    let hi := b.1.mid + (b.1.err : Int)
    let s := Nat.log2 hi.toNat - bits
    if 0 < lo ∧ bits ≤ Nat.log2 hi.toNat ∧ lo.toNat / 2 ^ s = hi.toNat / 2 ^ s then
      (2 * (lo.toNat / 2 ^ s) + 1, b.2 + (s : Int) - (w : Int) - 1)
    else leading bits tag arg f t

/-- The bits of a positive irrational number down to 2^-40, with a set bit below them. -/
def absolute (tag arg : Nat) (f : Nat → Ball) : List Nat → Nat × Int
  | [] => (Config.unresolved tag arg, -41)
  | w :: t =>
    let b := f w
    let lo := b.mid - (b.err : Int)
    let hi := b.mid + (b.err : Int)
    if 0 ≤ lo ∧ lo.toNat / 2 ^ (w - 40) = hi.toNat / 2 ^ (w - 40) then
      (2 * (lo.toNat / 2 ^ (w - 40)) + 1, -41)
    else absolute tag arg f t

/-- Bits that decide every rounding to a format, stochastic rounding included (R54). -/
def Fmt.probe (f : Fmt) : Nat := f.fb + 40

/-- A NaN operand's result (R29). -/
def nanRes (f : Fmt) (sig : Bool) : FRes := ⟨f.qnan, if sig then flNV else 0⟩

/-- A number tag for a free value: the operand. -/
def dyTag (neg : Bool) (m : Nat) (e : Int) : Nat := 2 * (m * 4096 + (e + 2048).toNat) + (if neg then 1 else 0)

/-- Whether m x 2^e is at least n. -/
def dyGe (m : Nat) (e : Int) (n : Nat) : Bool := decide (n ≤ m * 2 ^ e.toNat / 2 ^ (-e).toNat)

/-- A signed dyadic number as an enclosure. -/
def signedDy (w : Nat) (neg : Bool) (m : Nat) (e : Int) : Ball := Ball.dyadic w (sgnMant neg m) e

/-- RN(e^A) (R136, R56). -/
def fExp (f : Fmt) (rd : Rounding) (a : FVal) : FRes :=
  match a with
  | .nan s => nanRes f s
  | .inf n => if n then ⟨0, 0⟩ else ⟨f.infBits, 0⟩
  | .fin n m e =>
    if m = 0 then roundWith f rd false 1 0
    else if dyGe m e 800 then if n then roundWith f rd false 3 (-4000) else roundWith f rd false 1 4000
    else
      let q := leading f.probe 1 (dyTag n m e) (fun w => expBall w (signedDy w n m e)) precisions
      roundWith f rd false q.1 q.2

/-- RN(2^A) (R136, R56). -/
def fExp2 (f : Fmt) (rd : Rounding) (a : FVal) : FRes :=
  match a with
  | .nan s => nanRes f s
  | .inf n => if n then ⟨0, 0⟩ else ⟨f.infBits, 0⟩
  | .fin n m e =>
    if dyGe m e 1200 then if n then roundWith f rd false 3 (-4000) else roundWith f rd false 1 4000
    else
      let (k, exact) := roundAt .rtz n m e 0
      if exact then roundWith f rd false 1 (sgnMant n k)
      else
        let q := leading f.probe 2 (dyTag n m e)
          (fun w => expBall w ((signedDy w n m e).mul w (ln2Ball w))) precisions
        roundWith f rd false q.1 q.2

/-- The sign of ln(m x 2^e): negative below 1. -/
def below1 (m : Nat) (e : Int) : Bool := decide (leadExp m e < 0)

/-- Whether m x 2^e is 2^k, and k. -/
def pow2? (m : Nat) (e : Int) : Option Int := if m = 2 ^ Nat.log2 m then some (leadExp m e) else none

/-- An enclosure of the magnitude of a number known to be negative. -/
def Ball.flip (neg : Bool) (b : Ball) : Ball := if neg then ⟨-b.mid, b.err⟩ else b

/-- RN(ln A) (R136, R56). -/
def fLog (f : Fmt) (rd : Rounding) (a : FVal) : FRes :=
  match a with
  | .nan s => nanRes f s
  | .inf n => if n then ⟨f.qnan, flNV⟩ else ⟨f.infBits, 0⟩
  | .fin n m e =>
    if m = 0 then ⟨f.withSign true f.infBits, flDZ⟩
    else if n then ⟨f.qnan, flNV⟩
    else if pow2? m e = some 0 then ⟨0, 0⟩
    else
      let q := leading f.probe 3 (dyTag n m e) (fun w => ((lnBall w m e).flip (below1 m e), 0)) precisions
      roundWith f rd (below1 m e) q.1 q.2

/-- RN(log2 A) (R136, R56). -/
def fLog2 (f : Fmt) (rd : Rounding) (a : FVal) : FRes :=
  match a with
  | .nan s => nanRes f s
  | .inf n => if n then ⟨f.qnan, flNV⟩ else ⟨f.infBits, 0⟩
  | .fin n m e =>
    if m = 0 then ⟨f.withSign true f.infBits, flDZ⟩
    else if n then ⟨f.qnan, flNV⟩
    else
      match pow2? m e with
      | some k => if k = 0 then ⟨0, 0⟩ else roundWith f rd (decide (k < 0)) k.natAbs 0
      | none =>
        let q := leading f.probe 4 (dyTag n m e)
          (fun w => (((lnBall w m e).flip (below1 m e)).div w (ln2Ball w), 0)) precisions
        roundWith f rd (below1 m e) q.1 q.2

/-- RN(erf A) (R136, R56). -/
def fErf (f : Fmt) (rd : Rounding) (a : FVal) : FRes :=
  match a with
  | .nan s => nanRes f s
  | .inf n => roundWith f rd n 1 0
  | .fin n m e =>
    if m = 0 then ⟨f.withSign n 0, 0⟩
    else if dyGe m e 28 then roundWith f rd n (2 ^ 200 - 1) (-200)
    else
      let q := leading f.probe 5 (dyTag n m e) (fun w => ((erfOverX w m e).scale m, e)) precisions
      roundWith f rd n q.1 q.2

/-- RN(1 - erf A) (R136, R56). -/
def fErfc (f : Fmt) (rd : Rounding) (a : FVal) : FRes :=
  match a with
  | .nan s => nanRes f s
  | .inf n => if n then roundWith f rd false 2 0 else ⟨0, 0⟩
  | .fin n m e =>
    if m = 0 then roundWith f rd false 1 0
    else if dyGe m e 28 then
      if n then roundWith f rd false (2 ^ 201 - 1) (-200) else roundWith f rd false 3 (-4000)
    else
      let q := leading f.probe 6 (dyTag n m e)
        (fun w => let x := ((erfOverX w m e).scale m).shift e
                  (if n then (Ball.one w).add x else (Ball.one w).sub x, 0)) precisions
      roundWith f rd false q.1 q.2

/-- e^(-k x) for x = |A|, as an enclosure at precision w. -/
def expNeg (w k : Nat) (m : Nat) (e : Int) : Ball :=
  let x := expBall w (Ball.dyadic w (-((k * m : Nat) : Int)) e)
  x.1.shift x.2

/-- RN(tanh A) (R136, R56). -/
def fTanh (f : Fmt) (rd : Rounding) (a : FVal) : FRes :=
  match a with
  | .nan s => nanRes f s
  | .inf n => roundWith f rd n 1 0
  | .fin n m e =>
    if m = 0 then ⟨f.withSign n 0, 0⟩
    else if dyGe m e 40 then roundWith f rd n (2 ^ 100 - 1) (-100)
    else
      let q := leading f.probe 7 (dyTag n m e)
        (fun w => let v := expNeg w 2 m e
                  (((Ball.one w).sub v).div w ((Ball.one w).add v), 0)) precisions
      roundWith f rd n q.1 q.2

/-- RN(1 / (1 + e^-A)) (R136, R56). -/
def fSigm (f : Fmt) (rd : Rounding) (a : FVal) : FRes :=
  match a with
  | .nan s => nanRes f s
  | .inf n => if n then ⟨0, 0⟩ else roundWith f rd false 1 0
  | .fin n m e =>
    if m = 0 then roundWith f rd false 1 (-1)
    else if dyGe m e 200 then if n then roundWith f rd false 3 (-4000) else roundWith f rd false (2 ^ 100 - 1) (-100)
    else
      let q := leading f.probe 8 (dyTag n m e)
        (fun w => let v := expNeg w 1 m e
                  ((if n then v else Ball.one w).div w ((Ball.one w).add v), 0)) precisions
      roundWith f rd false q.1 q.2

/-- A faithful function delivers one of the two values that bracket the exact result (R55): which one is a free value
of the operand. -/
def faithful (tag : Nat) (x : Nat) (g : Rounding → FRes) : FRes :=
  g (.mode (if Config.faithfulUpper tag (BitVec.ofNat 32 x) then .rup else .rdn))

/-! ### Angles (R38, R39, R137, R138) -/

/-- A signed magnitude that is 1 (`k` = 0), 0, or irrational. -/
inductive Unit1 where
  | zero
  | one
  | irr (m : Nat) (e : Int)
deriving DecidableEq, Repr

/-- |sin| and |cos| of pi/2 x f / 2^(n-2), 0 ≤ f < 2^(n-2). -/
def quarterTrig (bits n f : Nat) : Unit1 × Unit1 :=
  if f = 0 then (.zero, .one)
  else
    let ball := fun w => sinCosBall w (((piBall w).scale (f : Int)).shift (1 - (n : Int)))
    let s := leading bits 9 f (fun w => ((ball w).1, 0)) precisions
    let c := leading bits 10 f (fun w => ((ball w).2, 0)) precisions
    (.irr s.1 s.2, .irr c.1 c.2)

/-- The rounding of a signed value of that form; an exact zero is +0 (R137). -/
def Unit1.round (f : Fmt) (rd : Rounding) (neg : Bool) : Unit1 → FRes
  | .zero => ⟨0, 0⟩
  | .one => roundWith f rd neg 1 0
  | .irr m e => roundWith f rd neg m e

/-- RN(cos) and RN(sin) of an angle code of n bits (R137). -/
def angleCosSin (f : Fmt) (rd : Rounding) (n c : Nat) : FRes × FRes :=
  let q := c / 2 ^ (n - 2) % 4
  let (s, k) := quarterTrig f.probe n (c % 2 ^ (n - 2))
  match q with
  | 0 => (k.round f rd false, s.round f rd false)
  | 1 => (s.round f rd true, k.round f rd false)
  | 2 => (k.round f rd true, s.round f rd true)
  | _ => (s.round f rd false, k.round f rd true)

/-- The angle atan(a / b) in turns x 2^n, for 0 < a < b, bits down to 2^-40. -/
def atanTurns (n a b : Nat) : Nat × Int :=
  absolute 11 (a + b)
    (fun w => (((atanBall w a b).scale (2 ^ n)).div w ((piBall w).scale 2))) precisions

/-- atan2(y, x) / (2 pi) x 2^n as an exact stand-in: a magnitude t x 2^e, 0 to 2^(n-1), of the sign of y (R138). -/
def atan2Turns (n : Nat) (xneg : Bool) (xm : Nat) (xe : Int) (ym : Nat) (ye : Int) : Nat × Int :=
  let d := min xe ye
  let a := ym * 2 ^ (ye - d).toNat
  let b := xm * 2 ^ (xe - d).toNat
  -- the angle in the first quadrant, in units of 2^-41
  let first : Nat :=
    if a = 0 then 0
    else if b = 0 then 2 ^ (n - 2 + 41)
    else if a = b then 2 ^ (n - 3 + 41)
    else if a < b then (atanTurns n a b).1
    else 2 ^ (n - 2 + 41) - (atanTurns n b a).1
  (if xneg then 2 ^ (n - 1 + 41) - first else first, -41)

/-- The derive code and the kept element of a pair (R138). -/
def angleOf (f : Fmt) (rm : RMode) (n : Nat) (a b : FVal) : Nat × FRes :=
  let h := fHypot f rm a b
  let code (t : Nat × Int) (neg : Bool) : Nat :=
    let k := (roundAt .rne neg t.1 t.2 0).1 % 2 ^ n
    if neg then (2 ^ n - k) % 2 ^ n else k
  match a, b with
  | .nan _, _ => (0, h)
  | _, .nan _ => (0, h)
  | .fin an am ae, .fin bn bm be =>
    if am = 0 ∧ bm = 0 then (0, ⟨0, 0⟩)
    else (code (atan2Turns n an am ae bm be) (!bn), h)
  | .inf an, .inf bn => (code (atan2Turns n an 1 0 1 0) (!bn), h)
  | .inf an, .fin bn _ _ => (code (atan2Turns n an 1 0 0 0) (!bn), h)
  | .fin _ _ _, .inf bn => (code (atan2Turns n false 0 0 1 0) (!bn), h)

/-- RN(x / (2 pi) x 2^n) mod 2^n for a real angle in radians; a NaN or an infinity gives code 0 and NV (R39, R130). -/
def radToCode (rd : Rounding) (n : Nat) (v : FVal) : Nat × BitVec 8 :=
  match v with
  | .nan _ => (0, flNV)
  | .inf _ => (0, flNV)
  | .fin neg m e =>
    if m = 0 then (0, 0)
    else
      let t := absolute 12 (dyTag neg m e)
        (fun w => ((Ball.dyadic w m e).scale (2 ^ n)).div w ((piBall w).scale 2)) precisions
      let k := (roundInt rd neg t.1 t.2).1 % 2 ^ n
      (if neg then (2 ^ n - k) % 2 ^ n else k, flNX)

/-- RN(2 pi x c / 2^n) (R39). -/
def codeToRad (f : Fmt) (rd : Rounding) (n c : Nat) : FRes :=
  if c = 0 then ⟨0, 0⟩
  else
    let q := leading f.probe 13 c (fun w => ((piBall w).scale c, 1 - (n : Int))) precisions
    roundWith f rd false q.1 q.2

/-- Narrowing of an angle code from m to n bits (R39). -/
def narrowAngle (rd : Rounding) (m n c : Nat) : Nat × BitVec 8 :=
  let k := roundInt rd false c ((n : Int) - (m : Int))
  (k.1 % 2 ^ n, if k.2 then 0 else flNX)

end Sys2Proof.Machine
end

