-- ==== Sys2Proof/Machine/Bpi.lean ====
section
/-! DEFINITION. Bit-plane nested integers (R33 to R36). -/

namespace Sys2Proof.Machine

/-- The value q of a BPI-k element whose 8-bit form is `v`: its top k bits, and the midpoint of what is cut (R34). -/
def bpiRead (k v : Nat) : Int :=
  let t := v % 256 / 2 ^ (8 - k) * 2 ^ (8 - k)
  let t : Int := if t < 128 then t else (t : Int) - 256
  if k < 8 then t + 2 ^ (7 - k) else t

/-- The 8-bit form of a value saturated to -128 to 127. -/
def bpiByte (q : Int) : Nat := (max (-128) (min 127 q) % 256).toNat

/-- An exact element q x 2^(e - 127); NaN where the scale byte is 255 (R35). -/
def bpiVal (q : Int) (e : Nat) : FVal :=
  if e = 255 then .nan false else .fin (decide (q < 0)) q.natAbs ((e : Int) - 127)

/-- Step 3 of R36: RN_int(x x 2^(127 - e)), saturated, and whether it is exact. -/
def bpiRound (rd : Rounding) (e : Nat) (neg : Bool) (m : Nat) (x : Int) : Int × Bool :=
  let r := roundInt rd neg m (x + 127 - (e : Int))
  let q : Int := sgnMant neg r.1
  (max (-128) (min 127 q), r.2 && decide (-128 ≤ q) && decide (q ≤ 127))

/-- The scale byte of a block of finite values: floor(log2 max) - 6 + 127, from 1 to 254 (R36). -/
def bpiScale (xs : List FVal) : Nat :=
  let tops := xs.filterMap fun v => match v with
    | .fin _ m e => if m = 0 then none else some (leadExp m e)
    | _ => none
  match tops with
  | [] => 1
  | a :: t => (max 1 (min 254 (t.foldl max a - 6 + 127))).toNat

/-- A block with a scale byte (R36): the scale, the 8-bit forms and the flags. Element i rounds under `rd i`. -/
def bpiBlock (rd : Nat → Rounding) (xs : List FVal) : Nat × List Nat × BitVec 8 :=
  if xs.all FVal.isFin then
    let e := bpiScale xs
    let qs := (List.range xs.length).map fun i => match xs.getD i (.fin false 0 0) with
      | .fin n m x => bpiRound (rd i) e n m x
      | _ => (0, true)
    (e, qs.map (fun q => bpiByte q.1), if qs.all (·.2) then 0 else flNX)
  else (255, xs.map fun _ => 0, flNV)

/-- An element without a scale (R36): NaN gives 0, infinities saturate, with NV. -/
def bpiElem (rd : Rounding) (v : FVal) : Nat × BitVec 8 :=
  match v with
  | .nan _ => (0, flNV)
  | .inf n => (bpiByte (if n then -128 else 127), flNV)
  | .fin n m e =>
    let q := bpiRound rd 127 n m e
    (bpiByte q.1, if q.2 then 0 else flNX)

/-- Plane word 7 - p of 32 8-bit forms: element e at bit e (R33). -/
def bpiPlane (vs : List Nat) (b : Nat) : Nat :=
  (List.range 32).foldl (fun x e => x + vs.getD e 0 / 2 ^ b % 2 * 2 ^ e) 0

/-- The 8-bit form of element e from plane words 7 downward (R33). -/
def bpiGather (planes : List Nat) (e : Nat) : Nat :=
  (List.range planes.length).foldl (fun x p => x + planes.getD p 0 / 2 ^ e % 2 * 2 ^ (7 - p)) 0

end Sys2Proof.Machine
end

