-- ==== Sys2Proof/Syntax.lean ====
section
/-! DEFINITION. The instructions: one constructor for each row of the opcode table. A slot instruction carries the
fields of its slot form (R73 to R76) as bit vectors; an event of another agent carries the numbers of the units it
concerns. -/

namespace Sys2Proof

/-- S register form (R73): guard, no-write-back, destination, two source fields. -/
structure SReg where
  g : BitVec 5
  nw : BitVec 1
  d : BitVec 6
  a : BitVec 7
  b : BitVec 7
deriving DecidableEq, Repr

/-- S register form with an unused srcB (`clz`, `popc`, R86). -/
structure SUn where
  g : BitVec 5
  nw : BitVec 1
  d : BitVec 6
  a : BitVec 7
deriving DecidableEq, Repr

/-- S register form with a shift count from 0 to 63 in srcB (R73, R89). -/
structure SSh where
  g : BitVec 5
  nw : BitVec 1
  d : BitVec 6
  a : BitVec 7
  sh : BitVec 6
deriving DecidableEq, Repr

/-- SI form with a destination (R90). -/
structure SImm where
  g : BitVec 5
  nw : BitVec 1
  d : BitVec 6
  imm : BitVec 14
deriving DecidableEq, Repr

/-- A compare (R91): dst[3:1] names the even predicate. -/
structure SCmp where
  g : BitVec 5
  pd : BitVec 3
  a : BitVec 7
  b : BitVec 7
deriving DecidableEq, Repr

/-- A predicate operation (R92): three predicate indices. -/
structure SPred where
  g : BitVec 5
  pd : BitVec 4
  pa : BitVec 4
  pb : BitVec 4
deriving DecidableEq, Repr

/-- B form (R73, R95). -/
structure SBr where
  g : BitVec 5
  off : BitVec 21
deriving DecidableEq, Repr

/-- S register form, srcA only (`jr`, `dict.ld`). -/
structure SSrc where
  g : BitVec 5
  a : BitVec 7
deriving DecidableEq, Repr

/-- L form (R96): level, count register, end offset. -/
structure SLoop where
  g : BitVec 5
  lvl : BitVec 2
  c : BitVec 6
  e : BitVec 13
deriving DecidableEq, Repr

/-- The re-arm form of `loop` (R99). -/
structure SRearm where
  g : BitVec 5
  lvl : BitVec 2
deriving DecidableEq, Repr

/-- SI form with a source register in dst (`trap`, `wait`). -/
structure SNum where
  g : BitVec 5
  n : BitVec 6
  imm : BitVec 14
deriving DecidableEq, Repr

/-- SI form with a code alone (`brk`). -/
structure SCode where
  g : BitVec 5
  code : BitVec 14
deriving DecidableEq, Repr

/-- CR form (R102): scalar register and control-register number. -/
structure SCtl where
  g : BitVec 5
  r : BitVec 6
  num : BitVec 14
deriving DecidableEq, Repr

/-- CR form of a `cwr` whose control register the row fixes. -/
structure SCtlFix where
  g : BitVec 5
  r : BitVec 6
deriving DecidableEq, Repr

/-- CR form of a `cwr` to BANKFMTn (R147). -/
structure SCtlBank where
  g : BitVec 5
  r : BitVec 6
  n : BitVec 4
deriving DecidableEq, Repr

/-- V slot (R74). -/
structure VFld where
  g : BitVec 5
  w : BitVec 2
  nw : BitVec 1
  d : BitVec 5
  a : BitVec 6
  b : BitVec 6
  c : BitVec 5
  rm : BitVec 3
deriving DecidableEq, Repr

/-- F slot (R75). -/
structure FFld where
  g : BitVec 5
  nw : BitVec 1
  d : BitVec 5
  s : BitVec 5
  rm : BitVec 3
deriving DecidableEq, Repr

/-- X slot (R75). -/
structure XFld where
  g : BitVec 5
  d : BitVec 5
  s : BitVec 5
  p : BitVec 5
deriving DecidableEq, Repr

/-- M slot (R76). -/
structure MFld where
  g : BitVec 5
  data : BitVec 6
  base : BitVec 6
  off : BitVec 9
  lat : BitVec 8
deriving DecidableEq, Repr

/-- T slot (R75). -/
structure TFld where
  g : BitVec 5
  a : BitVec 6
  b : BitVec 6
  c : BitVec 6
  d : BitVec 6
  m : BitVec 4
deriving DecidableEq, Repr

/-- Who sends an inbound access: its partition, the address of the peer it comes from, where it is not the host, and whether
it carries the transport security (R368, R369). -/
structure Requester where
  part : Nat
  src : Option Nat
  secured : Bool
deriving DecidableEq, Repr

/-- A firmware image with which one it is: 0 security, 1 management, 2 scheduler (R376). -/
structure ImageFile where
  which : Nat
  bytes : List Byte
deriving DecidableEq, Repr

/-- The instructions of the opcode table: slot instructions, then events inside the module, then events from outside. In the families marked with t, `t` is the type offset
of R79: 0 bf16, 1 f16, 2 f32, 3 f64. A context is named by `cid`, which is 2 x logical core + slot. -/
inductive Instr where
  /-- R77: The all-zero S slot does nothing. -/
  | nop (g : BitVec 5)
  /-- R86: Writes A + B mod 2^64 to sD. -/
  | add (f : SReg)
  /-- R86: Writes A - B mod 2^64 to sD. -/
  | sub (f : SReg)
  /-- R86: Writes bits [63:0] of A x B to sD. -/
  | mul (f : SReg)
  /-- R86: Writes bits [127:64] of the signed product A x B to sD. -/
  | mulh (f : SReg)
  /-- R86: Writes bits [127:64] of the unsigned product A x B to sD. -/
  | mulhu (f : SReg)
  /-- R87: Signed division truncated toward zero, with defined results for a zero divisor and for overflow. -/
  | div (f : SReg)
  /-- R87: Unsigned division, with 2^64 - 1 for a zero divisor. -/
  | divu (f : SReg)
  /-- R87: Signed remainder, which takes the sign of A; a zero divisor gives A. -/
  | rem (f : SReg)
  /-- R87: Unsigned remainder; a zero divisor gives A. -/
  | remu (f : SReg)
  /-- R86: Writes A AND B to sD. -/
  | and (f : SReg)
  /-- R86: Writes A OR B to sD. -/
  | or (f : SReg)
  /-- R86: Writes A XOR B to sD. -/
  | xor (f : SReg)
  /-- R86: Writes A AND NOT B to sD. -/
  | andn (f : SReg)
  /-- R86: Shifts A left by B[5:0], zero-filled. -/
  | shl (f : SReg)
  /-- R86: Shifts A right by B[5:0], zero-filled. -/
  | shr (f : SReg)
  /-- R86: Shifts A right by B[5:0], sign-filled. -/
  | sra (f : SReg)
  /-- R86: Rotates A left by B[5:0]. -/
  | rotl (f : SReg)
  /-- R86: Writes the signed smaller of A and B. -/
  | min (f : SReg)
  /-- R86: Writes the signed larger of A and B. -/
  | max (f : SReg)
  /-- R86: Writes the unsigned smaller of A and B. -/
  | minu (f : SReg)
  /-- R86: Writes the unsigned larger of A and B. -/
  | maxu (f : SReg)
  /-- R86: Writes the number of leading zero bits of A. -/
  | clz (f : SUn)
  /-- R86: Writes the number of one bits of A. -/
  | popc (f : SUn)
  /-- R88: Extracts the bit field of A that the descriptor in B names. -/
  | bfx (f : SReg)
  /-- R88: Inserts the low bits of A into sD at the field that the descriptor in B names. -/
  | bfi (f : SReg)
  /-- R89: Writes A + sign-extend(imm7). -/
  | addi (f : SReg)
  /-- R89: Writes A AND sign-extend(imm7). -/
  | andi (f : SReg)
  /-- R89: Shifts A left by an immediate count of 0-63. -/
  | shli (f : SSh)
  /-- R89: Shifts A right by an immediate count of 0-63, zero-filled. -/
  | shri (f : SSh)
  /-- R89: Shifts A right by an immediate count of 0-63, sign-filled. -/
  | srai (f : SSh)
  /-- R90: Writes sign-extend(imm14) to sD. -/
  | movi (f : SImm)
  /-- R90: Writes (sD << 14) OR imm14 to sD. -/
  | sli (f : SImm)
  /-- R91: Writes A = B to pD and its complement to pD+1, or writes the neither state when an operand is invalid. -/
  | cmpEq (f : SCmp)
  /-- R91: Writes A != B to pD and its complement to pD+1. -/
  | cmpNe (f : SCmp)
  /-- R91: Writes the signed test A < B to pD and its complement to pD+1. -/
  | cmpLt (f : SCmp)
  /-- R91: Writes the unsigned test A < B to pD and its complement to pD+1. -/
  | cmpLtu (f : SCmp)
  /-- R91: Writes the signed test A <= B to pD and its complement to pD+1. -/
  | cmpLe (f : SCmp)
  /-- R91: Writes the unsigned test A <= B to pD and its complement to pD+1. -/
  | cmpLeu (f : SCmp)
  /-- R91: Compares A with sign-extend(imm7) for equality into a predicate pair. -/
  | cmpiEq (f : SCmp)
  /-- R91: Compares A < sign-extend(imm7), signed, into a predicate pair. -/
  | cmpiLt (f : SCmp)
  /-- R92: Writes pA AND pB to pD. -/
  | pand (f : SPred)
  /-- R92: Writes pA OR pB to pD. -/
  | por (f : SPred)
  /-- R92: Writes pA XOR pB to pD. -/
  | pxor (f : SPred)
  /-- R92: Writes pA AND NOT pB to pD. -/
  | pandn (f : SPred)
  /-- R95: A branch to the index halfword address plus the offset, taking effect after two delay bundles. -/
  | br (f : SBr)
  /-- R95: Branches as br and writes the link address into s63 and b0. -/
  | call (f : SBr)
  /-- R95: Transfers to the halfword address held in A after two delay bundles. -/
  | jr (f : SSrc)
  /-- R96: Enters hardware loop level n with the count C and the body end offset, or skips the body when C = 0. -/
  | loop (f : SLoop)
  /-- R99: Copies LCNTn, LSTARTn and LENDn into the shadow of level n and activates the level. -/
  | loopRearm (f : SRearm)
  /-- R97: Sets the shadow count of the innermost active level to 1. -/
  | loopExit (g : BitVec 5)
  /-- R100: Starts a background load of a dictionary group into the context's dictionary bank that is not current. -/
  | dictLd (f : SSrc)
  /-- R101: Makes the loaded dictionary bank current and voids all eight latches of the context. -/
  | dictSw (g : BitVec 5)
  /-- R103: Raises the trap-instruction cause after its bundle completes, when N is zero. -/
  | trap (f : SNum)
  /-- R105: Returns from a handler to TRAPPC, issuing the slots that DONEMASK does not mark, and restores transfers and loop shadows. -/
  | eret (g : BitVec 5)
  /-- R102: Reads a control register into sD. -/
  | crd (f : SCtl)
  /-- R102: Writes A to a control register that has no behaviour of its own, under the access codes. -/
  | cwr (f : SCtl)
  /-- R48: Replaces XFLAGS, with flags raised in the same cycle ORed in after the write. -/
  | cwrXflags (f : SCtlFix)
  /-- R44: Writes RMODE.MODE, ignoring the values 5-7. -/
  | cwrRmode (f : SCtlFix)
  /-- R147: Sets the format of the physical bank behind logical bank n, ignoring unlisted codes and unused banks. -/
  | cwrBankfmt (f : SCtlBank)
  /-- R344: Writes the deadline count: a non-zero value clears PEND, and 0 written over a non-zero count raises the deadline event. -/
  | cwrDeadline (f : SCtlFix)
  /-- R106: Makes the context issue no bundle for N + imm cc. -/
  | wait (f : SNum)
  /-- R108: Ends the tile task and starts draining its outstanding work. -/
  | endTask (g : BitVec 5)
  /-- R104: Raises a debug break with a code, or delivers it to a kernel-debug session. -/
  | brk (f : SCode)
  /-- R107: Makes the context not ready for one cycle so that the other context may issue alone. -/
  | yield (g : BitVec 5)
  /-- R77: The all-zero V slot does nothing and takes no lane group. -/
  | vnop (g : BitVec 5)
  /-- R112: Adds floating-point elements with one rounding under rm. -/
  | vfadd (t : BitVec 2) (f : VFld)
  /-- R112: Subtracts floating-point elements with one rounding. -/
  | vfsub (t : BitVec 2) (f : VFld)
  /-- R112: Multiplies floating-point elements with one rounding. -/
  | vfmul (t : BitVec 2) (f : VFld)
  /-- R112: Computes the fused multiply-add A x B + C with one rounding. -/
  | vfma (t : BitVec 2) (f : VFld)
  /-- R31: IEEE minimumNumber of each pair of elements. -/
  | vfmin (t : BitVec 2) (f : VFld)
  /-- R31: IEEE maximumNumber of each pair of elements. -/
  | vfmax (t : BitVec 2) (f : VFld)
  /-- R113: Compares floating-point elements under a condition and writes the compare pair through word validity. -/
  | vfcmp (t : BitVec 2) (f : VFld)
  /-- R114: Takes abs, neg or copysign on sign bits only. -/
  | vfsgn (t : BitVec 2) (f : VFld)
  /-- R115: Rounds each element to an integral value of the same format. -/
  | vfrnd (t : BitVec 2) (f : VFld)
  /-- R116: Writes a one-hot class code for each element. -/
  | vfclass (t : BitVec 2) (f : VFld)
  /-- R117: Sums the elements by the fixed pairwise tree into element 0. -/
  | vfsum (t : BitVec 2) (f : VFld)
  /-- R129: Converts elements between the formats of a conversion pair. -/
  | vcvt (f : VFld)
  /-- R133: Packs 32 elements into BPI-k planes, optionally with a block scale. -/
  | vbpk (f : VFld)
  /-- R134: Unpacks BPI-k planes into INT32 or FP32 elements. -/
  | vbupk (f : VFld)
  /-- R112: FP32 division, correctly rounded. -/
  | vfdivF32 (f : VFld)
  /-- R112: FP64 division, correctly rounded. -/
  | vfdivF64 (f : VFld)
  /-- R118: Adds 32-bit words, wrapping. -/
  | vadd (f : VFld)
  /-- R118: Subtracts 32-bit words, wrapping. -/
  | vsub (f : VFld)
  /-- R118: Writes the low 32 bits of each word product. -/
  | vmul (f : VFld)
  /-- R118: Writes the high 32 bits of each signed word product. -/
  | vmulh (f : VFld)
  /-- R118: Signed minimum of each pair of words. -/
  | vmin (f : VFld)
  /-- R118: Signed maximum of each pair of words. -/
  | vmax (f : VFld)
  /-- R118: Unsigned minimum of each pair of words. -/
  | vminu (f : VFld)
  /-- R118: Unsigned maximum of each pair of words. -/
  | vmaxu (f : VFld)
  /-- R118: Bitwise AND of words. -/
  | vand (f : VFld)
  /-- R118: Bitwise OR of words. -/
  | vor (f : VFld)
  /-- R118: Bitwise XOR of words. -/
  | vxor (f : VFld)
  /-- R118: Shifts each word left by B[4:0]. -/
  | vshl (f : VFld)
  /-- R118: Shifts each word right by B[4:0], zero-filled. -/
  | vshr (f : VFld)
  /-- R118: Shifts each word right by B[4:0], sign-filled. -/
  | vsra (f : VFld)
  /-- R118: Adds 64-bit elements held in word pairs. -/
  | vaddD (f : VFld)
  /-- R118: Subtracts 64-bit elements held in word pairs. -/
  | vsubD (f : VFld)
  /-- R119: Compares words for equality into a validity pair. -/
  | vcmpEq (f : VFld)
  /-- R119: Compares words, signed A < B, into a validity pair. -/
  | vcmpLt (f : VFld)
  /-- R119: Compares words, unsigned A < B, into a validity pair. -/
  | vcmpLtu (f : VFld)
  /-- R120: Takes A's word where it is valid and B's word elsewhere. -/
  | vsel (f : VFld)
  /-- R121: Turns word validity into all-ones or zero data. -/
  | vvalid (f : VFld)
  /-- R121: Writes the validity bits of A's words as a mask in word 0. -/
  | vvmask (f : VFld)
  /-- R121: Masks the validity of A's words by the bits of B word 0. -/
  | vmaskv (f : VFld)
  /-- R122: Copies a scalar into every word or word pair within the width. -/
  | vsplat (f : VFld)
  /-- R123: Writes word i := i. -/
  | viota (f : VFld)
  /-- R124: Writes A word n, zero-extended, to a scalar register. -/
  | vext (f : VFld)
  /-- R125: Replaces word n of A with B word 0. -/
  | vins (f : VFld)
  /-- R126: Writes the wrapping sum of the words into word 0. -/
  | vredAdd (f : VFld)
  /-- R126: Writes the signed maximum of the words into word 0. -/
  | vredMax (f : VFld)
  /-- R126: Writes the inclusive prefix sums of the words. -/
  | vscanAdd (f : VFld)
  /-- R127: Sorts the keys stably and carries the values with them into a register pair. -/
  | vsort (f : VFld)
  /-- R128: Sums the values of each run of equal keys and marks the unused tail invalid. -/
  | vsegsum (f : VFld)
  /-- R77: The all-zero F slot does nothing and takes no unit. -/
  | fnop (g : BitVec 5)
  /-- R136: Correctly rounded e^A on 32 FP32 elements. -/
  | fexpF32 (f : FFld)
  /-- R136: Correctly rounded e^A on 16 FP64 elements. -/
  | fexpF64 (f : FFld)
  /-- R136: Correctly rounded ln A in FP32. -/
  | flogF32 (f : FFld)
  /-- R136: Correctly rounded ln A in FP64. -/
  | flogF64 (f : FFld)
  /-- R136: Correctly rounded erf A in FP32. -/
  | ferfF32 (f : FFld)
  /-- R136: Correctly rounded erf A in FP64. -/
  | ferfF64 (f : FFld)
  /-- R136: Correctly rounded erfc A in FP32. -/
  | ferfcF32 (f : FFld)
  /-- R136: Correctly rounded erfc A in FP64. -/
  | ferfcF64 (f : FFld)
  /-- R136: Correctly rounded 1/A in FP32. -/
  | frcpF32 (f : FFld)
  /-- R136: Correctly rounded 1/A in FP64. -/
  | frcpF64 (f : FFld)
  /-- R136: Correctly rounded square root in FP32. -/
  | fsqrtF32 (f : FFld)
  /-- R136: Correctly rounded square root in FP64. -/
  | fsqrtF64 (f : FFld)
  /-- R136: Correctly rounded reciprocal square root in FP32. -/
  | frsqrtF32 (f : FFld)
  /-- R136: Correctly rounded reciprocal square root in FP64. -/
  | frsqrtF64 (f : FFld)
  /-- R136: Faithful 2^A in FP32. -/
  | fexp2F32 (f : FFld)
  /-- R136: Faithful log2 A in FP32. -/
  | flog2F32 (f : FFld)
  /-- R136: Faithful tanh A in FP32. -/
  | ftanhF32 (f : FFld)
  /-- R136: Faithful sigmoid in FP32. -/
  | fsigmF32 (f : FFld)
  /-- R137: Writes the rounded cos and sin of 32 A32 angle codes to a register pair. -/
  | fangcsA32 (f : FFld)
  /-- R137: Writes the rounded cos and sin of 16 A64 angle codes in FP64. -/
  | fangcsA64 (f : FFld)
  /-- R138: Writes the derive code and the hypot of 32 FP32 pairs. -/
  | fangofA32 (f : FFld)
  /-- R138: Writes the derive code and the hypot of 16 FP64 pairs. -/
  | fangofA64 (f : FFld)
  /-- R77: The all-zero X slot does nothing. -/
  | xnop (g : BitVec 5)
  /-- R141: Permutes the words of A into vD by a pattern, keeping vD's words that no source word reaches. -/
  | xperm (f : XFld)
  /-- R140: Loads crossbar pattern N from vA, taking effect 2 cc after issue. -/
  | xcfg (f : XFld)
  /-- R142: Broadcasts word n of A to every word. -/
  | xbcast (f : XFld)
  /-- R142: Rotates the words of A by n. -/
  | xrotl (f : XFld)
  /-- R142: Deals even granules first and odd granules second. -/
  | xdeal (f : XFld)
  /-- R142: Interleaves the two halves of A by granule. -/
  | xweave (f : XFld)
  /-- R77: The all-zero M slot does nothing. -/
  | mnop (g : BitVec 5)
  /-- R153: Loads a sign-extended byte with a timed landing. -/
  | ldB (f : MFld)
  /-- R153: Loads a zero-extended byte. -/
  | ldBu (f : MFld)
  /-- R153: Loads a sign-extended halfword. -/
  | ldH (f : MFld)
  /-- R153: Loads a zero-extended halfword. -/
  | ldHu (f : MFld)
  /-- R153: Loads a sign-extended word. -/
  | ldW (f : MFld)
  /-- R153: Loads a zero-extended word. -/
  | ldWu (f : MFld)
  /-- R153: Loads a doubleword. -/
  | ldD (f : MFld)
  /-- R153: Stores the low byte of A. -/
  | stB (f : MFld)
  /-- R153: Stores the low halfword of A. -/
  | stH (f : MFld)
  /-- R153: Stores the low word of A. -/
  | stW (f : MFld)
  /-- R153: Stores a doubleword, writing only its valid words. -/
  | stD (f : MFld)
  /-- R154: Loads 8 words into a vector register. -/
  | ldvW256 (f : MFld)
  /-- R154: Loads 16 words into a vector register. -/
  | ldvW512 (f : MFld)
  /-- R154: Loads 32 words into a vector register. -/
  | ldvW1024 (f : MFld)
  /-- R154: Stores 8 words, skipping invalid words. -/
  | stvW256 (f : MFld)
  /-- R154: Stores 16 words, skipping invalid words. -/
  | stvW512 (f : MFld)
  /-- R154: Stores 32 words, skipping invalid words. -/
  | stvW1024 (f : MFld)
  /-- R155: Loads 32 words at a signed word stride. -/
  | ldvs (f : MFld)
  /-- R156: Gathers 32 words at indexed addresses. -/
  | ldvx (f : MFld)
  /-- R156: Scatters 32 words in increasing index order. -/
  | stvx (f : MFld)
  /-- R157: An 8-byte acquire load at the bundle's scope. -/
  | ldAcq (f : MFld)
  /-- R157: An 8-byte release store at the bundle's scope. -/
  | stRel (f : MFld)
  /-- R157: A 4-byte zero-extended acquire load. -/
  | ldAcqW (f : MFld)
  /-- R157: A 4-byte release store. -/
  | stRelW (f : MFld)
  /-- R158: Orders every older M access before every younger M access at the bundle's scope. -/
  | fence (f : MFld)
  /-- R159: Orders older class-A accesses before younger class-B accesses leave their path queues. -/
  | xfence (f : MFld)
  /-- R160: Loads 32 words of an accumulator's visible bank. -/
  | accLd (f : MFld)
  /-- R160: Stores 32 words into an accumulator's visible bank. -/
  | accSt (f : MFld)
  /-- R161: Adds an integer to an atomic-area word without fetch. -/
  | accAddI (f : MFld)
  /-- R161: Adds an FP32 value to an atomic-area word in RNE without fetch. -/
  | accAddF (f : MFld)
  /-- R161: Fetch-and-add on an atomic-area word. -/
  | accFaddI (f : MFld)
  /-- R161: Exchanges an atomic-area word and returns the old value. -/
  | accXchg (f : MFld)
  /-- R161: Adds 32 FP32 values into 32 atomic-area words. -/
  | accAddvF (f : MFld)
  /-- R162: Pops the oldest element of an input stream into a vector register with a timed landing. -/
  | qrd (f : MFld)
  /-- R162: Pushes 32 words into an output stream. -/
  | qwr (f : MFld)
  /-- R77: The all-zero T slot does nothing. -/
  | tnop (g : BitVec 5)
  /-- R201: Loads a brick image into a schedule buffer, tagged with its address. -/
  | rotLd (f : TFld)
  /-- R202: Applies a brick chain to a panel in place, with optional checkpoints, monitor and renormalisation. -/
  | rotApp (f : TFld)
  /-- R203: Applies a brick chain backward, as its transpose. -/
  | rotAppt (f : TFld)
  /-- R205: Triangularises a panel in derive mode and writes a derive record. -/
  | rotDrv (f : TFld)
  /-- R207: Accumulates C += A.B into a 32 x 32 accumulator block in linear mode. -/
  | rotLin (f : TFld)
  /-- R204: Runs the gradient sweep over a brick chain into accumulators. -/
  | rotGrad (f : TFld)
  /-- R208: Runs the regularised least-squares solve with iterative refinement. -/
  | rotSlv (f : TFld)
  /-- R210: Writes the held operation's sweep-state record at issue and removes the operation. -/
  | rotSav (f : TFld)
  /-- R211: Continues an operation from a sweep-state record. -/
  | rotRst (f : TFld)
  /-- R209: Measures the column norms of a panel or rescales its columns to stored norms. -/
  | rotNrm (f : TFld)
  /-- R212: Exchanges the working and visible banks of the masked accumulators once the array is quiescent. -/
  | accSwap (f : TFld)
  /-- R213: Zeroes the working banks of the masked accumulators. -/
  | accClr (f : TFld)
  /-- R214: Loads a layer table and its parameter block into the macro sequencer. -/
  | seqLd (f : TFld)
  /-- R215: Runs the loaded layer table on the array until it ends. -/
  | seqRun (f : TFld)
  /-- R243: Starts a 2-D copy with optional format conversion. -/
  | cpGo (f : TFld)
  /-- R243: Starts a transposing copy. -/
  | cpTr (f : TFld)
  /-- R243: Starts a raw or typed fill. -/
  | cpFill (f : TFld)
  /-- R247: Binds stream qN to the context's next copy with the tag. -/
  | cpBind (f : TFld)
  /-- R245: Returns a word that lands once every covered copy of the masked tags has completed. -/
  | cpWait (f : TFld)
  /-- R249: Arrives at a cluster barrier and waits until its generation completes. -/
  | cbar (f : TFld)
  /-- R253: Raises the member's wired-AND line and waits for the gang to fuse. -/
  | fuse (f : TFld)
  /-- R255: Decouples a fused gang after its bundle. -/
  | dcpl (f : TFld)
  /-- R255: Waits until every member waits at a rejoin, then continues decoupled. -/
  | rejoin (f : TFld)
  /-- R274: Resets a forest's elements and clears its poison. -/
  | eqInit (f : TFld)
  /-- R262: Unites two classes under the smaller root. -/
  | eqUnite (f : TFld)
  /-- R261: Finds an element's root with invisible compression. -/
  | eqFind (f : TFld)
  /-- R274: Tests whether two elements share a root. -/
  | eqSame (f : TFld)
  /-- R273: Returns the size of an element's class. -/
  | eqSize (f : TFld)
  /-- R267: Writes dense class labels and optionally reduces values by label into the atomic area. -/
  | eqRelabel (f : TFld)
  /-- R264: Pushes a snapshot onto the engine's stack. -/
  | eqSnap (f : TFld)
  /-- R265: Reverts the unions since the top snapshot and pops it. -/
  | eqUndo (f : TFld)
  /-- R275: Returns a word that lands once every earlier Asterism request of the context has been processed. -/
  | eqFence (f : TFld)
  /-- R305: Checks a configuration block and copies its keys into a Catalogue slot. -/
  | pkCfg (f : TFld)
  /-- R295: Runs a batch of product-key lookups, writing or streaming the output rows and the selection records. -/
  | pkLook (f : TFld)
  /-- R300: Runs the backward pass of a product-key layer. -/
  | pkBack (f : TFld)
  /-- R301: Returns a word that lands once every earlier Catalogue command has completed. -/
  | pkWait (f : TFld)
  /-- R312: Adds rows from the local window into stack memory at the near-memory units. -/
  | nmAdd (f : TFld)
  /-- R313: Fetch-and-add on a stack word at its near-memory unit. -/
  | nmFai (f : TFld)
  /-- R315: Runs optimiser row steps at the home units. -/
  | nmOpt (f : TFld)
  /-- R317: Returns a word that lands once every covered N command has performed. -/
  | nmFence (f : TFld)
  /-- R289: Copies bytes from translated memory into the angle store, refused in read phase. -/
  | asLd (f : TFld)
  /-- R290: Returns a word that lands once every earlier as.ld has written its last granule. -/
  | asWait (f : TFld)
  /-- R345: Launches a task graph into a queue from a running task. -/
  | graphGo (f : TFld)
  /-- R346: Decrements a node's dependency count. -/
  | taskSig (f : TFld)
  /-- R347: Loads the context's generator state and empties its random-bit queue. -/
  | rngSeed (f : TFld)
  /-- R219: The merge stage issues a ready context's bundle, alone or merged with the other context's bundle, and applies the header fields STAMP, OPPT, SCOPE, CK, FS and HOLD. -/
  | bundleIssue (core : Nat)
  /-- R232: After 48 cc (upward change) or 16 cc (downward change) the settle window closes and the other context becomes ready again. -/
  | settleWindowEnd (core : Nat)
  /-- R65: Index 0x0000, or a bundle with all slot fields zero, occupies one issue cycle and changes only the program counter. -/
  | emptyBundle (cid : Nat)
  /-- R100: A background dictionary load finishes copying its entries, or ends with a fault. -/
  | dictLoadEnd (cid : Nat)
  /-- R106: The wait count runs out and the context becomes ready again. -/
  | waitExpiry (cid : Nat)
  /-- R81: A fixed-latency result lands, writing its destination and latch and raising its flags. -/
  | resultLanding (cid : Nat)
  /-- R150: The data of an M request arrives, waiting in the landing buffer or ending a landing freeze. -/
  | mDataArrival (cid : Nat) (req : Nat)
  /-- R150: An M request reaches its due cycle: its data lands, or the core freezes, or the overrun fault is raised in deterministic operation. -/
  | mLandingDue (cid : Nat)
  /-- R322: A store or atomic leaves its M queue for its core buffer under its kind and the release rule. -/
  | storeLeaveQueue (cid : Nat) (pos : Nat)
  /-- R322: A write moves from a buffer to the next level on its route. -/
  | writeMoveOutward (level : Nat) (unit : Nat) (pos : Nat)
  /-- R322: A write moves from the package buffer into memory, or is handed to the bridge. -/
  | writeToMemory (pos : Nat)
  /-- R374: The remote side acknowledges a host or peer write held in the bridge. -/
  | remoteAcknowledge (pos : Nat)
  /-- R323: A load performs by searching its queue and its route outward for the newest same-address write. -/
  | loadPerform (cid : Nat) (pos : Nat)
  /-- R324: An acquire performs and releases the younger accesses of its context that it was holding. -/
  | acquirePerform (cid : Nat) (pos : Nat)
  /-- R161: An accumulator atomic performs indivisibly at the owning atomic area and returns its old word. -/
  | atomicPerform (cid : Nat) (pos : Nat)
  /-- R351: In deterministic operation an atomic, a copy element write or an as.ld granule performs in key order after its stamp + 64. -/
  | keyedPerform (cid : Nat) (pos : Nat)
  /-- R326: A single engine access performs at its entry level after leaving its path queue. -/
  | engineAccessPerform (cid : Nat) (cls : Nat) (pos : Nat)
  /-- R191: The sequencer makes one transition: it enqueues the entry's command, applies KOP and the stride, and tests COND. -/
  | seqTransition (core : Nat)
  /-- R195: The array starts the next queued operation and checks its memory operands, discarding it as an access fault when they fail. -/
  | engineOpStart (core : Nat)
  /-- R185: An engine operation reaches an interruptible step, where it holds for a deadline, an enabled flag or a pre-emption. -/
  | engineInterruptibleStep (core : Nat)
  /-- R197: An engine operation completes, ORs its flags into XFLAGS and readies its result word. -/
  | engineOpEnd (core : Nat)
  /-- R194: A T result word reaches its due cycle: it lands, or the core freezes until it is ready, or an overrun is raised. -/
  | resultWordDue (cid : Nat)
  /-- R245: A copy's last write becomes visible at its destination, and its flags are ORed into XFLAGS. -/
  | copyComplete (cid : Nat) (pos : Nat)
  /-- R247: A bound input copy or a streaming lookup delivers one 1,024-bit element to its stream. -/
  | streamElementDeliver (cid : Nat) (q : Nat)
  /-- R249: An arrival reaches the counter and is counted, and the generation completes when the count is reached. -/
  | cbarArrival (cid : Nat)
  /-- R249: A completed generation releases its waiters, which depart with acquire semantics. -/
  | cbarRelease (cid : Nat)
  /-- R253: When every member waits at fuse, the gang fuses, or traps every member when the addresses differ. -/
  | gangFusion (leader : Nat)
  /-- R255: Every member reaches rejoin, and all continue from their own successors. -/
  | gangRejoin (leader : Nat)
  /-- R268: The Asterism processes the next request in its order and readies its result word. -/
  | eqRequestProcess (cluster : Nat)
  /-- R302: The Catalogue takes the next command in its order and processes it. -/
  | pkCommandProcess (die : Nat)
  /-- R303: A Catalogue command ends done or with a status, and ORs its flags into XFLAGS. -/
  | pkCommandEnd (die : Nat)
  /-- R309: A near-memory unit performs one row operation of a command in arrival order, indivisibly per granule. -/
  | nmRowPerform (cid : Nat) (pos : Nat)
  /-- R310: A unit's acknowledgement of a performed row returns to the issuing core. -/
  | nmAcknowledge (cid : Nat) (pos : Nat)
  /-- R289: An angle-store copy writes its last granule and readies its result word. -/
  | asLdComplete (cid : Nat) (pos : Nat)
  /-- R53: The generator produces one xoshiro256-star-star output and pushes its upper 32 bits while the queue is not full. -/
  | rngPush (cid : Nat)
  /-- R224: A pending boundary trap is taken before the context's next bundle: the trap registers are written and fetch continues at TRAPVEC. -/
  | trapAtBoundary (cid : Nat)
  /-- R344: DEADLINE counts down to 0, PEND is set, and the context traps with cause 10 or is abandoned. -/
  | deadlineEvent (cid : Nat)
  /-- R349: In deterministic operation a bundle issues when frame time reaches its stamp, or an overrun is raised for a passed stamp. -/
  | detStampIssue (cid : Nat)
  /-- R221: The victim stops at a boundary, drains its in-flight work into the image and writes its context image. -/
  | preemptionStop (cid : Nat)
  /-- R223: A saved context image is restored on a core, and its in-flight results land at their remaining offsets. -/
  | contextResume (save : Nat) (cid : Nat)
  /-- R228: At a qualifying boundary the context snapshots its state and commits the previous interval. -/
  | checkpointTake (cid : Nat)
  /-- R229: An interval that overflows its logs or reaches 4,096 bundles drains its held stores and stops logging. -/
  | intervalUnprotected (cid : Nat)
  /-- R282: A die walker finishes a walk and yields a translation, a translation fault or an access fault. -/
  | tlbWalkComplete (die : Nat) (pos : Nat)
  /-- R286: Once every dropped translation has drained, the invalidation-done message is sent. -/
  | invalidationDone (part : Nat) (pos : Nat)
  /-- R334: The scheduler reads and checks a queued graph when its predecessor has finished, refusing it or starting its nodes. -/
  | graphStart (part : Nat) (queue : Nat)
  /-- R335: A READY node is chosen and its tile tasks are handed to the dispatchers. -/
  | nodeRelease (part : Nat) (queue : Nat) (node : Nat)
  /-- R338: A freed context is granted to the oldest waiting reservation ticket that lacks it. -/
  | reservationGrant (part : Nat) (cid : Nat)
  /-- R338: A tile task binds to a context: the presets are written, the banks are zero-filled and the deadline is set. -/
  | taskBind (part : Nat) (queue : Nat) (node : Nat) (cid : Nat)
  /-- R336: A BOUND task starts running at its first bundle, for CORES and DET nodes once all tasks are bound. -/
  | taskStart (cid : Nat)
  /-- R337: An item that has waited AGE PTB cycles is promoted by one class. -/
  | agePromotion (part : Nat) (queue : Nat) (node : Nat)
  /-- R108: Once every outstanding item of an ending task has completed or failed, its completion record is written and the context is freed. -/
  | taskEndComplete (cid : Nat)
  /-- R247: An output-bound copy consumes one qwr push, which frees the stream slot and, after its last push, unbinds the stream. -/
  | pushConsumed (cid : Nat) (q : Nat)
  /-- R339: The scheduler names a victim context so that a higher-class task can bind. -/
  | preemptionRequest (part : Nat)
  /-- R230: An uncorrectable SRAM error or residue mismatch rolls the context back and reruns the interval twice. -/
  | detectedError (where_ : Nat) (cid : Nat)
  /-- R370: A host fault reply resumes the waiting accesses or delivers the fault to their contexts, and frees the record. -/
  | faultReply (part : Nat) (msg : List Byte)
  /-- R286: A host invalidation message starts dropping translations of a range in every TLB of the partition. -/
  | invalidation (part : Nat) (msg : List Byte)
  /-- R371: A launch message enters its queue, or is refused, and is answered with a launch reply. -/
  | hostLaunch (part : Nat) (msg : List Byte)
  /-- R370: A launch-endpoint message of unknown TYPE is answered with TYPE 0x80FF and changes nothing. -/
  | unknownLaunchMessage (part : Nat) (msg : List Byte)
  /-- R372: A host or peer RMA read is translated and read from memory. -/
  | inboundRmaRead (from_ : Requester) (addr : Nat) (len : Nat)
  /-- R372: A host or peer RMA write is translated and performed in memory. -/
  | inboundRmaWrite (from_ : Requester) (addr : Nat) (data : List Byte)
  /-- R318: An inbound atomic is performed by the near-memory unit that serves its target. -/
  | inboundAtomic (from_ : Requester) (addr : Nat) (op : Nat) (size : Nat) (operand : Nat) (compare : Nat)
  /-- R374: An error response or exhausted retry on path H faults the reading slot or fails the task. -/
  | remoteErrorResponse (cid : Nat) (pos : Nat)
  /-- R377: Answers a nonce with a signed attestation report. -/
  | attestationRequest (nonce : List Byte)
  /-- R379: Returns 64 random bytes and voids the domain's earlier challenge. -/
  | debugChallengeRequest (domain : Nat)
  /-- R379: A signed answer unlocks a debug domain, or counts a failure. -/
  | debugUnlockAnswer (domain : Nat) (sig : Nat)
  /-- R379: A relock message locks a debug domain again. -/
  | debugRelock (domain : Nat)
  /-- R369: Installs or changes the module's owner key under signature. -/
  | ownerKeyInstall (key : Nat) (sig : Nat)
  /-- R378: A signed message changes a partition's REQUIRE bit and launch keys. -/
  | launchPolicyChange (part : Nat) (require : Nat) (keys : List Nat) (sig : Nat)
  /-- R369: A signed message changes a partition's peer table. -/
  | peerTableChange (part : Nat) (slot : Nat) (valid : Nat) (addr : Nat) (sig : Nat)
  /-- R360: A signed management message clears the retirement table after a replacement. -/
  | retirementTableClear (sig : Nat)
  /-- R381: Firmware forms a partition, clearing stack memory, forest stores, Catalogue slots and angle stores. -/
  | partitionForm (part : Nat) (dieMask : Nat) (root : Nat) (sig : Nat)
  /-- R376: A firmware image is accepted over the management endpoint in recovery mode. -/
  | firmwareImage (image : ImageFile) (version : Nat) (sig : Nat)
  /-- R362: The host clears COMPLETE of a collected dump. -/
  | dumpClear (die : Nat)
  /-- R376: A reset boots the module, verifying each firmware image or staying in recovery mode. -/
  | moduleReset
  /-- R352: A droop detection closes the boost switch, or raises the current-limit level when the duty counter is full. -/
  | droopDetect (cluster : Nat) (core : Nat)
  /-- R353: After 4,096 quiet PTB cycles a cluster's current-limit level falls by one. -/
  | currentLimitFall (cluster : Nat)
  /-- R354: At each 256-cc period the di/dt limiter sets ballast so that activity falls by at most one level. -/
  | ballastPeriod (cluster : Nat) (busy : Nat)
  /-- R355: The management core reads the sensors and updates each cluster's thermal level. -/
  | thermalReading (die : Nat) (temps : List Nat)
  /-- R361: The management core's 100 ms watchdog expires, which is a fatal error. -/
  | watchdogExpiry
  /-- R361: Every core stops, the arrays ramp down, the dump is written and the module halts. -/
  | fatalError (cause : Nat)
  /-- R230: SECDED corrects a single-bit SRAM or memory error, or a TLB parity error invalidates an entry, and the event is counted in HEALTH and the error log. -/
  | correctedError (core : Nat) (kind : Nat)
  /-- R368: A packet of an unsupported transport part or delivery mode is answered with not-supported, or is dropped and logged. -/
  | unsupportedPacket (part : Nat) (answered : Nat)
  /-- R234: The kernel-debug domain sets a context's breakpoint comparator to a halfword address and a slot mask. -/
  | breakpointComparatorSet (cid : Nat) (n : Nat) (addr : Nat) (mask : Nat)
  /-- R227: A kernel-debug session resumes a context that it holds stopped at a break, including a handler stopped where it broke. -/
  | debugSessionResume (cid : Nat)
  /-- R379: The kernel-debug session writes the image of a context held at a break. -/
  | heldContextImageWrite (cid : Nat) (reg : Nat) (value : Nat)
  /-- R369: A message signed by the owner key installs or changes the debug keys of a domain. -/
  | debugKeyInstall (domain : Nat) (key : Nat) (sig : Nat)
  /-- R379: A partition is dissolved, which relocks its kernel-debug domain and releases its dies to another partition. -/
  | partitionDissolution (part : Nat) (sig : Nat)
  /-- R288: Loss of the 48 V supply powers the module off, and the angle-store contents and other volatile state are lost. -/
  | powerOff
deriving DecidableEq, Repr

end Sys2Proof
end

