-- ==== Sys2Proof/WellFormed.lean ====
section
/-! DEFINITION. Which instructions are well formed: the conditions whose breach raises the illegal-slot trap whatever
the state (R70, R73 to R80, and each instruction's own rule), and unit numbers in range for events. -/

namespace Sys2Proof

/-- An instruction other than a nop is not guarded by !p0: the device ignores the bits of such a slot (R69). -/
def gOk (g : BitVec 5) : Bool := g != 16

/-- A 7-bit scalar source field selects a register or one of eight latches (R70). -/
def sSrcOk (a : BitVec 7) : Bool := decide (a.toNat < 72)

/-- A 6-bit vector source field selects a register or one of eight latches (R70). -/
def vSrcOk (a : BitVec 6) : Bool := decide (a.toNat < 40)

/-- Rounding modes other than 5 and 6 (R43). -/
def rmOk (rm : BitVec 3) : Bool := rm != 5 && rm != 6

/-- Words of a V operation's width (R74). -/
def vWords (w : BitVec 2) : Nat := if w = 0 then 8 else if w = 1 then 16 else 32

/-- Fields every V instruction but `vsplat` and `vcvt` shares (R70, R74, R43). -/
def vBase (f : VFld) : Bool := gOk f.g && f.w != 3 && vSrcOk f.a && vSrcOk f.b && rmOk f.rm

/-- The same for `vcvt`, which accepts rm = 5 (R43). -/
def vBaseSr (f : VFld) : Bool := gOk f.g && f.w != 3 && vSrcOk f.a && vSrcOk f.b && f.rm != 6

/-- An even destination, and so below 31, for an instruction that writes a pair (R79). -/
def evenD (f : VFld) : Bool := f.d.toNat % 2 == 0

/-- Class A of an `xfence`, bits [28:25] of the slot (R76). -/
def MFld.classA (f : MFld) : Nat := f.data.toNat / 4

/-- Class B of an `xfence`, bits [24:21] of the slot (R76). -/
def MFld.classB (f : MFld) : Nat := f.data.toNat % 4 * 4 + f.base.toNat / 16

/-- A class code of R159. -/
def classOk (c : Nat) : Bool := decide (c < 8) || c == 15

/-- sD = s0 asks for no result word and needs mod 0 (R194). -/
def resOk (f : TFld) : Bool := f.d != 0 || f.m == 0

/-- The control-register numbers of R59. -/
def ctlKnown (n : Nat) : Bool :=
  n == 0 || n == 1 || (decide (0x10 ≤ n) && decide (n ≤ 0x1F)) || (decide (0x20 ≤ n) && decide (n ≤ 0x27))
    || (decide (0x30 ≤ n) && decide (n ≤ 0x34)) || (decide (0x40 ≤ n) && decide (n ≤ 0x44))
    || (decide (0x50 ≤ n) && decide (n ≤ 0x5B)) || n == 0x60 || (decide (0x100 ≤ n) && decide (n ≤ 0x17F))
    || n == 0x200 || n == 0x201

/-- The control registers whose `cwr` is a row of its own in the opcode table. -/
def ctlOwnRow (n : Nat) : Bool :=
  n == 0x20 || n == 0x21 || n == 0x32 || (decide (0x10 ≤ n) && decide (n ≤ 0x1F))

/-- The instruction is one the device executes: no field outside what its rules allow. -/
def Instr.wf : Instr → Bool
  | .bundleIssue core => decide (core < Config.cores)
  | .settleWindowEnd core => decide (core < Config.cores)
  | .emptyBundle cid => decide (cid < 2 * Config.cores)
  | .nop _ => true
  | .add f => gOk f.g && sSrcOk f.a && sSrcOk f.b
  | .sub f => gOk f.g && sSrcOk f.a && sSrcOk f.b
  | .mul f => gOk f.g && sSrcOk f.a && sSrcOk f.b
  | .mulh f => gOk f.g && sSrcOk f.a && sSrcOk f.b
  | .mulhu f => gOk f.g && sSrcOk f.a && sSrcOk f.b
  | .div f => gOk f.g && sSrcOk f.a && sSrcOk f.b
  | .divu f => gOk f.g && sSrcOk f.a && sSrcOk f.b
  | .rem f => gOk f.g && sSrcOk f.a && sSrcOk f.b
  | .remu f => gOk f.g && sSrcOk f.a && sSrcOk f.b
  | .and f => gOk f.g && sSrcOk f.a && sSrcOk f.b
  | .or f => gOk f.g && sSrcOk f.a && sSrcOk f.b
  | .xor f => gOk f.g && sSrcOk f.a && sSrcOk f.b
  | .andn f => gOk f.g && sSrcOk f.a && sSrcOk f.b
  | .shl f => gOk f.g && sSrcOk f.a && sSrcOk f.b
  | .shr f => gOk f.g && sSrcOk f.a && sSrcOk f.b
  | .sra f => gOk f.g && sSrcOk f.a && sSrcOk f.b
  | .rotl f => gOk f.g && sSrcOk f.a && sSrcOk f.b
  | .min f => gOk f.g && sSrcOk f.a && sSrcOk f.b
  | .max f => gOk f.g && sSrcOk f.a && sSrcOk f.b
  | .minu f => gOk f.g && sSrcOk f.a && sSrcOk f.b
  | .maxu f => gOk f.g && sSrcOk f.a && sSrcOk f.b
  | .clz f => gOk f.g && sSrcOk f.a
  | .popc f => gOk f.g && sSrcOk f.a
  | .bfx f => gOk f.g && sSrcOk f.a && sSrcOk f.b
  | .bfi f => gOk f.g && sSrcOk f.a && sSrcOk f.b
  | .addi f => gOk f.g && sSrcOk f.a
  | .andi f => gOk f.g && sSrcOk f.a
  | .shli f => gOk f.g && sSrcOk f.a
  | .shri f => gOk f.g && sSrcOk f.a
  | .srai f => gOk f.g && sSrcOk f.a
  | .movi f => gOk f.g
  | .sli f => gOk f.g
  | .cmpEq f => gOk f.g && f.pd != 0 && sSrcOk f.a && sSrcOk f.b
  | .cmpNe f => gOk f.g && f.pd != 0 && sSrcOk f.a && sSrcOk f.b
  | .cmpLt f => gOk f.g && f.pd != 0 && sSrcOk f.a && sSrcOk f.b
  | .cmpLtu f => gOk f.g && f.pd != 0 && sSrcOk f.a && sSrcOk f.b
  | .cmpLe f => gOk f.g && f.pd != 0 && sSrcOk f.a && sSrcOk f.b
  | .cmpLeu f => gOk f.g && f.pd != 0 && sSrcOk f.a && sSrcOk f.b
  | .cmpiEq f => gOk f.g && f.pd != 0 && sSrcOk f.a
  | .cmpiLt f => gOk f.g && f.pd != 0 && sSrcOk f.a
  | .pand f => gOk f.g
  | .por f => gOk f.g
  | .pxor f => gOk f.g
  | .pandn f => gOk f.g
  | .br f => gOk f.g
  | .call f => gOk f.g
  | .jr f => gOk f.g && sSrcOk f.a
  | .loop f => gOk f.g && f.e != 0
  | .loopRearm f => gOk f.g
  | .loopExit g => gOk g
  | .dictLd f => gOk f.g && sSrcOk f.a
  | .dictLoadEnd cid => decide (cid < 2 * Config.cores)
  | .dictSw g => gOk g
  | .trap f => gOk f.g
  | .eret g => gOk g
  | .crd f => gOk f.g && ctlKnown f.num.toNat
  | .cwr f => gOk f.g && ctlKnown f.num.toNat && !ctlOwnRow f.num.toNat
  | .cwrXflags f => gOk f.g
  | .cwrRmode f => gOk f.g
  | .cwrBankfmt f => gOk f.g
  | .cwrDeadline f => gOk f.g
  | .wait f => gOk f.g
  | .waitExpiry cid => decide (cid < 2 * Config.cores)
  | .endTask g => gOk g
  | .brk f => gOk f.g
  | .yield g => gOk g
  | .vnop _ => true
  | .vfadd _ f => vBase f && f.c == 0
  | .vfsub _ f => vBase f && f.c == 0
  | .vfmul _ f => vBase f && f.c == 0
  | .vfma _ f => vBase f
  | .vfmin _ f => vBase f && f.c == 0
  | .vfmax _ f => vBase f && f.c == 0
  | .vfcmp _ f => vBase f && decide (f.c.toNat ≤ 7) && evenD f
  | .vfsgn _ f => vBase f && decide (f.c.toNat ≤ 2) && (f.c == 2 || f.b == 0)
  | .vfrnd _ f => vBase f && decide (f.c.toNat ≤ 1) && f.b == 0
  | .vfclass _ f => vBase f && f.b == 0 && f.c == 0
  | .vfsum _ f => vBase f && f.b == 0 && f.c == 0
  | .vcvt f => vBaseSr f && f.b == 0 && decide (f.c.toNat ≤ 0x13)
  | .vbpk f => vBase f && f.w == 2 && f.b == 0 && f.c.toNat / 16 == 0 && f.c.toNat % 8 != 0
  | .vbupk f => vBase f && f.w == 2 && f.b == 0 && f.c.toNat / 16 == 0 && f.c.toNat % 8 != 0
  | .vfdivF32 f => vBase f && f.c == 0
  | .vfdivF64 f => vBase f && f.c == 0
  | .vadd f => vBase f && f.c == 0
  | .vsub f => vBase f && f.c == 0
  | .vmul f => vBase f && f.c == 0
  | .vmulh f => vBase f && f.c == 0
  | .vmin f => vBase f && f.c == 0
  | .vmax f => vBase f && f.c == 0
  | .vminu f => vBase f && f.c == 0
  | .vmaxu f => vBase f && f.c == 0
  | .vand f => vBase f && f.c == 0
  | .vor f => vBase f && f.c == 0
  | .vxor f => vBase f && f.c == 0
  | .vshl f => vBase f && f.c == 0
  | .vshr f => vBase f && f.c == 0
  | .vsra f => vBase f && f.c == 0
  | .vaddD f => vBase f && f.c == 0
  | .vsubD f => vBase f && f.c == 0
  | .vcmpEq f => vBase f && f.c == 0 && evenD f
  | .vcmpLt f => vBase f && f.c == 0 && evenD f
  | .vcmpLtu f => vBase f && f.c == 0 && evenD f
  | .vsel f => vBase f && f.c == 0
  | .vvalid f => vBase f && f.b == 0 && f.c == 0
  | .vvmask f => vBase f && f.b == 0 && f.c == 0
  | .vmaskv f => vBase f && f.c == 0
  | .vsplat f => gOk f.g && f.w != 3 && rmOk f.rm && f.b == 0 && decide (f.c.toNat ≤ 1)
  | .viota f => vBase f && f.a == 0 && f.b == 0 && f.c == 0
  | .vext f => vBase f && f.nw == 0 && f.b == 0 && decide (f.c.toNat < vWords f.w)
  | .vins f => vBase f && decide (f.c.toNat < vWords f.w)
  | .vredAdd f => vBase f && f.b == 0 && f.c == 0
  | .vredMax f => vBase f && f.b == 0 && f.c == 0
  | .vscanAdd f => vBase f && f.b == 0 && f.c == 0
  | .vsort f => vBase f && decide (f.c.toNat ≤ 1) && evenD f
  | .vsegsum f => vBase f && decide (f.c.toNat ≤ 1) && evenD f
  | .fnop _ => true
  | .fexpF32 f => gOk f.g && rmOk f.rm
  | .fexpF64 f => gOk f.g && rmOk f.rm
  | .flogF32 f => gOk f.g && rmOk f.rm
  | .flogF64 f => gOk f.g && rmOk f.rm
  | .ferfF32 f => gOk f.g && rmOk f.rm
  | .ferfF64 f => gOk f.g && rmOk f.rm
  | .ferfcF32 f => gOk f.g && rmOk f.rm
  | .ferfcF64 f => gOk f.g && rmOk f.rm
  | .frcpF32 f => gOk f.g && rmOk f.rm
  | .frcpF64 f => gOk f.g && rmOk f.rm
  | .fsqrtF32 f => gOk f.g && rmOk f.rm
  | .fsqrtF64 f => gOk f.g && rmOk f.rm
  | .frsqrtF32 f => gOk f.g && rmOk f.rm
  | .frsqrtF64 f => gOk f.g && rmOk f.rm
  | .fexp2F32 f => gOk f.g && rmOk f.rm
  | .flog2F32 f => gOk f.g && rmOk f.rm
  | .ftanhF32 f => gOk f.g && rmOk f.rm
  | .fsigmF32 f => gOk f.g && rmOk f.rm
  | .fangcsA32 f => gOk f.g && rmOk f.rm && f.d != 31
  | .fangcsA64 f => gOk f.g && rmOk f.rm && f.d != 31
  | .fangofA32 f => gOk f.g && rmOk f.rm && f.d != 31 && f.s != 31
  | .fangofA64 f => gOk f.g && rmOk f.rm && f.d != 31 && f.s != 31
  | .xnop _ => true
  | .xperm f => gOk f.g
  | .xcfg f => gOk f.g && f.p == 0
  | .xbcast f => gOk f.g
  | .xrotl f => gOk f.g
  | .xdeal f => gOk f.g && decide (f.p.toNat ≤ 3)
  | .xweave f => gOk f.g && decide (f.p.toNat ≤ 3)
  | .resultLanding cid => decide (cid < 2 * Config.cores)
  | .mnop _ => true
  | .ldB f => gOk f.g
  | .ldBu f => gOk f.g
  | .ldH f => gOk f.g
  | .ldHu f => gOk f.g
  | .ldW f => gOk f.g
  | .ldWu f => gOk f.g
  | .ldD f => gOk f.g
  | .stB f => gOk f.g && f.lat == 0
  | .stH f => gOk f.g && f.lat == 0
  | .stW f => gOk f.g && f.lat == 0
  | .stD f => gOk f.g && f.lat == 0
  | .ldvW256 f => gOk f.g && decide (f.data.toNat < 32)
  | .ldvW512 f => gOk f.g && decide (f.data.toNat < 32)
  | .ldvW1024 f => gOk f.g && decide (f.data.toNat < 32)
  | .stvW256 f => gOk f.g && vSrcOk f.data && f.lat == 0
  | .stvW512 f => gOk f.g && vSrcOk f.data && f.lat == 0
  | .stvW1024 f => gOk f.g && vSrcOk f.data && f.lat == 0
  | .ldvs f => gOk f.g && decide (f.data.toNat < 32)
  | .ldvx f => gOk f.g && decide (f.data.toNat < 32) && decide (f.off.toNat % 16 ≤ 3)
  | .stvx f => gOk f.g && vSrcOk f.data && decide (f.off.toNat % 16 ≤ 3) && f.lat == 0
  | .ldAcq f => gOk f.g
  | .stRel f => gOk f.g && f.lat == 0
  | .ldAcqW f => gOk f.g
  | .stRelW f => gOk f.g && f.lat == 0
  | .fence f => gOk f.g && f.data == 0 && f.base == 0 && f.off == 0 && f.lat == 0
  | .xfence f => gOk f.g && f.base.toNat % 16 == 0 && f.off == 0 && f.lat == 0 && classOk f.classA && classOk f.classB
  | .accLd f => gOk f.g && decide (f.data.toNat < 32)
  | .accSt f => gOk f.g && vSrcOk f.data && f.lat == 0
  | .accAddI f => gOk f.g && f.lat == 0
  | .accAddF f => gOk f.g && f.lat == 0
  | .accFaddI f => gOk f.g
  | .accXchg f => gOk f.g
  | .accAddvF f => gOk f.g && vSrcOk f.data && f.lat == 0
  | .qrd f => gOk f.g && decide (f.data.toNat < 32) && decide (f.base.toNat < 8) && f.off == 0
  | .qwr f => gOk f.g && vSrcOk f.data && decide (f.base.toNat < 8) && f.off == 0 && f.lat == 0
  | .mDataArrival cid _ => decide (cid < 2 * Config.cores)
  | .mLandingDue cid => decide (cid < 2 * Config.cores)
  | .storeLeaveQueue cid _ => decide (cid < 2 * Config.cores)
  | .writeMoveOutward _ _ _ => true
  | .writeToMemory _ => true
  | .remoteAcknowledge _ => true
  | .loadPerform cid _ => decide (cid < 2 * Config.cores)
  | .acquirePerform cid _ => decide (cid < 2 * Config.cores)
  | .atomicPerform cid _ => decide (cid < 2 * Config.cores)
  | .keyedPerform cid _ => decide (cid < 2 * Config.cores)
  | .engineAccessPerform cid _ _ => decide (cid < 2 * Config.cores)
  | .tnop _ => true
  | .rotLd f => gOk f.g && resOk f && f.c == 0
  | .rotApp f => gOk f.g && resOk f
  | .rotAppt f => gOk f.g && resOk f
  | .rotDrv f => gOk f.g && resOk f
  | .rotLin f => gOk f.g && resOk f
  | .rotGrad f => gOk f.g && f.m == 0
  | .rotSlv f => gOk f.g && resOk f
  | .rotSav f => gOk f.g && resOk f && f.b == 0 && f.c == 0
  | .rotRst f => gOk f.g && resOk f && f.b == 0 && f.c == 0
  | .rotNrm f => gOk f.g && resOk f
  | .accSwap f => gOk f.g && f.a == 0 && f.b == 0 && f.c == 0 && f.d == 0 && f.m != 0
  | .accClr f => gOk f.g && f.a == 0 && f.b == 0 && f.c == 0 && f.d == 0 && f.m != 0
  | .seqLd f => gOk f.g && resOk f
  | .seqRun f => gOk f.g && resOk f && f.a == 0 && f.b == 0 && f.c == 0
  | .seqTransition core => decide (core < Config.cores)
  | .engineOpStart core => decide (core < Config.cores)
  | .engineInterruptibleStep core => decide (core < Config.cores)
  | .engineOpEnd core => decide (core < Config.cores)
  | .resultWordDue cid => decide (cid < 2 * Config.cores)
  | .cpGo f => gOk f.g
  | .cpTr f => gOk f.g
  | .cpFill f => gOk f.g
  | .cpBind f => gOk f.g && f.b == 0 && f.c == 0 && f.d == 0
  | .cpWait f => gOk f.g && f.b == 0 && f.c == 0 && f.d != 0
  | .copyComplete cid _ => decide (cid < 2 * Config.cores)
  | .streamElementDeliver cid q => decide (cid < 2 * Config.cores) && decide (q < 8)
  | .cbar f => gOk f.g && f.c == 0 && f.d == 0 && f.m == 0
  | .cbarArrival cid => decide (cid < 2 * Config.cores)
  | .cbarRelease cid => decide (cid < 2 * Config.cores)
  | .fuse f => gOk f.g && resOk f && f.a == 0 && f.b == 0 && f.c == 0
  | .gangFusion leader => decide (leader < 2 * Config.cores)
  | .dcpl f => gOk f.g && f.a == 0 && f.b == 0 && f.c == 0 && f.d == 0 && f.m == 0
  | .rejoin f => gOk f.g && f.a == 0 && f.b == 0 && f.c == 0 && f.d == 0 && f.m == 0
  | .gangRejoin leader => decide (leader < 2 * Config.cores)
  | .eqInit f => gOk f.g && resOk f && f.b == 0 && f.c == 0
  | .eqUnite f => gOk f.g && resOk f
  | .eqFind f => gOk f.g && resOk f && f.c == 0
  | .eqSame f => gOk f.g && resOk f
  | .eqSize f => gOk f.g && resOk f && f.c == 0
  | .eqRelabel f => gOk f.g && resOk f
  | .eqSnap f => gOk f.g && resOk f && f.b == 0 && f.c == 0
  | .eqUndo f => gOk f.g && resOk f && f.b == 0 && f.c == 0
  | .eqFence f => gOk f.g && f.a == 0 && f.b == 0 && f.c == 0 && f.d != 0
  | .eqRequestProcess cluster => decide (cluster < Config.clusters)
  | .pkCfg f => gOk f.g && resOk f && f.c == 0
  | .pkLook f => gOk f.g && resOk f
  | .pkBack f => gOk f.g && resOk f && f.c == 0
  | .pkWait f => gOk f.g && f.a == 0 && f.b == 0 && f.c == 0 && f.d != 0
  | .pkCommandProcess die => decide (die < Config.dies)
  | .pkCommandEnd die => decide (die < Config.dies)
  | .nmAdd f => gOk f.g && f.m == 0
  | .nmFai f => gOk f.g && resOk f
  | .nmOpt f => gOk f.g && f.m == 0
  | .nmFence f => gOk f.g && f.a == 0 && f.b == 0 && f.c == 0 && f.d != 0
  | .nmRowPerform cid _ => decide (cid < 2 * Config.cores)
  | .nmAcknowledge cid _ => decide (cid < 2 * Config.cores)
  | .asLd f => gOk f.g && resOk f
  | .asWait f => gOk f.g && f.a == 0 && f.b == 0 && f.c == 0 && f.d != 0
  | .asLdComplete cid _ => decide (cid < 2 * Config.cores)
  | .graphGo f => gOk f.g && resOk f
  | .taskSig f => gOk f.g && resOk f && f.b == 0 && f.c == 0
  | .rngSeed f => gOk f.g && f.m == 0
  | .rngPush cid => decide (cid < 2 * Config.cores)
  | .trapAtBoundary cid => decide (cid < 2 * Config.cores)
  | .deadlineEvent cid => decide (cid < 2 * Config.cores)
  | .detStampIssue cid => decide (cid < 2 * Config.cores)
  | .preemptionRequest part => decide (part < Config.dies)
  | .preemptionStop cid => decide (cid < 2 * Config.cores)
  | .contextResume _ cid => decide (cid < 2 * Config.cores)
  | .checkpointTake cid => decide (cid < 2 * Config.cores)
  | .intervalUnprotected cid => decide (cid < 2 * Config.cores)
  | .detectedError _ cid => decide (cid < 2 * Config.cores)
  | .tlbWalkComplete die _ => decide (die < Config.dies)
  | .faultReply part _ => decide (part < Config.dies)
  | .invalidation part _ => decide (part < Config.dies)
  | .invalidationDone part _ => decide (part < Config.dies)
  | .hostLaunch part _ => decide (part < Config.dies)
  | .unknownLaunchMessage part _ => decide (part < Config.dies)
  | .graphStart part queue => decide (part < Config.dies) && decide (queue < 16)
  | .nodeRelease part queue _ => decide (part < Config.dies) && decide (queue < 16)
  | .reservationGrant part cid => decide (part < Config.dies) && decide (cid < 2 * Config.cores)
  | .taskBind part queue _ cid => decide (part < Config.dies) && decide (queue < 16) && decide (cid < 2 * Config.cores)
  | .taskStart cid => decide (cid < 2 * Config.cores)
  | .agePromotion part queue _ => decide (part < Config.dies) && decide (queue < 16)
  | .taskEndComplete cid => decide (cid < 2 * Config.cores)
  | .inboundRmaRead q _ _ => decide (q.part < Config.dies)
  | .inboundRmaWrite q _ _ => decide (q.part < Config.dies)
  | .inboundAtomic q _ _ _ _ _ => decide (q.part < Config.dies)
  | .remoteErrorResponse cid _ => decide (cid < 2 * Config.cores)
  | .attestationRequest _ => true
  | .debugChallengeRequest domain => decide (domain < 9)
  | .debugUnlockAnswer domain _ => decide (domain < 9)
  | .debugRelock domain => decide (domain < 9)
  | .ownerKeyInstall _ _ => true
  | .launchPolicyChange part _ _ _ => decide (part < Config.dies)
  | .peerTableChange part _ _ _ _ => decide (part < Config.dies)
  | .retirementTableClear _ => true
  | .partitionForm part _ _ _ => decide (part < Config.dies)
  | .firmwareImage f _ _ => decide (f.which < 3)
  | .dumpClear die => decide (die < Config.dies)
  | .moduleReset => true
  | .droopDetect cluster core => decide (cluster < Config.clusters) && decide (core < Config.cores)
  | .currentLimitFall cluster => decide (cluster < Config.clusters)
  | .ballastPeriod cluster _ => decide (cluster < Config.clusters)
  | .thermalReading die _ => decide (die < Config.dies)
  | .watchdogExpiry => true
  | .fatalError _ => true
  | .correctedError core _ => decide (core < Config.cores)
  | .pushConsumed cid q => decide (cid < 2 * Config.cores) && decide (q < 8)
  | .unsupportedPacket part _ => decide (part < Config.dies)
  | .breakpointComparatorSet cid _ _ _ => decide (cid < 2 * Config.cores)
  | .debugSessionResume cid => decide (cid < 2 * Config.cores)
  | .heldContextImageWrite cid _ _ => decide (cid < 2 * Config.cores)
  | .debugKeyInstall domain _ _ => decide (domain < 9)
  | .partitionDissolution part _ => decide (part < Config.dies)
  | .powerOff => true

end Sys2Proof
end

