-- ==== Sys2Proof/Decode.lean ====
section
/-! DEFINITION. The decoder and the encoder of slot words (R69, R73 to R80), bundles (R63) and code indices (R66).
A slot word decodes to the instruction whose encoding it is, bit for bit; every other word is rejected. -/

namespace Sys2Proof

/-- The six kinds of slot (R63). -/
inductive SlotKind where
  | s
  | v
  | f
  | x
  | m
  | t
deriving DecidableEq, Repr

/-- The bits of SReg with opcode `op`. -/
def packSReg (op : Nat) (f : SReg) : Nat :=
  f.g.toNat * 2 ^ 27 + f.nw.toNat * 2 ^ 20 + f.d.toNat * 2 ^ 14 + f.a.toNat * 2 ^ 7 + f.b.toNat + op * 2 ^ 21

/-- The fields of SReg in a slot word. -/
def unpackSReg (w : Nat) : SReg :=
  ⟨BitVec.ofNat 5 (w / 2 ^ 27), BitVec.ofNat 1 (w / 2 ^ 20), BitVec.ofNat 6 (w / 2 ^ 14), BitVec.ofNat 7 (w / 2 ^ 7), BitVec.ofNat 7 w⟩

/-- The bits of SUn with opcode `op`. -/
def packSUn (op : Nat) (f : SUn) : Nat :=
  f.g.toNat * 2 ^ 27 + f.nw.toNat * 2 ^ 20 + f.d.toNat * 2 ^ 14 + f.a.toNat * 2 ^ 7 + op * 2 ^ 21

/-- The fields of SUn in a slot word. -/
def unpackSUn (w : Nat) : SUn :=
  ⟨BitVec.ofNat 5 (w / 2 ^ 27), BitVec.ofNat 1 (w / 2 ^ 20), BitVec.ofNat 6 (w / 2 ^ 14), BitVec.ofNat 7 (w / 2 ^ 7)⟩

/-- The bits of SSh with opcode `op`. -/
def packSSh (op : Nat) (f : SSh) : Nat :=
  f.g.toNat * 2 ^ 27 + f.nw.toNat * 2 ^ 20 + f.d.toNat * 2 ^ 14 + f.a.toNat * 2 ^ 7 + f.sh.toNat + op * 2 ^ 21

/-- The fields of SSh in a slot word. -/
def unpackSSh (w : Nat) : SSh :=
  ⟨BitVec.ofNat 5 (w / 2 ^ 27), BitVec.ofNat 1 (w / 2 ^ 20), BitVec.ofNat 6 (w / 2 ^ 14), BitVec.ofNat 7 (w / 2 ^ 7), BitVec.ofNat 6 w⟩

/-- The bits of SImm with opcode `op`. -/
def packSImm (op : Nat) (f : SImm) : Nat :=
  f.g.toNat * 2 ^ 27 + f.nw.toNat * 2 ^ 20 + f.d.toNat * 2 ^ 14 + f.imm.toNat + op * 2 ^ 21

/-- The fields of SImm in a slot word. -/
def unpackSImm (w : Nat) : SImm :=
  ⟨BitVec.ofNat 5 (w / 2 ^ 27), BitVec.ofNat 1 (w / 2 ^ 20), BitVec.ofNat 6 (w / 2 ^ 14), BitVec.ofNat 14 w⟩

/-- The bits of SCmp with opcode `op`. -/
def packSCmp (op : Nat) (f : SCmp) : Nat :=
  f.g.toNat * 2 ^ 27 + f.pd.toNat * 2 ^ 15 + f.a.toNat * 2 ^ 7 + f.b.toNat + op * 2 ^ 21

/-- The fields of SCmp in a slot word. -/
def unpackSCmp (w : Nat) : SCmp :=
  ⟨BitVec.ofNat 5 (w / 2 ^ 27), BitVec.ofNat 3 (w / 2 ^ 15), BitVec.ofNat 7 (w / 2 ^ 7), BitVec.ofNat 7 w⟩

/-- The bits of SPred with opcode `op`. -/
def packSPred (op : Nat) (f : SPred) : Nat :=
  f.g.toNat * 2 ^ 27 + f.pd.toNat * 2 ^ 14 + f.pa.toNat * 2 ^ 7 + f.pb.toNat + op * 2 ^ 21

/-- The fields of SPred in a slot word. -/
def unpackSPred (w : Nat) : SPred :=
  ⟨BitVec.ofNat 5 (w / 2 ^ 27), BitVec.ofNat 4 (w / 2 ^ 14), BitVec.ofNat 4 (w / 2 ^ 7), BitVec.ofNat 4 w⟩

/-- The bits of SBr with opcode `op`. -/
def packSBr (op : Nat) (f : SBr) : Nat :=
  f.g.toNat * 2 ^ 27 + f.off.toNat + op * 2 ^ 21

/-- The fields of SBr in a slot word. -/
def unpackSBr (w : Nat) : SBr :=
  ⟨BitVec.ofNat 5 (w / 2 ^ 27), BitVec.ofNat 21 w⟩

/-- The bits of SSrc with opcode `op`. -/
def packSSrc (op : Nat) (f : SSrc) : Nat :=
  f.g.toNat * 2 ^ 27 + f.a.toNat * 2 ^ 7 + op * 2 ^ 21

/-- The fields of SSrc in a slot word. -/
def unpackSSrc (w : Nat) : SSrc :=
  ⟨BitVec.ofNat 5 (w / 2 ^ 27), BitVec.ofNat 7 (w / 2 ^ 7)⟩

/-- The bits of SLoop with opcode `op`. -/
def packSLoop (op : Nat) (f : SLoop) : Nat :=
  f.g.toNat * 2 ^ 27 + f.lvl.toNat * 2 ^ 19 + f.c.toNat * 2 ^ 13 + f.e.toNat + op * 2 ^ 21

/-- The fields of SLoop in a slot word. -/
def unpackSLoop (w : Nat) : SLoop :=
  ⟨BitVec.ofNat 5 (w / 2 ^ 27), BitVec.ofNat 2 (w / 2 ^ 19), BitVec.ofNat 6 (w / 2 ^ 13), BitVec.ofNat 13 w⟩

/-- The bits of SNum with opcode `op`. -/
def packSNum (op : Nat) (f : SNum) : Nat :=
  f.g.toNat * 2 ^ 27 + f.n.toNat * 2 ^ 14 + f.imm.toNat + op * 2 ^ 21

/-- The fields of SNum in a slot word. -/
def unpackSNum (w : Nat) : SNum :=
  ⟨BitVec.ofNat 5 (w / 2 ^ 27), BitVec.ofNat 6 (w / 2 ^ 14), BitVec.ofNat 14 w⟩

/-- The bits of SCode with opcode `op`. -/
def packSCode (op : Nat) (f : SCode) : Nat :=
  f.g.toNat * 2 ^ 27 + f.code.toNat + op * 2 ^ 21

/-- The fields of SCode in a slot word. -/
def unpackSCode (w : Nat) : SCode :=
  ⟨BitVec.ofNat 5 (w / 2 ^ 27), BitVec.ofNat 14 w⟩

/-- The bits of SCtl with opcode `op`. -/
def packSCtl (op : Nat) (f : SCtl) : Nat :=
  f.g.toNat * 2 ^ 27 + f.r.toNat * 2 ^ 14 + f.num.toNat + op * 2 ^ 21

/-- The fields of SCtl in a slot word. -/
def unpackSCtl (w : Nat) : SCtl :=
  ⟨BitVec.ofNat 5 (w / 2 ^ 27), BitVec.ofNat 6 (w / 2 ^ 14), BitVec.ofNat 14 w⟩

/-- The bits of VFld with opcode `op`. -/
def packV (op : Nat) (f : VFld) : Nat :=
  f.g.toNat * 2 ^ 35 + f.w.toNat * 2 ^ 26 + f.nw.toNat * 2 ^ 25 + f.d.toNat * 2 ^ 20 + f.a.toNat * 2 ^ 14 + f.b.toNat * 2 ^ 8 + f.c.toNat * 2 ^ 3 + f.rm.toNat + op * 2 ^ 28

/-- The fields of VFld in a slot word. -/
def unpackV (w : Nat) : VFld :=
  ⟨BitVec.ofNat 5 (w / 2 ^ 35), BitVec.ofNat 2 (w / 2 ^ 26), BitVec.ofNat 1 (w / 2 ^ 25), BitVec.ofNat 5 (w / 2 ^ 20), BitVec.ofNat 6 (w / 2 ^ 14), BitVec.ofNat 6 (w / 2 ^ 8), BitVec.ofNat 5 (w / 2 ^ 3), BitVec.ofNat 3 w⟩

/-- The bits of FFld with opcode `op`. -/
def packF (op : Nat) (f : FFld) : Nat :=
  f.g.toNat * 2 ^ 19 + f.nw.toNat * 2 ^ 13 + f.d.toNat * 2 ^ 8 + f.s.toNat * 2 ^ 3 + f.rm.toNat + op * 2 ^ 14

/-- The fields of FFld in a slot word. -/
def unpackF (w : Nat) : FFld :=
  ⟨BitVec.ofNat 5 (w / 2 ^ 19), BitVec.ofNat 1 (w / 2 ^ 13), BitVec.ofNat 5 (w / 2 ^ 8), BitVec.ofNat 5 (w / 2 ^ 3), BitVec.ofNat 3 w⟩

/-- The bits of XFld with opcode `op`. -/
def packX (op : Nat) (f : XFld) : Nat :=
  f.g.toNat * 2 ^ 19 + f.d.toNat * 2 ^ 10 + f.s.toNat * 2 ^ 5 + f.p.toNat + op * 2 ^ 15

/-- The fields of XFld in a slot word. -/
def unpackX (w : Nat) : XFld :=
  ⟨BitVec.ofNat 5 (w / 2 ^ 19), BitVec.ofNat 5 (w / 2 ^ 10), BitVec.ofNat 5 (w / 2 ^ 5), BitVec.ofNat 5 w⟩

/-- The bits of MFld with opcode `op`. -/
def packM (op : Nat) (f : MFld) : Nat :=
  f.g.toNat * 2 ^ 35 + f.data.toNat * 2 ^ 23 + f.base.toNat * 2 ^ 17 + f.off.toNat * 2 ^ 8 + f.lat.toNat + op * 2 ^ 29

/-- The fields of MFld in a slot word. -/
def unpackM (w : Nat) : MFld :=
  ⟨BitVec.ofNat 5 (w / 2 ^ 35), BitVec.ofNat 6 (w / 2 ^ 23), BitVec.ofNat 6 (w / 2 ^ 17), BitVec.ofNat 9 (w / 2 ^ 8), BitVec.ofNat 8 w⟩

/-- The bits of TFld with opcode `op`. -/
def packT (op : Nat) (f : TFld) : Nat :=
  f.g.toNat * 2 ^ 35 + f.a.toNat * 2 ^ 22 + f.b.toNat * 2 ^ 16 + f.c.toNat * 2 ^ 10 + f.d.toNat * 2 ^ 4 + f.m.toNat + op * 2 ^ 28

/-- The fields of TFld in a slot word. -/
def unpackT (w : Nat) : TFld :=
  ⟨BitVec.ofNat 5 (w / 2 ^ 35), BitVec.ofNat 6 (w / 2 ^ 22), BitVec.ofNat 6 (w / 2 ^ 16), BitVec.ofNat 6 (w / 2 ^ 10), BitVec.ofNat 6 (w / 2 ^ 4), BitVec.ofNat 4 w⟩

/-- An S slot of which only guard and opcode are used. -/
def packSG (op : Nat) (g : BitVec 5) : Nat := g.toNat * 2 ^ 27 + op * 2 ^ 21

/-- A V slot of which only guard and opcode are used. -/
def packVG (op : Nat) (g : BitVec 5) : Nat := g.toNat * 2 ^ 35 + op * 2 ^ 28

/-- An F slot of which only guard and opcode are used. -/
def packFG (op : Nat) (g : BitVec 5) : Nat := g.toNat * 2 ^ 19 + op * 2 ^ 14

/-- An X slot of which only guard and opcode are used. -/
def packXG (op : Nat) (g : BitVec 5) : Nat := g.toNat * 2 ^ 19 + op * 2 ^ 15

/-- An M slot of which only guard and opcode are used. -/
def packMG (op : Nat) (g : BitVec 5) : Nat := g.toNat * 2 ^ 35 + op * 2 ^ 29

/-- A T slot of which only guard and opcode are used. -/
def packTG (op : Nat) (g : BitVec 5) : Nat := g.toNat * 2 ^ 35 + op * 2 ^ 28

/-- The guard of a 32-bit S slot. -/
def guardOfS (w : Nat) : BitVec 5 := BitVec.ofNat 5 (w / 2 ^ 27)

/-- The guard of a 40-bit V slot. -/
def guardOfV (w : Nat) : BitVec 5 := BitVec.ofNat 5 (w / 2 ^ 35)

/-- The guard of a 24-bit F slot. -/
def guardOfF (w : Nat) : BitVec 5 := BitVec.ofNat 5 (w / 2 ^ 19)

/-- The guard of a 24-bit X slot. -/
def guardOfX (w : Nat) : BitVec 5 := BitVec.ofNat 5 (w / 2 ^ 19)

/-- The guard of a 40-bit M slot. -/
def guardOfM (w : Nat) : BitVec 5 := BitVec.ofNat 5 (w / 2 ^ 35)

/-- The guard of a 40-bit T slot. -/
def guardOfT (w : Nat) : BitVec 5 := BitVec.ofNat 5 (w / 2 ^ 35)

/-- A `loop`, or its re-arm form where count field and end offset are 0 (R96, R99). -/
def unpackLoop (w : Nat) : Instr :=
  let f := unpackSLoop w
  if f.e = 0 ∧ f.c = 0 then .loopRearm ⟨f.g, f.lvl⟩ else .loop f

/-- A `cwr`, under the row of its control register where it has one of its own (R102, R44, R48, R147, R344). -/
def unpackCwr (w : Nat) : Instr :=
  let f := unpackSCtl w
  if f.num = 0x21 then .cwrXflags ⟨f.g, f.r⟩
  else if f.num = 0x20 then .cwrRmode ⟨f.g, f.r⟩
  else if f.num = 0x32 then .cwrDeadline ⟨f.g, f.r⟩
  else if 0x10 ≤ f.num.toNat ∧ f.num.toNat ≤ 0x1F then .cwrBankfmt ⟨f.g, f.r, BitVec.ofNat 4 f.num.toNat⟩
  else .cwr f

/-- The instruction an S slot by opcode (R78) names, before its fields are checked. -/
def rawS (op w : Nat) : Option Instr :=
  match op with
  | 0 => some (.nop (guardOfS w))
  | 1 => some (.add (unpackSReg w))
  | 2 => some (.sub (unpackSReg w))
  | 3 => some (.mul (unpackSReg w))
  | 4 => some (.mulh (unpackSReg w))
  | 5 => some (.mulhu (unpackSReg w))
  | 6 => some (.div (unpackSReg w))
  | 7 => some (.divu (unpackSReg w))
  | 8 => some (.rem (unpackSReg w))
  | 9 => some (.remu (unpackSReg w))
  | 10 => some (.and (unpackSReg w))
  | 11 => some (.or (unpackSReg w))
  | 12 => some (.xor (unpackSReg w))
  | 13 => some (.andn (unpackSReg w))
  | 14 => some (.shl (unpackSReg w))
  | 15 => some (.shr (unpackSReg w))
  | 16 => some (.sra (unpackSReg w))
  | 17 => some (.rotl (unpackSReg w))
  | 18 => some (.min (unpackSReg w))
  | 19 => some (.max (unpackSReg w))
  | 20 => some (.minu (unpackSReg w))
  | 21 => some (.maxu (unpackSReg w))
  | 22 => some (.clz (unpackSUn w))
  | 23 => some (.popc (unpackSUn w))
  | 24 => some (.bfx (unpackSReg w))
  | 25 => some (.bfi (unpackSReg w))
  | 26 => some (.addi (unpackSReg w))
  | 27 => some (.andi (unpackSReg w))
  | 28 => some (.shli (unpackSSh w))
  | 29 => some (.shri (unpackSSh w))
  | 30 => some (.srai (unpackSSh w))
  | 31 => some (.movi (unpackSImm w))
  | 32 => some (.sli (unpackSImm w))
  | 33 => some (.cmpEq (unpackSCmp w))
  | 34 => some (.cmpNe (unpackSCmp w))
  | 35 => some (.cmpLt (unpackSCmp w))
  | 36 => some (.cmpLtu (unpackSCmp w))
  | 37 => some (.cmpLe (unpackSCmp w))
  | 38 => some (.cmpLeu (unpackSCmp w))
  | 39 => some (.cmpiEq (unpackSCmp w))
  | 40 => some (.cmpiLt (unpackSCmp w))
  | 41 => some (.pand (unpackSPred w))
  | 42 => some (.por (unpackSPred w))
  | 43 => some (.pxor (unpackSPred w))
  | 44 => some (.pandn (unpackSPred w))
  | 48 => some (.br (unpackSBr w))
  | 49 => some (.call (unpackSBr w))
  | 50 => some (.jr (unpackSSrc w))
  | 51 => some (unpackLoop w)
  | 52 => some (.loopExit (guardOfS w))
  | 53 => some (.dictLd (unpackSSrc w))
  | 54 => some (.dictSw (guardOfS w))
  | 55 => some (.trap (unpackSNum w))
  | 56 => some (.eret (guardOfS w))
  | 57 => some (.crd (unpackSCtl w))
  | 58 => some (unpackCwr w)
  | 59 => some (.wait (unpackSNum w))
  | 60 => some (.endTask (guardOfS w))
  | 61 => some (.brk (unpackSCode w))
  | 62 => some (.yield (guardOfS w))
  | _ => none

/-- The instruction an V slot by opcode (R79) names, before its fields are checked. -/
def rawV (op w : Nat) : Option Instr :=
  match op with
  | 0 => some (.vnop (guardOfV w))
  | 4 => some (.vfadd 0 (unpackV w))
  | 5 => some (.vfadd 1 (unpackV w))
  | 6 => some (.vfadd 2 (unpackV w))
  | 7 => some (.vfadd 3 (unpackV w))
  | 8 => some (.vfsub 0 (unpackV w))
  | 9 => some (.vfsub 1 (unpackV w))
  | 10 => some (.vfsub 2 (unpackV w))
  | 11 => some (.vfsub 3 (unpackV w))
  | 12 => some (.vfmul 0 (unpackV w))
  | 13 => some (.vfmul 1 (unpackV w))
  | 14 => some (.vfmul 2 (unpackV w))
  | 15 => some (.vfmul 3 (unpackV w))
  | 16 => some (.vfma 0 (unpackV w))
  | 17 => some (.vfma 1 (unpackV w))
  | 18 => some (.vfma 2 (unpackV w))
  | 19 => some (.vfma 3 (unpackV w))
  | 20 => some (.vfmin 0 (unpackV w))
  | 21 => some (.vfmin 1 (unpackV w))
  | 22 => some (.vfmin 2 (unpackV w))
  | 23 => some (.vfmin 3 (unpackV w))
  | 24 => some (.vfmax 0 (unpackV w))
  | 25 => some (.vfmax 1 (unpackV w))
  | 26 => some (.vfmax 2 (unpackV w))
  | 27 => some (.vfmax 3 (unpackV w))
  | 28 => some (.vfcmp 0 (unpackV w))
  | 29 => some (.vfcmp 1 (unpackV w))
  | 30 => some (.vfcmp 2 (unpackV w))
  | 31 => some (.vfcmp 3 (unpackV w))
  | 32 => some (.vfsgn 0 (unpackV w))
  | 33 => some (.vfsgn 1 (unpackV w))
  | 34 => some (.vfsgn 2 (unpackV w))
  | 35 => some (.vfsgn 3 (unpackV w))
  | 36 => some (.vfrnd 0 (unpackV w))
  | 37 => some (.vfrnd 1 (unpackV w))
  | 38 => some (.vfrnd 2 (unpackV w))
  | 39 => some (.vfrnd 3 (unpackV w))
  | 40 => some (.vfclass 0 (unpackV w))
  | 41 => some (.vfclass 1 (unpackV w))
  | 42 => some (.vfclass 2 (unpackV w))
  | 43 => some (.vfclass 3 (unpackV w))
  | 44 => some (.vfsum 0 (unpackV w))
  | 45 => some (.vfsum 1 (unpackV w))
  | 46 => some (.vfsum 2 (unpackV w))
  | 47 => some (.vfsum 3 (unpackV w))
  | 48 => some (.vcvt (unpackV w))
  | 49 => some (.vbpk (unpackV w))
  | 50 => some (.vbupk (unpackV w))
  | 54 => some (.vfdivF32 (unpackV w))
  | 55 => some (.vfdivF64 (unpackV w))
  | 64 => some (.vadd (unpackV w))
  | 65 => some (.vsub (unpackV w))
  | 66 => some (.vmul (unpackV w))
  | 67 => some (.vmulh (unpackV w))
  | 68 => some (.vmin (unpackV w))
  | 69 => some (.vmax (unpackV w))
  | 70 => some (.vminu (unpackV w))
  | 71 => some (.vmaxu (unpackV w))
  | 72 => some (.vand (unpackV w))
  | 73 => some (.vor (unpackV w))
  | 74 => some (.vxor (unpackV w))
  | 75 => some (.vshl (unpackV w))
  | 76 => some (.vshr (unpackV w))
  | 77 => some (.vsra (unpackV w))
  | 78 => some (.vaddD (unpackV w))
  | 79 => some (.vsubD (unpackV w))
  | 80 => some (.vcmpEq (unpackV w))
  | 81 => some (.vcmpLt (unpackV w))
  | 82 => some (.vcmpLtu (unpackV w))
  | 88 => some (.vsel (unpackV w))
  | 89 => some (.vvalid (unpackV w))
  | 90 => some (.vvmask (unpackV w))
  | 91 => some (.vmaskv (unpackV w))
  | 96 => some (.vsplat (unpackV w))
  | 97 => some (.viota (unpackV w))
  | 98 => some (.vext (unpackV w))
  | 99 => some (.vins (unpackV w))
  | 104 => some (.vredAdd (unpackV w))
  | 105 => some (.vredMax (unpackV w))
  | 106 => some (.vscanAdd (unpackV w))
  | 107 => some (.vsort (unpackV w))
  | 108 => some (.vsegsum (unpackV w))
  | _ => none

/-- The instruction an F slot by opcode (R80) names, before its fields are checked. -/
def rawF (op w : Nat) : Option Instr :=
  match op with
  | 0 => some (.fnop (guardOfF w))
  | 1 => some (.fexpF32 (unpackF w))
  | 2 => some (.fexpF64 (unpackF w))
  | 3 => some (.flogF32 (unpackF w))
  | 4 => some (.flogF64 (unpackF w))
  | 5 => some (.ferfF32 (unpackF w))
  | 6 => some (.ferfF64 (unpackF w))
  | 7 => some (.ferfcF32 (unpackF w))
  | 8 => some (.ferfcF64 (unpackF w))
  | 9 => some (.frcpF32 (unpackF w))
  | 10 => some (.frcpF64 (unpackF w))
  | 11 => some (.fsqrtF32 (unpackF w))
  | 12 => some (.fsqrtF64 (unpackF w))
  | 13 => some (.frsqrtF32 (unpackF w))
  | 14 => some (.frsqrtF64 (unpackF w))
  | 15 => some (.fexp2F32 (unpackF w))
  | 16 => some (.flog2F32 (unpackF w))
  | 17 => some (.ftanhF32 (unpackF w))
  | 18 => some (.fsigmF32 (unpackF w))
  | 19 => some (.fangcsA32 (unpackF w))
  | 20 => some (.fangcsA64 (unpackF w))
  | 21 => some (.fangofA32 (unpackF w))
  | 22 => some (.fangofA64 (unpackF w))
  | _ => none

/-- The instruction an X slot by opcode (R80) names, before its fields are checked. -/
def rawX (op w : Nat) : Option Instr :=
  match op with
  | 0 => some (.xnop (guardOfX w))
  | 1 => some (.xperm (unpackX w))
  | 2 => some (.xcfg (unpackX w))
  | 3 => some (.xbcast (unpackX w))
  | 4 => some (.xrotl (unpackX w))
  | 5 => some (.xdeal (unpackX w))
  | 6 => some (.xweave (unpackX w))
  | _ => none

/-- The instruction an M slot by opcode (R80) names, before its fields are checked. -/
def rawM (op w : Nat) : Option Instr :=
  match op with
  | 0 => some (.mnop (guardOfM w))
  | 1 => some (.ldB (unpackM w))
  | 2 => some (.ldBu (unpackM w))
  | 3 => some (.ldH (unpackM w))
  | 4 => some (.ldHu (unpackM w))
  | 5 => some (.ldW (unpackM w))
  | 6 => some (.ldWu (unpackM w))
  | 7 => some (.ldD (unpackM w))
  | 8 => some (.stB (unpackM w))
  | 9 => some (.stH (unpackM w))
  | 10 => some (.stW (unpackM w))
  | 11 => some (.stD (unpackM w))
  | 12 => some (.ldvW256 (unpackM w))
  | 13 => some (.ldvW512 (unpackM w))
  | 14 => some (.ldvW1024 (unpackM w))
  | 16 => some (.stvW256 (unpackM w))
  | 17 => some (.stvW512 (unpackM w))
  | 18 => some (.stvW1024 (unpackM w))
  | 20 => some (.ldvs (unpackM w))
  | 21 => some (.ldvx (unpackM w))
  | 22 => some (.stvx (unpackM w))
  | 24 => some (.ldAcq (unpackM w))
  | 25 => some (.stRel (unpackM w))
  | 26 => some (.ldAcqW (unpackM w))
  | 27 => some (.stRelW (unpackM w))
  | 28 => some (.fence (unpackM w))
  | 29 => some (.xfence (unpackM w))
  | 32 => some (.accLd (unpackM w))
  | 33 => some (.accSt (unpackM w))
  | 34 => some (.accAddI (unpackM w))
  | 35 => some (.accAddF (unpackM w))
  | 36 => some (.accFaddI (unpackM w))
  | 37 => some (.accXchg (unpackM w))
  | 38 => some (.accAddvF (unpackM w))
  | 40 => some (.qrd (unpackM w))
  | 41 => some (.qwr (unpackM w))
  | _ => none

/-- The instruction an T slot by opcode (R80) names, before its fields are checked. -/
def rawT (op w : Nat) : Option Instr :=
  match op with
  | 0 => some (.tnop (guardOfT w))
  | 1 => some (.rotLd (unpackT w))
  | 2 => some (.rotApp (unpackT w))
  | 3 => some (.rotAppt (unpackT w))
  | 4 => some (.rotDrv (unpackT w))
  | 5 => some (.rotLin (unpackT w))
  | 6 => some (.rotGrad (unpackT w))
  | 7 => some (.rotSlv (unpackT w))
  | 8 => some (.rotSav (unpackT w))
  | 9 => some (.rotRst (unpackT w))
  | 10 => some (.rotNrm (unpackT w))
  | 11 => some (.accSwap (unpackT w))
  | 12 => some (.accClr (unpackT w))
  | 13 => some (.seqLd (unpackT w))
  | 14 => some (.seqRun (unpackT w))
  | 16 => some (.cpGo (unpackT w))
  | 17 => some (.cpTr (unpackT w))
  | 18 => some (.cpBind (unpackT w))
  | 19 => some (.cpWait (unpackT w))
  | 20 => some (.cpFill (unpackT w))
  | 24 => some (.fuse (unpackT w))
  | 25 => some (.dcpl (unpackT w))
  | 26 => some (.rejoin (unpackT w))
  | 27 => some (.cbar (unpackT w))
  | 32 => some (.eqInit (unpackT w))
  | 33 => some (.eqUnite (unpackT w))
  | 34 => some (.eqFind (unpackT w))
  | 35 => some (.eqSame (unpackT w))
  | 36 => some (.eqSize (unpackT w))
  | 37 => some (.eqRelabel (unpackT w))
  | 38 => some (.eqSnap (unpackT w))
  | 39 => some (.eqUndo (unpackT w))
  | 40 => some (.eqFence (unpackT w))
  | 48 => some (.pkCfg (unpackT w))
  | 49 => some (.pkLook (unpackT w))
  | 50 => some (.pkBack (unpackT w))
  | 51 => some (.pkWait (unpackT w))
  | 56 => some (.nmAdd (unpackT w))
  | 57 => some (.nmFai (unpackT w))
  | 58 => some (.nmOpt (unpackT w))
  | 59 => some (.nmFence (unpackT w))
  | 64 => some (.asLd (unpackT w))
  | 65 => some (.asWait (unpackT w))
  | 72 => some (.graphGo (unpackT w))
  | 73 => some (.taskSig (unpackT w))
  | 74 => some (.rngSeed (unpackT w))
  | _ => none

/-- The slot kind and the bits of an instruction, from the slot formats and the opcode map (R73 to R80). An event
has no encoding. -/
def encodeSlot (i : Instr) : Option (SlotKind × Nat) :=
  match i with
  | .bundleIssue _ => none
  | .settleWindowEnd _ => none
  | .emptyBundle _ => none
  | .nop g => some (.s, packSG 0 g)
  | .add f => some (.s, packSReg 1 f)
  | .sub f => some (.s, packSReg 2 f)
  | .mul f => some (.s, packSReg 3 f)
  | .mulh f => some (.s, packSReg 4 f)
  | .mulhu f => some (.s, packSReg 5 f)
  | .div f => some (.s, packSReg 6 f)
  | .divu f => some (.s, packSReg 7 f)
  | .rem f => some (.s, packSReg 8 f)
  | .remu f => some (.s, packSReg 9 f)
  | .and f => some (.s, packSReg 10 f)
  | .or f => some (.s, packSReg 11 f)
  | .xor f => some (.s, packSReg 12 f)
  | .andn f => some (.s, packSReg 13 f)
  | .shl f => some (.s, packSReg 14 f)
  | .shr f => some (.s, packSReg 15 f)
  | .sra f => some (.s, packSReg 16 f)
  | .rotl f => some (.s, packSReg 17 f)
  | .min f => some (.s, packSReg 18 f)
  | .max f => some (.s, packSReg 19 f)
  | .minu f => some (.s, packSReg 20 f)
  | .maxu f => some (.s, packSReg 21 f)
  | .clz f => some (.s, packSUn 22 f)
  | .popc f => some (.s, packSUn 23 f)
  | .bfx f => some (.s, packSReg 24 f)
  | .bfi f => some (.s, packSReg 25 f)
  | .addi f => some (.s, packSReg 26 f)
  | .andi f => some (.s, packSReg 27 f)
  | .shli f => some (.s, packSSh 28 f)
  | .shri f => some (.s, packSSh 29 f)
  | .srai f => some (.s, packSSh 30 f)
  | .movi f => some (.s, packSImm 31 f)
  | .sli f => some (.s, packSImm 32 f)
  | .cmpEq f => some (.s, packSCmp 33 f)
  | .cmpNe f => some (.s, packSCmp 34 f)
  | .cmpLt f => some (.s, packSCmp 35 f)
  | .cmpLtu f => some (.s, packSCmp 36 f)
  | .cmpLe f => some (.s, packSCmp 37 f)
  | .cmpLeu f => some (.s, packSCmp 38 f)
  | .cmpiEq f => some (.s, packSCmp 39 f)
  | .cmpiLt f => some (.s, packSCmp 40 f)
  | .pand f => some (.s, packSPred 41 f)
  | .por f => some (.s, packSPred 42 f)
  | .pxor f => some (.s, packSPred 43 f)
  | .pandn f => some (.s, packSPred 44 f)
  | .br f => some (.s, packSBr 48 f)
  | .call f => some (.s, packSBr 49 f)
  | .jr f => some (.s, packSSrc 50 f)
  | .loop f => some (.s, packSLoop 51 f)
  | .loopRearm f => some (.s, packSLoop 51 ⟨f.g, f.lvl, 0, 0⟩)
  | .loopExit g => some (.s, packSG 52 g)
  | .dictLd f => some (.s, packSSrc 53 f)
  | .dictLoadEnd _ => none
  | .dictSw g => some (.s, packSG 54 g)
  | .trap f => some (.s, packSNum 55 f)
  | .eret g => some (.s, packSG 56 g)
  | .crd f => some (.s, packSCtl 57 f)
  | .cwr f => some (.s, packSCtl 58 f)
  | .cwrXflags f => some (.s, packSCtl 58 ⟨f.g, f.r, 0x21⟩)
  | .cwrRmode f => some (.s, packSCtl 58 ⟨f.g, f.r, 0x20⟩)
  | .cwrBankfmt f => some (.s, packSCtl 58 ⟨f.g, f.r, BitVec.ofNat 14 (0x10 + f.n.toNat)⟩)
  | .cwrDeadline f => some (.s, packSCtl 58 ⟨f.g, f.r, 0x32⟩)
  | .wait f => some (.s, packSNum 59 f)
  | .waitExpiry _ => none
  | .endTask g => some (.s, packSG 60 g)
  | .brk f => some (.s, packSCode 61 f)
  | .yield g => some (.s, packSG 62 g)
  | .vnop g => some (.v, packVG 0 g)
  | .vfadd t f => some (.v, packV (4 + t.toNat) f)
  | .vfsub t f => some (.v, packV (8 + t.toNat) f)
  | .vfmul t f => some (.v, packV (12 + t.toNat) f)
  | .vfma t f => some (.v, packV (16 + t.toNat) f)
  | .vfmin t f => some (.v, packV (20 + t.toNat) f)
  | .vfmax t f => some (.v, packV (24 + t.toNat) f)
  | .vfcmp t f => some (.v, packV (28 + t.toNat) f)
  | .vfsgn t f => some (.v, packV (32 + t.toNat) f)
  | .vfrnd t f => some (.v, packV (36 + t.toNat) f)
  | .vfclass t f => some (.v, packV (40 + t.toNat) f)
  | .vfsum t f => some (.v, packV (44 + t.toNat) f)
  | .vcvt f => some (.v, packV 48 f)
  | .vbpk f => some (.v, packV 49 f)
  | .vbupk f => some (.v, packV 50 f)
  | .vfdivF32 f => some (.v, packV 54 f)
  | .vfdivF64 f => some (.v, packV 55 f)
  | .vadd f => some (.v, packV 64 f)
  | .vsub f => some (.v, packV 65 f)
  | .vmul f => some (.v, packV 66 f)
  | .vmulh f => some (.v, packV 67 f)
  | .vmin f => some (.v, packV 68 f)
  | .vmax f => some (.v, packV 69 f)
  | .vminu f => some (.v, packV 70 f)
  | .vmaxu f => some (.v, packV 71 f)
  | .vand f => some (.v, packV 72 f)
  | .vor f => some (.v, packV 73 f)
  | .vxor f => some (.v, packV 74 f)
  | .vshl f => some (.v, packV 75 f)
  | .vshr f => some (.v, packV 76 f)
  | .vsra f => some (.v, packV 77 f)
  | .vaddD f => some (.v, packV 78 f)
  | .vsubD f => some (.v, packV 79 f)
  | .vcmpEq f => some (.v, packV 80 f)
  | .vcmpLt f => some (.v, packV 81 f)
  | .vcmpLtu f => some (.v, packV 82 f)
  | .vsel f => some (.v, packV 88 f)
  | .vvalid f => some (.v, packV 89 f)
  | .vvmask f => some (.v, packV 90 f)
  | .vmaskv f => some (.v, packV 91 f)
  | .vsplat f => some (.v, packV 96 f)
  | .viota f => some (.v, packV 97 f)
  | .vext f => some (.v, packV 98 f)
  | .vins f => some (.v, packV 99 f)
  | .vredAdd f => some (.v, packV 104 f)
  | .vredMax f => some (.v, packV 105 f)
  | .vscanAdd f => some (.v, packV 106 f)
  | .vsort f => some (.v, packV 107 f)
  | .vsegsum f => some (.v, packV 108 f)
  | .fnop g => some (.f, packFG 0 g)
  | .fexpF32 f => some (.f, packF 1 f)
  | .fexpF64 f => some (.f, packF 2 f)
  | .flogF32 f => some (.f, packF 3 f)
  | .flogF64 f => some (.f, packF 4 f)
  | .ferfF32 f => some (.f, packF 5 f)
  | .ferfF64 f => some (.f, packF 6 f)
  | .ferfcF32 f => some (.f, packF 7 f)
  | .ferfcF64 f => some (.f, packF 8 f)
  | .frcpF32 f => some (.f, packF 9 f)
  | .frcpF64 f => some (.f, packF 10 f)
  | .fsqrtF32 f => some (.f, packF 11 f)
  | .fsqrtF64 f => some (.f, packF 12 f)
  | .frsqrtF32 f => some (.f, packF 13 f)
  | .frsqrtF64 f => some (.f, packF 14 f)
  | .fexp2F32 f => some (.f, packF 15 f)
  | .flog2F32 f => some (.f, packF 16 f)
  | .ftanhF32 f => some (.f, packF 17 f)
  | .fsigmF32 f => some (.f, packF 18 f)
  | .fangcsA32 f => some (.f, packF 19 f)
  | .fangcsA64 f => some (.f, packF 20 f)
  | .fangofA32 f => some (.f, packF 21 f)
  | .fangofA64 f => some (.f, packF 22 f)
  | .xnop g => some (.x, packXG 0 g)
  | .xperm f => some (.x, packX 1 f)
  | .xcfg f => some (.x, packX 2 f)
  | .xbcast f => some (.x, packX 3 f)
  | .xrotl f => some (.x, packX 4 f)
  | .xdeal f => some (.x, packX 5 f)
  | .xweave f => some (.x, packX 6 f)
  | .resultLanding _ => none
  | .mnop g => some (.m, packMG 0 g)
  | .ldB f => some (.m, packM 1 f)
  | .ldBu f => some (.m, packM 2 f)
  | .ldH f => some (.m, packM 3 f)
  | .ldHu f => some (.m, packM 4 f)
  | .ldW f => some (.m, packM 5 f)
  | .ldWu f => some (.m, packM 6 f)
  | .ldD f => some (.m, packM 7 f)
  | .stB f => some (.m, packM 8 f)
  | .stH f => some (.m, packM 9 f)
  | .stW f => some (.m, packM 10 f)
  | .stD f => some (.m, packM 11 f)
  | .ldvW256 f => some (.m, packM 12 f)
  | .ldvW512 f => some (.m, packM 13 f)
  | .ldvW1024 f => some (.m, packM 14 f)
  | .stvW256 f => some (.m, packM 16 f)
  | .stvW512 f => some (.m, packM 17 f)
  | .stvW1024 f => some (.m, packM 18 f)
  | .ldvs f => some (.m, packM 20 f)
  | .ldvx f => some (.m, packM 21 f)
  | .stvx f => some (.m, packM 22 f)
  | .ldAcq f => some (.m, packM 24 f)
  | .stRel f => some (.m, packM 25 f)
  | .ldAcqW f => some (.m, packM 26 f)
  | .stRelW f => some (.m, packM 27 f)
  | .fence f => some (.m, packM 28 f)
  | .xfence f => some (.m, packM 29 f)
  | .accLd f => some (.m, packM 32 f)
  | .accSt f => some (.m, packM 33 f)
  | .accAddI f => some (.m, packM 34 f)
  | .accAddF f => some (.m, packM 35 f)
  | .accFaddI f => some (.m, packM 36 f)
  | .accXchg f => some (.m, packM 37 f)
  | .accAddvF f => some (.m, packM 38 f)
  | .qrd f => some (.m, packM 40 f)
  | .qwr f => some (.m, packM 41 f)
  | .mDataArrival _ _ => none
  | .mLandingDue _ => none
  | .storeLeaveQueue _ _ => none
  | .writeMoveOutward _ _ _ => none
  | .writeToMemory _ => none
  | .remoteAcknowledge _ => none
  | .loadPerform _ _ => none
  | .acquirePerform _ _ => none
  | .atomicPerform _ _ => none
  | .keyedPerform _ _ => none
  | .engineAccessPerform _ _ _ => none
  | .tnop g => some (.t, packTG 0 g)
  | .rotLd f => some (.t, packT 1 f)
  | .rotApp f => some (.t, packT 2 f)
  | .rotAppt f => some (.t, packT 3 f)
  | .rotDrv f => some (.t, packT 4 f)
  | .rotLin f => some (.t, packT 5 f)
  | .rotGrad f => some (.t, packT 6 f)
  | .rotSlv f => some (.t, packT 7 f)
  | .rotSav f => some (.t, packT 8 f)
  | .rotRst f => some (.t, packT 9 f)
  | .rotNrm f => some (.t, packT 10 f)
  | .accSwap f => some (.t, packT 11 f)
  | .accClr f => some (.t, packT 12 f)
  | .seqLd f => some (.t, packT 13 f)
  | .seqRun f => some (.t, packT 14 f)
  | .seqTransition _ => none
  | .engineOpStart _ => none
  | .engineInterruptibleStep _ => none
  | .engineOpEnd _ => none
  | .resultWordDue _ => none
  | .cpGo f => some (.t, packT 16 f)
  | .cpTr f => some (.t, packT 17 f)
  | .cpFill f => some (.t, packT 20 f)
  | .cpBind f => some (.t, packT 18 f)
  | .cpWait f => some (.t, packT 19 f)
  | .copyComplete _ _ => none
  | .streamElementDeliver _ _ => none
  | .cbar f => some (.t, packT 27 f)
  | .cbarArrival _ => none
  | .cbarRelease _ => none
  | .fuse f => some (.t, packT 24 f)
  | .gangFusion _ => none
  | .dcpl f => some (.t, packT 25 f)
  | .rejoin f => some (.t, packT 26 f)
  | .gangRejoin _ => none
  | .eqInit f => some (.t, packT 32 f)
  | .eqUnite f => some (.t, packT 33 f)
  | .eqFind f => some (.t, packT 34 f)
  | .eqSame f => some (.t, packT 35 f)
  | .eqSize f => some (.t, packT 36 f)
  | .eqRelabel f => some (.t, packT 37 f)
  | .eqSnap f => some (.t, packT 38 f)
  | .eqUndo f => some (.t, packT 39 f)
  | .eqFence f => some (.t, packT 40 f)
  | .eqRequestProcess _ => none
  | .pkCfg f => some (.t, packT 48 f)
  | .pkLook f => some (.t, packT 49 f)
  | .pkBack f => some (.t, packT 50 f)
  | .pkWait f => some (.t, packT 51 f)
  | .pkCommandProcess _ => none
  | .pkCommandEnd _ => none
  | .nmAdd f => some (.t, packT 56 f)
  | .nmFai f => some (.t, packT 57 f)
  | .nmOpt f => some (.t, packT 58 f)
  | .nmFence f => some (.t, packT 59 f)
  | .nmRowPerform _ _ => none
  | .nmAcknowledge _ _ => none
  | .asLd f => some (.t, packT 64 f)
  | .asWait f => some (.t, packT 65 f)
  | .asLdComplete _ _ => none
  | .graphGo f => some (.t, packT 72 f)
  | .taskSig f => some (.t, packT 73 f)
  | .rngSeed f => some (.t, packT 74 f)
  | .rngPush _ => none
  | .trapAtBoundary _ => none
  | .deadlineEvent _ => none
  | .detStampIssue _ => none
  | .preemptionRequest _ => none
  | .preemptionStop _ => none
  | .contextResume _ _ => none
  | .checkpointTake _ => none
  | .intervalUnprotected _ => none
  | .detectedError _ _ => none
  | .tlbWalkComplete _ _ => none
  | .faultReply _ _ => none
  | .invalidation _ _ => none
  | .invalidationDone _ _ => none
  | .hostLaunch _ _ => none
  | .unknownLaunchMessage _ _ => none
  | .graphStart _ _ => none
  | .nodeRelease _ _ _ => none
  | .reservationGrant _ _ => none
  | .taskBind _ _ _ _ => none
  | .taskStart _ => none
  | .agePromotion _ _ _ => none
  | .taskEndComplete _ => none
  | .inboundRmaRead _ _ _ => none
  | .inboundRmaWrite _ _ _ => none
  | .inboundAtomic _ _ _ _ _ _ => none
  | .remoteErrorResponse _ _ => none
  | .attestationRequest _ => none
  | .debugChallengeRequest _ => none
  | .debugUnlockAnswer _ _ => none
  | .debugRelock _ => none
  | .ownerKeyInstall _ _ => none
  | .launchPolicyChange _ _ _ _ => none
  | .peerTableChange _ _ _ _ _ => none
  | .retirementTableClear _ => none
  | .partitionForm _ _ _ _ => none
  | .firmwareImage _ _ _ => none
  | .dumpClear _ => none
  | .moduleReset => none
  | .droopDetect _ _ => none
  | .currentLimitFall _ => none
  | .ballastPeriod _ _ => none
  | .thermalReading _ _ => none
  | .watchdogExpiry => none
  | .fatalError _ => none
  | .correctedError _ _ => none
  | .pushConsumed _ _ => none
  | .unsupportedPacket _ _ => none
  | .breakpointComparatorSet _ _ _ _ => none
  | .debugSessionResume _ => none
  | .heldContextImageWrite _ _ _ => none
  | .debugKeyInstall _ _ _ => none
  | .partitionDissolution _ _ => none
  | .powerOff => none

/-- The instruction a slot's opcode and fields name, before they are checked. A slot guarded by !p0 is not decoded
(R69) and reads as the nop of its kind. -/
def rawSlot (k : SlotKind) (w : Nat) : Option Instr :=
  match k with
  | .s => if guardOfS w = 16 then some (.nop 16) else rawS (w / 2 ^ 21 % 64) w
  | .v => if guardOfV w = 16 then some (.vnop 16) else rawV (w / 2 ^ 28 % 128) w
  | .f => if guardOfF w = 16 then some (.fnop 16) else rawF (w / 2 ^ 14 % 32) w
  | .x => if guardOfX w = 16 then some (.xnop 16) else rawX (w / 2 ^ 15 % 16) w
  | .m => if guardOfM w = 16 then some (.mnop 16) else rawM (w / 2 ^ 29 % 64) w
  | .t => if guardOfT w = 16 then some (.tnop 16) else rawT (w / 2 ^ 28 % 128) w

/-- Bits of a slot of kind `k` (R63). -/
def slotBits (k : SlotKind) : Nat :=
  match k with
  | .s => 32
  | .f | .x => 24
  | .v | .m | .t => 40

/-- The guard field of a slot word. -/
def slotGuard (k : SlotKind) (w : Nat) : BitVec 5 := BitVec.ofNat 5 (w / 2 ^ (slotBits k - 5))

/-- The decoder of one slot. A word is accepted when it is the encoding of a well-formed instruction: an unused field
that is not zero (R77), a reserved opcode or an illegal field rejects it. A slot guarded by !p0 is accepted whatever
its other bits are (R69). -/
def decodeSlot (k : SlotKind) (w : Nat) : Option Instr :=
  let w := w % 2 ^ slotBits k
  match rawSlot k w with
  | some i =>
    if slotGuard k w = 16 then some i
    else if i.wf && encodeSlot i == some (k, w) then some i
    else none
  | none => none

/-- The kind of slot number n (R63). -/
def kindOfSlot (n : Nat) : SlotKind :=
  if n ≤ 1 then .s else if n ≤ 4 then .v else if n = 5 then .f else if n ≤ 7 then .m else if n = 8 then .x else .t

/-- The instruction the decoder reads from a word of `nbits` bits as the opcode table numbers them. 32 bits are an
S slot. 24 bits are an F slot: the table gives X rows 24 bits too, and a bare 24-bit word does not say which of the
two slots it stands in. Other widths are read as a V slot. -/
def decodeTableWord (nbits w : Nat) : Option Instr :=
  if nbits = 32 then decodeSlot .s w else if nbits ≤ 24 then decodeSlot .f w else decodeSlot .v w

end Sys2Proof
end

