-- ==== Sys2Proof/Machine/State.lean ====
section
/-! DEFINITION. The state of the machine as plain data, and the state after reset. -/

namespace Sys2Proof.Machine

/-- Why the machine stops. -/
inductive Fault where
  /-- Raised by `step` after a fatal error: R361 halts the module, and only a reset restarts it. Safe: the hardware
  does nothing either. -/
  | halted
  /-- Raised by `step` while the module is powered off (R288). Safe: the hardware does nothing either. -/
  | poweredOff
deriving DecidableEq, Repr

/-- Why the model refuses. -/
inductive Refusal where
  /-- Raised by an arm of `exec` whose instruction has no meaning in the model yet. Safe: no claim follows. -/
  | notModelled (mnemonic : String)
deriving DecidableEq, Repr

/-! ### Values with validity (R58, R61) -/

/-- A scalar register: 64 bits and one validity bit for each of its two words (R58). -/
structure SVal where
  bits : Word
  ok0 : Bool
  ok1 : Bool
deriving DecidableEq, Repr

/-- A 32-bit word of a vector register with its validity bit (R58). -/
structure VWord where
  bits : BitVec 32
  ok : Bool
deriving DecidableEq, Repr

/-- A vector value: 32 words (R58). -/
abbrev VVal := Vector VWord 32

/-- A bypass latch (R71): voided, of scalar kind or of vector kind. -/
inductive Latch where
  | voided
  | scalar (v : SVal)
  | vector (v : VVal)
deriving DecidableEq, Repr

/-- One write that a landing result performs (R81). -/
inductive RWrite where
  | sreg (r : BitVec 6) (v : SVal)
  /-- Words 0 to n - 1 of v(r) (R74). -/
  | vreg (r : BitVec 5) (n : Nat) (v : VVal)
  | pred (p : BitVec 4) (b : Bool)
  /-- Predicates p and p + 1 of a compare with an invalid operand: the neither state (R91). -/
  | neither (p : BitVec 4)
  /-- Pattern n: the destination word of each source word, or none (R140). -/
  | pat (n : BitVec 5) (t : List (Option Nat))
  | ctl (num : BitVec 14) (v : Word)
  /-- LCNTn, LSTARTn and LENDn (R96). -/
  | loopRegs (lvl : BitVec 2) (cnt start last : Word)
deriving DecidableEq, Repr

/-- A fixed-latency result in flight (R81): the core cycle at which it lands, its slot, its writes, what its slot's
latch takes, and its flags. -/
structure Pending where
  due : Nat
  slot : Nat
  writes : List RWrite
  latch : Option Latch
  flags : BitVec 8
deriving DecidableEq, Repr

/-! ### Memory slots -/

/-- Where an M request lands (R153, R154): a scalar of `size` bytes, sign- or zero-extended, or n words. -/
inductive LandDest where
  | sreg (r : BitVec 6) (size : Nat) (sext : Bool)
  | vreg (r : BitVec 5) (n : Nat)
deriving DecidableEq, Repr

/-- An entry of a landing buffer (R150, R151): the bytes gathered so far, word validity, and whether the data has
arrived, which is not before the core's beat `from_`. `qn` names the stream a `qrd` still has to pop, `seq` its place in
the context's order. -/
structure MReq where
  id : Nat
  port : Nat
  due : Nat
  dest : LandDest
  okWords : List Bool
  bytes : List (Option Byte)
  arrived : Bool
  late : Bool
  qn : Option Nat
  from_ : Nat
  seq : Nat
deriving DecidableEq, Repr

/-- The kind of an access in an M path queue (R157 to R161). -/
inductive MKind where
  | load
  | store
  | acquire
  | release
  /-- An accumulator atomic, by its M opcode (R161). -/
  | atomic (op : Nat)
  | fence
  | xfence (a b : Nat)
deriving DecidableEq, Repr

/-- The key of R269 and R351: frame index, STAMP, logical core, slot number. -/
structure Key where
  frame : Nat
  stamp : Nat
  lcore : Nat
  slot : Nat
deriving DecidableEq, Repr

/-- An access in an M path queue (R163, R320). `seq` is its place in the context's order, `ord` the page kind of R164, `q` the
point of coherence of R321, `host` whether it also counts in class H (R281). A read has `locs`: where each byte goes in its
request, and its key; `va` is the address of the first byte. An atomic has `operands`: the key of each word and what it adds.
`first` marks the first part of an access, and `mates` the accesses of slot A in the same merged issue, which are older
(R219). -/
structure MAcc where
  cid : Nat
  seq : Nat
  kind : MKind
  scope : Nat
  ord : Nat
  q : Nat
  host : Bool
  va : Nat
  cells : List Host.Cell
  locs : List (Nat × Nat)
  req : Nat
  operands : List (Nat × BitVec 32)
  key : Key
  first : Bool
  mates : Nat × Nat
deriving DecidableEq, Repr

/-- A write in a buffer of the ordering machine (R320): who wrote it and on which path, its bytes and its point of
coherence. -/
structure BufWrite where
  cid : Nat
  cls : Nat
  seq : Nat
  q : Nat
  ord : Nat
  host : Bool
  cells : List Host.Cell
deriving DecidableEq, Repr

/-! ### Commands of the T slot -/

/-- What a pending result word waits for (R194, R245, R275, R301, R317, R290). -/
inductive TWait where
  | command
  | copies (mask : Nat) (seq : Nat)
  | eqFence (seq : Nat)
  | pkWait (lo : Nat) (seq : Nat) (count : Nat)
  | nmFence (seq : Nat) (count : Nat)
  | asWait (seq : Nat) (count : Nat)
  | gang
deriving DecidableEq, Repr

/-- A pending result word (R194, R196): due cycle, register, value once it is ready. `b6` marks a returning
`nm.fai` (R313). -/
structure TWord where
  id : Nat
  due : Nat
  reg : BitVec 6
  val : Option SVal
  wait : TWait
  late : Bool
  b6 : Bool
deriving DecidableEq, Repr

/-- A command of the T slot with the parameter words read at issue (R194), the formats of the logical banks (R147) and
RMODE (R42) as they stood there, and the number that names its bundle in a fused gang (R192). -/
structure Cmd where
  cid : Nat
  op : Nat
  a : Word
  b : Word
  c : Word
  d : Word
  m : Nat
  dreg : BitVec 6
  req : Nat
  seq : Nat
  scope : Nat
  key : Key
  fmts : List (BitVec 8)
  rmode : BitVec 3
  gid : Nat
deriving DecidableEq, Repr

/-- The interior of a solve between its steps (R183): FP64 encodings. `phase` is 0 before a substitution row and 1
before a refinement test; `row` counts the rows still to substitute, `y` is the right-hand side of the substitution,
`corr` its solution so far, `x` the iterate. -/
structure Solve where
  phase : Nat
  row : Nat
  y : List Nat
  corr : List Nat
  x : List Nat
  best : List Nat
  bestNorm : Option Nat
  tau : Nat
  limit : Nat
  count : Nat
  firstPiv : Nat
deriving DecidableEq, Repr

/-- The running or held operation of a rotation array (R185 to R187): its steps done, its column counter and its
brick, pair or refinement counter, the flags since they last went to XFLAGS, why it is held (1 deadline, 2 FP trap, 3
a fault at its start, 4 a fault at a step, 5 a resumption), whether the trap of the hold has entered its handler, the
column a replay starts from, and the time of its core before which it does not end (R291). -/
structure EngOp where
  cmd : Cmd
  step : Nat
  col : Nat
  iter : Nat
  flags : BitVec 8
  solve : Option Solve
  info : Nat
  finished : Bool
  heldWhy : Nat
  entered : Bool
  origin : Nat
  until_ : Nat
deriving DecidableEq, Repr

/-- The macro sequencer of a context (R190, R191, R214): its table of 128-bit entries, sq0 to sq15, k0 to k3, the entry
it stands at and the one it came from, commands issued, and its running command. `lastCopy` is the number of the copy
command it enqueued last, `base` the address of the table. -/
structure Seq where
  table : List Nat
  base : Nat
  sq : List Word
  k : List Word
  at_ : Nat
  prev : Option Nat
  issued : Nat
  lastCopy : Option Nat
  inner : Option EngOp
deriving DecidableEq, Repr

/-- A copy of the copy engine (R240 to R247): its rounding mode, the elements moved, the flags raised, the streams bound to
it (from 8 on: an output stream, which it reads), the bytes waiting for delivery, the bytes taken from pushes (none in an
invalid word), and the cause and address of a trap that holds it. -/
structure Copy where
  cmd : Cmd
  rm : Nat
  pos : Nat
  flags : BitVec 8
  streams : List Nat
  bytes : List (Option Byte)
  pushed : List (Option Byte)
  held : Option (Nat × Nat)
deriving DecidableEq, Repr

/-- A command on an N path (R310): its rows performed and acknowledged, its optimiser block once read (R314), the
address at which it waits on the fault service, whether it has stopped (R312), the old word of an `nm.fai`, and the beat of
its core before which that word does not return (R313). -/
structure NCmd where
  cmd : Cmd
  row : Nat
  acked : Nat
  blk : List Byte
  held : Option Nat
  stopped : Bool
  old : Option SVal
  from_ : Nat
deriving DecidableEq, Repr

/-- An `as.ld` in flight (R289): granules written so far, the cause and address of a trap that holds it, and its status
once the phase has been checked. -/
structure AsLd where
  cmd : Cmd
  granules : Nat
  held : Option (Nat × Nat)
  status : Option Nat
deriving DecidableEq, Repr

/-- A stream register's binding (R162, R247): its direction, the copy tag (from 16 on: a Catalogue lookup's stream,
R299), the elements that wait, whether the last element has been delivered, and for each push of an output stream its
place in the context's order. -/
structure Stream where
  output : Bool
  tag : Nat
  elems : List (List VWord)
  closed : Bool
  seqs : List Nat
deriving DecidableEq, Repr

/-- The write of a `rot.sav` that waits for the end of its issue, or that an older access still holds (R210, R324, R366): its
place in the context's order, its window offset and bytes, and its result word with what the word will say. -/
structure SavWrite where
  seq : Nat
  off : Nat
  bytes : List Byte
  req : Nat
  info : Nat
deriving DecidableEq, Repr

/-! ### Contexts -/

/-- The shadow of an active hardware loop level (R96, R98). -/
structure LoopSh where
  lvl : Nat
  cnt : Word
  start : Word
  last : Word
deriving DecidableEq, Repr

/-- A pending transfer (R94): bundles still to issue before its redirect, and its target. -/
structure Transfer where
  left : Nat
  target : Word
deriving DecidableEq, Repr

/-- The state of the last `dict.ld` (R100, R101). A fault has its cause and address, and whether a `dict.sw` has met it. -/
inductive DictLoad where
  | none
  | running
  | loaded (n : Nat)
  | faulted (cause addr : Nat) (met : Bool)
deriving DecidableEq, Repr

/-- One dictionary bank (R68): the image address it was loaded from, and entries 1 to n. -/
structure DictBank where
  image : Word
  entries : List (BitVec 384)
deriving DecidableEq, Repr

/-- A trap that waits for the next bundle boundary (R224, R225). -/
structure BoundaryTrap where
  cause : Nat
  slot : Nat
  flags : BitVec 8
  code : BitVec 14
  addr : Nat
deriving DecidableEq, Repr

/-- What slot S0 leaves to the completion of its bundle: the successor a skipped loop gives (R96), the level re-armed
in this bundle (R99), a trap after the bundle (R103, R104), `end` (R108), `eret` (R105), a wait (R106),
`yield` (R107), `dcpl` (R255), and the slots occupied and enabled for the PERF block (R235). -/
structure After where
  redirect : Option Word
  armed : Option Nat
  trap : Option (BitVec 5 × BitVec 14)
  ends : Bool
  eret : Bool
  wait : Word
  yields : Bool
  dcpl : Bool
  filled : BitVec 10
deriving DecidableEq, Repr

/-- A `call` whose second delay bundle has not begun (R95): the bundles still to complete before it, and the link as
predicted. -/
structure Link where
  left : Nat
  guess : Word
deriving DecidableEq, Repr

/-- The trap save area (R224): the trapped code's pending transfers and loop shadows, its links in progress (R95), and what
its S0 slot left to the completion of the stopped bundle (log entry 5). -/
structure TrapSave where
  transfers : List Transfer
  loops : List LoopSh
  aft : After
  links : List Link
deriving DecidableEq, Repr

/-- The states of a tile task (R336) that a context slot can show. -/
inductive TStatus where
  | free
  | bound
  | running
  | stopped
  | ending
deriving DecidableEq, Repr

/-- How an ending task is recorded (R108, R227, R342). -/
structure EndInfo where
  status : Nat
  cause : Nat
  slot : Nat
  inHandler : Bool
  addr : Nat
  pc : Word
deriving DecidableEq, Repr

/-- The binding of a context (R217, R336): its node, its tile, its kernel's schedule, gang and plan. -/
structure Binding where
  part : Nat
  launch : Nat
  node : Nat
  x : Nat
  y : Nat
  z : Nat
  det : Bool
  frame : Nat
  gangW : Nat
  gangH : Nat
  member : Nat
  leader : Nat
  used : BitVec 16
  map : Vector (BitVec 4) 16
  astore : Bool
  /-- Its node is co-resident (R332). -/
  coRes : Bool
  order : Nat
  /-- The cluster whose barrier counters it uses (R248, log entry 22). -/
  barClu : Nat
  /-- The cluster it was bound into, whose counters its node holds (R248). -/
  clu : Nat
deriving DecidableEq, Repr

/-- The bundle the context is issuing, or issued last (R64, R66): its index address and length in halfwords, its
header fields, the slots that do not issue again after an `eret`, a freeze or a resumed fault, the V slot that a lane
budget breach traps (R83), the slot that a comparator no longer stops (R234), `aft`, the cc after its issue (R221), where
its accesses start in the context's order, whether it issues merged behind a bundle of slot A (R219), its bits and whether it
is index 0x0000, and whether an `eret` reissues it (R105). The fields from `nextSkip` on concern the bundle fetched next:
`nextWord` is its length, whether it is index 0x0000, and its bits, where it has been fetched before and only waited (R66,
R101, R225). -/
structure Bundle where
  pc : Word
  len : Nat
  scope : Nat
  stamp : Nat
  oppt : Nat
  ck : Bool
  fs : Bool
  skip : BitVec 10
  laneTrap : Option Nat
  pass : Option Nat
  aft : After
  after : Nat
  seq0 : Nat
  merged : Bool
  word : Nat
  zero : Bool
  re : Bool
  nextSkip : BitVec 10
  nextAft : After
  nextFree : Bool
  nextPass : Option Nat
  nextWord : Option (Nat × Bool × Nat)
  nextRe : Bool
deriving DecidableEq, Repr

/-- No bundle yet. -/
def Bundle.reset : Bundle := ⟨0, 1, 0, 0, 7, false, false, 0, .none, .none,
  ⟨.none, .none, .none, false, false, 0, false, false, 0⟩, 0, 0, false, 0, false, false, 0,
  ⟨.none, .none, .none, false, false, 0, false, false, 0⟩, false, .none, .none, false⟩

/-- A load record of an open interval (R228): the granules read and the data returned; `first` marks the first part of an
access, which takes the entry. -/
structure LoadRec where
  first : Bool
  granules : List Nat
  bytes : List Byte
deriving DecidableEq, Repr

/-- A result as the signature of a rerun takes it (R230): slot, destination number or address, bytes and validity bits. -/
structure Landed where
  slot : Nat
  dest : Nat
  bytes : List Byte
  valid : Nat
deriving DecidableEq, Repr

/-- The interval since a context's checkpoint (R228 to R230): the undo log (row key and old bytes, newest first), where
its accesses start in the context's order, its load records, the granules it has read, its results in landing order (newest
first), its bundles, and the detected errors in it. -/
structure Interval where
  undoRows : List (Nat × List Byte)
  startSeq : Nat
  loads : List LoadRec
  reads : List Nat
  landed : List Landed
  bundles : Nat
  unprotected : Bool
  errors : Nat
deriving DecidableEq, Repr

/-- The saved part of a context that a checkpoint snapshot or a context image carries besides memory (R222). -/
structure Regs where
  sreg : Vector SVal 64
  vreg : Vector VVal 32
  pred : Vector Bool 16
  /-- The pairs of predicates that a compare left in the neither state (R91). -/
  neither : BitVec 8
  latch : Vector Latch 8
  pat : Vector (List (Option Nat)) 32
  pc : Word
  transfers : List Transfer
  loops : List LoopSh
  curBank : Bool
  bank0 : DictBank
  bank1 : DictBank
  dictLoad : DictLoad
  dictAddr : Word
  xflags : BitVec 8
  xtrapen : BitVec 8
  rmode : BitVec 3
  drift : BitVec 64
  driftlim : BitVec 64
  pivtol : BitVec 64
  slvtol : BitVec 64
  slvstat : BitVec 32
  deadline : Word
  dlOp : Nat
  dlPend : Bool
  dlTrap : Bool
  dlEvent : Bool
  trapvec : Word
  trappc : Word
  trapslot : BitVec 4
  trapcause : BitVec 64
  donemask : BitVec 10
  lcnt : Vector Word 4
  lstart : Vector Word 4
  lend : Vector Word 4
  /-- The PERF block by number (R235); unlisted counters are 0. -/
  perf : Sparse Word
  frame : Nat
  frameTime : Nat
  inHandler : Bool
  save : TrapSave
  g0 : Word
  g1 : Word
  g2 : Word
  g3 : Word
  rng : List (BitVec 32)
  /-- The pushes of the generator that have not happened yet (R53). -/
  rngDue : Nat
  flight : List Pending
  land : List MReq
  words : List TWord
  streams : Vector (Option Stream) 8
  /-- The cc from which a running `wait` lets the next bundle issue, or 0 (R106). -/
  waitTo : Nat
  /-- The end of the last `wait` that ran out, or 0: it is still running where no bundle has issued since (R237). -/
  waited : Nat
  /-- The cc from which the F unit is free of this context's operations (R83, R135). -/
  fUntil : Nat
deriving DecidableEq, Repr

/-- A checkpoint (R228): the registers with what is in flight, the bank formats (R147), the links in progress, and its
cc. -/
structure Ckpt where
  r : Regs
  fmts : List (BitVec 8)
  links : List Link
  cc : Nat
deriving DecidableEq, Repr

/-- A context slot of a core (R58, R217). -/
structure Ctx where
  status : TStatus
  bind : Binding
  r : Regs
  bun : Bundle
  /-- Counts accesses and commands of the context in its own order (R326). -/
  seq : Nat
  /-- Counts identifiers of landing requests and result words. -/
  nextId : Nat
  mq : List MAcc
  copies : List Copy
  binds : List (Nat × Nat)
  ncmds : List NCmd
  asLds : List AsLd
  /-- Commands to the graph scheduler that have not left the context (R345, R346). -/
  hCmds : List Cmd
  /-- Records that `rot.sav` has not written yet (R324). -/
  savs : List SavWrite
  /-- Asterism requests that wait: number and cluster (R268). -/
  eqOut : List (Nat × Nat)
  /-- Catalogue commands outstanding: their numbers (R302). -/
  pkOut : List Nat
  /-- The Catalogue commands issued since the previous `pk.wait`, that wait's number, and the flags of the commands
  that have completed (R301). -/
  pkCount : Nat
  pkFrom : Nat
  pkDone : List (Nat × BitVec 8)
  /-- N commands and `as.ld` commands issued since the previous wait for them (R290, R317). -/
  nmCount : Nat
  asCount : Nat
  copyFlags : List (Nat × Nat × BitVec 8)
  /-- The first N command that met a poisoned granule (R317). -/
  nmPoison : Option Nat
  traps : List BoundaryTrap
  /-- What is fatal at the next boundary: traps that arose while a handler runs, and a failed write to a host or peer (R227,
  R374). -/
  hTraps : List BoundaryTrap
  yielding : Bool
  /-- The barrier it waits at and, once its arrival is counted, the generation it arrived in (R249). -/
  barrier : Option (Nat × Option Nat)
  lineFuse : Option Word
  lineRejoin : Bool
  fused : Bool
  /-- A slot or fetch that waits on the fault service: its slot and address (R285). -/
  svcWait : Option (Nat × Nat)
  held : Bool
  seqr : Seq
  accRole : Vector Bool 4
  touched : List (Nat × Nat)
  tag0 : Option (Nat × List Byte)
  tag1 : Option (Nat × List Byte)
  brk : Vector (Option (Word × BitVec 10)) 4
  endInfo : Option EndInfo
  firstFail : Option EndInfo
  ckpt : Option Ckpt
  ival : Interval
  /-- A bundle with CK set has issued since the last checkpoint (R228). -/
  ckWant : Bool
  rerun : BitVec 16
  unprotE : BitVec 8
  /-- The scheduler has named it a victim (R221, R339). -/
  preempt : Bool
  /-- Its task is being abandoned, and it stops at its next boundary (R344). -/
  abandoned : Bool
  /-- A break held by a kernel-debug session: program counter, slot and code (R104, R227, R234). -/
  dbgStop : Option (Word × Nat × BitVec 14)
  /-- The links of `call`s in progress (R95). -/
  links : List Link
  /-- It has been resumed and its first bundle has not issued: the due times of its landings count from there (R223). -/
  resumed : Bool
deriving DecidableEq, Repr

/-! ### Cores, clusters, dies -/

/-- A cached translation (R284): page base, page size, the leaf entry, and the key of the page's first byte. -/
structure TlbEntry where
  part : Nat
  base : Nat
  size : Nat
  leaf : Word
  pa : Nat
deriving DecidableEq, Repr

/-- A walk of a 4 KiB region, with the cores whose misses it serves (R284). -/
structure WalkReq where
  part : Nat
  page : Nat
  cores : List Nat
deriving DecidableEq, Repr

/-- A table entry in the walker's cache (R284): its level, the address bits that select it, and its value. -/
structure TableEntry where
  part : Nat
  level : Nat
  index : Nat
  entry : Nat
deriving DecidableEq, Repr

/-- A slot of a bundle in issue: its context, slot number and bits (R63). -/
structure SlotWord where
  cid : Nat
  slot : Nat
  bits : Nat
deriving DecidableEq, Repr

/-- A miss that found the walker's queue full (R284): its context and address, the slot it comes from, and whether its overrun
has been raised. -/
structure Miss where
  cid : Nat
  va : Nat
  slot : Nat
  late : Bool
deriving DecidableEq, Repr

/-- The x buffer of a rotation array: the best iterate of the solve that stopped last before its end, in FP64, and its residual
norm (R183, R187; log 20). -/
structure XBuf where
  best : List Nat
  norm : Nat
deriving DecidableEq, Repr

/-- A core (R2): its clock domain, merge stage, operating point, rotation array and core buffer. `beats` counts the cycles of
the clock domain that are no stretch cycles, frozen ones included (R150, R233), `freezing` is the slot for which a freeze in
front of a bundle has begun and not ended (R76, R366), and `misses` wait for room in the walker's queue (R284). -/
structure Core where
  cc : Nat
  time : Nat
  op : Nat
  settle : Nat
  forced : Bool
  blocked : Nat
  fmt : Vector (BitVec 8) 16
  engQ : List Cmd
  run : Option EngOp
  heldOps : List EngOp
  xbuf : Option XBuf
  buf : List BufWrite
  /-- The micro-TLB, oldest first (R256). -/
  tlb : List TlbEntry
  corr : BitVec 16
  /-- The stretch cycles of the issue in progress, and the operating point that its governing bundle asks for. -/
  stretch : Nat
  want : Nat
  beats : Nat
  freezing : Option SlotWord
  misses : List Miss
deriving DecidableEq, Repr

/-- An element of a forest store (R259). -/
structure Elem where
  parent : Nat
  size : Nat
  short : Nat
  sgen : Nat
deriving DecidableEq, Repr

/-- A barrier counter (R248): besides its three counts, the latest frame time at which a participant arrived and the frame
time at which the last generation completed (R349). -/
structure Barrier where
  expected : Nat
  arrivals : Nat
  gen : Nat
  last : Nat
  doneAt : Nat
deriving DecidableEq, Repr

/-- A cluster: its buffer, barriers, Asterism and power controller (R238, R248, R258, R352). -/
structure Cluster where
  buf : List BufWrite
  /-- The cluster TLB, oldest first (R256). -/
  tlb : List TlbEntry
  barriers : Vector Barrier 16
  cbarQ : List Cmd
  forest : Sparse Elem
  inits : List (Nat × Nat)
  /-- The forests that requests have reached without an `eq.init` of theirs (R258). -/
  uses : List (Nat × Nat)
  gen : Nat
  stack : List (Nat × Bool)
  stackFor : Option (Nat × Nat × Nat × Nat)
  ulog : List Nat
  poisoned : List (Nat × Nat)
  bad : List Nat
  eqQ : List Cmd
  atomQ : List MAcc
  lim : Nat
  boosts : List Nat
  /-- The PTB cycle of the last rise of `lim`, which is counted already (R352). -/
  raised : Option Nat
  quietFrom : Nat
  temp : Nat
  thr : Nat
  cool : Nat
  noRead : Nat
  activity : Nat
  ballast : Nat
deriving DecidableEq, Repr

/-- A configuration of a Catalogue slot (R294). -/
structure PkCfg where
  nk : Nat
  dh : Nat
  dv : Nat
  kfmt : Nat
  vfmt : Nat
  share : Bool
  koff : Nat
  vaddr : Nat
  gvaddr : Nat
  vstr : Nat
deriving DecidableEq, Repr

/-- A Catalogue command being processed (R302, R303): the queries it has completed or the key bytes it has copied, its flags,
its status (16: discarded, 17: discarded for its unconfigured slot, R195, R299), the address of its fault, whether it is over,
the block it read at its start, and the row bytes that wait for delivery to a stream (R306). -/
structure PkRun where
  cmd : Cmd
  done : Nat
  flags : BitVec 8
  status : Nat
  addr : Nat
  finished : Bool
  blk : List Byte
  out : List Byte
deriving DecidableEq, Repr

/-! ### The package, its partitions and its scheduler -/

/-- The states of a node (R335). -/
inductive NodeState where
  | waiting
  | ready
  | released
  | done
  | failed
  | cancelled
deriving DecidableEq, Repr

/-- What the scheduler takes from a kernel record and its plan (R25, R26, R384): the halfword address of the first index,
the byte address of the first dictionary group, the bank formats, the schedule, the gang, and whether the kernel holds a
`cbar` (R248). -/
structure Kernel where
  code : Nat
  group : Nat
  banks : List Nat
  det : Bool
  frame : Nat
  gangW : Nat
  gangH : Nat
  cbar : Bool
deriving DecidableEq, Repr

/-- A node entry as read when its graph starts (R331), with its successors, its kernel and the capacity of its completion
record (R341). -/
structure NodeEnt where
  kern : Kernel
  flags : Nat
  gx : Nat
  gy : Nat
  gz : Nat
  succs : List Nat
  args : Nat
  dline : Nat
  crec : Nat
  cap : Nat
deriving DecidableEq, Repr

/-- A reservation (R338): its ticket; the contexts that its node needs, by tile and member; whether each of them stands for
itself (0), for any context of its slot in its cluster (1) or on its die (2); and those it has been granted. -/
structure Resv where
  ticket : Nat
  need : List Nat
  kind : Nat
  granted : List Nat
deriving DecidableEq, Repr

/-- A node of a started graph (R335, R337, R338, R341): its tile tasks that are not bound yet and the number of those
bound and not ended, and its reservation while it waits for its contexts. -/
structure Node where
  ent : NodeEnt
  state : NodeState
  deps : Nat
  cls : Nat
  since : Nat
  firstReady : Nat
  unbound : List Nat
  live : Nat
  zext : Nat
  resv : Option Resv
  nDone : Nat
  nFailed : Nat
  nAband : Nat
  nMigr : Nat
  nEnt : Nat
  nOvf : Nat
  recFailed : Bool
deriving DecidableEq, Repr

/-- A launched graph (R333). -/
structure Launch where
  seq : Nat
  graph : Nat
  ovr : Option Nat
  notify : Nat
  started : Bool
  stopped : Bool
  first : Nat
  nodes : List Node
  /-- The scope at which its graph is read: 3 of `graph.go` (R334, R345), 4 of a host (R371). -/
  scope : Nat
deriving DecidableEq, Repr

/-- A fault record of the fault service (R285, R383). -/
structure FaultRec where
  num : Nat
  part : Nat
  die : Nat
  kind : Nat
  level : Nat
  slot : Nat
  ctxSlot : Nat
  va : Nat
  entry : Word
  lcore : Nat
  /-- Contexts that wait, and what of each: 0 an M slot or a fetch, 1 the engine, 3 N commands, 4 Catalogue commands, 6 a
  dictionary load; from 8 on a copy (even) or an `as.ld` (odd), by its request. -/
  waiters : List (Nat × Nat)
deriving DecidableEq, Repr

/-- A saved task (R221, R222, R339): its context, the bytes of its image (scratchpad banks by logical bank, operand store,
both banks of each accumulator, shadow rows), and its engine operation and queued commands; the PTB at which it was saved,
that of its last promotion and the number of promotions since (R337); the reservation of its group, in the first of them. -/
structure Saved where
  ctx : Ctx
  banks : List (Nat × List Byte)
  opStore : List Byte
  accs : List Byte
  shadow : List Byte
  op : Option EngOp
  queued : List Cmd
  since : Nat
  aged : Nat
  boost : Nat
  resv : Option Resv
deriving DecidableEq, Repr

/-- A record of the error log (R359): the PTB, the physical and the logical place, the event class and what it concerns;
for a rerun both cycle counts and both signatures. -/
structure ErrRec where
  ptb : Nat
  phys : Nat
  place : Nat
  cls : Nat
  info : Nat
  cycles : Nat × Nat
  sigs : Nat × Nat
deriving DecidableEq, Repr

/-- A partition (R333, R369, R378). -/
structure Part where
  dies : List Nat
  /-- The dies that host its logical dies: those that still have a working core (R360). -/
  hosts : List Nat
  /-- The host address, to which the launch endpoint sends its notices (R369). -/
  host : Nat
  root : Nat
  cap : Nat
  queues : Vector (List Launch) 16
  nextSeq : Nat
  nextTicket : Nat
  nBinds : Nat
  age : Nat
  require : Bool
  /-- The policy asks for the transport security sublayer on the memory and peer endpoints too (R368). -/
  memSecure : Bool
  keys : List Nat
  peers : Vector (Option Nat) 16
  faults : List FaultRec
  faultWaiting : List FaultRec
  nextFault : Nat
  invals : List (Nat × Nat × Bool)
  saved : List Saved
deriving DecidableEq, Repr

/-- A die's part of a dump (R362): the magic, the die, the fatal cause, its PTB, COMPLETE and the directory of sections
(offset and size), the error log and the retirement table, the scheduler's queues, ready lists and reservation counters, and
what it holds of the die's contexts, bound or not, their images, its cores and clusters, each by physical core, and the die's
refresh phase and hottest sensor, which RFWIN and THERM read. -/
structure Dump where
  magic : Nat
  die : Nat
  dir : List (Nat × Nat)
  cause : Nat
  ptb : Nat
  complete : Bool
  log : List ErrRec
  lost : Nat
  retire : List Nat
  parts : Sparse Part
  ctxs : List (Nat × Ctx)
  images : List (Nat × Saved)
  cores : List (Nat × Core)
  clus : List (Nat × Cluster)
  phase : Nat
  dieMax : Nat
deriving DecidableEq, Repr

/-- A die: its buffer, the walks in progress, those that wait, the walker's cache, Catalogue, refresh phase, hottest sensor
and dump (R284, R291, R293, R358, R362). -/
structure Die where
  buf : List BufWrite
  walks : List WalkReq
  walkQ : List WalkReq
  wcache : List TableEntry
  phase : Nat
  slots : Sparse PkCfg
  pkQ : List Cmd
  pkRun : Option PkRun
  dieMax : Nat
  dump : Option Dump
deriving DecidableEq, Repr

/-- A debug domain's unlock state (R379). -/
structure DebugDom where
  keys : List Nat
  challenge : Option Nat
  fails : Nat
  unlocked : Bool
deriving DecidableEq, Repr

/-- A firmware image in the module's store: its digest, version and signature (R376). -/
structure FwImage where
  digest : Nat
  version : Nat
  sig : Nat
deriving DecidableEq, Repr

/-- Where a message of the module goes: back to the sender of the message it answers, to the host address of a partition, or
to the host on the management endpoint (R360, R369, R370). -/
inductive Dest where
  | sender
  | host (addr : Nat)
  | management
deriving DecidableEq, Repr

/-- A message that the module sent. -/
structure OutMsg where
  dest : Dest
  bytes : List Byte
deriving DecidableEq, Repr

/-- The hub and the package (R1, R320, R359 to R362, R369, R376 to R379). -/
structure Hub where
  ptb : Nat
  pkgBuf : List BufWrite
  bridge : List BufWrite
  poison : List Nat
  parts : Sparse Part
  errLog : List ErrRec
  errLost : Nat
  retireTable : List Nat
  /-- The physical cores of logical cores that are not their own (R231, R360, log entry 35). -/
  coreMap : List (Nat × Nat)
  replSent : Bool
  ownerKey : Option Nat
  kernelDebug : Sparse DebugDom
  firmDebug : DebugDom
  nChallenge : Nat
  recovery : Bool
  /-- The security, management and scheduler image that the next boot verifies; none for the one the module came with
  (R376). -/
  images : Vector (Option FwImage) 3
  /-- The digests of the booted images; none for the one the module came with (R376, R377). -/
  digests : Vector (Option Nat) 3
  versions : Vector Nat 3
  rollback : Nat
  /-- The dump is being written (R362). -/
  dumping : Bool
  /-- What the module sent: completed replies and notices, newest last (R370). -/
  out : List OutMsg
deriving DecidableEq, Repr

/-- The units as they stood before the issue in progress began: a freeze or an overrun takes the whole issue back, since
every slot of it issues in one cycle (R75, R76, R225). -/
structure Before where
  ctxs : Sparse Ctx
  cores : Sparse Core
  clus : Sparse Cluster
  dies : Sparse Die
  hub : Hub
deriving DecidableEq, Repr

/-- The machine. -/
structure State where
  on : Bool
  halted : Bool
  ctxs : Sparse Ctx
  cores : Sparse Core
  clus : Sparse Cluster
  dies : Sparse Die
  hub : Hub
  /-- Memory of every kind: see `Ops.lean` for which keys hold which memory. -/
  mem : List Host.Cell
  /-- The slots of the bundle in issue that have not executed yet, and the slot that is executing. -/
  issue : List SlotWord
  cur : SlotWord
  /-- The contexts whose bundles the issue in progress holds, for its completion. -/
  issuing : List Nat
  /-- The cores whose cycle the issue in progress takes. -/
  issueCores : List Nat
  before : Option Before
  /-- Inputs from outside and choices the spec leaves open: the events that happen next, in order. -/
  agenda : List Instr
  /-- Counts uses of free values. -/
  tick : Nat
deriving DecidableEq, Repr

/-! ### Reset -/

/-- A valid scalar. -/
def SVal.mkOk (w : Word) : SVal := ⟨w, true, true⟩

/-- +0 and valid in every word. -/
def VVal.zero : VVal := Vector.replicate 32 ⟨0, true⟩

/-- The identity pattern (R139). -/
def patIdentity : List (Option Nat) := (List.range 32).map some

/-- An empty dictionary bank. -/
def DictBank.empty : DictBank := ⟨0, []⟩

/-- Nothing left to the completion of a bundle. -/
def After.none : After := ⟨.none, .none, .none, false, false, 0, false, false, 0⟩

/-- The registers of a context at launch under R60, but for the presets of `TASK_BIND`; also its state at reset. -/
def Regs.reset : Regs where
  sreg := Vector.replicate 64 (SVal.mkOk 0)
  vreg := Vector.replicate 32 VVal.zero
  pred := Vector.replicate 16 false
  neither := 0
  latch := Vector.replicate 8 .voided
  pat := Vector.replicate 32 patIdentity
  pc := 0
  transfers := []
  loops := []
  curBank := false
  bank0 := DictBank.empty
  bank1 := DictBank.empty
  dictLoad := .none
  dictAddr := 0
  xflags := 0
  xtrapen := 0
  rmode := 0
  drift := 0
  driftlim := 0x7FF0000000000000
  pivtol := 0x3CB0000000000000
  slvtol := 0x3CD0000000000000
  slvstat := 0xFF000000
  deadline := 0xFFFFFFFFFFFFFFFF
  dlOp := 7
  dlPend := false
  dlTrap := false
  dlEvent := false
  trapvec := 0
  trappc := 0
  trapslot := 0
  trapcause := 0
  donemask := 0
  lcnt := Vector.replicate 4 0
  lstart := Vector.replicate 4 0
  lend := Vector.replicate 4 0
  perf := []
  frame := 0
  frameTime := 0
  inHandler := false
  save := ⟨[], [], After.none, []⟩
  g0 := 1
  g1 := 1
  g2 := 1
  g3 := 0x9E3779B97F4A7C15
  rng := []
  rngDue := 0
  flight := []
  land := []
  words := []
  streams := Vector.replicate 8 none
  waitTo := 0
  waited := 0
  fUntil := 0

/-- No binding. -/
def Binding.reset : Binding where
  part := 0
  launch := 0
  node := 0
  x := 0
  y := 0
  z := 0
  det := false
  frame := 0
  gangW := 1
  gangH := 1
  member := 0
  leader := 0
  used := 0
  map := Vector.ofFn fun i => BitVec.ofNat 4 i.val
  astore := false
  coRes := false
  order := 0
  barClu := 0
  clu := 0

/-- A context slot at reset: free. -/
def Ctx.reset : Ctx where
  status := .free
  bind := Binding.reset
  r := Regs.reset
  bun := Bundle.reset
  seq := 0
  nextId := 0
  mq := []
  copies := []
  binds := []
  ncmds := []
  asLds := []
  hCmds := []
  savs := []
  eqOut := []
  pkOut := []
  pkCount := 0
  pkFrom := 0
  pkDone := []
  nmCount := 0
  asCount := 0
  copyFlags := []
  nmPoison := none
  traps := []
  hTraps := []
  yielding := false
  barrier := none
  lineFuse := none
  lineRejoin := false
  fused := false
  svcWait := none
  held := false
  seqr := ⟨[], 0, List.replicate 16 0, List.replicate 4 0, 0, none, 0, none, none⟩
  accRole := Vector.replicate 4 false
  touched := []
  tag0 := none
  tag1 := none
  brk := Vector.replicate 4 none
  endInfo := none
  firstFail := none
  ckpt := none
  ival := ⟨[], 0, [], [], [], 0, false, 0⟩
  ckWant := false
  rerun := 0
  unprotE := 0
  preempt := false
  abandoned := false
  dbgStop := none
  links := []
  resumed := false

/-- A core at reset. -/
def Core.reset : Core where
  cc := 0
  time := 0
  op := 7
  settle := 0
  forced := false
  blocked := 0
  fmt := Vector.replicate 16 0
  engQ := []
  run := none
  heldOps := []
  xbuf := none
  buf := []
  tlb := []
  corr := 0
  stretch := 0
  want := 7
  beats := 0
  freezing := none
  misses := []

/-- A cluster at reset. -/
def Cluster.reset : Cluster where
  buf := []
  tlb := []
  barriers := Vector.replicate 16 ⟨0, 0, 0, 0, 0⟩
  cbarQ := []
  forest := []
  inits := []
  gen := 0
  stack := []
  stackFor := none
  ulog := []
  poisoned := []
  uses := []
  bad := []
  eqQ := []
  atomQ := []
  lim := 0
  boosts := []
  raised := none
  quietFrom := 0
  temp := 0
  thr := 0
  cool := 0
  noRead := 0
  activity := 0
  ballast := 0

/-- A die at reset. -/
def Die.reset : Die where
  buf := []
  walks := []
  walkQ := []
  wcache := []
  phase := 0
  slots := []
  pkQ := []
  pkRun := none
  dieMax := 0
  dump := none

/-- A partition before it is formed. -/
def Part.reset : Part where
  dies := []
  hosts := []
  host := 0
  root := 0
  cap := 0
  queues := Vector.replicate 16 []
  nextSeq := 0
  nextTicket := 0
  nBinds := 0
  age := 2 ^ 20
  require := false
  memSecure := false
  keys := []
  peers := Vector.replicate 16 none
  faults := []
  faultWaiting := []
  nextFault := 1
  invals := []
  saved := []

/-- A locked debug domain. -/
def DebugDom.reset : DebugDom := ⟨[], none, 0, false⟩

/-- The hub after a reset that verified every firmware image (R376). -/
def Hub.reset : Hub where
  ptb := 0
  pkgBuf := []
  bridge := []
  poison := []
  parts := []
  errLog := []
  errLost := 0
  retireTable := []
  coreMap := []
  replSent := false
  ownerKey := none
  kernelDebug := []
  firmDebug := DebugDom.reset
  nChallenge := 0
  recovery := false
  images := Vector.replicate 3 none
  digests := Vector.replicate 3 none
  versions := Vector.replicate 3 0
  rollback := 0
  dumping := false
  out := []

/-- The machine right after reset: powered, every context free, no partition formed, memory with nothing listed. -/
def State.reset : State where
  on := true
  halted := false
  ctxs := []
  cores := []
  clus := []
  dies := []
  hub := Hub.reset
  mem := []
  issue := []
  cur := ⟨0, 0, 0⟩
  issuing := []
  issueCores := []
  before := none
  agenda := []
  tick := 0

end Sys2Proof.Machine
end

