-- ==== Sys2Proof/Machine/Ops.lean ====
section
/-! DEFINITION. The named operations over the state: units, memory, taking a trap and returning from one, and queueing
results. -/

namespace Sys2Proof.Machine

/-! ### Units (R1, R2)

A context is named by `cid` = 2 x logical core + slot. -/

/-- The logical core of a context. -/
def coreOf (cid : Nat) : Nat := cid / 2
/-- 0 for slot A, 1 for slot B (R217). -/
def slotOf (cid : Nat) : Nat := cid % 2
/-- The cluster of a logical core (R2). -/
def clusterOf (lcore : Nat) : Nat := lcore / 16
/-- The die of a logical core (R2). -/
def dieOf (lcore : Nat) : Nat := lcore / 512

/-- Whether a context is bound to a gang of several members. -/
def Binding.gang (b : Binding) : Bool := decide (1 < b.gangW * b.gangH)

/-- A context slot. -/
def State.ctx (s : State) (cid : Nat) : Ctx := s.ctxs.getD cid Ctx.reset
/-- Writes a context slot. -/
def State.setCtx (s : State) (cid : Nat) (c : Ctx) : State := { s with ctxs := s.ctxs.set cid c }
/-- Changes a context slot. -/
def State.modCtx (s : State) (cid : Nat) (f : Ctx → Ctx) : State := s.setCtx cid (f (s.ctx cid))
/-- Changes the registers of a context. -/
def State.modRegs (s : State) (cid : Nat) (f : Regs → Regs) : State :=
  s.modCtx cid fun c => { c with r := f c.r }
/-- A core. -/
def State.core (s : State) (l : Nat) : Core := s.cores.getD l Core.reset
/-- Changes a core. -/
def State.modCore (s : State) (l : Nat) (f : Core → Core) : State := { s with cores := s.cores.set l (f (s.core l)) }
/-- A cluster. -/
def State.clu (s : State) (k : Nat) : Cluster := s.clus.getD k Cluster.reset
/-- Changes a cluster. -/
def State.modClu (s : State) (k : Nat) (f : Cluster → Cluster) : State := { s with clus := s.clus.set k (f (s.clu k)) }
/-- A die. -/
def State.die (s : State) (d : Nat) : Die := s.dies.getD d Die.reset
/-- Changes a die. -/
def State.modDie (s : State) (d : Nat) (f : Die → Die) : State := { s with dies := s.dies.set d (f (s.die d)) }
/-- Changes the hub. -/
def State.modHub (s : State) (f : Hub → Hub) : State := { s with hub := f s.hub }
/-- A partition. -/
def State.part (s : State) (p : Nat) : Part := s.hub.parts.getD p Part.reset
/-- Changes a partition. -/
def State.modPart (s : State) (p : Nat) (f : Part → Part) : State :=
  s.modHub fun h => { h with parts := h.parts.set p (f (h.parts.getD p Part.reset)) }

/-- Draws the next free Boolean (a value the spec leaves open). -/
def State.choose (s : State) : Bool × State := (Config.openChoice s.tick, { s with tick := s.tick + 1 })

/-! ### Memory

One list holds every byte the machine stores, under a key that names the memory and the place in it. -/

/-- A stack byte of partition p at stack offset `pa` (R281, R307). -/
def kStack (p pa : Nat) : Nat := p * 2 ^ 44 + pa
/-- A byte of a die's angle store (R287). -/
def kAngle (die o : Nat) : Nat := 2 ^ 64 + die * 2 ^ 31 + o
/-- A byte of cluster memory (R144). -/
def kClu (cl o : Nat) : Nat := 2 * 2 ^ 64 + cl * 2 ^ 22 + o
/-- A byte of a physical scratchpad bank (R146). -/
def kScratch (lcore phys o : Nat) : Nat := 3 * 2 ^ 64 + lcore * 2 ^ 18 + phys * 2 ^ 14 + o
/-- A byte of a context's operand store (R144). -/
def kOp (cid o : Nat) : Nat := 4 * 2 ^ 64 + cid * 2 ^ 16 + o
/-- A byte of an accumulator bank (R166). -/
def kAcc (cid acc bank o : Nat) : Nat := 5 * 2 ^ 64 + ((cid * 4 + acc) * 2 + bank) * 2 ^ 14 + o
/-- A byte of a core's atomic area (R144). -/
def kAtom (lcore o : Nat) : Nat := 6 * 2 ^ 64 + lcore * 2 ^ 14 + o
/-- A byte of a die's key SRAM (R293). -/
def kKey (die o : Nat) : Nat := 7 * 2 ^ 64 + die * 2 ^ 28 + o
/-- A byte of a context's shadow rows (R189). -/
def kShadow (cid o : Nat) : Nat := 8 * 2 ^ 64 + cid * 2 ^ 16 + o
/-- A byte of the memory of the host at the host address `host` (R281, R374). -/
def kHost (host pa : Nat) : Nat := (16 + 2 * host) * 2 ^ 64 + pa
/-- A byte of peer memory behind the peer address `peer` (R281, R374). -/
def kPeer (peer pa : Nat) : Nat := (17 + 2 * peer) * 2 ^ 64 + pa

/-- Whether a key names the remote side (R320). -/
def remoteKey (a : Nat) : Bool := decide (16 * 2 ^ 64 ≤ a)

/-- What a byte reads as that nothing has written: 0 inside the module (log entry 2), and on the remote side the byte
the remote side holds, a free value. -/
def memDefault (a : Nat) : Byte := if remoteKey a then Config.remoteByte a else 0

/-- The byte at a key. -/
def memGet : List Host.Cell → Nat → Byte
  | [], a => memDefault a
  | (k, v) :: t, a => if k = a then v else memGet t a

/-- Writes the byte at a key, keeping the canonical form. -/
def memPut : List Host.Cell → Nat → Byte → List Host.Cell
  | [], a, b => if b = memDefault a then [] else [(a, b)]
  | (k, v) :: t, a, b =>
    if a < k then if b = memDefault a then (k, v) :: t else (a, b) :: (k, v) :: t
    else if a = k then if b = memDefault a then t else (a, b) :: t
    else (k, v) :: memPut t a b

/-- The canonical form: keys strictly rising from `lo` on, and no entry that an unlisted key would read as. -/
def memWfFrom : Nat → List Host.Cell → Bool
  | _, [] => true
  | lo, (k, v) :: t => decide (lo ≤ k) && decide (v ≠ memDefault k) && memWfFrom (k + 1) t

/-- Memory is in its canonical form. -/
def Memory.wf (m : List Host.Cell) : Bool := memWfFrom 0 m

/-- Writes several bytes, in order. -/
def memPutAll (m : List Host.Cell) : List Host.Cell → List Host.Cell
  | [] => m
  | (a, b) :: t => memPutAll (memPut m a b) t

/-- Writes bytes at consecutive keys. -/
def memPutBytes (m : List Host.Cell) (a : Nat) : List Byte → List Host.Cell
  | [] => m
  | b :: t => memPutBytes (memPut m a b) (a + 1) t

/-- `n` bytes from key `a`. -/
def memGetBytes (m : List Host.Cell) (a n : Nat) : List Byte := (List.range n).map fun i => memGet m (a + i)

/-- The key with the byte at each of consecutive keys. -/
def cellsAt (a : Nat) (bs : List Byte) : List Host.Cell := (List.range bs.length).zipWith (fun i b => (a + i, b)) bs

/-- Removes every stored byte with lo ≤ key < hi, so that they read as unwritten. -/
def memClear (m : List Host.Cell) (lo hi : Nat) : List Host.Cell := m.filter fun c => !(decide (lo ≤ c.1) && decide (c.1 < hi))

/-- The state with other memory. -/
def State.setMem (s : State) (m : List Host.Cell) : State := { s with mem := m }

/-- Whether cells write every byte of a 64-byte granule (R257, R319). -/
def coversGranule (cs : List Host.Cell) (g : Nat) : Bool := (List.range 64).all fun i => cs.any fun c => c.1 == g * 64 + i

/-- Writes cells into memory; a write that covers a poisoned granule clears its poison (R257, R319). -/
def State.putCells (s : State) (cs : List Host.Cell) : State :=
  { s.setMem (memPutAll s.mem cs) with hub := { s.hub with poison := s.hub.poison.filter fun g => !coversGranule cs g } }

/-- Whether a key lies in a poisoned granule (R257, R319). -/
def State.poisoned (s : State) (key : Nat) : Bool := s.hub.poison.contains (key / 64)

/-! ### The ordering machine's buffers (R320 to R323) -/

/-- The newest byte at a key among the writes of a buffer, oldest first. -/
def bufFind (b : List BufWrite) (a : Nat) : Option Byte :=
  b.foldl (fun acc w => match w.cells.findRev? (fun c => c.1 == a) with
    | some c => some c.2
    | none => acc) none

/-- A read of one byte that searches the route of a core from `lvl` outward, last in memory or on the remote side
(R323, R326). The bridge's split atomics, of class 9, have no value before they perform (R375). -/
def State.readByte (s : State) (lcore lvl a : Nat) : Byte :=
  let b0 := if lvl ≤ 0 then bufFind (s.core lcore).buf a else none
  let b1 := if lvl ≤ 1 then bufFind (s.clu (clusterOf lcore)).buf a else none
  let b2 := if lvl ≤ 2 then bufFind (s.die (dieOf lcore)).buf a else none
  let b3 := if lvl ≤ 3 then bufFind s.hub.pkgBuf a else none
  match b0, b1, b2, b3 with
  | some v, _, _, _ => v
  | none, some v, _, _ => v
  | none, none, some v, _ => v
  | none, none, none, some v => v
  | none, none, none, none =>
    if lvl ≤ 3 then (match bufFind (s.hub.bridge.filter fun w => w.cls != 9) a with
      | some v => v
      | none => memGet s.mem a)
    else memGet s.mem a

/-- Reads of several bytes (R323). -/
def State.readKeys (s : State) (lcore lvl : Nat) (as : List Nat) : List Byte := as.map (s.readByte lcore lvl)

/-- A write enters the route of a core at level `lvl`; at or beyond its point of coherence it is in memory, or with
the bridge where that lies on the remote side (R321, R326, R374). -/
def State.enter (s : State) (lcore lvl : Nat) (w : BufWrite) : State :=
  if w.q ≤ lvl then (if w.host then s.modHub fun h => { h with bridge := h.bridge ++ [w] } else s.putCells w.cells)
  else
    match lvl with
    | 0 => s.modCore lcore fun c => { c with buf := c.buf ++ [w] }
    | 1 => s.modClu (clusterOf lcore) fun c => { c with buf := c.buf ++ [w] }
    | 2 => s.modDie (dieOf lcore) fun d => { d with buf := d.buf ++ [w] }
    | _ => s.modHub fun h => { h with pkgBuf := h.pkgBuf ++ [w] }

/-- The frame index: a bundle with FS set begins the next frame (R349). -/
def Ctx.frameNow (c : Ctx) : Nat := c.r.frame + (if c.bun.fs then 1 else 0)

/-! ### The clock of a core (R3, R52, R235, R344) -/

/-- One cc of a core's clock at its operating point, in units of 1/840 PTB cycle (R3). -/
def ccUnits (op : Nat) : Nat := 6720 / (op + 1)

/-- Adds to a PERF counter (R235). -/
def Regs.count (r : Regs) (n : Nat) (k : Nat) : Regs := { r with perf := r.perf.set n (r.perf.getD n 0 + BitVec.ofNat 64 k) }

/-- Adds to a counter of the innermost active level's block (R235). -/
def Regs.countLevel (r : Regs) (n : Nat) : Regs :=
  match r.loops with
  | [] => r
  | l :: _ => r.count (0x140 + 0x10 * l.lvl + n) 1

/-- One output of the generator is pushed while the queue is not full (R52, R53). -/
def Regs.rngStep (r : Regs) : Regs :=
  if 64 ≤ r.rng.length then r
  else
    let out := (r.g1 * 5).rotateLeft 7 * 9
    let t := r.g1 <<< 17
    let g2 := r.g2 ^^^ r.g0
    let g3 := r.g3 ^^^ r.g1
    let g1 := r.g1 ^^^ g2
    let g0 := r.g0 ^^^ g3
    { r with g0 := g0, g1 := g1, g2 := g2 ^^^ t, g3 := g3.rotateLeft 45, rng := r.rng ++ [out.extractLsb' 32 32] }

/-- DEADLINE counts down, freeze cycles included (R344). -/
def Regs.tickDeadline (r : Regs) : Regs :=
  if r.deadline = 0 then r
  else if r.deadline = 1 then { r with deadline := 0, dlPend := true, dlEvent := true }
  else { r with deadline := r.deadline - 1 }

/-- What each cc of the clock domain, frozen or not, does to a context from its bind on (R53, R235, R344). -/
def Regs.tickBound (r : Regs) : Regs :=
  let r := (r.count 0x100 1).tickDeadline
  { r with rngDue := r.rngDue + (if r.rng.length + r.rngDue < 64 then 1 else 0) }

/-- What each cc of the clock domain, frozen or not, does to a running context: frame time counts too (R349). -/
def Regs.tick (r : Regs) : Regs :=
  let r := r.tickBound
  { r with frameTime := r.frameTime + 1 }

/-- The contexts of a core that hold a task. -/
def liveCtxs (s : State) (l : Nat) : List Nat :=
  [2 * l, 2 * l + 1].filter fun i => (s.ctx i).status == .running || (s.ctx i).status == .ending

/-- The contexts of a core that hold a task and do not run it: bound and not started, or stopped for a pre-emption and not
saved yet (R221, R344). -/
def boundCtxs (s : State) (l : Nat) : List Nat :=
  [2 * l, 2 * l + 1].filter fun i => (s.ctx i).status == .bound || (s.ctx i).status == .stopped

/-- A cc of a core in the contexts that hold a task and do not run it. -/
def State.tickBound (s : State) (l : Nat) : State := (boundCtxs s l).foldl (fun s i => s.modRegs i Regs.tickBound) s

/-- The PTB follows the furthest core (R3). -/
def State.syncPtb (s : State) (l : Nat) : State :=
  s.modHub fun h => { h with ptb := max h.ptb ((s.core l).time / 840) }

/-- A frozen cycle of a core (R81, R150): no count of results advances; `n` is the stall counter of R235, if one
counts it. -/
def State.frozenCycle (s : State) (n : Option Nat) (l : Nat) : State :=
  let s := s.modCore l fun c => { c with
    time := c.time + ccUnits c.op, beats := c.beats + 1, settle := if 1 < c.settle then c.settle - 1 else c.settle }
  let level (r : Regs) : Regs := match n with
    | some k => r.countLevel k
    | none => r
  let s := (liveCtxs s l).foldl (fun s i => s.modRegs i fun r => level (r.tick.count 0x102 1)) s
  (s.tickBound l).syncPtb l

/-- Inserts an element before the first one it does not come after. -/
def insertBy {α : Type} (le : α → α → Bool) (x : α) : List α → List α
  | [] => [x]
  | a :: t => if le x a then x :: a :: t else a :: insertBy le x t

/-- A list in the order of `le`; what is equal in it keeps its order. -/
def sortBy {α : Type} (le : α → α → Bool) : List α → List α
  | [] => []
  | a :: t => insertBy le a (sortBy le t)

/-- The contexts that issue together with one: the members of a fused gang in the order of their index (R254), or the
context alone. -/
def State.gangOf (s : State) (cid : Nat) : List Nat :=
  let c := s.ctx cid
  if c.fused && decide (1 < c.bind.gangW * c.bind.gangH) then
    (sortBy (fun x y => decide (x.2.bind.member ≤ y.2.bind.member)) (s.ctxs.filter fun x =>
      x.2.fused && x.2.status == c.status && x.2.bind.part == c.bind.part
        && x.2.bind.launch == c.bind.launch && x.2.bind.node == c.bind.node && x.2.bind.x == c.bind.x
        && x.2.bind.y == c.bind.y && x.2.bind.z == c.bind.z)).map (·.1)
  else [cid]

/-- The context that fetches for another: the leader of its fused gang, or itself (R254). -/
def State.fetcher (s : State) (cid : Nat) : Nat :=
  if (s.ctx cid).fused && decide (1 < (s.ctx cid).bind.gangW * (s.ctx cid).bind.gangH) then (s.ctx cid).bind.leader else cid

/-- The core of a context freezes for a cycle, and with it the cores of its fused gang (R254). -/
def State.freezeCores (s : State) (cid : Nat) (n : Option Nat) : State :=
  (s.gangOf cid).foldl (fun s i => s.frozenCycle n (coreOf i)) s

/-! ### The end of a cycle -/

/-- DEADLINE is rescaled at a change of the operating point from OPk to OPj (R344); a product beyond 64 bits saturates
(DESIGN CHOICE, log entry 54). -/
def Regs.rescaleDeadline (r : Regs) (k j : Nat) : Regs :=
  let r := { r with dlOp := j }
  if r.deadline = 0 ∨ r.deadline = 0xFFFFFFFFFFFFFFFF then r
  else
    let v := r.deadline.toNat * (j + 1) / (k + 1)
    if v = 0 then { r with deadline := 0, dlPend := true, dlEvent := true }
    else { r with deadline := BitVec.ofNat 64 (min v (2 ^ 64 - 1)) }

/-- What a stretch cycle does to every context with a task: CYCLES and the generator go on (R53, R235). -/
def Regs.stretchBound (r : Regs) : Regs :=
  let r := r.count 0x100 1
  { r with rngDue := r.rngDue + (if r.rng.length + r.rngDue < 64 then 1 else 0) }

/-- A stretch cycle of a core (R233): only time, the PERF block and the generator go on (R53, R235). -/
def State.stretchCycle (s : State) (l : Nat) : State :=
  let s := s.modCore l fun c => { c with time := c.time + ccUnits c.op }
  let s := (liveCtxs s l).foldl (fun s i => s.modRegs i fun r => (r.stretchBound.count 0x103 1).countLevel 0xD) s
  (boundCtxs s l).foldl (fun s i => s.modRegs i Regs.stretchBound) s

/-- The change of the operating point that the issued bundle asked for, and its settle window (R232). -/
def State.changePoint (s : State) (l : Nat) : State :=
  let k := s.core l
  if k.want = k.op then s
  else
    let s := s.modCore l fun c => { c with op := k.want, settle := 1 + (if k.op < k.want then 48 else 16) }
    (liveCtxs s l ++ boundCtxs s l).foldl (fun s i => s.modRegs i fun r => r.rescaleDeadline k.op k.want) s

/-- A cycle of a core ends: results, waits and windows count it, and a context that yielded is ready again (R81, R106, R107,
R232). -/
def State.endCycle (s : State) (l : Nat) : State :=
  let s := s.modCore l fun c =>
    { c with cc := c.cc + 1, time := c.time + ccUnits c.op, beats := c.beats + 1, freezing := none,
             settle := if 1 < c.settle then c.settle - 1 else c.settle }
  let s := (liveCtxs s l).foldl (fun s i => s.modCtx i fun c =>
    { c with r := c.r.tick, yielding := c.yielding && s.issuing.contains i }) s
  let s := (List.range (s.core l).stretch).foldl (fun s _ => s.stretchCycle l) s
  (((s.modCore l fun c => { c with stretch := 0 }).changePoint l).tickBound l).syncPtb l

/-- A cycle in which nothing issues. -/
def State.idleCycle (s : State) (cores : List Nat) : State :=
  cores.foldl (fun s l => (s.modCore l fun c => { c with stretch := 0, want := c.op }).endCycle l) s

/-! ### Traps (R224 to R227) -/

/-- The slots below n (R224). -/
def slotsBelow (n : Nat) : BitVec 10 := BitVec.ofNat 10 (2 ^ n - 1)

/-- A context's bundle stops: the slots in `done` do not issue again, and its other slots leave the issue in progress. -/
def State.pause (s : State) (cid : Nat) (done : BitVec 10) : State :=
  let s := s.modCtx cid fun c => { c with bun := { c.bun with
    nextSkip := done, nextAft := c.bun.aft, nextWord := some (c.bun.len, c.bun.zero, c.bun.word), nextRe := c.bun.re } }
  { s with issue := s.issue.filter (fun w => w.cid != cid), issuing := s.issuing.filter (fun i => i != cid) }

/-- The bundle of a context and of its fused gang stops (R224, R254). -/
def State.stopAt (s : State) (cid : Nat) (done : BitVec 10) : State :=
  (s.gangOf cid).foldl (fun s i => s.pause i done) s

/-- The task of a context ends as failed (R227, R108, R342); the first failure is the one recorded. -/
def Ctx.fail (c : Ctx) (cause slot : Nat) (addr : Nat) (pc : Word) : Ctx :=
  { c with status := .ending,
           endInfo := some (c.firstFail.getD ⟨2, cause, slot, c.r.inHandler, addr, pc⟩) }

/-- What a trap gives its handler (R225, R226). -/
structure TrapInfo where
  cause : BitVec 5
  slot : Nat
  flags : BitVec 8
  code : BitVec 14
  addr : Nat
deriving DecidableEq, Repr

/-- The value of TRAPCAUSE (R226). -/
def TrapInfo.causeReg (t : TrapInfo) : Word :=
  (t.flags.setWidth 64 <<< 32) ||| (t.code.setWidth 64 <<< 18) ||| t.cause.setWidth 64

/-- Taking a trap (R224): the five trap registers are written, the pending transfers and loop shadows move to the trap
save area, and fetch continues at TRAPVEC. Without a handler, or inside one, the trap is fatal (R227). `pc` is where
`eret` resumes and `done` the slots it does not issue again. -/
def Ctx.takeTrap (c : Ctx) (t : TrapInfo) (pc : Word) (done : BitVec 10) (aft : After) : Ctx :=
  if c.r.trapvec = 0 ∨ c.r.inHandler then c.fail t.cause.toNat t.slot t.addr pc
  else
    { c with
      r := { c.r with
             trappc := pc, trapslot := BitVec.ofNat 4 t.slot, trapcause := t.causeReg, donemask := done,
             save := ⟨c.r.transfers, c.r.loops, aft, c.links⟩, transfers := [], loops := [], inHandler := true,
             pc := c.r.trapvec, waitTo := 0, waited := 0 }
      links := []
      bun :=
        { c.bun with
          nextSkip := 0, nextAft := After.none, nextFree := false, nextPass := none, nextWord := none, nextRe := false } }

/-- A boundary trap in place of the bundle at `pc`: nothing of that bundle is done (R224), the whole fused gang takes it
(R254), and the cycle passes. -/
def State.placeTrap (s : State) (cid : Nat) (t : TrapInfo) : State :=
  let pc := (s.ctx (s.fetcher cid)).r.pc
  (s.gangOf cid).foldl (fun s i => s.modCtx i fun c => { c with yielding := true }.takeTrap t pc 0 After.none) s

/-- A trap at issue in place of a bundle that is to go on: its done slots stay done (R224, R232, R285). -/
def State.resumedTrap (s : State) (cid : Nat) (t : TrapInfo) : State :=
  let pc := (s.ctx (s.fetcher cid)).r.pc
  (s.gangOf cid).foldl (fun s i => s.modCtx i fun c =>
    { c with yielding := true }.takeTrap t pc c.bun.nextSkip c.bun.nextAft) s

/-- The slot number under which a fetch waits on the fault service (R66, R285). -/
def fetchSlot : Nat := 16

/-- A trap at issue, in a slot: every slot below is done, this slot and those above do not issue (R224). Every member of
a fused gang takes it (R254). -/
def State.issueTrap (s : State) (cid : Nat) (t : TrapInfo) (done : BitVec 10) : State :=
  (s.gangOf cid).foldl (fun s i =>
    let c := s.ctx i
    (s.pause i done).modCtx i fun d => d.takeTrap t c.bun.pc done c.bun.aft) s

/-- The done slots when slot n stops: those below it and those an earlier stop of the bundle had done. -/
def Ctx.doneBefore (c : Ctx) (n : Nat) : BitVec 10 := slotsBelow n ||| c.bun.skip

/-- A trap in the executing slot (R225, causes 3 to 6). -/
def State.slotTrap (s : State) (cause : BitVec 5) (addr : Nat) : State :=
  let c := s.ctx s.cur.cid
  s.issueTrap s.cur.cid ⟨cause, s.cur.slot, 0, 0, addr⟩ (c.doneBefore s.cur.slot)

/-- The illegal-slot trap in the executing slot. -/
def State.illegalSlot (s : State) : State := s.slotTrap 3 0

/-- The illegal-schedule trap in the executing slot (R83). -/
def State.illegalSchedule (s : State) : State := s.slotTrap 4 0

/-- The lane-budget trap (R83): no V slot of the bundle is done. -/
def State.laneTrap (s : State) : State :=
  let c := s.ctx s.cur.cid
  s.issueTrap s.cur.cid ⟨4, s.cur.slot, 0, 0, 0⟩ (slotsBelow 2 ||| c.bun.skip)

/-- A trap that waits for the next boundary of its context (R224). One that arises while a handler runs is fatal there,
but for a deadline's, which waits for the `eret` (R227, R344). In a task that ends it is a failed item of its outstanding
work (R108). -/
def Ctx.postTrap (c : Ctx) (t : BoundaryTrap) : Ctx :=
  if c.status == .ending then
    if t.cause = 10 then c
    else { c with firstFail := some (c.firstFail.getD ⟨2, t.cause, t.slot, c.r.inHandler, t.addr, c.r.pc⟩) }
  else if c.r.inHandler && t.cause != 10 then { c with hTraps := c.hTraps ++ [t] } else { c with traps := c.traps ++ [t] }

/-- Return from a handler (R105): the bundle at TRAPPC is next, without the slots DONEMASK marks, and the trapped
code's transfers and loop shadows are back. A bundle stopped by cause 7 issues without its stamp test (R225), and the
slot a comparator stopped is not stopped again (log entry 23). -/
def Ctx.doEret (c : Ctx) : Ctx :=
  { c with
    r := { c.r with pc := c.r.trappc, transfers := c.r.save.transfers, loops := c.r.save.loops,
                    save := ⟨[], [], After.none, []⟩, inHandler := false }
    links := c.r.save.links
    bun := { c.bun with nextSkip := c.r.donemask, nextAft := c.r.save.aft, nextWord := none, nextRe := true,
                        nextFree := decide (c.r.trapcause.toNat % 32 = 7),
                        nextPass := if c.r.trapcause.toNat % 32 = 12 ∧ 0x3FFC ≤ fieldN c.r.trapcause.toNat 18 14
                          then some c.r.trapslot.toNat else none } }

/-! ### Results in flight (R81 to R83) -/

/-- Whether two landings write one register or predicate; writes to s0, p0 and p1 do not count (R83). -/
def RWrite.collides : RWrite → RWrite → Bool
  | .sreg a _, .sreg b _ => a == b && a != 0
  | .vreg a _ _, .vreg b _ _ => a == b
  | .pred a _, .pred b _ => a == b && decide (2 ≤ a.toNat)
  | .pred a _, .neither b => a == b || a == b + 1
  | .neither a, .pred b _ => b == a || b == a + 1
  | .neither a, .neither b => a == b
  | _, _ => false

/-- Whether a landing of an M request writes the register of `w`. -/
def LandDest.hits : LandDest → RWrite → Bool
  | .sreg a _ _, .sreg b _ => a == b && a != 0
  | .vreg a _, .vreg b _ _ => a == b
  | _, _ => false

/-- Whether a result due at `due` with these writes would land together with another result of the context in one
register (R83). -/
def Regs.collision (r : Regs) (due : Nat) (ws : List RWrite) : Bool :=
  r.flight.any (fun p => p.due == due && p.writes.any fun a => ws.any a.collides) ||
  r.land.any (fun q => q.due == due && ws.any q.dest.hits) ||
  r.words.any (fun t => t.due == due && ws.any fun w => (LandDest.sreg t.reg 8 false).hits w)

/-- Whether the executing slot's writes, `lat` cc from now, would collide with another landing (R83). -/
def State.collides (s : State) (lat : Nat) (writes : List RWrite) : Bool :=
  (s.ctx s.cur.cid).r.collision ((s.core (coreOf s.cur.cid)).cc + lat) writes

/-- A slot result with latency `lat` goes into flight, or the slot traps because of a collision (R81, R83). -/
def State.launch (s : State) (lat : Nat) (writes : List RWrite) (latch : Option Latch) (flags : BitVec 8) : State :=
  if s.collides lat writes then s.illegalSchedule
  else
    let due := (s.core (coreOf s.cur.cid)).cc + lat
    s.modRegs s.cur.cid fun r => { r with flight := r.flight ++ [⟨due, s.cur.slot, writes, latch, flags⟩] }

/-- The current cc of the executing slot's core. -/
def State.now (s : State) : Nat := (s.core (coreOf s.cur.cid)).cc

/-- The executing slot's context. -/
def State.me (s : State) : Ctx := s.ctx s.cur.cid

/-- The issue in progress has not begun: a freeze and a refused freeze come before any slot of the cycle's bundles issues
(R75, R76, R225). -/
def State.rewind (s : State) : State :=
  let s := { s with issue := [], issuing := [], issueCores := [] }
  match s.before with
  | some b => { s with ctxs := b.ctxs, cores := b.cores, clus := b.clus, dies := b.dies, hub := b.hub, before := none }
  | none => s

/-- A freeze in front of a context's bundle, for the executing slot, has begun, in the core and in those of its fused gang: no
boundary trap cuts it (R366). -/
def State.markFreeze (s : State) (cid : Nat) : State :=
  let w := s.cur
  (s.gangOf cid).foldl (fun s i => s.modCore (coreOf i) fun k => { k with freezing := some w }) s

/-- The executing slot has to wait (R75, R76): the core clock domain freezes for a cycle, and the merge stage chooses
again in the next one. -/
def State.freeze (s : State) (n : Option Nat) : State := (s.rewind.freezeCores s.cur.cid n).markFreeze s.cur.cid

/-- A cycle that a freeze takes which only a landing can end: no bundle issues, but results are counted on, since no landing
would come about in a frozen cycle (R81, R151, R194; DEDUCED, log entry 55). -/
def State.landingCycle (s : State) (l : Nat) : State :=
  (liveCtxs s l).foldl (fun s i => s.modRegs i fun r => r.count 0x102 1) (s.idleCycle [l])

/-- A predicate: p0 reads 1 and p1 reads 0 (R58). -/
def Regs.readPred (r : Regs) (p : BitVec 4) : Bool :=
  if p = 0 then true else if p = 1 then false else r.pred[p.toNat]'p.isLt

/-- The executing slot cannot issue yet: in free operation its core freezes, and in deterministic operation the bundle
raises the overrun fault at its boundary instead (R75, R76, R100, R162, R225); `n` is the stall counter of R235. -/
def State.hold (s : State) (n : Option Nat) : State :=
  if s.me.bind.det then s.rewind.placeTrap s.cur.cid ⟨7, s.cur.slot, 0, 0, 0⟩ else s.freeze n

/-- The executing slot cannot issue before one of its context's landings has come about (R76, R151, R194). -/
def State.holdForLanding (s : State) : State :=
  if s.me.bind.det then s.hold none
  else ((s.rewind.gangOf s.cur.cid).foldl (fun s i => s.landingCycle (coreOf i)) s.rewind).markFreeze s.cur.cid

/-- Whether a guard enables its slot (R69). A predicate of a pair in the neither state disables it either way (R91). -/
def guardOn (r : Regs) (g : BitVec 5) : Bool :=
  !r.neither.getLsbD ((g.setWidth 4).toNat / 2) && r.readPred (g.setWidth 4) != g.msb

/-- A slot with guard `g`: without effect where the guard disables it (R69). -/
def slotRun (g : BitVec 5) (s : State) (k : State → State) : Host.Outcome State Fault Refusal :=
  if guardOn s.me.r g then .next (k s) else .next s

/-- A control or system slot: illegal in S1 (R78), else as `slotRun` (R93). -/
def ctlRun (g : BitVec 5) (s : State) (k : State → State) : Host.Outcome State Fault Refusal :=
  if s.cur.slot = 0 then slotRun g s k else .next s.illegalSlot

/-- An event of another agent: what it does where its condition holds, and else nothing (log entry 6). -/
def eventRun (ok : Bool) (s : State) (t : State) : Host.Outcome State Fault Refusal :=
  if ok then .next t else .next s

end Sys2Proof.Machine
end

