-- ==== Sys2Proof/Machine/Operands.lean ====
section
/-! DEFINITION. Operand forms: registers, latches, source fields, and how landings write them (R58, R61, R70 to R74). -/

namespace Sys2Proof.Machine

/-- A scalar register; s0 reads 0 as a valid value (R58). -/
def Regs.readS (r : Regs) (n : BitVec 6) : SVal := if n = 0 then SVal.mkOk 0 else r.sreg[n.toNat]'n.isLt

/-- Writes a scalar register; a write to s0 is discarded (R58). -/
def Regs.writeS (r : Regs) (n : BitVec 6) (v : SVal) : Regs :=
  if n = 0 then r else { r with sreg := r.sreg.set n.toNat v n.isLt }

/-- A vector register. -/
def Regs.readV (r : Regs) (n : BitVec 5) : VVal := r.vreg[n.toNat]'n.isLt

/-- Word i of a vector value; words beyond 31 do not exist and read invalid. -/
def VVal.word (v : VVal) (i : Nat) : VWord := if h : i < 32 then v[i] else ⟨0, false⟩

/-- Words 0 to n - 1 of `v`, and the other words of `old` (R74). -/
def VVal.merge (old v : VVal) (n : Nat) : VVal := Vector.ofFn fun i => if i.val < n then v[i] else old[i]

/-- A vector value from its words by number. -/
def VVal.ofWords (f : Nat → VWord) : VVal := Vector.ofFn fun i => f i.val

/-- The words of `v` below n, and invalid words beyond (what a latch takes of a narrower result, log entry 7). -/
def VVal.narrow (v : VVal) (n : Nat) : VVal := VVal.ofWords fun i => if i < n then v.word i else ⟨0, false⟩

/-- Writes words 0 to n - 1 of a vector register (R74). -/
def Regs.writeV (r : Regs) (d : BitVec 5) (n : Nat) (v : VVal) : Regs :=
  { r with vreg := r.vreg.set d.toNat ((r.readV d).merge v n) d.isLt }

/-- Writes a predicate; writes to p0 and p1 are discarded (R58). Its pair is in the neither state no more (R91). -/
def Regs.writeP (r : Regs) (p : BitVec 4) (b : Bool) : Regs :=
  if p = 0 ∨ p = 1 then r
  else { r with pred := r.pred.set p.toNat b p.isLt, neither := r.neither &&& ~~~(1 <<< (p.toNat / 2) : BitVec 8) }

/-- Predicates p and p + 1 become 0, in the neither state (R91). -/
def Regs.writeNeither (r : Regs) (p : BitVec 4) : Regs :=
  let r := (r.writeP p false).writeP (p + 1) false
  if p = 0 ∨ p = 1 then r else { r with neither := r.neither ||| (1 <<< (p.toNat / 2) : BitVec 8) }

/-- A latch (R71). -/
def Regs.latchAt (r : Regs) (n : BitVec 3) : Latch := r.latch[n.toNat]'n.isLt

/-- The latch of a slot: b0 to b5 for S0 to F, b6 and b7 for M0 and M1 (R71). -/
def latchOfSlot (slot : Nat) : Option Nat := if slot < 8 then some slot else none

/-- A slot's latch takes a value. -/
def Regs.writeLatch (r : Regs) (slot : Nat) (v : Latch) : Regs :=
  if h : slot < 8 then { r with latch := r.latch.set slot v h } else r

/-- A scalar source field (R70): none where it names a latch of vector kind, which traps (R71). A voided latch reads
as invalid. -/
def Regs.src (r : Regs) (x : BitVec 7) : Option SVal :=
  if x.msb then
    match r.latchAt (x.setWidth 3) with
    | .voided => some ⟨0, false, false⟩
    | .scalar v => some v
    | .vector _ => none
  else some (r.readS (x.setWidth 6))

/-- A vector source field (R70): none where it names a latch of scalar kind (R71). -/
def Regs.vsrc (r : Regs) (x : BitVec 6) : Option VVal :=
  if x.msb then
    match r.latchAt (x.setWidth 3) with
    | .voided => some (VVal.ofWords fun _ => ⟨0, false⟩)
    | .vector v => some v
    | .scalar _ => none
  else some (r.readV (x.setWidth 5))

/-- Both words are valid. -/
def SVal.ok (v : SVal) : Bool := v.ok0 && v.ok1

/-- A 64-bit result, valid or invalid as a whole (R61). -/
def SVal.whole (w : Word) (ok : Bool) : SVal := ⟨w, ok, ok⟩

/-- sign-extend(imm7) (R89). -/
def imm7 (b : BitVec 7) : Word := b.signExtend 64

/-- Voids all eight latches (R68). -/
def Regs.voidLatches (r : Regs) : Regs := { r with latch := Vector.replicate 8 .voided }

/-- The scalar value an M landing of `size` bytes delivers, sign- or zero-extended (R153). -/
def extendLoad (size : Nat) (sext : Bool) (bs : List Byte) : Word :=
  let x := leNat (bs.take size)
  if sext && decide (2 ^ (8 * size - 1) ≤ x) then BitVec.ofInt 64 ((x : Int) - 2 ^ (8 * size)) else BitVec.ofNat 64 x

/-- 32-bit words from bytes. -/
def wordsOfBytes : List Byte → List (BitVec 32)
  | a :: b :: c :: d :: t => BitVec.ofNat 32 (leNat [a, b, c, d]) :: wordsOfBytes t
  | _ => []

/-- A vector value from a list of words; missing words are invalid. -/
def VVal.ofList (l : List VWord) : VVal := VVal.ofWords fun i => l.getD i ⟨0, false⟩

/-- Element number i of `wb` bits (8, 16, 32 or 64): its bits, and whether the words it lies in are valid (R110,
R111). -/
def VVal.elem (v : VVal) (wb i : Nat) : Nat × Bool :=
  if wb = 64 then
    let a := v.word (2 * i)
    let b := v.word (2 * i + 1)
    (a.bits.toNat + 2 ^ 32 * b.bits.toNat, a.ok && b.ok)
  else
    let per := 32 / wb
    let a := v.word (i / per)
    (a.bits.toNat / 2 ^ (wb * (i % per)) % 2 ^ wb, a.ok)

/-- Elements of `wb` bits in `words` words. -/
def elemCount (wb words : Nat) : Nat := words * 32 / wb

/-- A vector value from its elements of `wb` bits: element i's bits and validity. A word is valid where every element
in it is (R111). -/
def VVal.ofElems (wb : Nat) (f : Nat → Nat × Bool) : VVal :=
  VVal.ofWords fun w =>
    if wb = 64 then
      let e := f (w / 2)
      ⟨BitVec.ofNat 32 (e.1 / 2 ^ (32 * (w % 2))), e.2⟩
    else
      let per := 32 / wb
      let es := (List.range per).map fun k => f (per * w + k)
      ⟨BitVec.ofNat 32 ((List.range per).foldl (fun x k => x + (es.getD k (0, true)).1 % 2 ^ wb * 2 ^ (wb * k)) 0),
        es.all (·.2)⟩

end Sys2Proof.Machine
end

