-- ==== Sys2Proof/Machine/Translate.lean ====
section
/-! DEFINITION. Addresses: the local window (R144, R145), page walks (R280 to R283), fault records (R285), the places
an access reaches, and code fetch (R66). -/

namespace Sys2Proof.Machine

/-- What an access needs of its page (R281). -/
inductive Perm where
  | read
  | write
  | readWrite
  | fetch
  /-- A read by a near-memory unit, which meets poison itself (R319). -/
  | unitRead
  /-- An update by a near-memory unit that also reads, which meets poison itself (R281, R319). -/
  | unitUpdate
deriving DecidableEq, Repr

/-- A page (R281): the addresses it covers, where they lie, its kinds and permissions. `fault` marks KIND 11 or
MTYPE 3. -/
structure Page where
  base : Nat
  size : Nat
  key : Nat
  kind : Nat
  host : Bool
  fault : Bool
  x : Bool
  w : Bool
  r : Bool
deriving DecidableEq, Repr

/-- How a walk ends, before permissions (R282): the level reached and the entry found there go into a fault record. -/
inductive Walk where
  | page (p : Page) (e : Word)
  | transFault (level : Nat) (e : Word)
  | accessFault (level : Nat) (e : Word)
deriving DecidableEq, Repr

/-- Where memory of MTYPE m lies; none for a peer slot without a peer (R369, R374). -/
def frameKey (s : State) (part mtype peer pa : Nat) : Option Nat :=
  if mtype = 0 then some (kStack part pa)
  else if mtype = 1 then some (kHost (s.part part).host pa)
  else if mtype = 2 then ((s.part part).peers.toList.getD peer none).map fun a => kPeer a pa
  else some (kStack part pa)

/-- The page of a leaf entry whose first byte has the key `k` (R281). -/
def leafPage (base size k e : Nat) : Page :=
  let kind := fieldN e 62 2
  let mtype := fieldN e 60 2
  ⟨base, size, k, kind, decide (mtype ≠ 0), decide (kind = 3 ∨ mtype = 3), fieldN e 10 1 == 1, fieldN e 9 1 == 1,
    fieldN e 8 1 == 1⟩

/-- A leaf entry (R281 to R283). -/
def walkLeaf (s : State) (part va lvl shift : Nat) (e : Nat) : Walk :=
  let pa := e / 2 ^ 12 % 2 ^ 44 * 2 ^ 12
  let mtype := fieldN e 60 2
  let peer := fieldN e 56 4
  let b16 := fieldN e 11 1 = 1
  let w := BitVec.ofNat 64 e
  let i := va / 2 ^ 30 % 16
  let size := if b16 then 2 ^ 34 else 2 ^ shift
  if lvl < 2 ∨ fieldN e 2 6 ≠ 0 ∨ (mtype ≠ 2 ∧ peer ≠ 0) ∨ (b16 ∧ lvl ≠ 2) then .accessFault lvl w
  else if pa % 2 ^ shift ≠ 0 ∨ (b16 ∧ (pa < i * 2 ^ 30 ∨ (pa - i * 2 ^ 30) % 2 ^ 34 ≠ 0)) then .accessFault lvl w
  else
    let pb := if b16 then pa - i * 2 ^ 30 else pa
    if mtype = 0 ∧ 256 * (s.part part).cap < pb + size then .accessFault lvl w
    else
      match frameKey s part mtype peer pb with
      | none => .accessFault lvl w
      | some k => .page (leafPage (va / size * size) size k e) w

/-- A page-table entry, read at package scope (R282). -/
def readEntry (s : State) (part pa : Nat) : Nat := leNat (s.readKeys 0 3 ((List.range 8).map fun i => kStack part (pa + i)))

/-- The bits below the index of a level (R280). -/
def levelShift (lvl : Nat) : Nat := 48 - 9 * lvl

/-- A walk from level `lvl` on, over the table at `tbl` (R280, R282); `rd` reads the entry of a level at an offset. -/
def walkFrom (s : State) (rd : Nat → Nat → Nat) (part va : Nat) : Nat → Nat → Nat → Walk
  | 0, lvl, _ => .accessFault lvl 0
  | fuel + 1, lvl, tbl =>
    let shift := levelShift lvl
    let e := rd lvl (tbl + va / 2 ^ shift % 512 * 8)
    let ty := e % 4
    if ty = 0 then .transFault lvl (BitVec.ofNat 64 e)
    else if ty = 2 then walkLeaf s part va lvl shift e
    else if ty = 3 ∨ lvl = 4 ∨ fieldN e 2 10 ≠ 0 ∨ fieldN e 56 8 ≠ 0 then .accessFault lvl (BitVec.ofNat 64 e)
    else walkFrom s rd part va fuel (lvl + 1) (e / 2 ^ 12 % 2 ^ 44 * 2 ^ 12)

/-- The walk of a translated address through the partition's root directory (R280). -/
def walk (s : State) (part va : Nat) : Walk :=
  walkFrom s (fun _ pa => readEntry s part pa) part (va % 2 ^ 57) 5 0 (s.part part).root

/-- A table entry in a die's walker cache (R284). -/
def cachedEntry (s : State) (die part va lvl : Nat) : Option Nat :=
  ((s.die die).wcache.find? fun t => t.part == part && t.level == lvl && t.index == va / 2 ^ levelShift lvl).map (·.entry)

/-- The walk that takes what it can from the walker's cache (R284). -/
def cachedWalk (s : State) (die part va : Nat) : Walk :=
  let va := va % 2 ^ 57
  walkFrom s (fun lvl pa => (cachedEntry s die part va lvl).getD (readEntry s part pa)) part va 5 0 (s.part part).root

/-- The table entries that a walk meets in the root directory and at levels 1 and 2, for the walker's cache (R284). -/
def walkTables (s : State) (part va : Nat) : Nat → Nat → Nat → List TableEntry
  | 0, _, _ => []
  | n + 1, lvl, tbl =>
    let i := va / 2 ^ levelShift lvl
    let e := readEntry s part (tbl + i % 512 * 8)
    if e % 4 = 1 then ⟨part, lvl, i, e⟩ :: walkTables s part va n (lvl + 1) (e / 2 ^ 12 % 2 ^ 44 * 2 ^ 12) else []

/-- Whether a cached translation is that of an address. -/
def TlbEntry.hit (t : TlbEntry) (part va : Nat) : Bool :=
  t.part == part && decide (t.base ≤ va % 2 ^ 57) && decide (va % 2 ^ 57 < t.base + t.size)

/-- The cached translation of an address for a core: its micro-TLB's, or its cluster TLB's (R256, R284). -/
def tlbFind (s : State) (core part va : Nat) : Option TlbEntry :=
  ((s.core core).tlb.find? fun t => t.hit part va).orElse fun _ =>
    (s.clu (clusterOf core)).tlb.find? fun t => t.hit part va

/-- The level of the leaf that maps a page (R281, R283). -/
def Page.level (p : Page) : Nat := if p.size = 2 ^ 12 then 4 else if p.size = 2 ^ 21 then 3 else 2

/-- The page a cached entry gives: where the walk that cached it found the page (R283). A peer's page lies behind the endpoint
that its slot of the peer table holds at the access, an access fault where the slot is not valid (R282, R374). -/
def tlbPage (s : State) (t : TlbEntry) : Walk :=
  let e := t.leaf.toNat
  let page (k : Nat) : Page := leafPage t.base t.size k e
  if fieldN e 60 2 = 2 then
    match frameKey s t.part 2 (fieldN e 56 4) (t.pa % 2 ^ 64) with
    | some k => .page (page k) t.leaf
    | none => .accessFault (page 0).level t.leaf
  else .page (page t.pa) t.leaf

/-- The translation that an access of a core uses: the tables', or, where a cached entry that no invalidation has dropped
says otherwise, one of the two, a free choice for each page (R286). -/
def translate (s : State) (core part va : Nat) : Walk :=
  let w := walk s part va
  let c := match tlbFind s core part va with
    | some t => tlbPage s t
    | none => if (s.die (dieOf core)).wcache.isEmpty then w else cachedWalk s (dieOf core) part va
  if c = w then w else if Config.openChoice (s.tick + va / 2 ^ 12) then c else w

/-- Whether a page allows an access (R282). -/
def Page.allows (p : Page) (perm : Perm) : Bool :=
  !p.fault && (match perm with
    | .read => p.r
    | .write => p.w
    | .readWrite => p.r && p.w
    | .fetch => p.x
    | .unitRead => p.r
    | .unitUpdate => p.r && p.w)

/-- Why an access faults (R225, R285): translation or access fault, the address, and what the walk found. -/
structure AFault where
  trans : Bool
  va : Nat
  level : Nat
  entry : Word
deriving DecidableEq, Repr

/-- A byte's place (R144, R281): the region of the window it lies in, or 8 for translated memory; its key; its point
of coherence (R321); its ordering kind (R164); whether it lies on the remote side. -/
structure Loc where
  region : Nat
  key : Nat
  q : Nat
  kind : Nat
  host : Bool
deriving DecidableEq, Repr

/-- Whether a cluster-memory offset is reserved for the accumulators of a bound slot B (R218). Its bytes stay as they were before
the reservation and read so after it (DESIGN CHOICE, log entry 85). -/
def reservedClu (s : State) (cl o : Nat) : Bool :=
  let core := o / 0x40000
  decide (0x10000 ≤ o % 0x40000) && (s.ctx ((cl * 16 + core) * 2 + 1)).status != .free

/-- Whether a T command swaps the banks of accumulator n: `acc.swap` with the mask in its modifier (R212). -/
def Cmd.swaps (c : Cmd) (n : Nat) : Bool := c.op == 0x0B && c.m.testBit n

/-- The bank of accumulator n that is visible after every exchange the context has commanded so far (R160, R212). -/
def visibleBank (s : State) (cid n : Nat) : Nat :=
  let k := s.core (coreOf cid)
  let pend := (k.engQ.filter fun c => c.cid == cid && c.swaps n).length
    + (match k.run with
      | some o => if o.cmd.cid == cid && o.cmd.swaps n then 1 else 0
      | none => 0)
    + (if (s.ctx cid).seqr.inner.any (fun o => o.cmd.swaps n) then 1 else 0)
  let role := (s.ctx cid).accRole.toList.getD n false
  if role == (pend % 2 == 1) then 1 else 0

/-- A byte of the local window (R144, R145); none outside its table. Regions: 0 scratchpad, 1 operand store, 2 visible
banks, 3 own atomic area, 4 cluster memory, 5 another core's atomic area. -/
def windowLoc (s : State) (cid o : Nat) : Option Loc :=
  let lcore := coreOf cid
  let c := s.ctx cid
  if o < 0x40000 then
    let n := o / 0x4000
    if c.bind.used.getLsbD n then
      some ⟨0, kScratch lcore (c.bind.map.toList.getD n 0).toNat (o % 0x4000), 0, 0, false⟩
    else none
  else if 0x100000 ≤ o ∧ o < 0x110000 then some ⟨1, kOp cid (o - 0x100000), 0, 0, false⟩
  else if 0x200000 ≤ o ∧ o < 0x210000 then
    let n := (o - 0x200000) / 0x4000
    some ⟨2, kAcc cid n (visibleBank s cid n) (o % 0x4000), 0, 0, false⟩
  else if 0x300000 ≤ o ∧ o < 0x304000 then some ⟨3, kAtom lcore (o - 0x300000), 0, 0, false⟩
  else if 0x1000000 ≤ o ∧ o < 0x1400000 then
    if reservedClu s (clusterOf lcore) (o - 0x1000000) then none
    else some ⟨4, kClu (clusterOf lcore) (o - 0x1000000), 1, 0, false⟩
  else if 0x2000000 ≤ o ∧ o < 0x2100000 ∧ o % 0x10000 < 0x4000 then
    let k := (o - 0x2000000) / 0x10000
    let own := clusterOf lcore * 16 + k
    if own = lcore then some ⟨3, kAtom own (o % 0x10000), 0, 0, false⟩
    else some ⟨5, kAtom own (o % 0x10000), 1, 0, false⟩
  else none

/-- A read of a poisoned granule is an access fault at the granule's address (R257). -/
def checkPoison (s : State) (perm : Perm) (va : Nat) (l : Loc) : Except AFault Loc :=
  if (perm == .read || perm == .readWrite || perm == .fetch) && s.poisoned l.key then .error ⟨false, va / 64 * 64, 0, 0⟩
  else .ok l

/-- The place of one byte of an access (R280). -/
def locate (s : State) (cid : Nat) (perm : Perm) (va : Nat) : Except AFault Loc :=
  let bad : Except AFault Loc := .error ⟨false, va, 0, 0⟩
  if Config.windowL ≤ va then
    match windowLoc s cid (va - Config.windowL) with
    | some l => checkPoison s perm va l
    | none => bad
  else if Config.windowK ≤ va ∧ va < Config.windowK + 2 ^ 31 then bad
  else if va / 2 ^ 56 = 0 ∨ va / 2 ^ 56 = 255 then
    match translate s (coreOf cid) (s.ctx cid).bind.part va with
    | .page p e =>
      if p.allows perm then checkPoison s perm va ⟨8, p.key + (va % 2 ^ 57 - p.base), 4, p.kind, p.host⟩
      else .error ⟨false, va, p.level, e⟩
    | .transFault l e => .error ⟨true, va, l, e⟩
    | .accessFault l e => .error ⟨false, va, l, e⟩
  else bad

/-- The places of `n` bytes from an address, the lowest faulting one reported (R164). Bytes of one access lie in one
region (R145). -/
def locateBytes (s : State) (cid : Nat) (perm : Perm) (va : Nat) : Nat → Except AFault (List Loc)
  | 0 => .ok []
  | n + 1 =>
    match locateBytes s cid perm va n with
    | .error e => .error e
    | .ok ls =>
      match locate s cid perm ((va + n) % 2 ^ 64) with
      | .error e => .error e
      | .ok l =>
        match ls.head? with
        | some h => if h.region = l.region then .ok (ls ++ [l]) else .error ⟨false, va, 0, 0⟩
        | none => .ok [l]

/-- The places of `n` bytes from an address; an access that crosses the edge of the window faults before it is translated
(R145). -/
def locateAll (s : State) (cid : Nat) (perm : Perm) (va n : Nat) : Except AFault (List Loc) :=
  if decide (Config.windowL ≤ va) != decide (Config.windowL ≤ (va + (n - 1)) % 2 ^ 64) then .error ⟨false, va, 0, 0⟩
  else locateBytes s cid perm va n

/-- The part of a context. -/
def State.partOf (s : State) (cid : Nat) : Nat := (s.ctx cid).bind.part

/-- Appends an entry to a store of n, which loses its oldest one when it is full (log 64). -/
def pushCap {α : Type} [BEq α] (n : Nat) (l : List α) (x : α) : List α :=
  let l := l.filter (· != x) ++ [x]
  l.drop (l.length - n)

/-- Whether an address is translated by the walker's tables (R280). -/
def isTranslated (va : Nat) : Bool :=
  decide (va < Config.windowK) || (decide (Config.windowK + 2 ^ 31 ≤ va) && decide (va < Config.windowL))

/-- A walk that serves one more core. -/
def joinWalk (part page core : Nat) (w : WalkReq) : WalkReq :=
  if w.part = part ∧ w.page = page ∧ !w.cores.contains core then { w with cores := w.cores ++ [core] } else w

/-- What an access of a core in a slot does to the translation caches (R284): a cluster TLB hit fills the micro-TLB; a miss
joins the walk of its 4 KiB region, starts one while fewer than 64 run, waits in the walker's queue, or, where that is full,
in the core. -/
def State.noteMiss (s : State) (slot cid va : Nat) : State :=
  let l := coreOf cid
  let d := dieOf l
  let p := s.partOf cid
  let page := va % 2 ^ 57 / 2 ^ 12 * 2 ^ 12
  if !isTranslated va || (s.core l).tlb.any fun t => t.hit p va then s
  else
    match tlbFind s l p va with
    | some t => s.modCore l fun c => { c with tlb := pushCap 64 c.tlb t }
    | none =>
      let x := s.die d
      if (x.walks ++ x.walkQ).any fun w => w.part == p && w.page == page then
        s.modDie d fun x => { x with walks := x.walks.map (joinWalk p page l), walkQ := x.walkQ.map (joinWalk p page l) }
      else if x.walks.length < 64 then s.modDie d fun x => { x with walks := x.walks ++ [⟨p, page, [l]⟩] }
      else if x.walkQ.length < 1024 then s.modDie d fun x => { x with walkQ := x.walkQ ++ [⟨p, page, [l]⟩] }
      else if (s.core l).misses.any fun m => m.cid == cid && m.va / 2 ^ 12 == va / 2 ^ 12 then s
      else s.modCore l fun k => { k with misses := k.misses ++ [⟨cid, va, slot, false⟩] }

/-- The walks of an access of `n` bytes: one for each 4 KiB region it touches (R284). -/
def State.noteSpan (s : State) (slot cid va n : Nat) : State :=
  (List.range ((va % 4096 + n + 4095) / 4096)).foldl (fun s i =>
    s.noteMiss slot cid (if i = 0 then va else (va / 4096 + i) * 4096 % 2 ^ 64)) s

/-- The walks of some accesses of an engine or a unit, each an address with a number of bytes. -/
def State.noteSpans (s : State) (cid : Nat) (l : List (Nat × Nat)) : State :=
  l.foldl (fun s x => s.noteSpan 9 cid x.1 x.2) s

/-- The walk of an engine's access (R284). -/
def State.noteWalk (s : State) (cid va : Nat) : State := s.noteMiss 9 cid va

/-- Whether an access would miss while the walker runs 64 walks and its queue is full (R284). -/
def State.walkerFull (s : State) (cid va : Nat) : Bool :=
  let l := coreOf cid
  let x := s.die (dieOf l)
  let p := s.partOf cid
  isTranslated va && (tlbFind s l p va).isNone && decide (64 ≤ x.walks.length) && decide (1024 ≤ x.walkQ.length)
    && !((x.walks ++ x.walkQ).any fun w => w.part == p && w.page == va % 2 ^ 57 / 2 ^ 12 * 2 ^ 12)

/-- The misses of a core whose freeze or overrun is due: the walker's queue is still full (R284). -/
def State.stalled (s : State) (l : Nat) : Option Miss := (s.core l).misses.find? fun m => !m.late && s.walkerFull m.cid m.va

/-- A page without a cached walk: kinds of access in fault records (R285, R383). -/
inductive AccessKind where
  | read
  | write
  | atomic
  | fetch
  | engineRead
  | engineWrite
deriving DecidableEq, Repr

/-- The code of an access kind (R383). -/
def AccessKind.code : AccessKind → Nat
  | .read => 0
  | .write => 1
  | .atomic => 2
  | .fetch => 3
  | .engineRead => 4
  | .engineWrite => 5

/-- The halfword at a halfword address, read as code: through translation, at package scope (R66). -/
def fetchHalf (s : State) (cid : Nat) (h : Nat) : Except AFault Nat :=
  let va := 2 * h % 2 ^ 64
  if Config.windowL ≤ va then .error ⟨false, va, 0, 0⟩
  else
    match locateAll s cid .fetch va 2 with
    | .error e => .error e
    | .ok ls => .ok (leNat (s.readKeys (coreOf cid) 3 (ls.map (·.key))))

/-- The length in halfwords of the bundle whose index lies at a halfword address (R67). -/
def indexLen (s : State) (cid : Nat) (h : Word) : Except AFault Nat :=
  match fetchHalf s cid h.toNat with
  | .ok x => .ok (if x = 0xFFFF then 25 else 1)
  | .error e => .error e

end Sys2Proof.Machine
end

