-- ==== Sys2Proof/Machine/Flags.lean ====
section
/-! DEFINITION. The sticky flags and the landing of results (R45 to R49, R81). -/

namespace Sys2Proof.Machine

/-- PERF counters a write sets: those of R235's table but the read-only LREM0 to LREM3. -/
def perfWritable (n : Nat) : Bool :=
  (decide (0x100 ≤ n) && decide (n ≤ 0x103)) || n == 0x108 || (decide (0x140 ≤ n) && decide (n ≤ 0x17F))

/-- A write of DEADLINE (R344): a non-zero count clears PEND, and 0 over a non-zero count raises the event. -/
def Regs.writeDeadline (r : Regs) (v : Word) : Regs :=
  if v ≠ 0 then { r with deadline := v, dlPend := false }
  else if r.deadline ≠ 0 then { r with deadline := 0, dlPend := true, dlEvent := true }
  else r

/-- A `cwr` lands: the writable fields take the value (R8, R9, R44, R48, R99, R174, R184, R226, R235, R344). BANKFMTn
belongs to the core. -/
def Regs.writeCtl (r : Regs) (num : Nat) (v : Word) : Regs :=
  if num = 0x20 then if (v.setWidth 3).toNat ≤ 4 then { r with rmode := v.setWidth 3 } else r
  else if num = 0x21 then { r with xflags := v.setWidth 8 }
  else if num = 0x22 then { r with xtrapen := v.setWidth 8 }
  else if num = 0x23 then { r with drift := v }
  else if num = 0x24 then { r with driftlim := v }
  else if num = 0x25 then { r with pivtol := v }
  else if num = 0x26 then { r with slvtol := v }
  else if num = 0x27 then { r with slvstat := v.setWidth 32 }
  else if num = 0x32 then r.writeDeadline v
  else if num = 0x33 then { r with dlTrap := v.getLsbD 0 }
  else if num = 0x40 then { r with trapvec := v }
  else if num = 0x41 then { r with trappc := v }
  else if num = 0x44 then { r with donemask := v.setWidth 10 }
  else if h : 0x50 ≤ num ∧ num < 0x54 then { r with lcnt := r.lcnt.set (num - 0x50) v (by omega) }
  else if h : 0x54 ≤ num ∧ num < 0x58 then { r with lstart := r.lstart.set (num - 0x54) v (by omega) }
  else if h : 0x58 ≤ num ∧ num < 0x5C then { r with lend := r.lend.set (num - 0x58) v (by omega) }
  else if perfWritable num then { r with perf := r.perf.set num v }
  else r

/-- One write of a landing result. -/
def Regs.apply (r : Regs) : RWrite → Regs
  | .sreg n v => r.writeS n v
  | .vreg d n v => r.writeV d n v
  | .pred p b => r.writeP p b
  | .neither p => r.writeNeither p
  | .pat n t => { r with pat := r.pat.set n.toNat t n.isLt }
  | .ctl num v => r.writeCtl num.toNat v
  | .loopRegs l c a e =>
    { r with lcnt := r.lcnt.set l.toNat c l.isLt, lstart := r.lstart.set l.toNat a l.isLt,
             lend := r.lend.set l.toNat e l.isLt }

/-- The writes of a landing result, in order. -/
def Regs.applyAll (r : Regs) (ws : List RWrite) : Regs := ws.foldl Regs.apply r

/-- ORs raised flags into XFLAGS (R46). -/
def Regs.raise (r : Regs) (fl : BitVec 8) : Regs := { r with xflags := r.xflags ||| fl }

/-- The flags of a set that XTRAPEN enables (R47). -/
def Regs.enabled (r : Regs) (fl : BitVec 8) : BitVec 8 := fl &&& r.xtrapen

/-- A register write as the signature of a rerun takes it (R230). The order of a vector's bytes, and what stands for the
results of the other kinds, is a DESIGN CHOICE (log entry 68). -/
def RWrite.landed (slot : Nat) : RWrite → Landed
  | .sreg n v => ⟨slot, n.toNat, leBytes 8 v.bits.toNat, v.ok0.toNat + 2 * v.ok1.toNat⟩
  | .vreg d n v => ⟨slot, d.toNat, (List.range n).flatMap fun i => leBytes 4 (v.word i).bits.toNat,
      (List.range n).foldl (fun m i => m + (v.word i).ok.toNat * 2 ^ i) 0⟩
  | .pred p b => ⟨slot, p.toNat, [BitVec.ofNat 8 b.toNat], 1⟩
  | .neither p => ⟨slot, p.toNat, [0, 0], 0⟩
  | .pat n t => ⟨slot, n.toNat, t.map fun x => BitVec.ofNat 8 (x.getD 255), 1⟩
  | .ctl num v => ⟨slot, num.toNat, leBytes 8 v.toNat, 1⟩
  | .loopRegs l c a e => ⟨slot, l.toNat, leBytes 8 c.toNat ++ leBytes 8 a.toNat ++ leBytes 8 e.toNat, 1⟩

/-- An open interval takes note of results in landing order, unless it is unprotected (R229, R230). -/
def Interval.note (v : Interval) (l : List Landed) : Interval :=
  if v.unprotected then v else { v with landed := l.reverse ++ v.landed }

/-- A fixed-latency result lands (R81): it writes its destination and its latch and raises its flags. An operation
that raises an enabled flag writes neither, and its trap waits for the boundary (R47, R225). -/
def Ctx.landResult (c : Ctx) (p : Pending) : Ctx :=
  let en := c.r.enabled p.flags
  let r := c.r.raise p.flags
  if en = 0 then
    let r := r.applyAll p.writes
    { c with r := (match p.latch with
        | some l => r.writeLatch p.slot l
        | none => r), ival := c.ival.note (p.writes.map (RWrite.landed p.slot)) }
  else { c with r := r }.postTrap ⟨9, p.slot, en, 0, 0⟩

/-- Whether a pending result writes a control register. -/
def Pending.isCtl (p : Pending) : Bool := p.writes.any fun w => match w with
  | .ctl _ _ => true
  | _ => false

/-- Takes the first element that satisfies `f` out of a list. -/
def takeFirst {α : Type} (f : α → Bool) : List α → Option (α × List α)
  | [] => none
  | a :: t => if f a then some (a, t) else (takeFirst f t).map fun x => (x.1, a :: x.2)

end Sys2Proof.Machine
end

