-- ==== Sys2Proof/Machine/Faults.lean ====
section
/-! DEFINITION. Fault records and the die's fault service (R285, R383), and the undo log of a checkpoint (R228). -/

namespace Sys2Proof.Machine

/-- A message that the module sends. -/
def State.sendTo (s : State) (d : Dest) (m : List Byte) : State := s.modHub fun h => { h with out := h.out ++ [⟨d, m⟩] }

/-- An answer to the sender of a message. -/
def State.send (s : State) (m : List Byte) : State := s.sendTo .sender m

/-- A notice of a partition's launch endpoint to its host address (R369, R370). -/
def State.notify (s : State) (part : Nat) (m : List Byte) : State := s.sendTo (.host (s.part part).host) m

/-- A fault notice (R383). -/
def faultNotice (f : FaultRec) : List Byte :=
  leBytes 2 0x8002 ++ leBytes 1 f.kind ++ leBytes 1 f.level ++ leBytes 1 f.slot ++ leBytes 1 (f.ctxSlot % 2) ++ leBytes 2 0
    ++ leBytes 8 f.num ++ leBytes 8 f.va ++ leBytes 8 f.entry.toNat ++ leBytes 4 f.lcore ++ leBytes 4 f.waiters.length
    ++ leBytes 24 0

/-- Whether two addresses lie on one 4 KiB page. -/
def samePage (a b : Nat) : Bool := a / 4096 == b / 4096

/-- Adds a fault to a record of its page, or makes a record and sends its notice, or holds it while the die's 256
entries are taken (R285). -/
def State.enqueueFault (s : State) (f : FaultRec) : State :=
  let p := s.part f.part
  if p.faults.any (fun r => r.die == f.die && samePage r.va f.va) then
    let join (r : FaultRec) : FaultRec :=
      if r.die == f.die && samePage r.va f.va then { r with waiters := r.waiters ++ f.waiters } else r
    s.modPart f.part fun p => { p with faults := p.faults.map join }
  else if (p.faults.filter (fun r => r.die == f.die)).length < 256 then
    let f := { f with num := p.nextFault }
    (s.modPart f.part fun p => { p with faults := p.faults ++ [f], nextFault := p.nextFault + 1 }).notify f.part (faultNotice f)
  else s.modPart f.part fun p => { p with faultWaiting := p.faultWaiting ++ [f] }

/-- The logical core of a context in its partition's shape (R2, R348). -/
def logicalCore (s : State) (part l : Nat) : Nat :=
  match (s.part part).dies.findIdx? fun d => d == dieOf l with
  | some i => i % 8 * 512 + l % 512
  | none => l % 4096

/-- Posts a translation fault of a context to its die's fault service (R285). `cls` says what of the context waits. -/
def State.postFault (s : State) (cid cls : Nat) (kind : AccessKind) (slot : Nat) (e : AFault) : State :=
  let l := coreOf cid
  s.enqueueFault ⟨0, s.partOf cid, dieOf l, kind.code, e.level, slot, slotOf cid, e.va, e.entry, logicalCore s (s.partOf cid) l, [(cid, cls)]⟩

/-- A fault of an access of the executing slot: a translation fault waits on the fault service at the slot, and an
access fault traps (R152, R225, R284, R285). -/
def State.slotFault (s : State) (kind : AccessKind) (e : AFault) : State :=
  if e.trans then
    let cid := s.cur.cid
    let s := (s.stopAt cid (s.me.doneBefore s.cur.slot)).modCtx cid fun c => { c with svcWait := some (s.cur.slot, e.va) }
    (s.noteMiss s.cur.slot cid e.va).postFault cid 0 kind s.cur.slot e
  else s.slotTrap 6 e.va

/-- The 256-byte row of a key that the undo log records: scratchpad, operand store and accumulator banks (R228). -/
def undoRow (key : Nat) : Option Nat :=
  if 3 * 2 ^ 64 ≤ key ∧ key < 6 * 2 ^ 64 then some (key / 256 * 256) else none

/-- The interval becomes unprotected: nothing is held or logged until the next checkpoint, and the PERF block counts it
(R229, R235). -/
def Ctx.unprotect (c : Ctx) : Ctx :=
  if c.ival.unprotected then c
  else { c with ival := { c.ival with unprotected := true, undoRows := [], loads := [], landed := [] },
                r := { c.r with perf := c.r.perf.set 0x108 (c.r.perf.getD 0x108 0 + 1) } }

/-- Logs the rows that a write touches for the first time in the context's interval (R228); past 512 rows the interval
becomes unprotected (R229). -/
def State.logRows (s : State) (cid : Nat) (cells : List Host.Cell) : State :=
  let c := s.ctx cid
  if c.ival.unprotected then s
  else
    let rows := cells.foldl (fun acc x => match undoRow x.1 with
      | some r => if acc.any (fun y => y.1 == r) then acc else (r, memGetBytes s.mem r 256) :: acc
      | none => acc) c.ival.undoRows
    if 512 < rows.length then s.setCtx cid c.unprotect
    else s.setCtx cid { c with ival := { c.ival with undoRows := rows } }

/-- An open interval keeps the data of a read of memory outside the core (R228), and the granules it has read (R257). -/
def Interval.record (v : Interval) (l : LoadRec) : Interval :=
  { v with reads := l.granules.filter (fun g => !v.reads.contains g) ++ v.reads,
           loads := if v.unprotected then v.loads else v.loads ++ [l] }

/-- The entries of the checkpoint store buffer that load records take (R228, R229). -/
def Interval.loadEntries (v : Interval) : Nat := (v.loads.filter fun l => l.first).length

/-- A write of a context to its local memories (R228). -/
def State.putOwn (s : State) (cid : Nat) (cells : List Host.Cell) : State := (s.logRows cid cells).putCells cells

end Sys2Proof.Machine
end

