-- ==== Sys2Proof/Machine/LogicalMap.lean ====
section
/-! DEFINITION. The logical map of firmware (R231, R348, R360): which physical core carries a logical core, also where a
partition has fewer dies than the shape or cores of it are retired; and the error log, which names both (R359). -/

namespace Sys2Proof.Machine

/-- The partition whose shape a die belongs to: as one of its own, or as one that stands for a logical die it lacks (R348, log
entry 30). -/
def Hub.partOfDie (h : Hub) (d : Nat) : Option (Nat × Part) :=
  h.parts.find? fun p => p.2.dies.contains d || decide (d / 8 = p.1 + 1)

/-- The physical core on which a logical core stands while no core is retired: its own, or, in a logical die that the partition
lacks, the same core of one of its dies (R348, log entry 30). -/
def Hub.seat (h : Hub) (l : Nat) : Nat :=
  if dieOf l < 8 then l
  else match h.partOfDie (dieOf l) with
    | some p => p.2.dies.getD (dieOf l % 8 % p.2.dies.length) 0 * 512 + l % 512
    | none => l % 512

/-- The physical core that carries a logical core (R231, R348, R360). -/
def Hub.physOf (h : Hub) (l : Nat) : Nat := ((h.coreMap.find? fun x => x.1 == l).map (·.2)).getD (h.seat l)

/-- The cores of a die that are retired. -/
def Hub.retiredOn (h : Hub) (d : Nat) : Nat := (h.retireTable.filter fun n => dieOf n == d).length

/-- Whether a logical core has a physical core of its own: a die's retired cores take its highest logical cores away, but
for deterministic nodes, whose logical cores take turns on the others (R231, R348, R360, log entry 35). -/
def Hub.liveCore (h : Hub) (l : Nat) : Bool := decide (dieOf l < 8) && decide (l % 512 + h.retiredOn (dieOf l) < 512)

/-- The logical cores that a physical core carries. -/
def Hub.carried (h : Hub) (p : Nat) : List Nat :=
  let guests := h.parts.flatMap fun x => ((List.range 8).drop x.2.dies.length).map fun d => (8 * (x.1 + 1) + d) * 512 + p % 512
  (p :: h.coreMap.map (·.1) ++ guests).dedup.filter fun l => h.physOf l == p

/-- The dies of the partition of a physical core that still have a working core; its own before one is formed (R348, R360). -/
def Hub.hostsOf (h : Hub) (p : Nat) : List Nat := ((h.partOfDie (dieOf p)).map fun x => x.2.hosts).getD [dieOf p]

/-- The physical core that takes over from a retired one that carried `moved`: of the working cores of its die, from the
highest down, else of the other dies of its partition. A logical core with a core of its own gets the first that has no other
such one; those that take turns are spread over them (log entry 35). -/
def Hub.spare (h : Hub) (p : Nat) (moved : List Nat) : Nat :=
  let top (d : Nat) : List Nat := ((List.range 512).map fun i => d * 512 + (511 - i)).filter fun n => !h.retireTable.contains n
  let own := top (dieOf p)
  let work := if own.isEmpty then h.hostsOf p |>.reverse.flatMap top else own
  if moved.any h.liveCore then (work.find? fun n => !((h.carried n).any h.liveCore)).getD (work.headD p)
  else work.getD (p % 512 % work.length) p

/-- A die whose 512 cores are all retired is removed from its partition (R360). -/
def Hub.dropDie (h : Hub) (d : Nat) : Hub :=
  if 512 ≤ h.retiredOn d then
    { h with parts := h.parts.map fun p => (p.1, { p.2 with hosts := p.2.hosts.filter (· != d) }) }
  else h

/-- A physical core is entered in the retirement table, and the logical map gives its logical cores to another one (R231,
R360). -/
def Hub.retirePhys (h : Hub) (p : Nat) : Hub :=
  let moved := h.carried p
  let h := { h with retireTable := if h.retireTable.contains p then h.retireTable else h.retireTable ++ [p] }
  let h := h.dropDie (dieOf p)
  let q := h.spare p moved
  { h with coreMap := (h.coreMap.filter fun x => !moved.contains x.1) ++ moved.map fun x => (x, q) }

/-- The physical core of a logical core is retired. -/
def Hub.retire (h : Hub) (l : Nat) : Hub := h.retirePhys (h.physOf l)

/-- Every die of every partition hosts its logical dies. -/
def Hub.hostAll (h : Hub) : Hub := { h with parts := h.parts.map fun p => (p.1, { p.2 with hosts := p.2.dies }) }

/-- The map of a partition just formed: its dies without those that are retired whole, and its logical cores on working ones,
as the retirement table says (R360). -/
def Hub.mapPart (h : Hub) (part : Nat) : Hub :=
  let r := h.retireTable.foldl Hub.retirePhys { h.hostAll with retireTable := [], coreMap := [] }
  let mine (x : Nat × Nat) : Bool := (h.partOfDie (dieOf x.1)).any fun p => p.1 == part
  { h with
    coreMap := (h.coreMap.filter fun x => !mine x) ++ r.coreMap.filter mine
    parts := h.parts.set part { h.parts.getD part Part.reset with hosts := (r.parts.getD part Part.reset).hosts } }

/-- The retirement table is cleared, and every logical core stands on its own physical core again (R360). -/
def Hub.clearTable (h : Hub) : Hub := { h.hostAll with retireTable := [], coreMap := [], replSent := false }

/-! ### The error log (R359) -/

/-- A record enters the error log (R359), a ring of 4,096. -/
def State.logRec (s : State) (r : ErrRec) : State :=
  s.modHub fun h =>
    let l := h.errLog ++ [r]
    if l.length ≤ 4096 then { h with errLog := l } else { h with errLog := l.drop 1, errLost := h.errLost + 1 }

/-- An event with no core, or none of its own, is logged at its place (R359). -/
def State.logError (s : State) (place cls info : Nat) : State := s.logRec ⟨s.hub.ptb, place, place, cls, info, (0, 0), (0, 0)⟩

/-- An event of a logical core is logged with the physical core that carries it (R359). -/
def State.logCore (s : State) (l cls info : Nat) : State :=
  s.logRec ⟨s.hub.ptb, s.hub.physOf l, l, cls, info, (0, 0), (0, 0)⟩

/-- Event classes of the error log (R359, R368, R382). -/
def errCorrected : Nat := 0
/-- A detected error and its reruns. -/
def errDetected : Nat := 1
/-- A retirement. -/
def errRetired : Nat := 2
/-- A poisoned granule. -/
def errPoison : Nat := 3
/-- A silent sensor. -/
def errSensor : Nat := 4
/-- A record that could not be written. -/
def errRecord : Nat := 5
/-- A packet that was dropped. -/
def errPacket : Nat := 6

end Sys2Proof.Machine
end

