-- ==== Sys2Proof/Machine/Control.lean ====
section
/-! DEFINITION. The control and system instructions of slot S0 (R93 to R108) and the control registers they read. -/

namespace Sys2Proof.Machine

/-! ### Control registers (R59) -/

/-- CTXID (R217). -/
def ctxidReg (s : State) (cid : Nat) : Word :=
  BitVec.ofNat 64 (logicalCore s (s.ctx cid).bind.part (coreOf cid) * 2 + slotOf cid + (if (s.ctx cid).bind.det then 2 ^ 13 else 0))

/-- The physical bank of logical bank n; an unused bank reads n (R146). -/
def Binding.physBank (b : Binding) (n : BitVec 4) : BitVec 4 :=
  if b.used.getLsbD n.toNat then b.map[n.toNat]'n.isLt else n

/-- BANKMAP (R146). -/
def bankmapReg (c : Ctx) : Word :=
  BitVec.ofNat 64 ((List.range 16).foldl (fun x n => x + (c.bind.physBank (BitVec.ofNat 4 n)).toNat * 16 ^ n) 0)

/-- The format of logical bank n. A bank that the plan leaves unused has the plan's 0xFF: the physical bank of that number may
be another context's (R58, R147; DEDUCED, log entry 57). -/
def State.bankFmt (s : State) (cid : Nat) (n : BitVec 4) : BitVec 8 :=
  let b := (s.ctx cid).bind
  if b.used.getLsbD n.toNat then (s.core (coreOf cid)).fmt[(b.physBank n).toNat]'(b.physBank n).isLt else 0xFF

/-- The formats of the 16 logical banks. -/
def State.bankFmts (s : State) (cid : Nat) : List (BitVec 8) := (List.range 16).map fun n => s.bankFmt cid (BitVec.ofNat 4 n)

/-- BANKFMTn (R147). -/
def bankfmtReg (s : State) (cid : Nat) (n : BitVec 4) : Word := (s.bankFmt cid n).setWidth 64

/-- The held operation of a context, if any (R186). -/
def State.heldOp (s : State) (cid : Nat) : Option EngOp :=
  (s.core (coreOf cid)).heldOps.find? fun o => o.cmd.cid == cid && decide (o.heldWhy < 3)

/-- SWEEPST (R186). -/
def sweepstReg (s : State) (cid : Nat) : Word :=
  match s.heldOp cid with
  | some o => BitVec.ofNat 64 (1 + o.cmd.op % 128 * 2 + o.heldWhy % 16 * 2 ^ 8)
  | none => 0

/-- FRAMECTR (R349). -/
def framectrReg (c : Ctx) : Word :=
  let f := c.frameNow
  if c.bind.det then BitVec.ofNat 64 (f % 2 ^ 32 * 2 ^ 32 + (c.r.frameTime - f * c.bind.frame) % 2 ^ 14)
  else BitVec.ofNat 64 (f % 2 ^ 32 * 2 ^ 32)

/-- Time units of 1/840 of a PTB cycle: a cc at OPk takes 6720 / (k + 1) of them (R3, log entry 8). -/
def refreshNow (s : State) (lcore : Nat) : Nat := (s.core lcore).time / 840

/-- The refresh phase of the die on which a logical core stands (R291, R348). -/
def State.refreshPhase (s : State) (l : Nat) : Nat := (s.die (dieOf (s.hub.seat l))).phase

/-- RFWIN (R291). -/
def rfwinReg (s : State) (cid : Nat) : Word :=
  BitVec.ofNat 64 (refreshNow s (coreOf cid) % 4096 * 2 ^ 16 + (s.refreshPhase (coreOf cid)) % 4096)

/-- HEALTH (R360). -/
def healthReg (s : State) (cid : Nat) : Word :=
  let n := s.hub.retireTable.length
  BitVec.ofNat 64 ((if n = 0 then 0 else 2 ^ 63) + n % 2 ^ 13 * 2 ^ 50 + (s.core (coreOf cid)).corr.toNat * 2 ^ 32
    + (s.ctx cid).rerun.toNat * 2 ^ 16 + (s.ctx cid).unprotE.toNat * 2 ^ 8)

/-- THERM (R358), of the physical core that runs the context. -/
def thermReg (s : State) (cid : Nat) : Word :=
  let p := s.hub.physOf (coreOf cid)
  let k := s.clu (clusterOf p)
  BitVec.ofNat 64 ((s.die (dieOf p)).dieMax % 256 * 2 ^ 16 + k.temp % 256 * 2 ^ 8
    + max (k.lim % 4) (k.thr % 4) * 2 ^ 4 + k.lim % 4 * 2 ^ 2 + k.thr % 4)

/-- LREMn: the shadow count of an active level (R99, R235). -/
def lremReg (r : Regs) (n : Nat) : Word :=
  match r.loops.find? fun l => l.lvl == n with
  | some l => l.cnt
  | none => 0

/-- The PERF block (R235). -/
def perfReg (r : Regs) (num : Nat) : Word :=
  if 0x104 ≤ num ∧ num ≤ 0x107 then lremReg r (num - 0x104)
  else if perfWritable num then r.perf.getD num 0
  else 0

/-- The value of a control register (R59). -/
def readCtl (s : State) (cid num : Nat) : Word :=
  let c := s.ctx cid
  let r := c.r
  if num = 0x00 then ctxidReg s cid
  else if num = 0x01 then bankmapReg c
  else if 0x10 ≤ num ∧ num ≤ 0x1F then bankfmtReg s cid (BitVec.ofNat 4 num)
  else if num = 0x20 then r.rmode.setWidth 64
  else if num = 0x21 then r.xflags.setWidth 64
  else if num = 0x22 then r.xtrapen.setWidth 64
  else if num = 0x23 then r.drift
  else if num = 0x24 then r.driftlim
  else if num = 0x25 then r.pivtol
  else if num = 0x26 then r.slvtol
  else if num = 0x27 then r.slvstat.setWidth 64
  else if num = 0x30 then sweepstReg s cid
  else if num = 0x31 then framectrReg c
  else if num = 0x32 then r.deadline
  else if num = 0x33 then BitVec.ofNat 64 ((if r.dlPend then 2 else 0) + (if r.dlTrap then 1 else 0))
  else if num = 0x34 then rfwinReg s cid
  else if num = 0x40 then r.trapvec
  else if num = 0x41 then r.trappc
  else if num = 0x42 then r.trapslot.setWidth 64
  else if num = 0x43 then r.trapcause
  else if num = 0x44 then r.donemask.setWidth 64
  else if 0x50 ≤ num ∧ num < 0x54 then r.lcnt.toList.getD (num - 0x50) 0
  else if 0x54 ≤ num ∧ num < 0x58 then r.lstart.toList.getD (num - 0x54) 0
  else if 0x58 ≤ num ∧ num < 0x5C then r.lend.toList.getD (num - 0x58) 0
  else if num = 0x60 then BitVec.ofNat 64 r.rng.length
  else if 0x100 ≤ num ∧ num ≤ 0x17F then perfReg r num
  else if num = 0x200 then healthReg s cid
  else if num = 0x201 then thermReg s cid
  else 0

/-- A format code that R41 lists, but for 0xFF (R147). -/
def fmtListed (f : Nat) : Bool :=
  decide (f ≤ 5) || (decide (0x12 ≤ f) && decide (f ≤ 0x18)) || (decide (0x22 ≤ f) && decide (f ≤ 0x28))
    || (decide (0x31 ≤ f) && decide (f ≤ 0x33))

/-- A write of BANKFMTn (R147): unlisted codes and unused banks are ignored. -/
def State.writeBankfmt (s : State) (cid : Nat) (n : BitVec 4) (v : Word) : State :=
  let b := (s.ctx cid).bind
  if b.used.getLsbD n.toNat && fmtListed (v.toNat % 256) then
    s.modCore (coreOf cid) fun c => { c with fmt := c.fmt.set (b.physBank n).toNat (v.setWidth 8) (b.physBank n).isLt }
  else s

/-! ### Transfers and loops -/

/-- Changes what the executing slot leaves to the completion of its bundle. -/
def State.modAft (s : State) (f : After → After) : State :=
  s.modCtx s.cur.cid fun c => { c with bun := { c.bun with aft := f c.bun.aft } }

/-- A taken transfer: its redirect takes effect at the third bundle after it (R94). -/
def State.transfer (s : State) (target : Word) : State :=
  s.modRegs s.cur.cid fun r => { r with transfers := r.transfers ++ [⟨3, target⟩] }

/-- The target of `br` and `call` (R95). -/
def brTarget (s : State) (off : BitVec 21) : Word := s.me.bun.pc + off.signExtend 64

/-- Level n becomes the innermost active level (R96). -/
def Regs.activate (r : Regs) (l : LoopSh) : Regs := { r with loops := l :: r.loops.filter fun x => x.lvl != l.lvl }

/-- R95. -/
def execBr (f : SBr) (s : State) : Host.Outcome State Fault Refusal :=
  ctlRun f.g s fun s => s.transfer (brTarget s f.off)

/-- The end test of the bundle at `pc` (R98), innermost level first: where it loops back to, and the levels left. The
level that the bundle itself re-arms is not tested (R99). -/
def endTest (armed : Option Nat) (pc : Word) : List LoopSh → Option Word × List LoopSh
  | [] => (none, [])
  | l :: t =>
    if l.last = pc ∧ armed ≠ some l.lvl then
      if l.cnt - 1 = 0 then endTest armed pc t
      else (some l.start, { l with cnt := l.cnt - 1 } :: t)
    else
      let r := endTest armed pc t
      (r.1, l :: r.2)

/-- Where a context goes from a bundle (R94, R96, R98), with its transfers and loop levels afterwards. -/
structure Flow where
  pc : Word
  transfers : List Transfer
  loops : List LoopSh
deriving DecidableEq, Repr

/-- The flow out of a bundle of `len` halfwords at `pc`: the straight-line successor, or the one a skipped loop gives,
unless a level loops back, unless the redirect of a transfer falls here. -/
def flowOut (pc : Word) (len : Nat) (a : After) (ts : List Transfer) (ls : List LoopSh) : Flow :=
  let e := endTest a.armed pc ls
  let ts := ts.map fun t => { t with left := t.left - 1 }
  let next := e.1.getD (a.redirect.getD (pc + BitVec.ofNat 64 len))
  ⟨match ts.find? fun t => t.left == 0 with
    | some t => t.target
    | none => next, ts.filter fun t => t.left != 0, e.2⟩

/-- The length of the bundle at a halfword address for a predicted link, 1 where its index cannot be fetched yet. -/
def lenGuess (s : State) (cid : Nat) (h : Word) : Nat :=
  match indexLen s cid h with
  | .ok n => n
  | .error _ => 1

/-- The link of a `call` in the executing context's bundle: the straight-line successor of the bundle that will be its
second delay bundle (R95), as the context stands. It lands before that bundle begins, which makes it good (`Regs.fixLink`,
log entry 27). -/
def callLink (s : State) (cid : Nat) : Word :=
  let c := s.ctx cid
  let f := flowOut c.bun.pc c.bun.len After.none c.r.transfers c.r.loops
  let d := (flowOut f.pc (lenGuess s cid f.pc) After.none f.transfers f.loops).pc
  d + BitVec.ofNat 64 (lenGuess s cid d)

/-- R95: the link lands after latency 1. -/
def execCall (f : SBr) (s : State) : Host.Outcome State Fault Refusal :=
  ctlRun f.g s fun s =>
    let l := SVal.mkOk (callLink s s.cur.cid)
    if s.collides 1 [.sreg 63 l] then s.illegalSchedule
    else ((s.transfer (brTarget s f.off)).modCtx s.cur.cid fun c => { c with links := ⟨2, l.bits⟩ :: c.links }).launch 1
      [.sreg 63 l] (some (.scalar l)) 0

/-- The second delay bundle of a `call` begins: the link is its straight-line successor, wherever the predicted one stands
(R95). -/
def Regs.fixLink (r : Regs) (v : Word) (l : Link) : Regs :=
  let old := SVal.mkOk l.guess
  let r := if r.readS 63 = old then r.writeS 63 (SVal.mkOk v) else r
  if r.latchAt 0 = .scalar old then r.writeLatch 0 (.scalar (SVal.mkOk v)) else r

/-- The links whose second delay bundle begins, with the given straight-line successor. -/
def Ctx.fixLinks (c : Ctx) (v : Word) : Ctx :=
  { c with r := (c.links.filter fun l => l.left == 0).foldl (fun r l => r.fixLink v l) c.r,
           links := c.links.filter fun l => l.left != 0 }

/-- R95. -/
def execJr (f : SSrc) (s : State) : Host.Outcome State Fault Refusal :=
  ctlRun f.g s fun s =>
    match s.me.r.src f.a with
    | some a => if a.ok then s.transfer a.bits else s.illegalSlot
    | none => s.illegalSlot

/-- R96: with a count of 0 the body is skipped; a fault on the index at its end is one of the fetch (R66). -/
def execLoop (f : SLoop) (s : State) : Host.Outcome State Fault Refusal :=
  ctlRun f.g s fun s =>
    let c := s.me.r.readS f.c
    let b := s.me.bun
    let start := b.pc + BitVec.ofNat 64 b.len
    let last := b.pc + f.e.setWidth 64
    if !c.ok then s.illegalSlot
    else if c.bits = 0 then
      match indexLen s s.cur.cid last with
      | .ok n => s.modAft fun a => { a with redirect := some (last + BitVec.ofNat 64 n) }
      | .error e => s.slotFault .fetch e
    else
      (s.modRegs s.cur.cid fun r => r.activate ⟨f.lvl.toNat, c.bits, start, last⟩).launch 1
        [.loopRegs f.lvl c.bits start last] none 0

/-- R99: level n is armed from LCNTn, LSTARTn and LENDn, unless the count is 0. -/
def execLoopRearm (f : SRearm) (s : State) : Host.Outcome State Fault Refusal :=
  ctlRun f.g s fun s =>
    let r := s.me.r
    let cnt := r.lcnt[f.lvl.toNat]'f.lvl.isLt
    if cnt = 0 then s.modRegs s.cur.cid fun r => { r with loops := r.loops.filter fun x => x.lvl != f.lvl.toNat }
    else
      (s.modRegs s.cur.cid fun r =>
        r.activate ⟨f.lvl.toNat, cnt, r.lstart[f.lvl.toNat]'f.lvl.isLt, r.lend[f.lvl.toNat]'f.lvl.isLt⟩).modAft
        fun a => { a with armed := some f.lvl.toNat }

/-- R97. -/
def execLoopExit (g : BitVec 5) (s : State) : Host.Outcome State Fault Refusal :=
  ctlRun g s fun s => s.modRegs s.cur.cid fun r =>
    match r.loops with
    | [] => r
    | l :: t => { r with loops := { l with cnt := 1 } :: t }

/-! ### Dictionaries -/

/-- The fault of a load that no `dict.sw` has met is a failure of the task once another load begins (R100, R101). -/
def Ctx.dictUnmet (c : Ctx) : Ctx :=
  match c.r.dictLoad with
  | .faulted k va false => { c with firstFail := some (c.firstFail.getD ⟨2, k, 0, c.r.inHandler, va, c.r.pc⟩) }
  | _ => c

/-- R100. -/
def execDictLd (f : SSrc) (s : State) : Host.Outcome State Fault Refusal :=
  ctlRun f.g s fun s =>
    match s.me.r.src f.a with
    | none => s.illegalSlot
    | some a =>
      if !a.ok || a.bits.toNat % 64 != 0 then s.illegalSlot
      else if s.me.r.dictLoad = .running then s.hold none
      else s.modCtx s.cur.cid fun c =>
        let c := c.dictUnmet
        { c with r := { c.r with dictLoad := .running, dictAddr := a.bits } }

/-- The bank that is not current becomes current, and every latch is voided (R101). -/
def Regs.switchDict (r : Regs) : Regs := { r.voidLatches with curBank := !r.curBank }

/-- R101: the fault of the load traps at a `dict.sw`; the one that an `eret` reissues restarts the load and waits for it. -/
def execDictSw (g : BitVec 5) (s : State) : Host.Outcome State Fault Refusal :=
  ctlRun g s fun s =>
    match s.me.r.dictLoad with
    | .running => s.hold none
    | .none => s.modRegs s.cur.cid Regs.switchDict
    | .loaded n => if 1 ≤ n ∧ n ≤ 1023 then s.modRegs s.cur.cid Regs.switchDict else s.slotTrap 1 0
    | .faulted k va met =>
      if met && s.me.bun.re then (s.hold none).modRegs s.cur.cid fun r => { r with dictLoad := .running }
      else (s.modRegs s.cur.cid fun r => { r with dictLoad := .faulted k va true }).slotTrap (BitVec.ofNat 5 k) va

/-! ### Traps, waiting and the end -/

/-- The value of the count register of an SI-form instruction. -/
def numOperand (s : State) (n : BitVec 6) : SVal := s.me.r.readS n

/-- R103. -/
def execTrap (f : SNum) (s : State) : Host.Outcome State Fault Refusal :=
  ctlRun f.g s fun s =>
    let n := numOperand s f.n
    if !n.ok then s.illegalSlot
    else if n.bits = 0 then s.modAft fun a => { a with trap := some (11, f.imm) }
    else s

/-- R104, R227: inside a handler a break acts only for a debug session. -/
def execBrk (f : SCode) (s : State) : Host.Outcome State Fault Refusal :=
  ctlRun f.g s fun s =>
    if s.me.r.inHandler && !s.me.held then s else s.modAft fun a => { a with trap := some (12, f.code) }

/-- R105. -/
def execEret (g : BitVec 5) (s : State) : Host.Outcome State Fault Refusal :=
  ctlRun g s fun s => if s.me.r.inHandler then s.modAft fun a => { a with eret := true } else s.illegalSlot

/-- R102. -/
def execCrd (f : SCtl) (s : State) : Host.Outcome State Fault Refusal :=
  ctlRun f.g s fun s =>
    let v := SVal.mkOk (readCtl s s.cur.cid f.num.toNat)
    s.launch 1 [.sreg f.r v] (some (.scalar v)) 0

/-- A write of a control register (R62, R102). -/
def cwrOp (r : BitVec 6) (num : BitVec 14) (s : State) : State :=
  let a := s.me.r.readS r
  if a.ok then s.launch 1 [.ctl num a.bits] none 0 else s.illegalSlot

/-- R102. -/
def execCwr (f : SCtl) (s : State) : Host.Outcome State Fault Refusal := ctlRun f.g s (cwrOp f.r f.num)

/-- R48. -/
def execCwrXflags (f : SCtlFix) (s : State) : Host.Outcome State Fault Refusal := ctlRun f.g s (cwrOp f.r 0x21)

/-- R44. -/
def execCwrRmode (f : SCtlFix) (s : State) : Host.Outcome State Fault Refusal := ctlRun f.g s (cwrOp f.r 0x20)

/-- R147. -/
def execCwrBankfmt (f : SCtlBank) (s : State) : Host.Outcome State Fault Refusal :=
  ctlRun f.g s (cwrOp f.r (0x10 + f.n.setWidth 14))

/-- R344. -/
def execCwrDeadline (f : SCtlFix) (s : State) : Host.Outcome State Fault Refusal := ctlRun f.g s (cwrOp f.r 0x32)

/-- R106. -/
def execWait (f : SNum) (s : State) : Host.Outcome State Fault Refusal :=
  ctlRun f.g s fun s =>
    let n := numOperand s f.n
    if n.ok then s.modAft fun a => { a with wait := n.bits + f.imm.setWidth 64 } else s.illegalSlot

/-- R108. -/
def execEndTask (g : BitVec 5) (s : State) : Host.Outcome State Fault Refusal :=
  ctlRun g s fun s => s.modAft fun a => { a with ends := true }

/-- R107. -/
def execYield (g : BitVec 5) (s : State) : Host.Outcome State Fault Refusal :=
  ctlRun g s fun s => s.modAft fun a => { a with yields := true }

end Sys2Proof.Machine
end

