-- ==== Sys2Proof/Machine/MSlot.lean ====
section
/-! DEFINITION. The memory slots at issue: addresses, checks, and the requests and accesses they make (R144 to R164). -/

namespace Sys2Proof.Machine

/-- The encoded delay of a landing field, 1 to 4,096 cc (R76). -/
def landDelay (lat : BitVec 8) : Nat := (lat.toNat % 64 + 1) * 4 ^ (lat.toNat / 64)

/-- B + sign-extend(off9) x size mod 2^64, none where the base is invalid (R62, R152). -/
def mAddr (s : State) (f : MFld) (size : Nat) : Option Nat :=
  let b := s.me.r.readS f.base
  if b.ok then some (b.bits + f.off.signExtend 64 * BitVec.ofNat 64 size).toNat else none

/-- Which regions an access may reach (R145). -/
inductive Reach where
  | plain
  | visible
  | atomic
deriving DecidableEq, Repr

/-- Whether a region is open to an access. -/
def Reach.ok : Reach → Nat → Bool
  | .plain, r => r != 2
  | .visible, r => r == 2
  | .atomic, r => r == 3 || r == 5

/-- One stretch of an access: where its bytes go in the request, its address and its length. -/
structure Chunk where
  pos : Nat
  va : Nat
  len : Nat
deriving DecidableEq, Repr

/-- The places of the bytes of all stretches, each with its position in the request (R145, R156, R164). -/
def locateChunks (s : State) (cid : Nat) (perm : Perm) (reach : Reach) : List Chunk → Except AFault (List (Nat × Loc))
  | [] => .ok []
  | c :: t =>
    if reach != .plain && decide (c.va < Config.windowL) then .error ⟨false, c.va, 0, 0⟩
    else match locateAll s cid perm c.va c.len with
    | .error e => .error e
    | .ok ls =>
      if ls.all fun l => reach.ok l.region then
        match locateChunks s cid perm reach t with
        | .error e => .error e
        | .ok r => .ok ((List.range ls.length).zipWith (fun i l => (c.pos + i, l)) ls ++ r)
      else .error ⟨false, c.va, 0, 0⟩

/-- The parts of an access: bytes of one ordering kind and one aligned 64-byte granule stay together (R164). -/
def accessParts (ls : List (Nat × Loc)) : List (List (Nat × Loc)) :=
  ls.splitBy fun a b => a.2.kind == b.2.kind && a.2.host == b.2.host && a.2.key / 64 == b.2.key / 64

/-- The key of the executing bundle and slot (R269, R351). -/
def State.keyNow (s : State) : Key := ⟨s.me.frameNow, s.me.bun.stamp, coreOf s.cur.cid, s.cur.slot⟩

/-- Adds accesses to the context's M queue, numbered in the context's order (R163). -/
def Ctx.pushM (c : Ctx) (accs : List MAcc) : Ctx :=
  { c with mq := c.mq ++ (List.range accs.length).zipWith (fun i a => { a with seq := c.seq + i }) accs,
           seq := c.seq + accs.length }

/-- The stores of a slot are results of the interval, by address (R230). -/
def Ctx.noteStores (c : Ctx) (slot : Nat) (accs : List MAcc) : Ctx :=
  { c with ival := c.ival.note (accs.filterMap fun a => a.cells.head?.map fun h => ⟨slot, h.1, a.cells.map (·.2), 1⟩) }

/-- The bundle acts as if CK were set (R228). -/
def State.markCk (s : State) (b : Bool) : State :=
  if b then s.modCtx s.cur.cid fun c => { c with bun := { c.bun with ck := true } } else s

/-- An access of an SO or UN page, or of host or peer memory, makes a checkpoint bundle (R228). -/
def strange (ls : List (Nat × Loc)) : Bool := ls.any fun l => l.2.kind != 0 || l.2.host

/-- The accesses of slot A's bundle in the same merged issue, which are older than those of slot B (R219): from which number
to which in that context's order. -/
def State.matesNow (s : State) : Nat × Nat :=
  if slotOf s.cur.cid = 1 ∧ s.me.bun.merged then ((s.ctx (s.cur.cid - 1)).bun.seq0, (s.ctx (s.cur.cid - 1)).seq) else (0, 0)

/-- An access record of the executing slot. -/
def mkAcc (s : State) (kind : MKind) (req : Nat) (part : List (Nat × Loc)) : MAcc :=
  let h := part.head?.map (·.2) |>.getD ⟨0, 0, 0, 0, false⟩
  { cid := s.cur.cid, seq := 0, kind := kind, scope := s.me.bun.scope, ord := h.kind, q := h.q, host := h.host,
    va := 0, cells := [], locs := [], req := req, operands := [], key := s.keyNow, first := false, mates := s.matesNow }

/-- The address of the first byte of a part of an access. -/
def partVa (cs : List Chunk) (part : List (Nat × Loc)) : Nat :=
  let p := (part.head?.map (·.1)).getD 0
  ((cs.find? fun c => decide (c.pos ≤ p) && decide (p < c.pos + c.len)).map fun c => (c.va + (p - c.pos)) % 2 ^ 64).getD 0

/-- Marks the first part of an access, and of the second one of a straddle (R164), for the count of R229. -/
def markFirst : Option Nat → List MAcc → List MAcc
  | _, [] => []
  | k, a :: t => { a with first := k != some a.ord } :: markFirst (some a.ord) t

/-- Entries held in the landing buffer of the executing slot (R151). -/
def landHeld (s : State) : Nat := (s.me.r.land.filter fun q => q.port == s.cur.slot).length

/-- The writes a landing makes, for the collision rule (R83). -/
def LandDest.writes : LandDest → List RWrite
  | .sreg r _ _ => [.sreg r (SVal.mkOk 0)]
  | .vreg r n => [.vreg r n VVal.zero]

/-- The true minimum latency of a load of a key in cc (R151, R218). -/
def minLatency (cid key : Nat) : Nat :=
  if key < 2 ^ 64 then 640
  else if 2 * 2 ^ 64 ≤ key ∧ key < 3 * 2 ^ 64 then 24
  else if 3 * 2 ^ 64 ≤ key ∧ key < 5 * 2 ^ 64 then 3
  else if 5 * 2 ^ 64 ≤ key ∧ key < 6 * 2 ^ 64 then (if slotOf cid = 1 then 24 else 3)
  else if 6 * 2 ^ 64 ≤ key ∧ key < 7 * 2 ^ 64 then
    (if (key - 6 * 2 ^ 64) / 2 ^ 14 = coreOf cid then 3 else 24)
  else 0

/-- Whether a key lies in a scratchpad bank, and in which (R146). -/
def scratchBank (key : Nat) : Option Nat :=
  if 3 * 2 ^ 64 ≤ key ∧ key < 4 * 2 ^ 64 then some ((key - 3 * 2 ^ 64) / 2 ^ 14) else none

/-- Whether M1 yields to an access that M0 of the same bundle makes to one of these scratchpad banks (R151). -/
def State.yields (s : State) (keys : List Nat) : Bool :=
  s.cur.slot == 7 && s.me.mq.any fun a => decide (s.me.bun.seq0 ≤ a.seq) && a.key.slot == 6 &&
    (a.cells.map (·.1) ++ a.locs.map (·.2)).any fun x => (scratchBank x).isSome && keys.any fun k => scratchBank k == scratchBank x

/-- The beat of the core before which the data of a load that issues now cannot arrive (R150, R151). -/
def State.earliest (s : State) (keys : List Nat) : Nat :=
  (s.core (coreOf s.cur.cid)).beats + keys.foldl (fun m a => max m (minLatency s.cur.cid a)) 0 + (if s.yields keys then 1 else 0)

/-- A landing-buffer entry of the executing slot, for the bytes at `keys`. -/
def State.addReq (s : State) (delay : Nat) (dest : LandDest) (okWords : List Bool) (bytes : List (Option Byte))
    (arrived : Bool) (qn : Option Nat) (keys : List Nat) : State :=
  s.modCtx s.cur.cid fun c =>
    { c with nextId := c.nextId + 1,
             r := { c.r with land := c.r.land ++
               [⟨c.nextId, s.cur.slot, s.now + delay, dest, okWords, bytes, arrived, false, qn, s.earliest keys, c.seq⟩] } }

/-- Notes the walks of the stretches of an access (R284). -/
def State.noteWalks (s : State) (cs : List Chunk) : State := cs.foldl (fun s c => s.noteWalk s.cur.cid c.va) s

/-- A load: its request takes a landing-buffer entry and its accesses enter the M queue. A word of `okWords` that is
false accesses nothing and lands invalid (R62, R150 to R156). Where several words of one access fault, a misaligned one is
reported before another fault of a lower word (R156 does not say which; DESIGN CHOICE, log entry 72). -/
def loadRun (s : State) (kind : MKind) (reach : Reach) (lat : BitVec 8) (dest : LandDest) (okWords : List Bool)
    (total align : Nat) (cs : List Chunk) : State :=
  let d := landDelay lat
  if s.collides d dest.writes then s.illegalSchedule
  else
    match cs.find? fun c => c.va % align != 0 with
    | some c => s.slotTrap 6 c.va
    | none =>
      match locateChunks s s.cur.cid .read reach cs with
      | .error e => s.slotFault .read e
      | .ok ls =>
        if 32 ≤ landHeld s then s.holdForLanding
        else if cs.any fun c => s.walkerFull s.cur.cid c.va then s.hold none
        else
          let id := s.me.nextId
          let accs := markFirst none <| (accessParts ls).map fun p =>
            { mkAcc s kind id p with va := partVa cs p, locs := p.map fun x => (x.1, x.2.key) }
          let bytes := (List.range total).map fun i => if ls.any (fun x => x.1 == i) then none else some (0 : Byte)
          (((s.noteWalks cs).addReq d dest okWords bytes ls.isEmpty none (ls.map (·.2.key))).modCtx s.cur.cid fun c => c.pushM accs).markCk
            (strange ls)

/-- A store: the bytes that `keep` allows are written; the others stay (R62, R153 to R156). -/
def storeRun (s : State) (kind : MKind) (reach : Reach) (align : Nat) (data : List Byte) (keep : Nat → Bool)
    (cs : List Chunk) : State :=
  match cs.find? fun c => c.va % align != 0 with
  | some c => s.slotTrap 6 c.va
  | none =>
    match locateChunks s s.cur.cid .write reach cs with
    | .error e => s.slotFault .write e
    | .ok ls =>
      let accs := markFirst none <| (accessParts ls).filterMap fun p =>
        let cells := p.filterMap fun x => if keep x.1 then some (x.2.key, data.getD x.1 0) else none
        if cells.isEmpty && kind != .release then none else some { mkAcc s kind 0 p with va := partVa cs p, cells := cells }
      if cs.any fun c => s.walkerFull s.cur.cid c.va then s.hold none
      else ((s.noteWalks cs).modCtx s.cur.cid fun c => (c.noteStores s.cur.slot accs).pushM accs).markCk
        (strange ls || (kind == .release && decide (0 < s.me.bun.scope)))

/-- A scalar load (R153, R157). -/
def scalarLoad (kind : MKind) (size : Nat) (sext : Bool) (f : MFld) (s : State) : Host.Outcome State Fault Refusal :=
  slotRun f.g s fun s =>
    let dest := LandDest.sreg f.data size sext
    match mAddr s f size with
    | none => loadRun s kind .plain f.lat dest [false] size 1 []
    | some a => loadRun s kind .plain f.lat dest [true] size size [⟨0, a, size⟩]

/-- A scalar store (R153, R157): below 8 bytes it reads only word 0 of A. -/
def scalarStore (kind : MKind) (size : Nat) (f : MFld) (s : State) : Host.Outcome State Fault Refusal :=
  slotRun f.g s fun s =>
    let a := s.me.r.readS f.data
    match mAddr s f size with
    | none => s
    | some va => storeRun s kind .plain size (leBytes size a.bits.toNat) (fun i => if i < 4 then a.ok0 else a.ok1)
        [⟨0, va, size⟩]

/-- A vector load of n words (R154). -/
def vectorLoad (reach : Reach) (align n : Nat) (f : MFld) (s : State) : Host.Outcome State Fault Refusal :=
  slotRun f.g s fun s =>
    let dest := LandDest.vreg (f.data.setWidth 5) n
    match mAddr s f (4 * n) with
    | none => loadRun s .load reach f.lat dest (List.replicate n false) (4 * n) 1 []
    | some a => loadRun s .load reach f.lat dest (List.replicate n true) (4 * n) align [⟨0, a, 4 * n⟩]

/-- The bytes of the first n words of a vector value. -/
def VVal.bytes (v : VVal) (n : Nat) : List Byte := (List.range n).flatMap fun i => leBytes 4 (v.word i).bits.toNat

/-- A vector store of n words, which skips invalid words (R154). -/
def vectorStore (reach : Reach) (align n : Nat) (f : MFld) (s : State) : Host.Outcome State Fault Refusal :=
  slotRun f.g s fun s =>
    match s.me.r.vsrc f.data, mAddr s f (4 * n) with
    | none, _ => s.illegalSlot
    | some _, none => s
    | some v, some a => storeRun s .store reach align (v.bytes n) (fun i => (v.word (i / 4)).ok) [⟨0, a, 4 * n⟩]

/-- R77. -/
def execMnop (g : BitVec 5) (s : State) : Host.Outcome State Fault Refusal := slotRun g s id

/-- R153. -/
def execLdB (f : MFld) (s : State) : Host.Outcome State Fault Refusal := scalarLoad .load 1 true f s
/-- R153. -/
def execLdBu (f : MFld) (s : State) : Host.Outcome State Fault Refusal := scalarLoad .load 1 false f s
/-- R153. -/
def execLdH (f : MFld) (s : State) : Host.Outcome State Fault Refusal := scalarLoad .load 2 true f s
/-- R153. -/
def execLdHu (f : MFld) (s : State) : Host.Outcome State Fault Refusal := scalarLoad .load 2 false f s
/-- R153. -/
def execLdW (f : MFld) (s : State) : Host.Outcome State Fault Refusal := scalarLoad .load 4 true f s
/-- R153. -/
def execLdWu (f : MFld) (s : State) : Host.Outcome State Fault Refusal := scalarLoad .load 4 false f s
/-- R153. -/
def execLdD (f : MFld) (s : State) : Host.Outcome State Fault Refusal := scalarLoad .load 8 false f s
/-- R153. -/
def execStB (f : MFld) (s : State) : Host.Outcome State Fault Refusal := scalarStore .store 1 f s
/-- R153. -/
def execStH (f : MFld) (s : State) : Host.Outcome State Fault Refusal := scalarStore .store 2 f s
/-- R153. -/
def execStW (f : MFld) (s : State) : Host.Outcome State Fault Refusal := scalarStore .store 4 f s
/-- R153. -/
def execStD (f : MFld) (s : State) : Host.Outcome State Fault Refusal := scalarStore .store 8 f s
/-- R157. -/
def execLdAcq (f : MFld) (s : State) : Host.Outcome State Fault Refusal := scalarLoad .acquire 8 false f s
/-- R157. -/
def execLdAcqW (f : MFld) (s : State) : Host.Outcome State Fault Refusal := scalarLoad .acquire 4 false f s
/-- R157. -/
def execStRel (f : MFld) (s : State) : Host.Outcome State Fault Refusal := scalarStore .release 8 f s
/-- R157. -/
def execStRelW (f : MFld) (s : State) : Host.Outcome State Fault Refusal := scalarStore .release 4 f s
/-- R154. -/
def execLdvW256 (f : MFld) (s : State) : Host.Outcome State Fault Refusal := vectorLoad .plain 4 8 f s
/-- R154. -/
def execLdvW512 (f : MFld) (s : State) : Host.Outcome State Fault Refusal := vectorLoad .plain 4 16 f s
/-- R154. -/
def execLdvW1024 (f : MFld) (s : State) : Host.Outcome State Fault Refusal := vectorLoad .plain 4 32 f s
/-- R154. -/
def execStvW256 (f : MFld) (s : State) : Host.Outcome State Fault Refusal := vectorStore .plain 4 8 f s
/-- R154. -/
def execStvW512 (f : MFld) (s : State) : Host.Outcome State Fault Refusal := vectorStore .plain 4 16 f s
/-- R154. -/
def execStvW1024 (f : MFld) (s : State) : Host.Outcome State Fault Refusal := vectorStore .plain 4 32 f s

/-- R155: word i comes from B + i x 4 x k. -/
def execLdvs (f : MFld) (s : State) : Host.Outcome State Fault Refusal :=
  slotRun f.g s fun s =>
    let b := s.me.r.readS f.base
    let dest := LandDest.vreg (f.data.setWidth 5) 32
    if b.ok then
      loadRun s .load .plain f.lat dest (List.replicate 32 true) 128 4 <| (List.range 32).map fun i =>
        ⟨4 * i, (b.bits + f.off.signExtend 64 * BitVec.ofNat 64 (4 * i)).toNat, 4⟩
    else loadRun s .load .plain f.lat dest (List.replicate 32 false) 128 1 []

/-- The index register and the element-size shift of a gather or scatter (R156). -/
def indexOf (s : State) (f : MFld) : VVal × Nat :=
  (s.me.r.readV (BitVec.ofNat 5 (f.off.toNat / 16)), f.off.toNat % 16)

/-- The address of word i of a gather or scatter (R156). -/
def indexAddr (b : Word) (x : VVal) (sh i : Nat) : Nat := (b + (x.word i).bits.setWidth 64 <<< sh).toNat

/-- R156. -/
def execLdvx (f : MFld) (s : State) : Host.Outcome State Fault Refusal :=
  slotRun f.g s fun s =>
    let b := s.me.r.readS f.base
    let (x, sh) := indexOf s f
    let dest := LandDest.vreg (f.data.setWidth 5) 32
    let oks := (List.range 32).map fun i => b.ok && (x.word i).ok
    loadRun s .load .plain f.lat dest oks 128 4 <| (List.range 32).filterMap fun i =>
      if oks.getD i false then some ⟨4 * i, indexAddr b.bits x sh i, 4⟩ else none

/-- R156: words go out in increasing i. -/
def execStvx (f : MFld) (s : State) : Host.Outcome State Fault Refusal :=
  slotRun f.g s fun s =>
    match s.me.r.vsrc f.data with
    | none => s.illegalSlot
    | some v =>
      let b := s.me.r.readS f.base
      let (x, sh) := indexOf s f
      storeRun s .store .plain 4 (v.bytes 32) (fun _ => true) <| (List.range 32).filterMap fun i =>
        if b.ok && (x.word i).ok && (v.word i).ok then some ⟨4 * i, indexAddr b.bits x sh i, 4⟩ else none

/-- Whether an access lies in cluster memory or translated memory, so that an open interval holds its stores (R228). -/
def heldKey (key : Nat) : Bool := decide (key < 2 ^ 64) || decide (2 * 2 ^ 64 ≤ key ∧ key < 3 * 2 ^ 64) || remoteKey key

/-- Whether a store is held in the checkpoint store buffer (R228): a task that ends drains it (R108). -/
def State.heldStore (s : State) (cid : Nat) (a : MAcc) : Bool :=
  let c := s.ctx cid
  !c.ival.unprotected && c.status == .running && decide (c.ival.startSeq ≤ a.seq) && a.cells.any fun x => heldKey x.1

/-- The entries of the checkpoint store buffer that a context's interval takes: its held stores and its load records, one
for each access (R228, R229). -/
def State.storeEntries (s : State) (cid : Nat) : Nat :=
  (s.ctx cid).ival.loadEntries + ((s.ctx cid).mq.filter fun b => s.heldStore cid b && b.first).length

/-- A read of memory outside the core makes a load record, and past 256 entries the interval becomes unprotected (R228,
R229). -/
def State.recordLoad (s : State) (cid : Nat) (l : LoadRec) : State :=
  let t := s.modCtx cid fun c => { c with ival := c.ival.record l }
  if 256 < t.storeEntries cid then t.modCtx cid Ctx.unprotect else t

/-- An entry of the M queue that orders others (R158, R159). Its bundle acts as if CK were set above core scope (R228). -/
def fenceRun (kind : MKind) (s : State) : State :=
  (s.modCtx s.cur.cid fun c => c.pushM [mkAcc s kind 0 []]).markCk (decide (0 < s.me.bun.scope))

/-- R158. -/
def execFence (f : MFld) (s : State) : Host.Outcome State Fault Refusal := slotRun f.g s (fenceRun .fence)

/-- R159. -/
def execXfence (f : MFld) (s : State) : Host.Outcome State Fault Refusal :=
  slotRun f.g s (fenceRun (.xfence f.classA f.classB))

/-- R160. -/
def execAccLd (f : MFld) (s : State) : Host.Outcome State Fault Refusal := vectorLoad .visible 128 32 f s
/-- R160. -/
def execAccSt (f : MFld) (s : State) : Host.Outcome State Fault Refusal := vectorStore .visible 128 32 f s

/-- An atomic without fetch (R161): `ops` names each word's position and its operand. In deterministic operation an FP
add to another core's area is an access fault. -/
def atomicRun (s : State) (op size va : Nat) (isFp : Bool) (ops : List (Nat × BitVec 32)) : State :=
  if va % size != 0 then s.slotTrap 6 va
  else
    match locateChunks s s.cur.cid .readWrite .atomic [⟨0, va, size⟩] with
    | .error e => s.slotFault .atomic e
    | .ok ls =>
      if isFp && s.me.bind.det && ls.any (fun l => l.2.region == 5) then s.slotTrap 6 va
      else
        let place (i : Nat) : Nat := (ls.getD i (0, ⟨0, 0, 0, 0, false⟩)).2.key
        let acc := { mkAcc s (.atomic op) 0 ls with va := va, operands := ops.map fun o => (place o.1, o.2) }
        s.modCtx s.cur.cid fun c => c.pushM [acc]

/-- An accumulator atomic on one word without fetch (R161). -/
def accAdd (op : Nat) (isFp : Bool) (f : MFld) (s : State) : Host.Outcome State Fault Refusal :=
  slotRun f.g s fun s =>
    let a := s.me.r.readS f.data
    match mAddr s f 4 with
    | none => s
    | some va => atomicRun s op 4 va isFp (if a.ok0 then [(0, a.bits.lo)] else [])

/-- R161. -/
def execAccAddI (f : MFld) (s : State) : Host.Outcome State Fault Refusal := accAdd 0x22 false f s
/-- R161. -/
def execAccAddF (f : MFld) (s : State) : Host.Outcome State Fault Refusal := accAdd 0x23 true f s

/-- A fetching atomic (R161): it reads sD at issue, and the old word lands in sD, sign-extended and valid. -/
def accFetch (op : Nat) (f : MFld) (s : State) : Host.Outcome State Fault Refusal :=
  slotRun f.g s fun s =>
    let d := s.me.r.readS f.data
    let dest := LandDest.sreg f.data 4 true
    let delay := landDelay f.lat
    if s.collides delay dest.writes then s.illegalSchedule
    else
      match mAddr s f 4 with
      | none => if 32 ≤ landHeld s then s.holdForLanding else s.addReq delay dest [false] [] true none []
      | some va =>
        if va % 4 != 0 then s.slotTrap 6 va
        else
          match locateChunks s s.cur.cid .readWrite .atomic [⟨0, va, 4⟩] with
          | .error e => s.slotFault .atomic e
          | .ok ls =>
            if 32 ≤ landHeld s then s.holdForLanding
            else
              let id := s.me.nextId
              let key0 := (ls.head?.map (·.2.key)).getD 0
              let acc := { mkAcc s (.atomic op) id ls with
                va := va
                locs := ls.map fun x => (x.1, x.2.key)
                operands := if d.ok0 then [(key0, d.bits.lo)] else [] }
              (s.addReq delay dest [true] (List.replicate 4 none) false none (ls.map (·.2.key))).modCtx s.cur.cid fun c => c.pushM [acc]

/-- R161. -/
def execAccFaddI (f : MFld) (s : State) : Host.Outcome State Fault Refusal := accFetch 0x24 f s
/-- R161. -/
def execAccXchg (f : MFld) (s : State) : Host.Outcome State Fault Refusal := accFetch 0x25 f s

/-- R161: only valid words add. -/
def execAccAddvF (f : MFld) (s : State) : Host.Outcome State Fault Refusal :=
  slotRun f.g s fun s =>
    match s.me.r.vsrc f.data, mAddr s f 128 with
    | none, _ => s.illegalSlot
    | some _, none => s
    | some v, some va => atomicRun s 0x26 128 va true <| (List.range 32).filterMap fun i =>
        if (v.word i).ok then some (4 * i, (v.word i).bits) else none

end Sys2Proof.Machine
end

