-- ==== Sys2Proof/Machine/MPath.lean ====
section
/-! DEFINITION. The steps of the ordering machine on the M path, and stream registers (R162 to R164, R320 to R329). -/

namespace Sys2Proof.Machine

/-! ### What is visible (R321, R325) -/

/-- The keys of the four bytes of a word. -/
def wordKeys (k : Nat) : List Nat := [k, k + 1, k + 2, k + 3]

/-- Every key an access touches. -/
def MAcc.keys (a : MAcc) : List Nat := a.cells.map (·.1) ++ a.locs.map (·.2) ++ a.operands.flatMap fun o => wordKeys o.1

/-- Whether two lists share a key. -/
def overlap (a b : List Nat) : Bool := a.any b.contains

/-- Whether an access only orders others. -/
def MKind.isFence : MKind → Bool
  | .fence => true
  | .xfence _ _ => true
  | _ => false

/-- Whether an access writes: a store, a release or an atomic. -/
def MKind.writes : MKind → Bool
  | .store => true
  | .release => true
  | .atomic _ => true
  | _ => false

/-- Whether an access reads into a request at a load's step. -/
def MKind.isLoad : MKind → Bool
  | .load => true
  | .acquire => true
  | _ => false

/-- The writes of a context and path below level min(S, Q) on the route of its core: those not visible at S (R321). -/
def State.hidden (s : State) (cid scope : Nat) (f : BufWrite → Bool) : Bool :=
  let l := coreOf cid
  let at_ (lvl : Nat) (b : List BufWrite) : Bool := b.any fun w => w.cid == cid && f w && decide (lvl < min scope w.q)
  at_ 0 (s.core l).buf || at_ 1 (s.clu (clusterOf l)).buf || at_ 2 (s.die (dieOf l)).buf || at_ 3 s.hub.pkgBuf
    || at_ 3 s.hub.bridge

/-- Atomics of a context on their way to another core's area. -/
def State.flyingAtomics (s : State) (cid : Nat) : List MAcc :=
  (s.clu (clusterOf (coreOf cid))).atomQ.filter fun a => a.cid == cid

/-- Whether a command reads the angle store, on path L (R201, R287). -/
def Cmd.onPathL (c : Cmd) : Bool :=
  c.op == 0x01 && decide (Config.windowK ≤ c.a.toNat) && decide (c.a.toNat < Config.windowK + 2 ^ 31)

/-- The class of an engine command (R159, R201). -/
def Cmd.engClass (c : Cmd) : Nat := if c.onPathL then 7 else 2

/-- The commands of the array that have not ended, the one a sequencer runs with them. -/
def State.engCmds (s : State) (cid : Nat) : List Cmd :=
  let core := s.core (coreOf cid)
  (core.engQ ++ (core.run.toList ++ core.heldOps ++ (s.ctx cid).seqr.inner.toList).map (·.cmd)).filter fun k => k.cid == cid

/-- Whether a sequencer run of a context older than `seq` may still issue a command that `f` names: its table has one, or a
table that will replace it is on its way (R190, R214, R326). -/
def State.seqMayIssue (s : State) (cid seq : Nat) (f : Nat → Bool) : Bool :=
  let l := s.engCmds cid
  l.any (fun c => c.op == 0x0E && decide (c.seq < seq)) &&
    ((s.ctx cid).seqr.table.any (fun e => f (fieldN e 121 7)) || l.any fun c => c.op == 0x0D && decide (c.seq < seq))

/-- Whether every access of class `cls` (R159) of a context older than `seq` is visible at scope S (R325). -/
def State.classDone (s : State) (cid cls seq scope : Nat) : Bool :=
  let c := s.ctx cid
  let buf (k : Nat) : Bool := s.hidden cid scope fun w => w.cls == k && decide (w.seq < seq)
  match cls with
  | 0 => !(c.mq.any fun a => !a.kind.isFence && decide (a.seq < seq)) && !buf 0
          && !((s.flyingAtomics cid).any fun a => decide (a.seq < seq))
  | 1 => !(c.copies.any fun k => decide (k.cmd.seq < seq)) && !buf 1
          && !(c.r.land.any fun q => q.qn.isSome && decide (q.seq < seq))
          && !(c.r.streams.toList.any fun q => q.any fun x => x.seqs.any fun n => decide (n < seq))
          && !s.seqMayIssue cid seq (fun op => decide (0x10 ≤ op))
  | 2 => !((s.engCmds cid).any fun k => !k.onPathL && decide (k.seq < seq)) && !buf 2
          && !(c.savs.any fun k => decide (k.seq < seq))
  | 3 => !(c.eqOut.any fun k => decide (k.1 < seq)) && !buf 3
  | 4 => !(c.pkOut.any fun k => decide (k < seq)) && !buf 4
  | 5 => !(c.ncmds.any fun k => decide (k.cmd.seq < seq)) && !buf 5
  | 6 => !(c.mq.any fun a => a.host && decide (a.seq < seq)) && !(s.hidden cid scope fun w => w.host && decide (w.seq < seq))
  | _ => !(c.asLds.any fun k => decide (k.cmd.seq < seq))
          && !((s.engCmds cid).any fun k => k.onPathL && decide (k.seq < seq))
          && !s.seqMayIssue cid seq (fun op => op == 1)

/-- The classes a class code names: one, or all (R159). -/
def classesOf (code : Nat) : List Nat := if code = 15 then List.range 8 else [code]

/-- Whether the condition of a fence entry is met, so that it orders nothing any more (R158, R159, R325). -/
def State.fenceMet (s : State) (cid : Nat) (a : MAcc) : Bool :=
  match a.kind with
  | .fence => s.classDone cid 0 a.seq a.scope
  | .xfence x _ => (classesOf x).all fun k => s.classDone cid k a.seq a.scope
  | _ => true

/-- Whether a fence entry holds accesses of class `cls` behind it. -/
def MKind.blocks (k : MKind) (cls : Nat) : Bool :=
  match k with
  | .fence => cls == 0
  | .xfence _ b => (classesOf b).contains cls
  | _ => false

/-- Whether an older fence, or an older acquire, still holds an access of class `cls` with number `seq` (R158, R159,
R324). Accesses of UN pages are not held by an acquire (R329). -/
def State.blockedAt (s : State) (cid cls seq : Nat) (un : Bool) : Bool :=
  (s.ctx cid).mq.any fun a => decide (a.seq < seq) &&
    ((a.kind == .acquire && !un) || (a.kind.blocks cls && !s.fenceMet cid a)
      || (cls == 6 && a.kind.blocks 0 && !s.fenceMet cid a))

/-- Whether an access of host or peer memory is held as one of class H (R281). -/
def State.blocked (s : State) (cid : Nat) (a : MAcc) : Bool :=
  s.blockedAt cid 0 a.seq (a.ord == 2) || (a.host && s.blockedAt cid 6 a.seq (a.ord == 2))

/-- Drops the fence entries whose condition is met. -/
def State.dropFences (s : State) (cid : Nat) : State :=
  s.modCtx cid fun c => { c with mq := c.mq.filter fun a => !(a.kind.isFence && s.fenceMet cid a) }

/-- Whether an older SO access of the context has not reached its point of coherence (R164, R329). -/
def State.soWaits (s : State) (cid : Nat) (a : MAcc) : Bool :=
  a.ord == 1 &&
    ((s.ctx cid).mq.any (fun b => b.ord == 1 && !b.kind.isFence && decide (b.seq < a.seq))
      || s.hidden cid 4 fun w => w.ord == 1 && decide (w.seq < a.seq))

/-- Whether an acc.ld or acc.st has to wait for an older `acc.swap` of its accumulator (R160, R212). -/
def State.swapWaits (s : State) (cid : Nat) (a : MAcc) : Bool :=
  a.keys.head?.any fun k => decide (5 * 2 ^ 64 ≤ k ∧ k < 6 * 2 ^ 64) &&
    (s.engCmds cid).any fun x => decide (x.seq < a.seq) && x.swaps ((k - 5 * 2 ^ 64) / 2 ^ 15 % 4)

/-- Whether an `acc.swap` has to wait for an older acc.ld or acc.st of one of its accumulators, which acts on the bank
that was visible when it issued (R160, R212). -/
def State.accWaits (s : State) (c : Cmd) : Bool :=
  (s.ctx c.cid).mq.any fun a => decide (a.seq < c.seq) &&
    a.keys.head?.any fun k => decide (5 * 2 ^ 64 ≤ k ∧ k < 6 * 2 ^ 64) && c.swaps ((k - 5 * 2 ^ 64) / 2 ^ 15 % 4)

/-- The byte of the other bank of an accumulator that a swap names, or the byte itself. -/
def Cmd.exchanged (c : Cmd) (k : Nat) : Nat :=
  if 5 * 2 ^ 64 ≤ k ∧ k < 6 * 2 ^ 64 ∧ c.swaps ((k - 5 * 2 ^ 64) / 2 ^ 15 % 4) = true then
    if k / 2 ^ 14 % 2 = 0 then k + 2 ^ 14 else k - 2 ^ 14
  else k

/-- An acc.ld or acc.st of a bundle after `seq.run` that waits when the sequencer issues an `acc.swap` of its accumulator: it
acts after the exchange, on the bank that is visible then (R160, R326; DEDUCED, log entry 87). -/
def State.retarget (s : State) (c : Cmd) : State :=
  s.modCtx c.cid fun x => { x with mq := x.mq.map fun a =>
    if c.seq < a.seq then { a with cells := a.cells.map fun e => (c.exchanged e.1, e.2),
                                   locs := a.locs.map fun e => (e.1, c.exchanged e.2) } else a }

/-- Whether an entry of the M queue waits for commands of the engine: for an exchange of banks, or as a fence (R159, R160). -/
def State.engAwaited (s : State) (cid : Nat) (a : MAcc) : Bool :=
  s.swapWaits cid a || (match a.kind with
    | .xfence x _ => (classesOf x).any fun k => (k == 2 || k == 7) && !s.classDone cid k a.seq a.scope
    | _ => false)

/-- Whether the array does no more work for a context that a pre-emption has stopped (R221). It goes on for what an M
request of the context waits for, since that request completes into the image (DEDUCED, log entry 67). -/
def State.engPaused (s : State) (cid : Nat) : Bool :=
  (s.ctx cid).status == .stopped && !((s.ctx cid).mq.any (s.engAwaited cid))

/-- Whether a pending access of the context, older and to the same place, has to come first (R163). -/
def State.addrWaits (s : State) (cid : Nat) (a : MAcc) (f : MKind → Bool) : Bool :=
  (s.ctx cid).mq.any (fun b => decide (b.seq < a.seq) && f b.kind && overlap b.keys a.keys)
    || (s.flyingAtomics cid).any fun b => decide (b.seq < a.seq) && overlap b.keys a.keys

/-! ### Leaving the M queue (R163, R322, R324) -/

/-- Whether every older RC or SO store and atomic of the context is visible at scope S: the release rule (R324). -/
def State.releaseReady (s : State) (cid : Nat) (a : MAcc) : Bool :=
  !((s.ctx cid).mq.any fun b => b.kind.writes && b.ord != 2 && decide (b.seq < a.seq))
    && !((s.flyingAtomics cid).any fun b => decide (b.seq < a.seq))
    && !(s.hidden cid a.scope fun w => w.cls == 0 && w.ord != 2 && decide (w.seq < a.seq))

/-- Whether a write below level min(S, Q) on the route of a core goes to a place that a release at scope S writes: the
release would overtake it there, and writes to one address keep their order (R163, R322, R329). -/
def State.underRelease (s : State) (cid : Nat) (a : MAcc) : Bool :=
  let l := coreOf cid
  let at_ (lvl : Nat) (b : List BufWrite) : Bool :=
    decide (lvl < min a.scope a.q) && b.any fun w => overlap (w.cells.map (·.1)) a.keys
  at_ 0 (s.core l).buf || at_ 1 (s.clu (clusterOf l)).buf || at_ 2 (s.die (dieOf l)).buf || at_ 3 s.hub.pkgBuf
    || at_ 3 s.hub.bridge

/-- Whether a write of slot A in the same merged issue, which is older, has not left its M queue (R219). -/
def State.mateWaits (s : State) (cid : Nat) (a : MAcc) : Bool :=
  decide (a.mates.1 < a.mates.2) &&
    (s.ctx (cid - 1)).mq.any fun b => b.kind.writes && decide (a.mates.1 ≤ b.seq) && decide (b.seq < a.mates.2)

/-- Whether an entry of the M queue may leave it now (R163, R164, R219, R228, R324). -/
def State.mayLeave (s : State) (cid : Nat) (a : MAcc) : Bool :=
  a.kind.writes && !s.mateWaits cid a && !s.heldStore cid a && !s.blocked cid a && !s.soWaits cid a && !s.swapWaits cid a
    && !s.addrWaits cid a (fun _ => true)
    && (if a.ord == 2 then
          !((s.ctx cid).mq.any fun b => decide (b.seq < a.seq) && (b.kind == .release || b.kind.isFence))
        else !((s.ctx cid).mq.any fun b => decide (b.seq < a.seq) && b.kind.writes && b.ord != 2))
    && (a.kind != .release || (s.releaseReady cid a && !s.underRelease cid a))

/-- Takes an entry out of the M queue. -/
def State.dropM (s : State) (cid seq : Nat) : State :=
  s.modCtx cid fun c => { c with mq := c.mq.filter fun a => a.seq != seq || a.kind.isFence }

/-- A store's write on its route. -/
def MAcc.write (a : MAcc) : BufWrite := ⟨a.cid, 0, a.seq, a.q, a.ord, a.host, a.cells⟩

/-- A release enters its route at level min(S, Q); at level 4 the remote side has its bytes in the same step (R324). -/
def State.enterRelease (s : State) (cid : Nat) (a : MAcc) : State :=
  if a.host && decide (4 ≤ min a.scope a.q) then s.putCells a.cells else s.enter (coreOf cid) (min a.scope a.q) a.write

/-- R322 step 1: the entry at a position of the M queue leaves it, when it is a store, or an atomic of another core's
area. A release enters its route at level min(S, Q) (R324). -/
def execStoreLeaveQueue (cid pos : Nat) (s : State) : Host.Outcome State Fault Refusal :=
  let s := s.dropFences cid
  match (s.ctx cid).mq[pos]? with
  | none => .next s
  | some a =>
    if !s.mayLeave cid a then .next s
    else
      let t := s.dropM cid a.seq
      match a.kind with
      | .atomic _ =>
        if a.q = 0 then .next s
        else .next (t.modClu (clusterOf (coreOf cid)) fun k => { k with atomQ := k.atomQ ++ [a] })
      | .release => .next ((if a.q = 0 then t.logRows cid a.cells else t).enterRelease cid a)
      | _ => .next ((if a.q = 0 then t.logRows cid a.cells else t).enter (coreOf cid) 0 a.write)

/-- Takes the entry at a position out of a buffer when no earlier one writes the same place (R322 step 2). -/
def takeWrite (b : List BufWrite) (pos : Nat) : Option (BufWrite × List BufWrite) :=
  match b[pos]? with
  | none => none
  | some w =>
    if (b.take pos).any fun x => overlap (x.cells.map (·.1)) (w.cells.map (·.1)) then none
    else some (w, b.eraseIdx pos)

/-- A core, cluster or die whose route contains the buffer. -/
def unitCore (level unit : Nat) : Nat := if level = 0 then unit else if level = 1 then unit * 16 else unit * 512

/-- R322 step 2: a write moves from a core, cluster or die buffer to the next level. -/
def execWriteMoveOutward (level unit pos : Nat) (s : State) : Host.Outcome State Fault Refusal :=
  let go (b : List BufWrite) (put : List BufWrite → State) : Host.Outcome State Fault Refusal :=
    match takeWrite b pos with
    | none => .next s
    | some (w, rest) => .next ((put rest).enter (unitCore level unit) (level + 1) w)
  match level with
  | 0 => go (s.core unit).buf fun b => s.modCore unit fun c => { c with buf := b }
  | 1 => go (s.clu unit).buf fun b => s.modClu unit fun c => { c with buf := b }
  | 2 => go (s.die unit).buf fun b => s.modDie unit fun c => { c with buf := b }
  | _ => .next s

/-- R322 step 3: a write moves from the package buffer to memory, or is handed to the bridge. -/
def execWriteToMemory (pos : Nat) (s : State) : Host.Outcome State Fault Refusal :=
  match takeWrite s.hub.pkgBuf pos with
  | none => .next s
  | some (w, rest) =>
    let t := s.modHub fun h => { h with pkgBuf := rest }
    if w.host then .next (t.modHub fun h => { h with bridge := h.bridge ++ [w] }) else .next (t.putCells w.cells)

/-! ### Loads and acquires (R323, R324) -/

/-- The newest older store of the context's own queue to a key (R323). -/
def forward (mq : List MAcc) (seq key : Nat) : Option Byte :=
  mq.foldl (fun acc b => if b.kind.writes && decide (b.seq < seq) then
    match b.cells.findRev? fun c => c.1 == key with
    | some c => some c.2
    | none => acc
    else acc) none

/-- What a load of the context reads at a key. -/
def State.loadByte (s : State) (cid seq key : Nat) : Byte :=
  match forward (s.ctx cid).mq seq key with
  | some b => b
  | none => s.readByte (coreOf cid) 0 key

/-- Fills bytes of a request by position. -/
def MReq.fillAll (q : MReq) (bs : List (Nat × Byte)) : MReq :=
  { q with bytes := bs.foldl (fun l b => l.set b.1 (some b.2)) q.bytes }

/-- Fills a request of a context. -/
def Regs.fillReq (r : Regs) (id : Nat) (bs : List (Nat × Byte)) : Regs :=
  { r with land := r.land.map fun q => if q.id = id then q.fillAll bs else q }

/-- Whether a load or acquire may perform now (R163, R164, R323). -/
def State.mayPerform (s : State) (cid : Nat) (a : MAcc) : Bool :=
  a.kind.isLoad && !s.blocked cid a && !s.soWaits cid a && !s.swapWaits cid a
    && !s.addrWaits cid a fun k => k.isLoad || (match k with
      | .atomic _ => true
      | _ => false)

/-- A load performs: its bytes go to its request, and a load from memory outside the core makes a load record of the
open interval (R228, R229). -/
def State.performLoad (s : State) (cid : Nat) (a : MAcc) : State :=
  let bs := a.locs.map fun l => (l.1, s.loadByte cid a.seq l.2)
  let t := (s.modRegs cid fun r => r.fillReq a.req bs).dropM cid a.seq
  if a.locs.any fun l => heldKey l.2 then t.recordLoad cid ⟨a.first, (a.locs.map fun l => l.2 / 64).dedup, bs.map (·.2)⟩
  else t

/-- R323. -/
def execLoadPerform (cid pos : Nat) (s : State) : Host.Outcome State Fault Refusal :=
  let s := s.dropFences cid
  match (s.ctx cid).mq[pos]? with
  | some a => if a.kind == .load && s.mayPerform cid a then .next (s.performLoad cid a) else .next s
  | none => .next s

/-- R324: once it has performed, nothing waits for it. -/
def execAcquirePerform (cid pos : Nat) (s : State) : Host.Outcome State Fault Refusal :=
  let s := s.dropFences cid
  match (s.ctx cid).mq[pos]? with
  | some a => if a.kind == .acquire && s.mayPerform cid a then .next (s.performLoad cid a) else .next s
  | none => .next s

/-! ### Atomics (R161, R239, R351) -/

/-- The bytes of a word at a key, as a number. -/
def State.atomWord (s : State) (k : Nat) : Nat := leNat (memGetBytes s.mem k 4)

/-- The new word of an accumulator atomic (R161). -/
def atomNew (op old : Nat) (x : BitVec 32) : Nat :=
  if op = 0x22 ∨ op = 0x24 then (old + x.toNat) % 2 ^ 32
  else if op = 0x25 then x.toNat
  else (fAdd fmtF32 .rne (decodeF fmtF32 old) (decodeF fmtF32 x.toNat)).bits

/-- An atomic performs at its area: the request takes the old word, and each operand word is updated. -/
def State.performAtomic (s : State) (op : Nat) (a : MAcc) : State :=
  let bs := a.locs.map fun l => (l.1, memGet s.mem l.2)
  let s := s.modRegs a.cid fun r => r.fillReq a.req bs
  a.operands.foldl (fun s o => s.putCells (cellsAt o.1 (leBytes 4 (atomNew op (s.atomWord o.1) o.2)))) s

/-- The pending atomic at a position: first those of the M queue, from 0, then those on their way, from 1,000 (R239). -/
def State.atomicAt (s : State) (cid pos : Nat) : Option MAcc :=
  if pos < 1000 then (s.ctx cid).mq[pos]? else (s.flyingAtomics cid)[pos - 1000]?

/-- Whether an atomic has reached its area: an own area on leaving the M queue, another core's once no older write of the
core to the word is in its buffer. -/
def State.atomicHere (s : State) (cid pos : Nat) (a : MAcc) : Bool :=
  if pos < 1000 then a.q == 0 && s.mayLeave cid a
  else !((s.core (coreOf cid)).buf.any fun w => overlap (w.cells.map (·.1)) a.keys)

/-- Removes an atomic from where it waits. -/
def State.dropAtomic (s : State) (cid pos : Nat) (a : MAcc) : State :=
  if pos < 1000 then s.dropM cid a.seq
  else s.modClu (clusterOf (coreOf cid)) fun k => { k with atomQ := k.atomQ.filter fun b => !(b.cid == cid && b.seq == a.seq) }

/-- R161: an atomic performs indivisibly at its area; in deterministic operation `KEYED_PERFORM` does so. -/
def execAtomicPerform (cid pos : Nat) (s : State) : Host.Outcome State Fault Refusal :=
  let s := s.dropFences cid
  match s.atomicAt cid pos with
  | some a =>
    match a.kind with
    | .atomic op =>
      if !(s.ctx cid).bind.det && s.atomicHere cid pos a then .next ((s.dropAtomic cid pos a).performAtomic op a) else .next s
    | _ => .next s
  | none => .next s

/-- The order of keys (R269, R351). -/
def Key.lt (a b : Key) : Bool :=
  decide (a.frame < b.frame) || (a.frame == b.frame && (decide (a.stamp < b.stamp) || (a.stamp == b.stamp &&
    (decide (a.lcore < b.lcore) || (a.lcore == b.lcore && decide (a.slot < b.slot))))))

/-- The frame time of a key's stamp in a context's frames (R349). -/
def Ctx.keyTime (c : Ctx) (k : Key) : Nat := k.frame * c.bind.frame + k.stamp

/-- Whether two bindings are of one deterministic node. -/
def Binding.detMates (a b : Binding) : Bool := a.det && b.det && a.part == b.part && a.launch == b.launch && a.node == b.node

/-- The running tasks of a context's deterministic node. -/
def State.detRunning (s : State) (cid : Nat) : List (Nat × Ctx) :=
  s.ctxs.filter fun c => c.2.status == .running && c.2.bind.detMates (s.ctx cid).bind

/-- The frame times of the saved tasks of a context's deterministic node. -/
def State.detSaved (s : State) (cid : Nat) : List Nat :=
  let b := (s.ctx cid).bind
  ((s.part b.part).saved.filter fun x => x.ctx.bind.detMates b).map fun x => x.ctx.r.frameTime

/-- The frame times of the tasks of a context's deterministic node that run on: saved ones count, but not for what a stopped
context still has to complete into its image (R221, R349). -/
def State.detTimes (s : State) (cid : Nat) : List Nat :=
  (s.detRunning cid).map (fun c => c.2.r.frameTime) ++ (if (s.ctx cid).status == .stopped then [] else s.detSaved cid)

/-- Whether every task of the context's deterministic node that runs on has reached a frame time (R349, R351). -/
def State.frameReached (s : State) (cid t : Nat) : Bool := (s.detTimes cid).all fun x => decide (t ≤ x)

/-- Every pending deterministic atomic to a place with a smaller key. -/
def State.earlierAtomic (s : State) (cid : Nat) (a : MAcc) : Bool :=
  let k := clusterOf (coreOf cid)
  let hit (b : MAcc) : Bool := (match b.kind with
    | .atomic _ => true
    | _ => false) && b.key.lt a.key && overlap b.keys a.keys
  (s.clu k).atomQ.any hit || s.ctxs.any fun c => clusterOf (coreOf c.1) == k && c.2.mq.any hit

/-- R351, for the atomics: no earlier than 64 cc of frame time after the stamp, in the order of the keys. -/
def State.keyedAtomic (s : State) (cid pos : Nat) : State :=
  let s := s.dropFences cid
  match s.atomicAt cid pos with
  | some a =>
    match a.kind with
    | .atomic op =>
      if (s.ctx cid).bind.det && s.atomicHere cid pos a && s.frameReached cid ((s.ctx cid).keyTime a.key + 64)
          && !s.earlierAtomic cid a then (s.dropAtomic cid pos a).performAtomic op a else s
    | _ => s
  | none => s

/-! ### Streams (R162) -/

/-- Stream register n of a context. -/
def Regs.stream (r : Regs) (n : Nat) : Option Stream := r.streams.toList.getD n none

/-- Sets a stream register. -/
def Regs.setStream (r : Regs) (n : Nat) (v : Option Stream) : Regs :=
  if h : n < 8 then { r with streams := r.streams.set n v h } else r

/-- Requests that still wait for an element of stream n, in issue order. -/
def Regs.pops (r : Regs) (n : Nat) : List MReq := r.land.filter fun q => q.qn == some n

/-- The bytes of a stream element. -/
def elemBytes (e : List VWord) : List (Option Byte) := e.flatMap fun w => (leBytes 4 w.bits.toNat).map some

/-- The oldest element of an input stream goes to a request; popping the last one of a closed stream unbinds it (R247). -/
def Regs.popInto (r : Regs) (n id : Nat) : Regs :=
  match r.stream n with
  | some q =>
    match q.elems with
    | e :: t =>
      let go (x : MReq) : MReq := if x.id = id then { x with bytes := elemBytes e, arrived := true, qn := none } else x
      { r with land := r.land.map go }.setStream n (if q.closed && t.isEmpty then none else some { q with elems := t })
    | [] => r
  | none => r

/-- A request that waits for the next element of a stream takes it: requests pop in issue order, and none before the older
accesses that hold path C (R159, R162, R324). -/
def State.servePop (s : State) (cid n : Nat) : State :=
  match (s.ctx cid).r.pops n with
  | x :: _ => if s.blockedAt cid 1 x.seq false then s else s.modRegs cid fun r => r.popInto n x.id
  | [] => s

/-- R162: a pop takes its place on path C; the oldest element is popped in issue order. -/
def execQrd (f : MFld) (s : State) : Host.Outcome State Fault Refusal :=
  slotRun f.g s fun s =>
    let n := f.base.toNat % 8
    let dest := LandDest.vreg (f.data.setWidth 5) 32
    let d := landDelay f.lat
    match s.me.r.stream n with
    | none => s.illegalSlot
    | some q =>
      if q.output || (q.closed && decide (q.elems.length ≤ (s.me.r.pops n).length)) then s.illegalSlot
      else if s.collides d dest.writes then s.illegalSchedule
      else if 32 ≤ landHeld s then s.holdForLanding
      else
        let t := (s.addReq d dest (List.replicate 32 true) (List.replicate 128 none) false (some n) []).modCtx s.cur.cid
          fun c => { c with seq := c.seq + 1 }
        t.servePop s.cur.cid n

/-- R162. -/
def execQwr (f : MFld) (s : State) : Host.Outcome State Fault Refusal :=
  slotRun f.g s fun s =>
    let n := f.base.toNat % 8
    match s.me.r.vsrc f.data, s.me.r.stream n with
    | some v, some q =>
      if !q.output then s.illegalSlot
      else if 8 ≤ q.elems.length then s.hold (some 0xC)
      else s.modCtx s.cur.cid fun c =>
        { c with seq := c.seq + 1,
                 r := c.r.setStream n (some { q with elems := q.elems ++ [v.toList], seqs := q.seqs ++ [c.seq] }) }
    | _, _ => s.illegalSlot

end Sys2Proof.Machine
end

