-- ==== Sys2Proof/Machine/TSlot.lean ====
section
/-! DEFINITION. What every command of the T slot shares at issue: parameters, checks, result words (R62, R194 to R196). -/

namespace Sys2Proof.Machine

/-- A command's landing delay in cc (R194). -/
def wordDelay (f : TFld) : Nat := 16 * (f.m.toNat + 1)

/-- A pending result word for the executing slot, where sD asks for one (R194). -/
def State.addWord (s : State) (f : TFld) (id : Nat) (val : Option SVal) (wait : TWait) (b6 : Bool) : State :=
  if f.d = 0 then s
  else s.modRegs s.cur.cid fun r =>
    { r with words := r.words ++ [⟨id, s.now + wordDelay f, f.d, val, wait, false, b6⟩] }

/-- Why a command that asks for a result word cannot issue: a collision (R83), or eight words pending (R194). -/
def State.wordTrouble (s : State) (f : TFld) : Option State :=
  if f.d = 0 then none
  else if s.collides (wordDelay f) [.sreg f.d (SVal.mkOk 0)] then some s.illegalSchedule
  else if 8 ≤ s.me.r.words.length then some s.holdForLanding
  else none

/-- The context whose registers give the parameters: in a fused gang the leader's for rotation commands (R254). -/
def State.paramCtx (s : State) (op : Nat) : Ctx :=
  if s.me.fused && decide (op < 0x10) then s.ctx s.me.bind.leader else s.me

/-- The command a T slot makes, with its parameter words as read at issue (R194). -/
def mkCmd (s : State) (op : Nat) (f : TFld) (four : Bool) : Cmd :=
  let r := (s.paramCtx op).r
  { cid := s.cur.cid, op := op, a := (r.readS f.a).bits, b := (r.readS f.b).bits, c := (r.readS f.c).bits,
    d := if four then (r.readS f.d).bits else 0, m := f.m.toNat, dreg := if four then 0 else f.d, req := s.me.nextId,
    seq := s.me.seq, scope := s.me.bun.scope, key := s.keyNow, fmts := s.bankFmts s.cur.cid,
    rmode := s.me.r.rmode, gid := (s.ctx s.me.bind.leader).bun.seq0 }

/-- Whether every parameter register is valid (R62). -/
def paramsOk (s : State) (op : Nat) (f : TFld) (four : Bool) : Bool :=
  let r := (s.paramCtx op).r
  (r.readS f.a).ok && (r.readS f.b).ok && (r.readS f.c).ok && (!four || (r.readS f.d).ok)

/-- The executing context's next command takes its place in its order (R326). -/
def State.takeSeq (s : State) : State :=
  s.modCtx s.cur.cid fun c => { c with seq := c.seq + 1, nextId := c.nextId + 1 }

/-- How a command is dealt with at issue. -/
structure TSpec where
  op : Nat
  /-- sD is a parameter, and there is no result word. -/
  four : Bool
  /-- The bundle acts as if CK were set (R228). -/
  ck : Bool
  wait : Cmd → TWait
  b6 : Cmd → Bool
  /-- The checks of fields whose breach is an illegal slot (R195). -/
  ok : Cmd → Bool
  /-- The unit has no room (R75). -/
  busy : State → Cmd → Bool
  put : State → Cmd → State
  /-- An address that makes the command an access fault at issue. -/
  bad : State → Cmd → Option Nat

/-- A T command (R62, R194, R195): an invalid parameter word leaves only an invalid result word. -/
def tRun (t : TSpec) (f : TFld) (s : State) : Host.Outcome State Fault Refusal :=
  slotRun f.g s fun s =>
    let word : TFld := if t.four then { f with d := 0 } else f
    let cmd := mkCmd s t.op f t.four
    if !paramsOk s t.op f t.four then
      match s.wordTrouble word with
      | some e => e
      | none => (s.addWord word cmd.req (some (SVal.whole 0 false)) .command false).takeSeq
    else if !t.ok cmd then s.illegalSlot
    else
      match t.bad s cmd, s.wordTrouble word with
      | some va, _ => s.slotTrap 6 va
      | none, some e => e
      | none, none =>
        if t.busy s cmd then s.hold (if t.op < 0x10 then some 0xF else none)
        else t.put (((s.addWord word cmd.req none (t.wait cmd) (t.b6 cmd)).takeSeq).markCk t.ck) cmd

/-- A plain command: a result word that its completion readies. -/
def TSpec.plain (op : Nat) (ck : Bool) (ok : Cmd → Bool) (busy : State → Cmd → Bool) (put : State → Cmd → State) : TSpec :=
  ⟨op, false, ck, fun _ => .command, fun _ => false, ok, busy, put, fun _ _ => none⟩

/-- R77. -/
def execTnop (g : BitVec 5) (s : State) : Host.Outcome State Fault Refusal := slotRun g s id

/-- A result word is ready (R194, R196). -/
def Regs.readyWord (r : Regs) (id : Nat) (v : SVal) : Regs :=
  let go (w : TWord) : TWord := if w.id = id then { w with val := some v } else w
  { r with words := r.words.map go }

/-- A result word of R196. -/
def resultWord (flags : BitVec 8) (info : Nat) : SVal :=
  SVal.mkOk (BitVec.ofNat 64 (flags.toNat * 2 ^ 32 + info % 2 ^ 32))

/-- Whether an operation of a class of a context waits on the fault service (R285). -/
def State.svcWaits (s : State) (cid cls : Nat) : Bool :=
  let p := s.part (s.partOf cid)
  (p.faults ++ p.faultWaiting).any fun f => f.waiters.contains (cid, cls)

/-- Work that a task leaves held when it ends is reported as failed (R108, R246). -/
def Ctx.reportHeld (x : Ctx) (h : Nat × Nat) : Ctx :=
  { x with firstFail := some (x.firstFail.getD ⟨2, h.1, 9, x.r.inHandler, h.2, x.r.pc⟩) }

/-- A field of a parameter word. -/
def Cmd.fieldOf (w : Word) (lo n : Nat) : Nat := fieldN w.toNat lo n

end Sys2Proof.Machine
end

