-- ==== Sys2Proof/Machine/Engine.lean ====
section
/-! DEFINITION. The rotation array: panels, bricks, records, the rotation and its sweeps (R165 to R183, R201 to R209). -/

namespace Sys2Proof.Machine

/-! ### Window and engine accesses (R166, R198, R326) -/

/-- The floating-point format of a format code (R41). -/
def fmtOfCode : Nat → Option Fmt
  | 0 => some fmtF64
  | 1 => some fmtF32
  | 2 => some fmtBF16
  | 3 => some fmtF16
  | _ => none

/-- An access fault at an address. -/
def accFault (va : Nat) : AFault := ⟨false, va, 0, 0⟩

/-- The address of a window offset. -/
def winAddr (o : Nat) : Nat := Config.windowL + o

/-- `n` bytes of the window as the array reads them: at the core buffer (R326). -/
def rdWinBytes (s : State) (cid o n : Nat) : List Byte :=
  (List.range n).map fun i => match windowLoc s cid (o + i) with
    | some l => s.readByte (coreOf cid) 0 l.key
    | none => 0

/-- The little-endian value of those bytes. -/
def rdWin (s : State) (cid o n : Nat) : Nat := leNat (rdWinBytes s cid o n)

/-- The array writes bytes of the window, entering at the core buffer (R326). -/
def wrWin (s : State) (cid seq o : Nat) (bs : List Byte) : State :=
  let ls := (List.range bs.length).zipWith (fun i b => (windowLoc s cid (o + i), b)) bs
  let cells := ls.filterMap fun x => x.1.map fun l => (l.key, x.2)
  match ls.head? with
  | some (some l, _) => if l.q = 0 then s.putOwn cid cells else s.enter (coreOf cid) 0 ⟨cid, 2, seq, l.q, 0, false, cells⟩
  | _ => s

/-- Maps with the first error as outcome. -/
def mapE {α β ε : Type} (f : α → Except ε β) : List α → Except ε (List β)
  | [] => .ok []
  | a :: t =>
    match f a with
    | .error e => .error e
    | .ok b =>
      match mapE f t with
      | .error e => .error e
      | .ok r => .ok (b :: r)

/-- The key of a byte of the angle-store window, for a context whose node declares the store (R287, R288). -/
def angleKey (s : State) (cid va : Nat) : Option Nat :=
  if Config.windowK ≤ va ∧ va < Config.windowK + 2 ^ 31 ∧ (s.ctx cid).bind.astore then
    some (kAngle (dieOf (coreOf cid)) (va - Config.windowK))
  else none

/-- Bytes an engine command reads from an address: the window at the core buffer, translated memory at the package
buffer (R326). The angle-store window is an access fault (R287). -/
def engRead (s : State) (cid va n : Nat) : Except AFault (List Byte) :=
  match locateAll s cid .read va n with
  | .error e => .error e
  | .ok ls =>
    if ls.all fun l => l.region != 2 then
      .ok (ls.map fun l => s.readByte (coreOf cid) (if l.region = 8 then 3 else 0) l.key)
    else .error (accFault va)

/-- Bytes that `rot.ld` reads: it alone reaches the angle store (R201, R287). -/
def ldRead (s : State) (cid va n : Nat) : Except AFault (List Byte) :=
  if Config.windowK ≤ va ∧ va < Config.windowK + 2 ^ 31 then
    match angleKey s cid va, angleKey s cid (va + n - 1) with
    | some a, some _ => .ok (memGetBytes s.mem a n)
    | _, _ => .error (accFault va)
  else engRead s cid va n

/-! ### Panels (R165, R199) -/

/-- A panel: its context, window offset, rows, columns, column stride and format. -/
structure Panel where
  cid : Nat
  off : Nat
  m : Nat
  l : Nat
  cs : Nat
  code : Nat
  fmt : Fmt
deriving DecidableEq, Repr

/-- Bytes of an element. -/
def Panel.es (p : Panel) : Nat := p.fmt.width / 8

/-- Bytes from the first to the last element. -/
def Panel.span (p : Panel) : Nat := (p.l - 1) * p.cs + p.m * p.es

/-- The format a logical bank had when a command issued, where the plan uses the bank (R146, R147). -/
def Cmd.bank (c : Cmd) (n : Nat) : Option Nat :=
  c.fmts[n]?.bind fun f => if f = 0xFF then none else some f.toNat

/-- Whether `n` bytes from a scratchpad offset lie in used banks of one format. -/
def banksOk (c : Cmd) (o n code : Nat) : Bool :=
  decide (o + n ≤ 0x40000) && decide (0 < n) &&
    (List.range ((o + n - 1) / 0x4000 - o / 0x4000 + 1)).all fun i => c.bank (o / 0x4000 + i) == some code

/-- Whether `n` bytes from an offset lie in used scratchpad banks, of any format, or in the operand store (R205). -/
def regionOk (c : Cmd) (o n : Nat) : Bool :=
  (decide (0x100000 ≤ o) && decide (o + n ≤ 0x110000)) ||
    (decide (o + n ≤ 0x40000) && decide (0 < n) &&
      (List.range ((o + n - 1) / 0x4000 - o / 0x4000 + 1)).all fun i => (c.bank (o / 0x4000 + i)).isSome)

/-- A panel at a window offset, or none where it breaks R165 or R199. -/
def mkPanel (c : Cmd) (cid off m l cs osfmt : Nat) : Option Panel :=
  let code := if off < 0x40000 then (c.bank (off / 0x4000)).getD 255 else osfmt
  match fmtOfCode code with
  | none => none
  | some f =>
    let p : Panel := ⟨cid, off, m, l, cs, code, f⟩
    if cs % p.es ≠ 0 ∨ cs < m * p.es ∨ m = 0 ∨ 64 < m ∨ l = 0 ∨ 65536 < l then none
    else if off < 0x40000 then if banksOk c off p.span code then some p else none
    else if 0x100000 ≤ off ∧ off + p.span ≤ 0x110000 then some p
    else none

/-- The panel of a descriptor (R199). -/
def panelOf (c : Cmd) (w : Word) (osfmt : Nat) : Option Panel :=
  let x := w.toNat
  mkPanel c c.cid (fieldN x 0 21) (fieldN x 41 7) (fieldN x 48 16 + 1) (fieldN x 24 17) osfmt

/-- The fields of a descriptor that R199 bounds at issue. -/
def descOk (w : Word) : Bool :=
  let x := w.toNat
  decide (1 ≤ fieldN x 41 7) && decide (fieldN x 41 7 ≤ 64) && decide (1 ≤ fieldN x 24 17) && fieldN x 21 3 == 0

/-- Element (r, c). -/
def Panel.get (p : Panel) (s : State) (r c : Nat) : Nat := rdWin s p.cid (p.off + c * p.cs + r * p.es) p.es

/-- Column c. -/
def Panel.col (p : Panel) (s : State) (c : Nat) : List Nat := (List.range p.m).map fun r => p.get s r c

/-- Writes element (r, c). -/
def Panel.put (p : Panel) (seq : Nat) (s : State) (r c v : Nat) : State :=
  wrWin s p.cid seq (p.off + c * p.cs + r * p.es) (leBytes p.es v)

/-- Writes column c. -/
def Panel.putCol (p : Panel) (seq : Nat) (s : State) (c : Nat) (vs : List Nat) : State :=
  (List.range p.m).foldl (fun s r => p.put seq s r c (vs.getD r 0)) s

/-! ### Bricks and records (R167 to R169, R206) -/

/-- A brick, or a derive record as a chain of one-pair stages. A stage lists lane pairs with their codes. -/
structure Brick where
  isRec : Bool
  n : Nat
  stages : List (List (Nat × Nat × Nat))
  ckpt : Bool
  mask : Nat
  sigma : Option (List Nat)
  size : Nat
deriving DecidableEq, Repr

/-- A little-endian field of an image. -/
def slice (bs : List Byte) (o n : Nat) : Nat := leNat ((bs.drop o).take n)

/-- Whether bytes are all zero. -/
def zeros (bs : List Byte) : Bool := bs.all (· == 0)

/-- The size of an image, from its first 64 bytes; none where its header is malformed (R168, R206). -/
def imageSize (h : List Byte) : Option Nat :=
  let w := slice h 0 4
  let af := w % 16
  let st := fieldN w 4 6
  if af < 1 ∨ 3 < af then none
  else if st = 0 then
    let n := fieldN w 24 8
    let e := slice h 4 4
    if e + n * (n + 1) / 2 = fieldN w 16 8 * n then some (64 + 2 * 2 ^ af * e) else none
  else if 32 < st ∨ 128 < fieldN w 16 16 then none
  else some (64 + st * 32 * 2 ^ af + (if fieldN w 10 1 = 1 then 256 else 0) + 64 * fieldN w 16 16)

/-- A pair in increasing order. -/
def sortPair (i j : Nat) : Nat × Nat := if i < j then (i, j) else (j, i)

/-- A custom pairing table (R169): none where it names a lane twice, pairs a lane with itself or sets a reserved bit. -/
def parseTable (bs : List Byte) (o : Nat) : Option (List (Option (Nat × Nat))) :=
  let es := (List.range 32).map fun p => slice bs (o + 2 * p) 2
  let used := es.filter fun x => decide (x < 2 ^ 15)
  let lanes := used.flatMap fun x => [fieldN x 6 6, fieldN x 0 6]
  if used.any (fun x => fieldN x 12 3 != 0) || !decide lanes.Nodup then none
  else some (es.map fun x => if x < 2 ^ 15 then some (sortPair (fieldN x 6 6) (fieldN x 0 6)) else none)

/-- The pairs of the slots of a stage (R169). -/
def patPairs (code : Nat) (tables : List (List (Option (Nat × Nat)))) : Option (List (Option (Nat × Nat))) :=
  if code = 0 then some ((List.range 32).map fun p => some (2 * p, 2 * p + 1))
  else if code = 1 then some ((List.range 31).map (fun p => some (2 * p + 1, 2 * p + 2)) ++ [none])
  else if 0x10 ≤ code ∧ code ≤ 0x15 then
    let k := 2 ^ (code - 0x10)
    some (((List.range 64).filter fun l => l / k % 2 == 0).map fun l => some (l, l + k))
  else if 0x40 ≤ code ∧ code ≤ 0x7E then
    let q := code - 0x40
    some (some (q, 63) :: (List.range 31).map fun p => some (sortPair ((q + p + 1) % 63) ((q + 62 - p) % 63)))
  else if 0x80 ≤ code then tables[code - 0x80]?
  else none

/-- All of a list of options. -/
def allSome {α : Type} : List (Option α) → Option (List α)
  | [] => some []
  | none :: _ => none
  | some a :: t => (allSome t).map (a :: ·)

/-- A derive record as a brick (R206). -/
def parseRecord (bs : List Byte) (size : Nat) : Option Brick :=
  let w := slice bs 0 4
  let cs := 2 ^ (w % 16)
  let m := fieldN w 16 8
  let n := fieldN w 24 8
  let entry (i : Nat) : Option (List (Nat × Nat × Nat)) :=
    let o := 64 + 2 * cs * i
    let x := slice bs o 2
    let p := fieldN x 0 6
    if fieldN x 11 5 ≠ 0 ∨ slice bs (o + 2) (cs - 2) ≠ 0 ∨ m ≤ p + 1 ∨ n ≤ fieldN x 6 5 then none
    else some [(p, p + 1, slice bs (o + cs) cs)]
  if fieldN w 4 12 ≠ 0 ∨ 64 ≤ slice bs 8 4 ∨ !zeros ((bs.drop 12).take 52) then none
  else (allSome ((List.range (slice bs 4 4)).map entry)).map fun st => ⟨true, 8 * cs, st, false, 0, none, size⟩

/-- A brick image (R168): none where it is malformed. A non-zero MASK without DROP and a non-zero pattern byte beyond stage S
break the table and count as malformed, though the list of R168 does not name them (DESIGN CHOICE, log entry 80). -/
def parseBrick (bs : List Byte) (size : Nat) : Option Brick :=
  let w := slice bs 0 4
  let cs := 2 ^ (w % 16)
  let st := fieldN w 4 6
  let scale := fieldN w 10 1 = 1
  let sig := 64 + st * 32 * cs
  let tab := sig + (if scale then 256 else 0)
  let mask := slice bs 36 8
  if fieldN w 13 3 ≠ 0 ∨ !zeros ((bs.drop (4 + st)).take (32 - st)) ∨ !zeros ((bs.drop 44).take 20)
      ∨ (fieldN w 11 1 = 0 ∧ mask ≠ 0) then none
  else
    match allSome ((List.range (fieldN w 16 16)).map fun t => parseTable bs (tab + 64 * t)) with
    | none => none
    | some tables =>
      let stage (i : Nat) : Option (List (Nat × Nat × Nat)) :=
        (patPairs (slice bs (4 + i) 1) tables).map fun ps =>
          ((List.range ps.length).zipWith (fun p x => x.map fun ij =>
            (ij.1, ij.2, slice bs (64 + (i * 32 + p) * cs) cs)) ps).filterMap fun x => x
      (allSome ((List.range st).map stage)).map fun sts =>
        ⟨false, 8 * cs, sts, fieldN w 12 1 == 1, mask,
          if scale then some ((List.range 64).map fun i => slice bs (sig + 4 * i) 4) else none, size⟩

/-- An image whose size is known. -/
def parseImage (bs : List Byte) (size : Nat) : Option Brick :=
  if fieldN (slice bs 0 4) 4 6 = 0 then parseRecord bs size else parseBrick bs size

/-- The bytes of an image, read by `rd` (R168). -/
def readImage (rd : Nat → Nat → Except AFault (List Byte)) (va : Nat) : Except AFault (List Byte) :=
  if va % 64 ≠ 0 then .error (accFault va)
  else
    match rd va 64 with
    | .error e => .error e
    | .ok h =>
      match imageSize h with
      | none => .error (accFault va)
      | some z => rd va z

/-- A schedule buffer's copy of the image at an address (R201). -/
def bufferCopy (s : State) (cid va : Nat) : Option (List Byte) :=
  let c := s.ctx cid
  let hit (t : Option (Nat × List Byte)) : Option (List Byte) := t.bind fun x => if x.1 = va then some x.2 else none
  (hit c.tag0).orElse fun _ => hit c.tag1

/-- The image an operation uses: memory's, or the buffer's copy. Where the image in memory has changed, which of the
two an operation reads is a free choice (R201). -/
def imageFor (s : State) (cid seq va : Nat) : Except AFault (List Byte) :=
  match bufferCopy s cid va with
  | none => readImage (engRead s cid) va
  | some c =>
    match readImage (ldRead s cid) va with
    | .ok m => .ok (if m ≠ c ∧ Config.openChoice (2 ^ 200 + cid * 2 ^ 100 + seq) then m else c)
    | .error _ => .ok c

/-- The brick at an address. -/
def getBrick (s : State) (cid seq va : Nat) : Except AFault Brick :=
  match imageFor s cid seq va with
  | .error e => .error e
  | .ok bs =>
    match parseImage bs bs.length with
    | some b => .ok b
    | none => .error (accFault va)

/-- The bricks of a chain (R200): a record may only be the last. -/
def chain (s : State) (cid seq : Nat) : Nat → Nat → Except AFault (List Brick)
  | 0, _ => .ok []
  | k + 1, va =>
    match getBrick s cid seq va with
    | .error e => .error e
    | .ok b =>
      if b.isRec && k != 0 then .error (accFault va)
      else
        match chain s cid seq k ((va + b.size + 63) / 64 * 64 % 2 ^ 64) with
        | .error e => .error e
        | .ok r => .ok (b :: r)

/-! ### The rotation (R170, R171, R180) -/

/-- The format of the coefficients for a data format (R170). -/
def coefFmt (f : Fmt) : Fmt := if f = fmtF64 then fmtF64 else fmtF32

/-- cos and sin of a code, rounded to nearest (R170). -/
def coefs (f : Fmt) (n code : Nat) : FVal × FVal :=
  let r := angleCosSin (coefFmt f) (.mode .rne) n (code % 2 ^ n)
  (decodeF (coefFmt f) r.1.bits, decodeF (coefFmt f) r.2.bits)

/-- The exact rotation of a pair: two values with the flags of NaN and infinity. -/
def rotExact (rm : RMode) (c s x y : FVal) : (FVal × BitVec 8) × (FVal × BitVec 8) :=
  let dot (a b : FVal × BitVec 8) : FVal × BitVec 8 :=
    let t := addX (rm == .rdn) a.1 b.1
    (t.1, t.2 ||| a.2 ||| b.2)
  (dot (mulX c x) (mulX s.negate y), dot (mulX s x) (mulX c y))

/-- The rotation of one sample (R170). -/
def rotPair (f : Fmt) (rm : RMode) (cs : FVal × FVal) (x y : Nat) : FRes × FRes :=
  let r := rotExact rm cs.1 cs.2 (decodeF f x) (decodeF f y)
  (deliverW f (.mode rm) r.1, deliverW f (.mode rm) r.2)

/-- A column with the flags raised so far. -/
abbrev Col := List Nat × BitVec 8

/-- One stage on a column; with `inv` by the negated codes (R170, R180). -/
def stageCol (f : Fmt) (rm : RMode) (n : Nat) (inv : Bool) (st : List (Nat × Nat × Nat)) (y : Col) : Col :=
  st.foldl (fun y p =>
    if p.2.1 < y.1.length then
      let code := if inv then 2 ^ n - p.2.2 % 2 ^ n else p.2.2
      let r := rotPair f rm (coefs f n code) (y.1.getD p.1 0) (y.1.getD p.2.1 0)
      ((y.1.set p.1 r.1.bits).set p.2.1 r.2.bits, y.2 ||| r.1.flags ||| r.2.flags)
    else y) y

/-- Stage S: no flag is raised for what it rounds into a lane that is then dropped (R171; DEDUCED, log entry 60). The
roundings of the stages before it raise theirs in every lane. -/
def dropStage (f : Fmt) (rm : RMode) (n mask : Nat) (st : List (Nat × Nat × Nat)) (y : Col) : Col :=
  st.foldl (fun y p =>
    if p.2.1 < y.1.length then
      let r := rotPair f rm (coefs f n p.2.2) (y.1.getD p.1 0) (y.1.getD p.2.1 0)
      let fl (l : Nat) (x : FRes) : BitVec 8 := if mask.testBit l then 0 else x.flags
      ((y.1.set p.1 r.1.bits).set p.2.1 r.2.bits, y.2 ||| fl p.1 r.1 ||| fl p.2.1 r.2)
    else y) y

/-- The last stage of a brick with its scale: each lane's exact value, rounded once (R171). No flag is raised for a
dropped lane (log 60). -/
def scaledStage (f : Fmt) (rm : RMode) (n mask : Nat) (sig : List Nat) (st : List (Nat × Nat × Nat)) (y : Col) : Col :=
  let ex := st.foldl (fun (ex : List (FVal × BitVec 8)) p =>
    if p.2.1 < y.1.length then
      let cs := coefs f n p.2.2
      let r := rotExact rm cs.1 cs.2 (decodeF f (y.1.getD p.1 0)) (decodeF f (y.1.getD p.2.1 0))
      (ex.set p.1 r.1).set p.2.1 r.2
    else ex) (y.1.map fun v => (decodeF f v, 0))
  (List.range y.1.length).foldl (fun (acc : Col) l =>
    let v := ex.getD l (.fin false 0 0, 0)
    let t := mulX (decodeF fmtF32 (sig.getD l 0)) v.1
    let r := deliverW f (.mode rm) (t.1, t.2 ||| v.2)
    (acc.1 ++ [r.bits], if mask.testBit l then acc.2 else acc.2 ||| r.flags)) ([], y.2)

/-- The lane-drop mask (R171). -/
def dropLanes (mask : Nat) (ys : List Nat) : List Nat :=
  (List.range ys.length).zipWith (fun l v => if mask.testBit l then 0 else v) ys

/-- A brick applied forward to a column (R167, R171). -/
def applyFwd (b : Brick) (f : Fmt) (rm : RMode) (ys : List Nat) : Col :=
  let run (sts : List (List (Nat × Nat × Nat))) (y : Col) : Col := sts.foldl (fun y st => stageCol f rm b.n false st y) y
  match b.sigma with
  | none =>
    let y := dropStage f rm b.n b.mask (b.stages.getLast?.getD []) (run b.stages.dropLast (ys, 0))
    (dropLanes b.mask y.1, y.2)
  | some sig =>
    let y := scaledStage f rm b.n b.mask sig (b.stages.getLast?.getD []) (run b.stages.dropLast (ys, 0))
    (dropLanes b.mask y.1, y.2)

/-- y / sigma, +0 where sigma is zero (R180, R181). -/
def unscale (f : Fmt) (rm : RMode) (sig y : Nat) : FRes :=
  let v := decodeF fmtF32 sig
  if v.isZero then ⟨0, 0⟩ else fDiv f rm (decodeF f y) v

/-- A brick applied backward to a column (R180). -/
def applyBack (b : Brick) (f : Fmt) (rm : RMode) (ys : List Nat) : Col :=
  let y0 : Col := match b.sigma with
    | none => (ys, 0)
    | some sig =>
      (List.range ys.length).foldl (fun (acc : Col) l =>
        let r := unscale f rm (sig.getD l 0) (ys.getD l 0)
        (acc.1 ++ [r.bits], acc.2 ||| r.flags)) ([], 0)
  b.stages.reverse.foldl (fun y st => stageCol f rm b.n true st y) y0

/-! ### Norms (R173, R209) -/

/-- The sum of squares of a column in FP64, in lane order, with the flags of its roundings (R173, R209). -/
def sumSq (f : Fmt) (ys : List Nat) : FRes :=
  ys.foldl (fun acc y =>
    let r := fFma fmtF64 .rne (decodeF f y) (decodeF f y) (decodeF fmtF64 acc.bits)
    ⟨r.bits, acc.flags ||| r.flags⟩) ⟨0, 0⟩

/-- The relative change d of the norm monitor (R173). -/
def normChange (si so : Nat) : Nat :=
  match decodeF fmtF64 si, decodeF fmtF64 so with
  | .fin _ a e, .fin _ b g =>
    if a = 0 then if b = 0 then 0 else fmtF64.infBits
    else
      let d := addX false (.fin false b g) (.fin true a e)
      match d.1 with
      | .fin _ k h => (fDiv fmtF64 .rne (.fin false k h) (.fin false a e)).bits
      | _ => fmtF64.infBits
  | _, _ => fmtF64.infBits

/-- The monitor's update of DRIFT, and DR where it exceeds DRIFTLIM (R173, R174). -/
def Regs.monitor (r : Regs) (si so : Nat) : Regs × BitVec 8 :=
  let d := (fMinMax fmtF64 true r.drift.toNat (normChange si so)).bits
  ({ r with drift := BitVec.ofNat 64 d },
    if fCmp (decodeF fmtF64 d) (decodeF fmtF64 r.driftlim.toNat) = some .gt then flDR else 0)

/-- RN_fp64(sqrt(a / b)) of two positive finite values. -/
def sqrtRatio (ma : Nat) (ea : Int) (mb : Nat) (eb : Int) : FRes :=
  let e := ea - eb
  let m := if e % 2 = 0 then ma else 2 * ma
  let e := if e % 2 = 0 then e else e - 1
  let k := 64 + Nat.log2 mb
  let r := isqrt (m * 2 ^ (2 * k) / mb)
  let x : Int := e / 2 - (k : Int)
  if r * r * mb = m * 2 ^ (2 * k) then roundF fmtF64 .rne false r x else roundF fmtF64 .rne false (2 * r + 1) (x - 1)

/-- Every element times an FP64 factor. -/
def rescale (f : Fmt) (rm : RMode) (k : Nat) (ys : List Nat) : Col :=
  ys.foldl (fun (acc : Col) y =>
    let r := fMul f rm (decodeF f y) (decodeF fmtF64 k)
    (acc.1 ++ [r.bits], acc.2 ||| r.flags)) ([], 0)

/-- Every element times a factor that is itself rounded, with the flags of both roundings. -/
def rescaleBy (f : Fmt) (rm : RMode) (k : FRes) (ys : List Nat) : Col :=
  let y := rescale f rm k.bits ys
  (y.1, y.2 ||| k.flags)

/-- The renormalisation of a column (R173): left alone unless both sums are finite and not zero. The sums raise no flag,
the rounding of the factor does (log 60). -/
def renorm (f : Fmt) (rm : RMode) (si so : Nat) (ys : List Nat) : Col :=
  match decodeF fmtF64 si, decodeF fmtF64 so with
  | .fin _ a e, .fin _ b g => if a = 0 ∨ b = 0 then (ys, 0) else rescaleBy f rm (sqrtRatio a e b g) ys
  | _, _ => (ys, 0)

/-- The factor f = RN_fp64(sqrt(T / S)) that scales a column of sum S to the stored norm T, none where the column is
left as it is, with the flags (R209). -/
def nrmFactor (t s : Nat) : Option FRes × BitVec 8 :=
  match decodeF fmtF64 t, decodeF fmtF64 s with
  | .nan _, _ => (none, flNV)
  | .inf true, _ => (none, flNV)
  | .inf false, .fin _ b _ => if b = 0 then (none, 0) else (some ⟨fmtF64.infBits, 0⟩, 0)
  | .inf false, .inf _ => (some ⟨fmtF64.qnan, flNV⟩, 0)
  | .inf false, .nan _ => (some ⟨fmtF64.qnan, 0⟩, 0)
  | .fin n a e, v =>
    if a = 0 then (none, 0)
    else if n then (none, flNV)
    else match v with
      | .fin _ b g => if b = 0 then (none, 0) else (some (sqrtRatio a e b g), 0)
      | .inf _ => (some ⟨0, 0⟩, 0)
      | .nan _ => (some ⟨fmtF64.qnan, 0⟩, 0)

/-- The scaling of a column to a stored norm, with the flags of its sum and of the factor (R209). -/
def nrmScale (f : Fmt) (rm : RMode) (t : Nat) (ys : List Nat) : Col :=
  let s := sumSq f ys
  let k := nrmFactor t s.bits
  match k.1 with
  | none => (ys, s.flags ||| k.2)
  | some x =>
    let y := rescaleBy f rm x ys
    (y.1, y.2 ||| s.flags)

/-! ### Steps (R185) -/

/-- The columns of a step: 64 from `c`, at most to L. -/
def colGroup (l c : Nat) : List Nat := (List.range (min 64 (l - c))).map (c + ·)

/-- The fields of the control word of R200. -/
def Cmd.nbr (c : Cmd) : Nat := fieldN c.c.toNat 48 8
/-- CKOFF (R200). -/
def Cmd.ckoff (c : Cmd) : Nat := fieldN c.c.toNat 24 21
/-- OSFMT (R200, R205). -/
def Cmd.osfmt (c : Cmd) : Nat := fieldN c.c.toNat 16 8
/-- A rounding field of a command: 7 reads RMODE as the command holds it (R42, R44, R200). -/
def Cmd.modeOf (c : Cmd) (n : Nat) : RMode := RMode.ofCode (if n = 7 then c.rmode.toNat else n)
/-- RM in bits [2:0] of the control word (R200, R205, R207). -/
def Cmd.rm (c : Cmd) : RMode := c.modeOf (fieldN c.c.toNat 0 3)

/-- The member of a fused gang at core row b of the column of `cid`; `cid` itself otherwise (R192). -/
def rowMember (s : State) (cid b : Nat) : Nat :=
  let c := s.ctx cid
  if c.fused && decide (1 < c.bind.gangH) then
    let want := b * c.bind.gangW + c.bind.member % c.bind.gangW
    match s.ctxs.find? fun x => x.2.fused && x.2.bind.leader == c.bind.leader && x.2.bind.member == want
        && x.2.status != .free with
    | some x => x.1
    | none => cid
  else cid

/-- The chain of an apply: in a gang of h rows, brick v is the v-th of the chain as core row v reads it (R192). -/
def appChain (s : State) (c : Cmd) : Except AFault (List Brick) :=
  mapE (fun b => match chain s (rowMember s c.cid b) c.seq c.nbr c.b.toNat with
    | .error e => .error e
    | .ok bs =>
      match bs[b]? with
      | some x => .ok x
      | none => .error (accFault c.b.toNat)) (List.range c.nbr)

/-- CKPT bricks before brick b (R202). -/
def ckptIndex (bs : List Brick) (b : Nat) : Nat := ((bs.take b).filter (·.ckpt)).length

/-- The checkpoint area of brick b (R202). -/
def ckptPanel (s : State) (c : Cmd) (p : Panel) (bs : List Brick) (b : Nat) : Option Panel :=
  mkPanel c (rowMember s c.cid b) (c.ckoff + ckptIndex bs b * p.cs * p.l) p.m p.l p.cs p.code

/-- Whether the checkpoint areas are as R202 asks. -/
def ckptsOk (s : State) (c : Cmd) (p : Panel) (bs : List Brick) : Bool :=
  (List.range bs.length).all fun b =>
    if (bs.getD b ⟨false, 16, [], false, 0, none, 0⟩).ckpt then
      match ckptPanel s c p bs b with
      | some q => q.code == p.code && (decide (c.ckoff < 0x40000) || c.osfmt == p.code)
          && (decide (p.off + p.span ≤ q.off) || decide (q.off + q.span ≤ p.off))
      | none => false
    else true

/-- A brick on one column, with monitor and renormalisation (R202, R203). -/
def brickCol (r : Regs) (b : Brick) (c : Cmd) (f : Fmt) (ys : List Nat) : Regs × Col :=
  let y := if c.op = 0x03 then applyBack b f c.rm ys else applyFwd b f c.rm ys
  let si := (sumSq f ys).bits
  let so := (sumSq f y.1).bits
  let mon := if fieldN c.c.toNat 5 1 = 1 then r.monitor si so else (r, 0)
  let z := if fieldN c.c.toNat 6 1 = 1 then renorm f c.rm si so y.1 else (y.1, 0)
  (mon.1, (z.1, y.2 ||| mon.2 ||| z.2))

/-- The core row at which a sweep of a gang column ends: the last forward, the first backward; and the row where it
starts (R192). -/
def endRow (s : State) (c : Cmd) : Nat := if c.op = 0x02 then (s.ctx c.cid).bind.gangH - 1 else 0
/-- The core row at which a sweep of a gang column starts (R192). -/
def startRow (s : State) (c : Cmd) : Nat := if c.op = 0x02 then 0 else (s.ctx c.cid).bind.gangH - 1

/-- Whether this member performs the sweep of its gang column: the one where it ends. -/
def sweepsHere (s : State) (c : Cmd) : Bool := rowMember s c.cid (endRow s c) == c.cid

/-- Whether a sweep is chained over several core rows of a fused gang: its columns then go through every brick without
returning to memory (R192), so that it can stop only between column groups. -/
def chained (s : State) (c : Cmd) : Bool := (s.ctx c.cid).fused && decide (1 < (s.ctx c.cid).bind.gangH)

/-- The bricks of one step of a sweep, in their order: one, or the whole chain of a gang column. -/
def stepBricks (s : State) (o : EngOp) : List Nat :=
  let at_ (k : Nat) : Nat := if o.cmd.op = 0x02 then k else o.cmd.nbr - 1 - k
  if chained s o.cmd then (List.range o.cmd.nbr).map at_ else [at_ o.step]

/-- The panel from which a step of a sweep takes its columns: at its first brick that of the core row where it starts. -/
def sweepFrom (s : State) (o : EngOp) (p : Panel) : Panel :=
  if o.step = 0 then { p with cid := rowMember s o.cmd.cid (startRow s o.cmd) } else p

/-- A sweep after a step on 64 columns: at the next columns, the next brick, or its end (R185, R187). -/
def EngOp.swept (o : EngOp) (l : Nat) (whole : Bool) (info : Nat) : EngOp :=
  if o.col + 64 < l then { o with col := o.col + 64 }
  else if !whole && decide (o.step + 1 < o.cmd.nbr) then { o with step := o.step + 1, col := 0 }
  else { o with step := o.cmd.nbr, col := l, finished := true, info := info }

/-- A brick on a column on its way: its checkpoint, then its result (R202, R203). -/
def appBrick (c : Cmd) (p : Panel) (bs : List Brick) (col : Nat) (x : State × List Nat × BitVec 8) (bi : Nat) :
    State × List Nat × BitVec 8 :=
  let b := bs.getD bi ⟨false, 16, [], false, 0, none, 0⟩
  let s := match if b.ckpt && c.op == 0x02 then ckptPanel x.1 c p bs bi else none with
    | some q => q.putCol c.seq x.1 col x.2.1
    | none => x.1
  let y := brickCol (s.ctx c.cid).r b c p.fmt x.2.1
  (s.modRegs c.cid fun _ => y.1, y.2.1, x.2.2 ||| y.2.2)

/-- One step of `rot.app` or `rot.appt`: 64 columns of one brick, or of the chain of a gang column (R185, R192, R202, R203).
Of a sweep chained over several core rows the member of the row where it ends has the DRIFT, XFLAGS and flags of the result
word (R192 does not say whose they are; DESIGN CHOICE, log entry 81). Every step reads the images of its chain again; one that
is no image any more ends the operation there with INFO NBR (R202 does not say when they are read; DESIGN CHOICE, log entry
82). -/
def appStep (s : State) (o : EngOp) : State × EngOp :=
  let c := o.cmd
  let done : EngOp := { o with finished := true, info := c.nbr }
  match panelOf c c.a c.osfmt, appChain s c with
  | some p, .ok bs =>
    if c.nbr ≤ o.step ∨ !sweepsHere s c then (s, done)
    else
      let src := sweepFrom s o p
      let r := (colGroup p.l o.col).foldl (fun (x : State × BitVec 8) col =>
        let y := (stepBricks s o).foldl (appBrick c p bs col) (x.1, src.col x.1 col, x.2)
        (p.putCol c.seq y.1 col y.2.1, y.2.2)) (s, o.flags)
      (r.1, { o with flags := r.2 }.swept p.l (chained s c) c.nbr)
  | _, _ => (s, done)

/-! ### Accumulators (R188, R189, R213) -/

/-- The working bank of accumulator n (R188). -/
def workBank (s : State) (cid n : Nat) : Nat := if (s.ctx cid).accRole.toList.getD n false then 1 else 0

/-- The key of word w of row r of a working bank. -/
def accKey (s : State) (cid n r w : Nat) : Nat := kAcc cid n (workBank s cid n) (r * 256 + w * 4)

/-- The first touch of a working row copies it into the shadow area (R189). -/
def touchRow (s : State) (cid n r : Nat) : State :=
  if (s.ctx cid).touched.contains (n, r) then s
  else
    let row := memGetBytes s.mem (accKey s cid n r 0) 256
    (s.modCtx cid fun c => { c with touched := (n, r) :: c.touched }).putCells (cellsAt (kShadow cid ((n * 64 + r) * 256)) row)

/-- Every touched row comes back from the shadow area (R189). -/
def restoreRows (s : State) (cid : Nat) : State :=
  let s := (s.ctx cid).touched.foldl (fun s x =>
    s.putOwn cid (cellsAt (accKey s cid x.1 x.2 0) (memGetBytes s.mem (kShadow cid ((x.1 * 64 + x.2) * 256)) 256))) s
  s.modCtx cid fun c => { c with touched := [] }

/-- A working word of `n` bytes. -/
def rdAcc (s : State) (cid acc r w n : Nat) : Nat := leNat (memGetBytes s.mem (accKey s cid acc r w) n)

/-- Writes a working word of `n` bytes. -/
def wrAcc (s : State) (cid acc r w n v : Nat) : State :=
  (touchRow s cid acc r).putOwn cid (cellsAt (accKey s cid acc r w) (leBytes n v))

/-! ### The gradient sweep (R181, R182, R204) -/

/-- One pair of one sample of the sweep: the angle gradient, then both rotations (R181). -/
def gradPair (c : Cmd) (f : Fmt) (n acc co row : Nat) (p : Nat × Nat × Nat × Nat) (x : State × List Nat × List Nat × BitVec 8) :
    State × List Nat × List Nat × BitVec 8 :=
  let (slot, i, j, code) := p
  let (s, ys, gs, fl) := x
  if j < ys.length then
    let v (l : List Nat) (k : Nat) : FVal := decodeF f (l.getD k 0)
    let old := decodeF fmtF32 (rdAcc s c.cid acc row (co + slot) 4)
    let t1 := mulX (v gs j) (v ys i)
    let t2 := mulX (v gs i).negate (v ys j)
    let t := addX (c.rm == .rdn) t1.1 t2.1
    let u := addX (c.rm == .rdn) old t.1
    let r := deliverW fmtF32 (.mode c.rm) (u.1, u.2 ||| t.2 ||| t1.2 ||| t2.2)
    let s := wrAcc s c.cid acc row (co + slot) 4 r.bits
    let cs := coefs f n (2 ^ n - code % 2 ^ n)
    let a := rotPair f c.rm cs (ys.getD i 0) (ys.getD j 0)
    let b := rotPair f c.rm cs (gs.getD i 0) (gs.getD j 0)
    (s, (ys.set i a.1.bits).set j a.2.bits, (gs.set i b.1.bits).set j b.2.bits,
      fl ||| r.flags ||| a.1.flags ||| a.2.flags ||| b.1.flags ||| b.2.flags)
  else x

/-- The scale part of the sweep on one lane (R181). -/
def gradScale (c : Cmd) (f : Fmt) (sig : List Nat) (acc co : Nat) (x : State × List Nat × List Nat × BitVec 8) (l : Nat) :
    State × List Nat × List Nat × BitVec 8 :=
  let (s, ys, gs, fl) := x
  let z := unscale f .rne (sig.getD l 0) (ys.getD l 0)
  let row := 32 + l / 32
  let w := co + l % 32
  let g := decodeF f (gs.getD l 0)
  let old := decodeF fmtF32 (rdAcc s c.cid acc row w 4)
  let a := fFma fmtF32 c.rm g (decodeF f z.bits) old
  let h := fMul f c.rm g (decodeF fmtF32 (sig.getD l 0))
  (wrAcc s c.cid acc row w 4 a.bits, ys.set l z.bits, gs.set l h.bits, fl ||| z.flags ||| a.flags ||| h.flags)

/-- The pairs of a stage with their slot numbers. A stage of a brick keeps its slots in order, so the slot is looked
up from the pattern. -/
def slotPairs (st : List (Nat × Nat × Nat)) (slots : List Nat) : List (Nat × Nat × Nat × Nat) :=
  slots.zipWith (fun k p => (k, p.1, p.2.1, p.2.2)) st

/-- The used slots of each stage of a brick image (R169). -/
def usedSlots (bs : List Byte) : List (List Nat) :=
  let w := slice bs 0 4
  let st := fieldN w 4 6
  let tab := 64 + st * 32 * 2 ^ (w % 16) + (if fieldN w 10 1 = 1 then 256 else 0)
  let tables := (List.range (fieldN w 16 16)).filterMap fun t => parseTable bs (tab + 64 * t)
  (List.range st).map fun i =>
    let ps := (patPairs (slice bs (4 + i) 1) tables).getD []
    (List.range ps.length).filter fun k => (ps.getD k none).isSome

/-- The sweep of one brick over one column (R181). -/
def gradCol (c : Cmd) (f : Fmt) (b : Brick) (slots : List (List Nat)) (bi : Nat) (x : State × List Nat × List Nat × BitVec 8) :
    State × List Nat × List Nat × BitVec 8 :=
  let acc := (fieldN c.c.toNat 8 2 + bi / 2) % 4
  let co := 32 * (bi % 2)
  let x : State × List Nat × List Nat × BitVec 8 := (x.1, x.2.1, dropLanes b.mask x.2.2.1, x.2.2.2)
  let x := match b.sigma with
    | none => x
    | some sig => (List.range x.2.1.length).foldl (gradScale c f sig acc co) x
  (List.range b.stages.length).reverse.foldl (fun x i =>
    (slotPairs (b.stages.getD i []) (slots.getD i [])).foldl (fun x p => gradPair c f b.n acc co i p x) x) x

/-- The addresses of the images of a chain. -/
def chainAddrs (va : Nat) : List Brick → List Nat
  | [] => []
  | b :: t => va :: chainAddrs ((va + b.size + 63) / 64 * 64 % 2 ^ 64) t

/-- A brick of a gradient sweep on one column of Y and of G on their way, with Y from the brick's checkpoint at its boundary
(R181, R182). Brick v of a gang column adds to the accumulators of core row v (R192, R254). -/
def gradBrick (c : Cmd) (p : Panel) (bs : List Brick) (col : Nat) (x : State × List Nat × List Nat × BitVec 8) (bi : Nat) :
    State × List Nat × List Nat × BitVec 8 :=
  let b := bs.getD bi ⟨false, 16, [], false, 0, none, 0⟩
  let row := rowMember x.1 c.cid bi
  let slots := match imageFor x.1 row c.seq ((chainAddrs c.b.toNat bs).getD bi 0) with
    | .ok im => usedSlots im
    | .error _ => []
  let y := gradCol { c with cid := row } p.fmt b slots bi x
  match if b.ckpt then ckptPanel x.1 c p bs bi else none with
  | some q => (y.1, q.col y.1 col, y.2.2)
  | none => y

/-- One step of `rot.grad` (R204): 64 columns of one brick. In a gang the columns flow from the last core row back to row 0
through every brick (R192, R254). -/
def gradStep (s : State) (o : EngOp) : State × EngOp :=
  let c := o.cmd
  let done : EngOp := { o with finished := true }
  match panelOf c c.a c.osfmt, panelOf c c.d c.osfmt, appChain s c with
  | some p, some g, .ok bs =>
    if c.nbr ≤ o.step ∨ !sweepsHere s c then (s, done)
    else
      let r := (colGroup p.l o.col).foldl (fun (x : State × BitVec 8) col =>
        let y := (stepBricks s o).foldl (gradBrick c p bs col)
          (x.1, (sweepFrom s o p).col x.1 col, (sweepFrom s o g).col x.1 col, x.2)
        (g.putCol c.seq (p.putCol c.seq y.1 col y.2.1) col y.2.2.1, y.2.2.2)) (s, o.flags)
      (r.1, { o with flags := r.2 }.swept p.l (chained s c) o.info)
  | _, _, _ => (s, done)

/-! ### Derive (R175 to R177, R205, R206) -/

/-- N of a derive (R205). -/
def Cmd.drvN (c : Cmd) : Nat := fieldN c.c.toNat 8 6

/-- The code width of a derive, in bits: AW, or the default of R177. -/
def drvBits (c : Cmd) (p : Panel) : Nat :=
  let aw := fieldN c.c.toNat 3 2
  if aw ≠ 0 then 8 * 2 ^ aw else if p.fmt = fmtF64 then 64 else if p.fmt = fmtF32 then 32 else 16

/-- The eliminations of a panel in order: pair (i - 1, i) and column j (R175). -/
def elims (m n : Nat) : List (Nat × Nat) :=
  (List.range n).flatMap fun j => (List.range (m - 1 - j)).map fun k => (m - 1 - k, j)

/-- The size of a derive record (R206). -/
def recSize (bits e : Nat) : Nat := 64 + 2 * (bits / 8) * e

/-- The header of a derive record (R206). -/
def recHeader (m n nc bits : Nat) : List Byte :=
  let af := if bits = 16 then 1 else if bits = 32 then 2 else 3
  leBytes 4 (n * 2 ^ 24 + m * 2 ^ 16 + af) ++ leBytes 4 (m * n - n * (n + 1) / 2) ++ leBytes 4 nc ++ leBytes 52 0

/-- One elimination (R176), its record entry (R206) and its counters (R236). -/
def drvStep (s : State) (o : EngOp) : State × EngOp :=
  let c := o.cmd
  let done : EngOp := { o with finished := true, info := o.step % 2 ^ 16 + o.iter % 2 ^ 16 * 2 ^ 16 }
  match panelOf c c.a c.osfmt with
  | none => (s, done)
  | some p =>
    match (elims p.m c.drvN)[o.step]? with
    | none => (s, done)
    | some (i, j) =>
      let bits := drvBits c p
      let a := decodeF p.fmt (p.get s (i - 1) j)
      let b := decodeF p.fmt (p.get s i j)
      let dg := a.isZero && b.isZero
      let r := angleOf p.fmt c.rm bits a b
      let kept : FRes := if dg then ⟨0, flDG⟩ else r.2
      let code := if dg then 0 else r.1
      let s := p.put c.seq (p.put c.seq s (i - 1) j kept.bits) i j 0
      let cs := coefs p.fmt bits code
      let x := ((List.range (p.l - 1 - j)).map (j + 1 + ·)).foldl (fun (x : State × BitVec 8) col =>
        let q := rotPair p.fmt c.rm cs (p.get x.1 (i - 1) col) (p.get x.1 i col)
        (p.put c.seq (p.put c.seq x.1 (i - 1) col q.1.bits) i col q.2.bits, x.2 ||| q.1.flags ||| q.2.flags))
        (s, o.flags ||| kept.flags)
      let w := bits / 8
      let entry := leBytes 2 (i - 1 + j * 64) ++ leBytes (w - 2) 0 ++ leBytes w code
      let s := wrWin x.1 c.cid c.seq (c.b.toNat - Config.windowL + 64 + 2 * w * o.step) entry
      let o := { o with step := o.step + 1, iter := o.iter + (if dg then 1 else 0), flags := x.2 }
      if o.step < (elims p.m c.drvN).length then (s, o)
      else (s, { o with finished := true, info := o.step % 2 ^ 16 + o.iter % 2 ^ 16 * 2 ^ 16 })

/-! ### Linear mode (R178, R179, R207) -/

/-- K (R207). -/
def Cmd.linK (c : Cmd) : Nat := fieldN c.c.toNat 48 12 + 1
/-- AFMT (R207). -/
def Cmd.linA (c : Cmd) : Nat := fieldN c.c.toNat 16 8
/-- BFMT (R207). -/
def Cmd.linB (c : Cmd) : Nat := fieldN c.c.toNat 8 8
/-- RSB (R207). -/
def Cmd.linRsb (c : Cmd) : Nat := fieldN c.c.toNat 24 24

/-- A BPI code: its planes (R41). -/
def bpiPlanes (code : Nat) : Option Nat :=
  if (0x12 ≤ code ∧ code ≤ 0x18) ∨ (0x22 ≤ code ∧ code ≤ 0x28) then some (code % 16) else none

/-- The size of a BPI tensor of n elements (R33). -/
def bpiSize (code n : Nat) : Nat :=
  code % 16 * (n / 8) + (if 0x20 ≤ code then (n / 32 + 3) / 4 * 4 else 0)

/-- Bytes of an element of a floating-point format code. -/
def fmtBytes (code : Nat) : Nat := if code = 0 then 8 else if code = 1 then 4 else 2

/-- The span of A from its offset (R178, R207). -/
def linSpanA (c : Cmd) : Nat :=
  let st := fieldN c.a.toNat 24 17
  match bpiPlanes c.linA with
  | some _ => 31 * st + bpiSize c.linA c.linK
  | none =>
    let e := fmtBytes c.linA
    if fieldN c.c.toNat 7 1 = 1 then (c.linK - 1) * st + 32 * e else 31 * st + c.linK * e

/-- The span of B. -/
def linSpanB (c : Cmd) : Nat :=
  match bpiPlanes c.linB with
  | some _ => 31 * c.linRsb + bpiSize c.linB c.linK
  | none => (c.linK - 1) * c.linRsb + 32 * fmtBytes c.linB

/-- A block of 32 values of a BPI tensor at an address: its values q and its scale byte (R33 to R35). -/
def bpiBlockAt (rd : Nat → Nat → Except AFault (List Byte)) (code n base kb : Nat) : Except AFault (List Int × Nat) :=
  let k := code % 16
  match mapE (fun p => rd (base + p * (n / 8) + 4 * kb) 4) (List.range k) with
  | .error e => .error e
  | .ok pl =>
    let planes := pl.map leNat
    let qs := (List.range 32).map fun e => bpiRead k (bpiGather planes e)
    if 0x20 ≤ code then
      match rd (base + k * (n / 8) + kb) 1 with
      | .error e => .error e
      | .ok b => .ok (qs, leNat b)
    else .ok (qs, 127)

/-- The block products of a BPI step added to one accumulator element (R37). -/
def bpiAdd (rm : RMode) (a b : List Int × Nat) (acc : Nat) : FRes :=
  let dot := ((a.1.zipWith (· * ·) b.1).foldl (· + ·) 0 : Int)
  let t : FRes :=
    if a.2 = 255 ∨ b.2 = 255 then ⟨fmtF32.qnan, 0⟩
    else roundF fmtF32 rm (decide (dot < 0)) dot.natAbs ((a.2 : Int) + (b.2 : Int) - 254)
  let r := fAdd fmtF32 rm (decodeF fmtF32 acc) (decodeF fmtF32 t.bits)
  ⟨r.bits, r.flags ||| t.flags⟩

/-- The operands of one linear step, from value `k0` of k on: rows of A and columns of B. -/
structure LinData where
  a : List (List FVal)
  b : List (List FVal)
  ba : List (List Int × Nat)
  bb : List (List Int × Nat)
deriving DecidableEq, Repr

/-- Reads those operands (R178, R207). -/
def linData (s : State) (c : Cmd) (k0 k1 : Nat) : Except AFault LinData :=
  let st := fieldN c.a.toNat 24 17
  let off := fieldN c.a.toNat 0 21
  let rdA (o n : Nat) : Except AFault (List Byte) := .ok (rdWinBytes s c.cid o n)
  let rdB (o n : Nat) : Except AFault (List Byte) := engRead s c.cid ((c.b.toNat + o) % 2 ^ 64) n
  let ks := (List.range (k1 - k0)).map (k0 + ·)
  match bpiPlanes c.linA with
  | some _ =>
    match mapE (fun i => bpiBlockAt rdA c.linA c.linK (off + i * st) (k0 / 32)) (List.range 32),
      mapE (fun j => bpiBlockAt rdB c.linB c.linK (j * c.linRsb) (k0 / 32)) (List.range 32) with
    | .ok a, .ok b => .ok ⟨[], [], a, b⟩
    | .error e, _ => .error e
    | _, .error e => .error e
  | none =>
    let f := (fmtOfCode c.linA).getD fmtF32
    let e := f.width / 8
    let av (i k : Nat) : FVal :=
      decodeF f (rdWin s c.cid (off + (if fieldN c.c.toNat 7 1 = 1 then k * st + i * e else i * st + k * e)) e)
    match mapE (fun k => mapE (fun j => match rdB (k * c.linRsb + j * e) e with
        | .ok x => Except.ok (decodeF f (leNat x))
        | .error x => .error x) (List.range 32)) ks with
    | .error x => .error x
    | .ok b => .ok ⟨ks.map fun k => (List.range 32).map fun i => av i k, b, [], []⟩

/-- One element of C over a step's values of k (R179). -/
def linElem (c : Cmd) (d : LinData) (i j acc : Nat) : FRes :=
  let f := if c.linA = 0 then fmtF64 else fmtF32
  if (bpiPlanes c.linA).isSome then bpiAdd c.rm (d.ba.getD i ([], 127)) (d.bb.getD j ([], 127)) acc
  else
    (d.a.zip d.b).foldl (fun (x : FRes) ab =>
      let r := fFma f c.rm (ab.1.getD i (.fin false 0 0)) (ab.2.getD j (.fin false 0 0)) (decodeF f x.bits)
      ⟨r.bits, x.flags ||| r.flags⟩) ⟨acc, 0⟩

/-- One step of `rot.lin`: 32 values of k (R185, R207), or the fault of a fetch of B. -/
def linStep (s : State) (o : EngOp) : Except AFault (State × EngOp) :=
  let c := o.cmd
  let k1 := min c.linK (o.col + 32)
  match linData s c o.col k1 with
  | .error e => .error e
  | .ok d =>
    let acc := fieldN c.c.toNat 3 2
    let row0 := 32 * fieldN c.c.toNat 5 1
    let w := if c.linA = 0 then 2 else 1
    let col0 := 32 * fieldN c.c.toNat 6 1
    let idx := (List.range 32).flatMap fun i => (List.range 32).map fun j => (i, j)
    let r := idx.foldl (fun (x : State × BitVec 8) ij =>
      let word := col0 + w * ij.2
      let y := linElem c d ij.1 ij.2 (rdAcc x.1 c.cid acc (row0 + ij.1) word (4 * w))
      (wrAcc x.1 c.cid acc (row0 + ij.1) word (4 * w) y.bits, x.2 ||| y.flags)) (s, o.flags)
    .ok (r.1, { o with step := o.step + 1, col := k1, flags := r.2, finished := decide (c.linK ≤ k1) })

/-! ### Solving (R183, R208) -/

/-- A tolerance register: a NaN or a negative value is +0 (R174). -/
def tolerance (w : Word) : Nat :=
  match decodeF fmtF64 w.toNat with
  | .nan _ => 0
  | .inf n => if n then 0 else w.toNat
  | .fin n _ _ => if n then 0 else w.toNat

/-- The magnitude of an FP64 encoding. -/
def abs64 (x : Nat) : Nat := x % 2 ^ 63

/-- The largest magnitude of a vector. DESIGN CHOICE (log 61): a NaN element counts for nothing. -/
def normInf (v : List Nat) : Nat := v.foldl (fun a x => (fMinMax fmtF64 true a (abs64 x)).bits) 0

/-- An element widened to FP64, exactly: a signaling NaN stays one, so that the operation that takes it raises NV (R183). -/
def Panel.wide (p : Panel) (s : State) (r c : Nat) : Nat :=
  let x := p.get s r c
  if p.fmt = fmtF64 then x
  else if (decodeF p.fmt x).isNan then fieldN x 31 1 * 2 ^ 63 + 0x7FF * 2 ^ 52 + fieldN x 0 23 * 2 ^ 29
  else (deliver fmtF64 (.mode .rne) (decodeF p.fmt x)).bits

/-- Whether a < b in FP64. -/
def lt64 (a b : Nat) : Bool := fCmp (decodeF fmtF64 a) (decodeF fmtF64 b) == some .lt

/-- What a solve reads: the derived panel, the A panel, the record and its n (R208). -/
structure SlvIn where
  r : Panel
  a : Panel
  rc : Brick
  n : Nat
deriving DecidableEq, Repr

/-- The operands of `rot.slv`, or none where R208 makes the command an access fault. -/
def slvIn (s : State) (c : Cmd) : Option SlvIn :=
  let osf := fieldN c.b.toNat 32 8
  let ro := fieldN c.b.toNat 0 21
  match panelOf c c.a osf, panelOf c c.c osf with
  | some pr, some pa =>
    let h := rdWinBytes s c.cid ro 64
    let n := slice h 3 1
    match imageSize h with
    | none => none
    | some z =>
      if 1 < pr.code ∨ 1 < pa.code ∨ fieldN (slice h 0 4) 4 6 ≠ 0 ∨ !regionOk c ro z then none
      else if pa.m ≠ slice h 2 1 ∨ pa.l ≠ n + 2 ∨ pr.m < n ∨ pr.l < n then none
      else (parseRecord (rdWinBytes s c.cid ro z) z).map fun rc => ⟨pr, pa, rc, n⟩
  | _, _ => none

/-- R'[i][k] (R183). -/
def slvR (s : State) (d : SlvIn) (v : Solve) (i k : Nat) : Nat :=
  let x := d.r.wide s i k
  if i = k ∧ lt64 (abs64 x) v.tau then
    if lt64 x 0 then v.tau + 2 ^ 63 else v.tau
  else x

/-- The start of a solve: tolerances and regularised pivots (R183). The roundings of τ and of the limit raise their
flags (log 60). -/
def slvStart (s : State) (c : Cmd) (d : SlvIn) : Solve × BitVec 8 :=
  let r := (s.ctx c.cid).r
  let diag := (List.range d.n).map fun i => d.r.wide s i i
  let dmax := normInf diag
  let piv := tolerance r.pivtol
  let tau : FRes := if dmax = 0 then ⟨piv, 0⟩ else fMul fmtF64 .rne (decodeF fmtF64 piv) (decodeF fmtF64 dmax)
  let b := (List.range d.a.m).map fun i => d.a.wide s i d.n
  let lim := fMul fmtF64 .rne (decodeF fmtF64 (tolerance r.slvtol)) (decodeF fmtF64 (normInf b))
  let bad := (List.range d.n).filter fun i => lt64 (abs64 (diag.getD i 0)) tau.bits
  (⟨0, d.n, b, List.replicate d.n 0, [], [], none, tau.bits, lim.bits, bad.length, bad.headD 0xFF⟩,
    (if bad.isEmpty then 0 else flRG) ||| tau.flags ||| lim.flags)

/-- The record's rotations applied to a vector in elimination order (R183). -/
def slvRotate (d : SlvIn) (y : List Nat) : Col :=
  d.rc.stages.foldl (fun y st => stageCol fmtF64 .rne d.rc.n false st y) (y, 0)

/-- One substitution row (R183). -/
def slvRow (s : State) (d : SlvIn) (v : Solve) : Solve × BitVec 8 :=
  let y := if v.row = d.n then slvRotate d v.y else (v.y, 0)
  let i := v.row - 1
  let ks := ((List.range (d.n - 1 - i)).map (i + 1 + ·)).reverse
  let t := ks.foldl (fun (t : FRes) k =>
    let r := fFma fmtF64 .rne (decodeF fmtF64 (slvR s d v i k)).negate (decodeF fmtF64 (v.corr.getD k 0))
      (decodeF fmtF64 t.bits)
    ⟨r.bits, t.flags ||| r.flags⟩) ⟨y.1.getD i 0, y.2⟩
  let x := fDiv fmtF64 .rne (decodeF fmtF64 t.bits) (decodeF fmtF64 (slvR s d v i i))
  ({ v with y := y.1, corr := v.corr.set i x.bits, row := i, phase := if i = 0 then 1 else 0 }, t.flags ||| x.flags)

/-- The residual b - A x (R183). -/
def slvResidual (s : State) (d : SlvIn) (x : List Nat) : Col :=
  (List.range d.a.m).foldl (fun (acc : Col) i =>
    let r := (List.range d.n).foldl (fun (t : FRes) k =>
      let r := fFma fmtF64 .rne (decodeF fmtF64 (d.a.wide s i k)).negate (decodeF fmtF64 (x.getD k 0))
        (decodeF fmtF64 t.bits)
      ⟨r.bits, t.flags ||| r.flags⟩) ⟨d.a.wide s i d.n, 0⟩
    (acc.1 ++ [r.bits], acc.2 ||| r.flags)) ([], 0)

/-- Writes an iterate to column n + 1 in the format of its bank (R183). -/
def slvPut (s : State) (c : Cmd) (d : SlvIn) (x : List Nat) : State × BitVec 8 :=
  let rm := c.modeOf (fieldN c.b.toNat 28 3)
  (List.range d.n).foldl (fun (y : State × BitVec 8) i =>
    let e : FRes := if d.a.fmt = fmtF64 then ⟨x.getD i 0, 0⟩ else deliver d.a.fmt (.mode rm) (decodeF fmtF64 (x.getD i 0))
    (d.a.put c.seq y.1 i (d.n + 1) e.bits, y.2 ||| e.flags)) (s, 0)

/-- A solve that stops before its end leaves its best iterate in its OUT area, in the format of its bank, and the iterate with
its residual norm in its core's x buffer (R187, log 20). -/
def slvPark (s : State) (o : EngOp) : State :=
  match slvIn s o.cmd, o.solve with
  | some d, some v =>
    match v.bestNorm with
    | some b => (slvPut s o.cmd d v.best).1.modCore (coreOf o.cmd.cid) fun k => { k with xbuf := some ⟨v.best, b⟩ }
    | none => s
  | _, _ => s

/-- INFO at the end of a solve: the new SLVSTAT (R184). -/
def slvInfo (v : Option Solve) (iter status : Nat) : Nat :=
  match v with
  | some v => v.firstPiv % 256 * 2 ^ 24 + v.count % 2 ^ 16 * 2 ^ 8 + iter % 16 * 16 + status
  | none => status

/-- The end of a solve: x goes to column n + 1, and INFO is the new SLVSTAT (R183, R184, R208). -/
def slvStop (s : State) (o : EngOp) (d : SlvIn) (v : Solve) (status : Nat) (x : List Nat) (fl : BitVec 8) : State × EngOp :=
  let r := slvPut s o.cmd d x
  (r.1, { o with step := o.step + 1, flags := o.flags ||| fl ||| r.2, solve := some v, finished := true,
                 info := slvInfo (some v) o.iter status })

/-- One refinement test (R183, R367); `pend` tells whether a deadline is pending. -/
def slvTest (s : State) (pend : Bool) (o : EngOp) (d : SlvIn) (v : Solve) : State × EngOp :=
  let first := v.x.isEmpty
  let upd : Col := if first then (v.corr, 0)
    else (List.range d.n).foldl (fun (acc : Col) i =>
      let r := fAdd fmtF64 .rne (decodeF fmtF64 (v.x.getD i 0)) (decodeF fmtF64 (v.corr.getD i 0))
      (acc.1 ++ [r.bits], acc.2 ||| r.flags)) ([], 0)
  let x := upd.1
  let o := if first then o else { o with iter := o.iter + 1 }
  let r := slvResidual s d x
  let fl := upd.2 ||| r.2
  let nr := normInf r.1
  let v := { v with x := x }
  if !(x.all fun e => (decodeF fmtF64 e).isFin) then slvStop s o d v 3 (if 0 < o.iter then v.best else x) fl
  else if lt64 nr v.limit || fCmp (decodeF fmtF64 nr) (decodeF fmtF64 v.limit) == some .eq then slvStop s o d v 0 x fl
  else
    let better := match v.bestNorm with
      | none => true
      | some b => lt64 nr b
    let v := if better then { v with best := x, bestNorm := some nr } else v
    if o.iter = fieldN o.cmd.b.toNat 24 4 then slvStop s o d v 1 v.best fl
    else if pend then slvStop s o d v 2 v.best fl
    else (s, { o with step := o.step + 1, flags := o.flags ||| fl,
                      solve := some { v with phase := 0, row := d.n, y := r.1, corr := List.replicate d.n 0 } })

/-- One step of `rot.slv`: a substitution row or a refinement test (R185, R208). -/
def slvStep (s : State) (pend : Bool) (o : EngOp) : State × EngOp :=
  match slvIn s o.cmd, o.solve with
  | some d, some v =>
    if v.phase = 1 ∨ d.n = 0 then slvTest s pend o d v
    else
      let r := slvRow s d v
      (s, { o with step := o.step + 1, flags := o.flags ||| r.2, solve := some r.1 })
  | _, _ => (s, { o with finished := true })

/-- A solve with another limit for its residual norm. -/
def EngOp.withLimit (o : EngOp) (limit : Nat) : EngOp := { o with solve := o.solve.map fun v => { v with limit := limit } }

/-- The interior of a solve after `n` of its steps, from the operands alone (how `rot.rst` continues, log entry 20): no test
that is passed ended it, so it stops before a step that would. -/
def slvPast (s : State) : Nat → EngOp → EngOp
  | 0, o => o
  | n + 1, o =>
    let p := (slvStep s false o).2
    if p.finished then o else slvPast s n p

/-- The steps of a solve that are passed met no limit, whatever SLVTOL holds now: they are made under a limit that no norm
meets, and the solve goes on under its own. -/
def slvAdvance (s : State) (n : Nat) (o : EngOp) : EngOp :=
  (slvPast s n (o.withLimit fmtF64.qnan)).withLimit ((o.solve.map (·.limit)).getD 0)

/-! ### Norm measure and scale (R209) -/

/-- One step of `rot.nrm`: 64 columns. -/
def nrmStep (s : State) (o : EngOp) : State × EngOp :=
  let c := o.cmd
  match panelOf c c.a c.osfmt with
  | none => (s, { o with finished := true })
  | some p =>
    let v0 := c.b.toNat - Config.windowL
    let r := (colGroup p.l o.col).foldl (fun (x : State × BitVec 8) col =>
      let ys := p.col x.1 col
      if fieldN c.c.toNat 7 1 = 0 then
        let v := sumSq p.fmt ys
        (wrWin x.1 c.cid c.seq (v0 + 8 * col) (leBytes 8 v.bits), x.2 ||| v.flags)
      else
        let y := nrmScale p.fmt c.rm (rdWin x.1 c.cid (v0 + 8 * col) 8) ys
        (p.putCol c.seq x.1 col y.1, x.2 ||| y.2)) (s, o.flags)
    let o := { o with flags := r.2, step := o.step + 1, col := min p.l (o.col + 64), info := p.l }
    (r.1, { o with finished := decide (p.l ≤ o.col) })

end Sys2Proof.Machine
end

