-- ==== Sys2Proof/Machine/Array.lean ====
section
/-! DEFINITION. The commands of the rotation array at issue, its queue and its events (R185 to R197, R201 to R216). -/

namespace Sys2Proof.Machine

/-! ### Issue (R194, R195) -/

/-- The engine queue of the executing slot's core is full (R75). -/
def engBusy (s : State) (_ : Cmd) : Bool := decide (4 ≤ (s.core (coreOf s.cur.cid)).engQ.length)

/-- A command enters the engine queue. -/
def engPut (s : State) (c : Cmd) : State := s.modCore (coreOf c.cid) fun k => { k with engQ := k.engQ ++ [c] }

/-- A rounding-mode field (R43). -/
def rmField (n : Nat) : Bool := n != 5 && n != 6

/-- A command of the rotation array. -/
def engRun (op : Nat) (ok : Cmd → Bool) (f : TFld) (s : State) : Host.Outcome State Fault Refusal :=
  tRun (.plain op false ok engBusy engPut) f s

/-- The fields of the control word of R200 that a command does not use are zero. -/
def ctlWordOk (c : Cmd) : Bool :=
  let w := c.c.toNat
  let app := c.op == 0x02 || c.op == 0x03
  let grad := c.op == 0x06
  fieldN w 56 8 == 0 && fieldN w 45 3 == 0 && fieldN w 10 6 == 0 && fieldN w 3 2 == 0 && rmField (fieldN w 0 3)
    && (if c.op == 0x0A then c.nbr == 0 else decide (1 ≤ c.nbr) && (!grad || decide (c.nbr ≤ 8)))
    && (c.op == 0x02 || grad || c.ckoff == 0) && (grad || fieldN w 8 2 == 0) && (c.op == 0x0A || fieldN w 7 1 == 0)
    && (app || fieldN w 5 2 == 0)

/-- The checks at issue of a command with opcode `op` (R195, R199 to R214). -/
def engOk (c : Cmd) : Bool :=
  let a := c.a.toNat
  let b := c.b.toNat
  let w := c.c.toNat
  if c.op = 0x01 then decide (b ≤ 1)
  else if c.op = 0x02 ∨ c.op = 0x03 ∨ c.op = 0x0A then descOk c.a && ctlWordOk c
  else if c.op = 0x06 then descOk c.a && descOk c.d && ctlWordOk c
  else if c.op = 0x04 then
    descOk c.a && fieldN w 24 40 == 0 && fieldN w 14 2 == 0 && decide (1 ≤ c.drvN) && decide (c.drvN ≤ 32)
      && fieldN w 5 3 == 0 && rmField (fieldN w 0 3)
  else if c.op = 0x05 then
    let fp (x : Nat) : Bool := decide (x ≤ 3)
    let bpi (x : Nat) : Bool := (bpiPlanes x).isSome
    fieldN a 41 23 == 0 && fieldN a 21 3 == 0 && fieldN w 60 4 == 0 && rmField (fieldN w 0 3)
      && ((fp c.linA && c.linA == c.linB) || (bpi c.linA && bpi c.linB))
      && !(c.linA == 0 && fieldN w 6 1 == 1) && !(bpi c.linA && fieldN w 7 1 == 1)
  else if c.op = 0x07 then
    descOk c.a && descOk c.c && fieldN b 40 24 == 0 && fieldN b 31 1 == 0 && fieldN b 21 3 == 0
      && decide (1 ≤ fieldN b 24 4) && rmField (fieldN b 28 3)
  else if c.op = 0x0D then decide (1 ≤ w) && decide (w ≤ 64)
  else true

/-- R201. -/
def execRotLd (f : TFld) (s : State) : Host.Outcome State Fault Refusal := engRun 0x01 engOk f s
/-- R202. -/
def execRotApp (f : TFld) (s : State) : Host.Outcome State Fault Refusal := engRun 0x02 engOk f s
/-- R203. -/
def execRotAppt (f : TFld) (s : State) : Host.Outcome State Fault Refusal := engRun 0x03 engOk f s
/-- R205. -/
def execRotDrv (f : TFld) (s : State) : Host.Outcome State Fault Refusal := engRun 0x04 engOk f s
/-- R207. -/
def execRotLin (f : TFld) (s : State) : Host.Outcome State Fault Refusal := engRun 0x05 engOk f s
/-- R204: all four fields are parameters, and there is no result word. -/
def execRotGrad (f : TFld) (s : State) : Host.Outcome State Fault Refusal :=
  tRun ⟨0x06, true, false, fun _ => .command, fun _ => false, engOk, engBusy, engPut, fun _ _ => none⟩ f s
/-- R208. -/
def execRotSlv (f : TFld) (s : State) : Host.Outcome State Fault Refusal := engRun 0x07 engOk f s
/-- R211. -/
def execRotRst (f : TFld) (s : State) : Host.Outcome State Fault Refusal := engRun 0x09 engOk f s
/-- R209. -/
def execRotNrm (f : TFld) (s : State) : Host.Outcome State Fault Refusal := engRun 0x0A engOk f s
/-- R212: the mask stands in mod. -/
def execAccSwap (f : TFld) (s : State) : Host.Outcome State Fault Refusal := engRun 0x0B engOk f s
/-- R213: the mask stands in mod. -/
def execAccClr (f : TFld) (s : State) : Host.Outcome State Fault Refusal := engRun 0x0C engOk f s
/-- R214. -/
def execSeqLd (f : TFld) (s : State) : Host.Outcome State Fault Refusal := engRun 0x0D engOk f s
/-- R215. -/
def execSeqRun (f : TFld) (s : State) : Host.Outcome State Fault Refusal := engRun 0x0E engOk f s

/-! ### The sweep-state record (R187, R210, R211, R236) -/

/-- The panel of a command, for its record. -/
def recPanel (c : Cmd) : Panel :=
  let osf := if c.op = 0x07 then fieldN c.b.toNat 32 8 else c.osfmt
  (panelOf c c.a osf).getD ⟨c.cid, 0, 0, 1, 0, 0, fmtF64⟩

/-- The angle format code of the record (R41): that of the code width. -/
def angleCode (bits : Nat) : Nat := if bits = 16 then 0x31 else if bits = 32 then 0x32 else 0x33

/-- The fields of a record in its byte order (R187). -/
def recBytes (op m dfmt afmt step col stage iter mnk panel opnd sched out acc : Nat) : List Byte :=
  leBytes 1 op ++ leBytes 1 m ++ leBytes 1 dfmt ++ leBytes 1 afmt ++ leBytes 4 step ++ leBytes 4 col ++ leBytes 4 stage
    ++ leBytes 4 iter ++ leBytes 4 mnk ++ leBytes 8 panel ++ leBytes 8 opnd ++ leBytes 8 sched ++ leBytes 8 out
    ++ leBytes 4 acc ++ leBytes 4 0

/-- The angle format code of an operation's brick or record (R41): 0 where it reads none. -/
def recAngle (s : State) (o : EngOp) (p : Panel) : Nat :=
  let c := o.cmd
  if c.op = 0x04 then angleCode (drvBits c p)
  else if c.op = 0x07 then (match slvIn s c with
    | some d => angleCode d.rc.n
    | none => 0)
  else if c.op = 0x02 ∨ c.op = 0x03 ∨ c.op = 0x06 then
    match appChain s c with
    | .ok bs => ((bs[if c.op = 0x02 then o.step else c.nbr - 1 - o.step]?).map fun b => angleCode b.n).getD 0
    | .error _ => 0
  else 0

/-- The record of a held operation (R187, R236). Where R187 names no field for what a continuation needs, log entry 20
says which unused bits hold it. -/
def sweepRecord (s : State) (o : EngOp) : List Byte :=
  let c := o.cmd
  let w := c.c.toNat
  let p := recPanel c
  let pa := winAddr p.off
  let af := recAngle s o p
  if c.op = 0x04 then
    recBytes 4 c.m p.code af o.step p.cs (w % 2 ^ 16) o.iter
      (p.m + c.drvN * 2 ^ 8 + (p.l - c.drvN) * 2 ^ 16) pa 0 c.b.toNat 0 0
  else if c.op = 0x05 then
    recBytes 5 c.m c.linA af o.step o.col (w % 256 * 2 ^ 24 + c.linRsb) (fieldN c.a.toNat 24 17 + c.linK % 32 * 2 ^ 17)
      (32 + 32 * 2 ^ 8 + c.linK / 32 * 2 ^ 16) (winAddr (fieldN c.a.toNat 0 21)) c.b.toNat 0 0
      (fieldN w 3 2 + 32 * fieldN w 5 1 * 4 + 32 * fieldN w 6 1 * 2 ^ 8 + c.linB * 2 ^ 14)
  else if c.op = 0x07 then
    let x := fieldN c.c.toNat 0 21
    let cs := fieldN c.c.toNat 24 17
    let n := fieldN c.c.toNat 48 16 - 1
    recBytes 7 c.m p.code af o.step cs (p.cs + fieldN c.b.toNat 32 7 * 2 ^ 17 + fieldN c.b.toNat 24 7 * 2 ^ 24) o.iter
      (fieldN c.c.toNat 41 7 + n * 2 ^ 8) pa (winAddr (x + n * cs)) (winAddr (fieldN c.b.toNat 0 21))
      (winAddr (x + (n + 1) * cs)) (if o.finished then 2 ^ 31 + o.info % 16 else 0)
  else if c.op = 0x0E then
    let q := (s.ctx c.cid).seqr
    recBytes 0x0E c.m 0 0 q.at_ (if q.prev = some q.at_ then 1 else 0) 0 q.issued 0 0 0 q.base 0 0
  else
    let g := c.d.toNat
    recBytes c.op c.m p.code af o.step o.col (w % 256 * 2 ^ 16)
      ((if c.op = 0x0A then 0 else o.step) + (if c.op = 0x06 then fieldN g 24 17 * 2 ^ 8 else 0))
      (p.m + c.nbr * 2 ^ 8 + (p.l - 1) * 2 ^ 16) pa
      (if c.op = 0x06 then winAddr (fieldN g 0 21) else if c.op = 0x0A then c.b.toNat else 0)
      (if c.op = 0x0A then 0 else c.b.toNat) (winAddr c.ckoff) (fieldN w 8 2 + p.cs * 2 ^ 14)

/-- A descriptor from its fields, none where they break R165 or R199. -/
def mkDesc (off m l cs : Nat) : Option Word :=
  if 1 ≤ m ∧ m ≤ 64 ∧ 1 ≤ l ∧ l ≤ 65536 ∧ cs < 2 ^ 17 then
    some (BitVec.ofNat 64 (off + cs * 2 ^ 24 + m * 2 ^ 41 + (l - 1) * 2 ^ 48))
  else none

/-- The window offset of an address of a record. -/
def recOff (bs : List Byte) (o : Nat) : Nat := (slice bs o 8 - Config.windowL) % 2 ^ 21

/-- The command a record continues (R211), or none where the record is an access fault. The record holds no RMODE: with RM = 7
the continuation rounds in RMODE as `rot.rst` found it at its issue (DESIGN CHOICE, log entry 83). -/
def recCmd (c : Cmd) (bs : List Byte) : Option Cmd :=
  let op := slice bs 0 1
  let dfmt := slice bs 2 1
  let col := slice bs 8 4
  let stage := slice bs 12 4
  let iter := slice bs 16 4
  let mnk := slice bs 20 4
  let off := recOff bs 24
  let opnd := slice bs 32 8
  let sched := slice bs 40 8
  let acc := slice bs 56 4
  let m := mnk % 256
  let n := fieldN mnk 8 8
  let c := { c with op := op, m := slice bs 1 1 % 16 }
  if slice bs 60 4 ≠ 0 then none
  else if op = 0x04 then
    (mkDesc off m (n + fieldN mnk 16 16) col).map fun a =>
      { c with a := a, b := BitVec.ofNat 64 sched, c := BitVec.ofNat 64 (stage % 2 ^ 16 + dfmt * 2 ^ 16) }
  else if op = 0x05 then
    some { c with a := BitVec.ofNat 64 (off + iter % 2 ^ 17 * 2 ^ 24), b := BitVec.ofNat 64 opnd,
                  c := BitVec.ofNat 64 (stage / 2 ^ 24 + fieldN acc 14 8 * 2 ^ 8 + dfmt * 2 ^ 16 + stage % 2 ^ 24 * 2 ^ 24
                    + (fieldN mnk 16 16 * 32 + iter / 2 ^ 17 - 1) * 2 ^ 48) }
  else if op = 0x07 then
    match mkDesc off n n (stage % 2 ^ 17), mkDesc (recOff bs 48 - (n + 1) * col) m (n + 2) col with
    | some a, some p =>
      some { c with a := a, c := p,
                    b := BitVec.ofNat 64 (recOff bs 40 + stage / 2 ^ 24 % 2 ^ 7 * 2 ^ 24 + stage / 2 ^ 17 % 2 ^ 7 * 2 ^ 32) }
    | _, _ => none
  else if op = 0x0E then some c
  else if op = 0x02 ∨ op = 0x03 ∨ op = 0x06 ∨ op = 0x0A then
    let l := fieldN mnk 16 16 + 1
    let w := fieldN stage 16 8 + acc % 4 * 2 ^ 8 + dfmt * 2 ^ 16 + recOff bs 48 * 2 ^ 24 + n * 2 ^ 48
    match mkDesc off m l (acc / 2 ^ 14), (if op = 0x06 then mkDesc (recOff bs 32) m l (iter / 2 ^ 8) else some 0) with
    | some a, some g =>
      some { c with a := a, b := BitVec.ofNat 64 (if op = 0x0A then opnd else sched), c := BitVec.ofNat 64 w, d := g }
    | _, _ => none
  else none

/-- ORs an operation's gathered flags into XFLAGS (R197). -/
def EngOp.orFlags (s : State) (o : EngOp) : State := s.modRegs o.cmd.cid fun r => r.raise o.flags

/-- The record of a `rot.sav` is written, and its result word is ready. -/
def savDo (s : State) (cid : Nat) (w : SavWrite) : State :=
  (wrWin s cid w.seq w.off w.bytes).modRegs cid fun r => r.readyWord w.req (resultWord 0 w.info)

/-- The record of a `rot.sav` waits for the end of its issue, since a freeze or a trap may still take that back (R76, R366), and
while an older access holds path A (R324, R326). -/
def savWrite (s : State) (cid : Nat) (w : SavWrite) : State := s.modCtx cid fun x => { x with savs := x.savs ++ [w] }

/-- The oldest record that waits is written, once it may be. -/
def savPerform (s : State) (cid : Nat) : State :=
  let s := s.dropFences cid
  match (s.ctx cid).savs with
  | [] => s
  | w :: t => if s.blockedAt cid 2 w.seq false then s else savDo (s.modCtx cid fun x => { x with savs := t }) cid w

/-- R210: acts at issue. DESIGN CHOICE (log 62): an address that is not 64-byte aligned, not writable or in a visible bank
leaves an invalid result word and an access fault at the next boundary, as R195 has it for the array. -/
def savPut (s : State) (c : Cmd) : State :=
  let o := c.a.toNat - Config.windowL
  let good := decide (c.a.toNat % 64 = 0) && decide (Config.windowL ≤ c.a.toNat) &&
    (match locateAll s c.cid .write c.a.toNat 64 with
      | .ok ls => ls.all fun l => l.region != 2
      | .error _ => false)
  if !good then
    s.modCtx c.cid fun x => { x with r := x.r.readyWord c.req (SVal.whole 0 false) }.postTrap ⟨6, 9, 0, 0, c.a.toNat⟩
  else
    match s.heldOp c.cid with
    | none => savWrite s c.cid ⟨c.seq, o, leBytes 64 0, c.req, 0⟩
    | some op =>
      let w : SavWrite := ⟨c.seq, o, sweepRecord s op, c.req, op.cmd.op⟩
      let s := (EngOp.orFlags s op).modCore (coreOf c.cid) fun k =>
        { k with heldOps := k.heldOps.filter fun x => x.cmd.cid != c.cid }
      savWrite (s.modRegs c.cid fun r => { r with words := r.words.filter fun w => w.id != op.cmd.req }) c.cid w

/-- R210. -/
def execRotSav (f : TFld) (s : State) : Host.Outcome State Fault Refusal :=
  tRun (.plain 0x08 false (fun _ => true) (fun _ _ => false) savPut) f s

/-! ### The start of an operation (R193, R195) -/

/-- RMODE as an apply, a sweep or a norm reads it when it starts (R200); every other command holds it as it stood at
issue (R42). -/
def Cmd.atStart (s : State) (c : Cmd) : Cmd :=
  if c.op = 0x02 ∨ c.op = 0x03 ∨ c.op = 0x06 ∨ c.op = 0x0A then { c with rmode := (s.ctx c.cid).r.rmode } else c

/-- The time of a core at which a `rot.ld` of `z` bytes from the angle store, started now, may end (R291): its read cycles
begin 40 counter cycles from now, one in its segment's refresh window moves behind it, and the word is ready 4 cc after
the last. -/
def refreshEnd (s : State) (cid o z : Nat) : Nat :=
  let l := coreOf cid
  let phase := s.refreshPhase l
  let read (t i : Nat) : Nat :=
    let w := (((t : Int) - phase - 64 * ((o + 256 * i) / 2 ^ 25 % 64 : Nat)) % 4096).toNat
    (if w < 32 then t + (32 - w) else t) + 1
  (List.range ((z + 255) / 256)).foldl read (refreshNow s l + 40) * 840 + 4 * ccUnits (s.core l).op

/-- An operation at its start. -/
def EngOp.start (c : Cmd) : EngOp := ⟨c, 0, 0, 0, 0, none, 0, false, 0, false, 0, 0⟩

/-- The vector of `rot.nrm`: 8-byte aligned, in the window outside the visible banks (R209). -/
def nrmVecOk (s : State) (c : Cmd) (l : Nat) : Bool :=
  decide (Config.windowL ≤ c.b.toNat) && c.b.toNat % 8 == 0 &&
    (List.range l).all fun i => match windowLoc s c.cid (c.b.toNat - Config.windowL + 8 * i) with
      | some x => x.region != 2
      | none => false

/-- Whether a rotation command of a fused gang names another number of bricks than the gang has rows (R254). -/
def gangRowsBad (s : State) (c : Cmd) : Bool :=
  let b := (s.ctx c.cid).bind
  (s.ctx c.cid).fused && b.gang && c.nbr != b.gangH

/-- What the array checks of memory and addresses when it starts a command (R195), and the operation it starts. A misaligned
window address of a record, vector, table or parameter block, and a BPI `rot.lin` whose K is no multiple of 32, are access
faults here, though R205, R207, R210 to R214 demand them without an outcome (DESIGN CHOICE, log entry 82). -/
def engStart (s : State) (c : Cmd) : Except AFault EngOp :=
  let bad : Except AFault EngOp := .error (accFault (winAddr (fieldN c.a.toNat 0 21)))
  let o := EngOp.start c
  if c.op = 0x01 then
    match readImage (ldRead s c.cid) c.a.toNat with
    | .error e => .error e
    | .ok bs =>
      match parseImage bs bs.length with
      | some b =>
        if b.isRec then .error (accFault c.a.toNat)
        else .ok { o with finished := true, info := c.b.toNat,
                          until_ := if c.onPathL then refreshEnd s c.cid (c.a.toNat - Config.windowK) bs.length else 0 }
      | none => .error (accFault c.a.toNat)
  else if c.op = 0x02 ∨ c.op = 0x03 then
    match panelOf c c.a c.osfmt with
    | none => bad
    | some p =>
      if gangRowsBad s c then bad
      else
        match appChain s c with
        | .error e => .error e
        | .ok bs => if c.op = 0x02 ∧ !ckptsOk s c p bs then .error (accFault (winAddr c.ckoff)) else .ok o
  else if c.op = 0x06 then
    match panelOf c c.a c.osfmt, panelOf c c.d c.osfmt with
    | some p, some g =>
      if p.m ≠ g.m ∨ p.l ≠ g.l ∨ p.code ≠ g.code ∨ gangRowsBad s c then bad
      else
        match appChain s c with
        | .error e => .error e
        | .ok bs => if bs.any (·.isRec) then .error (accFault c.b.toNat)
          else if ckptsOk s c p bs then .ok o else .error (accFault (winAddr c.ckoff))
    | _, _ => bad
  else if c.op = 0x04 then
    match panelOf c c.a c.osfmt with
    | none => bad
    | some p =>
      let bits := drvBits c p
      let z := recSize bits (elims p.m c.drvN).length
      let ro := c.b.toNat - Config.windowL
      if p.m < 2 ∨ p.m < c.drvN ∨ p.l < c.drvN ∨ c.drvN + 32 < p.l ∨ (p.fmt = fmtF64 ∧ bits ≠ 64)
          ∨ (p.fmt ≠ fmtF64 ∧ bits = 64) then bad
      else if c.b.toNat % 64 ≠ 0 ∨ c.b.toNat < Config.windowL ∨ !regionOk c ro z
          ∨ (ro < p.off + p.span ∧ p.off < ro + z) then .error (accFault c.b.toNat)
      else .ok o
  else if c.op = 0x05 then
    let off := fieldN c.a.toNat 0 21
    let bo := c.b.toNat - Config.windowL
    let bpi := (bpiPlanes c.linA).isSome
    if off < 0x100000 ∨ 0x110000 < off + linSpanA c ∨ (bpi ∧ c.linK % 32 ≠ 0)
        ∨ (!bpi ∧ 0x10000 < 32 * fmtBytes c.linA * c.linK) then bad
    else if Config.windowL ≤ c.b.toNat ∧ !banksOk c bo (linSpanB c) c.linB then .error (accFault c.b.toNat)
    else
      match linData s c 0 (min c.linK 32) with
      | .error e => .error e
      | .ok _ => .ok o
  else if c.op = 0x07 then
    match slvIn s c with
    | none => bad
    | some d =>
      let v := slvStart s c d
      .ok { o with solve := some v.1, flags := v.2 }
  else if c.op = 0x0A then
    match panelOf c c.a c.osfmt with
    | none => bad
    | some p => if nrmVecOk s c p.l then .ok o else .error (accFault c.b.toNat)
  else if c.op = 0x0D then
    if c.a.toNat % 16 ≠ 0 then .error (accFault c.a.toNat)
    else if c.b.toNat % 8 ≠ 0 then .error (accFault c.b.toNat)
    else
      match engRead s c.cid c.a.toNat (16 * c.c.toNat), engRead s c.cid c.b.toNat 160 with
      | .ok _, .ok _ => .ok { o with finished := true }
      | .error e, _ => .error e
      | _, .error e => .error e
  else if c.op = 0x0E then
    if (s.ctx c.cid).seqr.table.isEmpty then .ok { o with finished := true, info := 0x80000000 } else .ok o
  else .ok { o with finished := true }

/-- What a command fetches at its start from outside the core: images that no schedule buffer holds, and tables (R201,
R214, R228). -/
def startFetches (s : State) (c : Cmd) : List (Nat × Nat) :=
  if c.op = 0x01 then
    match readImage (ldRead s c.cid) c.a.toNat with
    | .ok bs => if c.onPathL then [] else [(c.a.toNat, bs.length)]
    | .error _ => []
  else if c.op = 0x02 ∨ c.op = 0x03 ∨ c.op = 0x06 then
    match appChain s c with
    | .ok bs => ((chainAddrs c.b.toNat bs).zip (bs.map (·.size))).filter fun x => (bufferCopy s c.cid x.1).isNone
    | .error _ => []
  else if c.op = 0x0D then [(c.a.toNat, 16 * c.c.toNat), (c.b.toNat, 160)]
  else []

/-- What a step of `rot.lin` fetches of B: a row of each of its values of k, or in scaled and plain BPI formats the words of
the block in each column (R178, R207). -/
def linFetches (c : Cmd) (k0 : Nat) : List (Nat × Nat) :=
  match bpiPlanes c.linB with
  | some n => (List.range 32).flatMap fun j =>
      let row := c.b.toNat + j * c.linRsb
      (List.range n).map (fun p => ((row + p * (c.linK / 8) + k0 / 8) % 2 ^ 64, 4))
        ++ (if 0x20 ≤ c.linB then [((row + n * (c.linK / 8) + k0 / 32) % 2 ^ 64, 1)] else [])
  | none => (List.range (min c.linK (k0 + 32) - k0)).map fun i =>
      ((c.b.toNat + (k0 + i) * c.linRsb) % 2 ^ 64, 32 * fmtBytes c.linB)

/-- The parts of a fetch, of up to 128 bytes each (R228). -/
def fetchParts (x : Nat × Nat) : List (Nat × Nat) :=
  (List.range ((x.2 + 127) / 128)).map fun i => ((x.1 + 128 * i) % 2 ^ 64, min 128 (x.2 - 128 * i))

/-- Engine fetches from outside the core are translated (R284) and make load records of the context's open interval (R228). -/
def State.recordFetches (s : State) (cid : Nat) (l : List (Nat × Nat)) : State :=
  (l.flatMap fetchParts).foldl (fun s x => match locateAll s cid .read x.1 x.2 with
    | .ok ls =>
      if ls.any fun y => heldKey y.key then
        s.recordLoad cid ⟨true, (ls.map fun y => y.key / 64).dedup,
          ls.map fun y => s.readByte (coreOf cid) (if y.region = 8 then 3 else 0) y.key⟩
      else s
    | .error _ => s) (s.noteSpans cid l)

/-- How the command of a record continues (R211, R236): its counters, and the rest of a solve from its operands. An operation that
was held after its last step is over (log entry 20). -/
def resumeOp (s : State) (k : Cmd) (bs : List Byte) : Except AFault EngOp :=
  match engStart s (k.atStart s) with
  | .error e => .error e
  | .ok o =>
    let step := slice bs 4 4
    let col := slice bs 8 4
    let acc := slice bs 56 4
    if k.op = 0x07 then
      if acc.testBit 31 then .ok { o with step := step, iter := slice bs 16 4, flags := 0, finished := true,
                                          info := slvInfo o.solve (slice bs 16 4) (acc % 16) }
      else .ok { slvAdvance s step o with flags := 0 }
    else if k.op = 0x05 ∧ k.linK ≤ col then .ok { o with step := step, col := col, origin := col, finished := true }
    else if k.op = 0x04 ∨ k.op = 0x0E then .ok { o with step := step, iter := slice bs 16 4, col := col }
    else .ok { o with step := step, col := col, origin := col }

/-- A `rot.rst` reads its record and continues it (R211). -/
def rstStart (s : State) (c : Cmd) : Except AFault EngOp :=
  let va := c.a.toNat
  if va % 64 ≠ 0 ∨ va < Config.windowL then .error (accFault va)
  else
    match engRead s c.cid va 64 with
    | .error e => .error e
    | .ok bs =>
      if slice bs 0 1 = 0 ∧ slice bs 60 4 = 0 then .ok { EngOp.start c with finished := true }
      else
        match recCmd c bs with
        | none => .error (accFault va)
        | some k => resumeOp s k bs

/-- What a start changes at once: a derive's header (R236), the entry of a sequencer run (R191, R215), no touched rows
(R189), and a schedule buffer that is being loaded (R201). -/
def engBegin (s : State) (c : Cmd) (o : EngOp) : State :=
  let k := o.cmd
  let s := s.modCtx c.cid fun x => { x with touched := [] }
  if k.op = 0x04 ∧ c.op = 0x04 then
    match panelOf k k.a k.osfmt with
    | some p => wrWin s k.cid k.seq (k.b.toNat - Config.windowL) (recHeader p.m k.drvN (p.l - k.drvN) (drvBits k p))
    | none => s
  else if k.op = 0x0E ∧ c.op = 0x0E then
    s.modCtx c.cid fun x => { x with seqr := { x.seqr with at_ := 0, prev := none, issued := 0, inner := none, lastCopy := none } }
  else if k.op = 0x0E then
    s.modCtx c.cid fun x => { x with seqr :=
      { x.seqr with at_ := o.step, prev := if o.col = 1 then some o.step else none, issued := o.iter, inner := none } }
  else s

/-- The schedule buffer that a `rot.ld` names has no tag (R201). -/
def Ctx.dropTag (x : Ctx) (c : Cmd) : Ctx :=
  if c.op = 0x01 then if c.b = 0 then { x with tag0 := none } else { x with tag1 := none } else x

/-- A command of the array is discarded before it writes any output (R195); a failed `rot.ld` leaves no tag (R201). -/
def engDiscard (s : State) (c : Cmd) (e : AFault) : State :=
  s.modCtx c.cid fun x =>
    ({ x with r := x.r.readyWord c.req (SVal.whole 0 false) }.dropTag c).postTrap ⟨if e.trans then 5 else 6, 9, 0, 0, e.va⟩

/-- An operation that waits on the fault service, or whose delivered fault waits for `eret` (R189, R225). -/
def EngOp.faulted (c : Cmd) : EngOp := { EngOp.start c with heldWhy := 3 }

/-- The other members of a context's fused gang. -/
def State.mates (s : State) (cid : Nat) : List Nat := (s.gangOf cid).filter (· != cid)

/-- The members whose arrays run the same operation as a member of a fused gang (R192). -/
def gangRuns (s : State) (c : Cmd) : List (Nat × EngOp) :=
  (s.mates c.cid).filterMap fun m => match (s.core (coreOf m)).run with
    | some p => if p.cmd.cid = m ∧ p.cmd.gid = c.gid then some (m, p) else none
    | none => none

/-- A fetch of B faults (R189): the touched rows come back and the operation goes back to the step it was started or
continued from, without the flags of the attempt (R197). -/
def linReplay (s : State) (o : EngOp) : State × EngOp :=
  (restoreRows s o.cmd.cid, { o with step := o.step - (o.col - o.origin + 31) / 32, col := o.origin, flags := 0, finished := false })

/-- A fault replay in a member replays the operation in every member of its fused gang that runs it (R192). `k` is 0, or the
number of a sequencer's command in its run. -/
def gangReplay (s : State) (c : Cmd) (k : Nat) : State :=
  (gangRuns s c).foldl (fun s m =>
    if m.2.cmd.op = 0x0E then
      let q := (s.ctx m.1).seqr
      match q.inner with
      | some i =>
        if q.issued = k ∧ i.cmd.op = 0x05 then
          let r := linReplay s i
          r.1.modCtx m.1 fun x => { x with seqr := { x.seqr with inner := some r.2 } }
        else s
      | none => s
    else
      let r := linReplay s m.2
      r.1.modCore (coreOf m.1) fun k => { k with run := some r.2 }) s

/-- The next command starts, is discarded, or waits on the fault service (R189, R195). -/
def engNext (s : State) (l : Nat) (c : Cmd) (rest : List Cmd) : State :=
  let c := c.atStart s
  match if c.op = 0x09 then rstStart s c else engStart s c with
  | .ok o => (engBegin (s.recordFetches c.cid (startFetches s c)) c o).modCore l fun k => { k with engQ := rest, run := some o }
  | .error e =>
    if e.trans then
      (((gangReplay s c 0).modCore l fun k =>
        { k with engQ := rest, heldOps := EngOp.faulted c :: k.heldOps }).noteWalk c.cid e.va).postFault c.cid 1 .engineRead 9 e
    else engDiscard (s.modCore l fun k => { k with engQ := rest }) c e

/-- Whether the task of a context is abandoned, so that no further command of it starts (R344). -/
def engOver (s : State) (cid : Nat) : Bool := (s.ctx cid).endInfo.any fun e => e.status == 4

/-- An operation of an abandoned task was stopped at its step (R342, R344). -/
def Ctx.stoppedOp (c : Ctx) : Ctx := { c with endInfo := c.endInfo.map fun e => { e with slot := 9 } }

/-- A command that no handler will continue, or of an abandoned task, is dropped, with an invalid result word. -/
def engDrop (s : State) (c : Cmd) : State := s.modRegs c.cid fun r => r.readyWord c.req (SVal.whole 0 false)

/-- Whether what a held operation waits for is over: the trap of its hold has been handled (R186, R380), or the fault
service has answered. An ending task runs no handler. -/
def heldReady (s : State) (o : EngOp) : Bool :=
  let c := s.ctx o.cmd.cid
  !s.svcWaits o.cmd.cid 1 && !s.engPaused o.cmd.cid &&
    (o.heldWhy == 5 || c.status == .ending ||
      (!c.r.inHandler && c.traps.isEmpty && (o.entered || decide (3 ≤ o.heldWhy))))

/-- Whether another member of the fused gang holds an operation, so that no member starts one: all stop together
(R192). -/
def gangHolds (s : State) (cid : Nat) : Bool := (s.mates cid).any fun m => (s.heldOp m).isSome

/-- Whether an older `rot.sav` of the context still has its record to write: commands of path A leave it in issue order
(R326). -/
def State.savWaits (s : State) (c : Cmd) : Bool := c.engClass == 2 && (s.ctx c.cid).savs.any fun w => decide (w.seq < c.seq)

/-- R193, R195: the array starts its next command, or continues the operation it holds. In a task that ends, an operation that
an FP trap holds is reported as failed, and one that a deadline holds goes on to its end (R108; DEDUCED, log entry 71). -/
def execEngineOpStart (core : Nat) (s : State) : Host.Outcome State Fault Refusal :=
  let k := s.core core
  match k.run, k.heldOps with
  | some _, _ => .next s
  | none, o :: _ =>
    let t := s.modCore core fun k => { k with heldOps := k.heldOps.drop 1 }
    if engOver s o.cmd.cid then .next (engDrop (if o.heldWhy = 3 then t else t.modCtx o.cmd.cid Ctx.stoppedOp) o.cmd)
    else if (s.ctx o.cmd.cid).status == .ending && o.heldWhy == 2 then
      .next ((engDrop t o.cmd).modCtx o.cmd.cid fun x => x.reportHeld (9, 0))
    else if !heldReady s o then .next s
    else if o.heldWhy = 3 then .next (engNext t core o.cmd k.engQ)
    else .next (t.modCore core fun k => { k with run := some { o with heldWhy := 0, entered := false } })
  | none, [] =>
    match k.engQ with
    | [] => .next s
    | c :: rest =>
      if engOver s c.cid then .next (engDrop (s.modCore core fun k => { k with engQ := rest }) c)
      else if s.blockedAt c.cid c.engClass c.seq false || s.accWaits c || s.savWaits c || gangHolds s c.cid
          || s.engPaused c.cid then .next s
      else .next (engNext s core c rest)

/-! ### Holds (R47, R186, R192, R197, R380) -/

/-- The operation is held at a step: its flags go to XFLAGS (R197), and a solve leaves its best iterate and its
norm behind (R187). The other context's restored operation stays behind it. -/
def engHold (s : State) (o : EngOp) (why : Nat) (entered : Bool) : State :=
  (if o.finished then EngOp.orFlags s o else slvPark (EngOp.orFlags s o) o).modCore (coreOf o.cmd.cid) fun k =>
    { k with run := none, heldOps := { o with flags := 0, heldWhy := why, entered := entered } :: k.heldOps }

/-- A hold in one member of a fused gang holds the operation in every member that runs it: an operation of the array between
two steps at once, and a sequencer's run at its next transition with STEP set (R185, R192, R215). -/
def gangHold (s : State) (o : EngOp) (why : Nat) (entered : Bool) : State :=
  (gangRuns s o.cmd).foldl (fun s m =>
    if m.2.cmd.op = 0x0E then
      s.modCore (coreOf m.1) fun k => { k with run := some { m.2 with heldWhy := why, entered := entered } }
    else engHold s m.2 why entered) (engHold s o why entered)

/-- The tests of an interruptible step (R47, R185, R380): `test` marks a refinement test, which a pending deadline ends
and does not hold. A hold in the cause-10 handler continues at its `eret`; any other posts a cause-10 trap where none is
on its way. The operation of an abandoned task stops here (R342, R344), and that of a pre-empted one goes into its image
(R197, R221). -/
def engStepEnd (s : State) (l : Nat) (o : EngOp) (test : Bool) : State :=
  let cid := o.cmd.cid
  let c := s.ctx cid
  let en := c.r.enabled o.flags
  if engOver s cid then
    ((engDrop (EngOp.orFlags s o) o.cmd).modCtx cid Ctx.stoppedOp).modCore l fun k => { k with run := none }
  else if o.heldWhy ≠ 0 then engHold s o o.heldWhy o.entered
  else if en ≠ 0 then (gangHold s o 2 false).modCtx cid fun c => c.postTrap ⟨9, 9, en, 0, 0⟩
  else if c.r.dlPend && !test && c.status != .ending then
    let in10 := c.r.inHandler && decide (c.r.trapcause.toNat % 32 = 10)
    let t := gangHold s o 1 in10
    if in10 || c.r.dlEvent || c.abandoned || c.traps.any (·.cause == 10) then t
    else t.modCtx cid fun c => c.postTrap ⟨10, 9, 0, 0, 0⟩
  else if s.engPaused cid && !o.finished then gangHold s o 5 false
  else s.modCore l fun k => { k with run := some o }

/-- The work of one step of an operation (R185). -/
def engWork (s : State) (o : EngOp) : Except AFault (State × EngOp) :=
  let op := o.cmd.op
  if op = 0x02 ∨ op = 0x03 then .ok (appStep s o)
  else if op = 0x04 then .ok (drvStep s o)
  else if op = 0x05 then linStep s o
  else if op = 0x06 then .ok (gradStep s o)
  else if op = 0x07 then .ok (slvStep s (s.ctx o.cmd.cid).r.dlPend o)
  else if op = 0x0A then .ok (nrmStep s o)
  else .ok (s, { o with finished := true })

/-- Whether a member has not come to an operation of its gang: a command of an older bundle is in its array or queue, its own
operation of the bundle is held, or its sequencer has issued fewer than `k` commands of the run (R192). -/
def notCome (s : State) (m gid k : Nat) : Bool :=
  (s.engCmds m).any (fun c => decide (c.gid < gid)) || (s.heldOp m).any (fun o => o.cmd.gid == gid) ||
    (decide (0 < k) && (s.engCmds m).any (fun c => c.gid == gid) &&
      !((s.core (coreOf m)).run.any (fun p => p.cmd.cid == m && p.cmd.gid == gid) && decide (k ≤ (s.ctx m).seqr.issued)))

/-- Whether a member has an operation of its gang before it or in work; `k` counts a sequencer's commands up to it (R192). -/
def notDone (s : State) (m gid k : Nat) : Bool :=
  (s.engCmds m).any (fun c => c.gid == gid) &&
    (k == 0 || !((s.core (coreOf m)).run.any fun p => p.cmd.cid == m && p.cmd.gid == gid)
      || decide ((s.ctx m).seqr.issued < k) || ((s.ctx m).seqr.issued == k && (s.ctx m).seqr.inner.isSome))

/-- Whether a member of a fused gang has to wait in a sweep of its column: the member at whose row the sweep ends, for the
other rows to come to it, and they for its end (R192). `k` is 0, or the number of a sequencer's command in its run. -/
def gangWaits (s : State) (o : EngOp) (k : Nat) : Bool :=
  let cid := o.cmd.cid
  let m := rowMember s cid (endRow s o.cmd)
  (o.cmd.op == 0x02 || o.cmd.op == 0x03 || o.cmd.op == 0x06) &&
    (if m = cid then
      (s.ctx cid).fused && (List.range (s.ctx cid).bind.gangH).any fun v =>
        rowMember s cid v != cid && notCome s (rowMember s cid v) o.cmd.gid k
    else notDone s m o.cmd.gid k)

/-- Whether a finished `rot.lin` of a fused gang waits: another member has the operation before it or in work, and a
fault replay there would replay it here (R192). `k` is 0, or the number of a sequencer's command in its run. -/
def gangEndWaits (s : State) (o : EngOp) (k : Nat) : Bool :=
  o.cmd.op == 0x05 && (s.mates o.cmd.cid).any fun m =>
    let q := (s.ctx m).seqr
    (s.engCmds m).any (fun c => c.gid == o.cmd.gid) &&
      !((s.core (coreOf m)).run.any fun p => p.cmd.cid == m && p.cmd.gid == o.cmd.gid &&
        (if k = 0 then p.finished else decide (k < q.issued) || (q.issued == k && q.inner.all (·.finished))))

/-- Whether the trap of a delivered engine fault is on its way or in its handler, so that a sequencer's command waits for the
`eret` to try its access again (R189, R225). -/
def State.deliveredNow (s : State) (cid : Nat) : Bool :=
  let c := s.ctx cid
  c.traps.any (fun t => t.cause == 5 && t.slot == 9) || (c.r.inHandler && decide (c.r.trapcause.toNat % 32 = 5))

/-- A sequencer's command meets a fault: it is replayed, in every member of its gang, once the fault service has answered, or
dropped with a trap (R189, R192, R195). -/
def innerFault (s : State) (cid : Nat) (i : EngOp) (e : AFault) : State :=
  let r := linReplay (gangReplay s i.cmd (s.ctx cid).seqr.issued) i
  let put (v : Option EngOp) : State := r.1.modCtx cid fun x => { x with seqr := { x.seqr with inner := v } }
  if e.trans then ((put (some r.2)).noteWalk cid e.va).postFault cid 1 .engineRead 9 e
  else (put none).modCtx cid fun x => x.postTrap ⟨6, 9, 0, 0, e.va⟩

/-- The running operation meets a fault: it waits for the fault service, in every member of its gang, or is discarded (R189,
R192, R195). -/
def opFault (s : State) (core : Nat) (o : EngOp) (e : AFault) : State :=
  let r := linReplay (gangReplay s o.cmd 0) o
  if e.trans then
    ((r.1.modCore core fun k =>
      { k with run := none, heldOps := { r.2 with heldWhy := 4 } :: k.heldOps }).noteWalk o.cmd.cid e.va).postFault
        o.cmd.cid 1 .engineRead 9 e
  else engDiscard (r.1.modCore core fun k => { k with run := none }) o.cmd e

/-- R185: the running operation does one step, or a sequencer's command does. -/
def execEngineInterruptibleStep (core : Nat) (s : State) : Host.Outcome State Fault Refusal :=
  match (s.core core).run with
  | none => .next s
  | some o =>
    if o.cmd.op = 0x0E then
      match (s.ctx o.cmd.cid).seqr.inner with
      | none => .next s
      | some i =>
        if i.finished ∨ s.svcWaits o.cmd.cid 1 ∨ s.deliveredNow o.cmd.cid
            ∨ gangWaits s i (s.ctx o.cmd.cid).seqr.issued then .next s
        else
          match engWork s i with
          | .ok (t, j) =>
            let t := if i.cmd.op = 0x05 then t.recordFetches o.cmd.cid (linFetches i.cmd i.col) else t
            .next (t.modCtx o.cmd.cid fun x => { x with seqr := { x.seqr with inner := some j } })
          | .error e => .next (innerFault s o.cmd.cid i e)
    else if o.finished ∨ gangWaits s o 0 then .next s
    else
      match engWork s o with
      | .ok (t, p) =>
        let t := if o.cmd.op = 0x05 then t.recordFetches o.cmd.cid (linFetches o.cmd o.col) else t
        .next (engStepEnd t core p (o.cmd.op == 0x07 && (o.solve.any fun v => v.phase == 1)))
      | .error e => .next (opFault s core o e)

/-! ### The end of an operation (R196, R197, R201, R212 to R214) -/

/-- Whether an entry of a layer table holds a reserved value, a CMD outside R190's list or an index at or above the
count. -/
def seqEntryBad (n e : Nat) : Bool :=
  let cmd := fieldN e 121 7
  !((cmd == 0) || (decide (1 ≤ cmd) && decide (cmd ≤ 7)) || (decide (0x0A ≤ cmd) && decide (cmd ≤ 0x0C))
      || (decide (0x10 ≤ cmd) && decide (cmd ≤ 0x14)))
    || fieldN e 81 3 == 7 || fieldN e 0 64 != 0 || decide (n ≤ fieldN e 71 6) || decide (n ≤ fieldN e 65 6)

/-- 64-bit words of bytes. -/
def dwords (bs : List Byte) : List Word := (List.range (bs.length / 8)).map fun i => BitVec.ofNat 64 (slice bs (8 * i) 8)

/-- R214: loads the table and the parameter block, or refuses the table, and then the parameters and counters stay as they were
(DESIGN CHOICE, log entry 84). -/
def seqLoad (s : State) (c : Cmd) : State × Nat :=
  match engRead s c.cid c.a.toNat (16 * c.c.toNat), engRead s c.cid c.b.toNat 160 with
  | .ok t, .ok p =>
    let es := (List.range c.c.toNat).map fun i => slice t (16 * i) 16
    match es.findIdx? (seqEntryBad c.c.toNat) with
    | some i => (s.modCtx c.cid fun x => { x with seqr := { x.seqr with table := [] } }, 1 + i * 2 ^ 8)
    | none =>
      let w := dwords p
      (s.modCtx c.cid fun x => { x with seqr := { x.seqr with table := es, base := c.a.toNat, sq := w.take 16, k := w.drop 16 } }, 0)
  | _, _ => (s, 0)

/-- The accumulators of a mask. -/
def maskAccs (m : Nat) : List Nat := (List.range 4).filter fun n => m.testBit n

/-- What the end of a command does besides its result: a schedule buffer is loaded (R201), banks exchange roles (R212),
working banks are cleared (R213), a table is loaded (R214), SLVSTAT is written (R184). -/
def engEffect (s : State) (o : EngOp) : State × Nat :=
  let c := o.cmd
  if c.op = 0x01 then
    match readImage (ldRead s c.cid) c.a.toNat with
    | .ok bs =>
      (s.modCtx c.cid fun x =>
        if c.b = 0 then { x with tag0 := some (c.a.toNat, bs) } else { x with tag1 := some (c.a.toNat, bs) }, o.info)
    | .error _ => (s.modCtx c.cid fun x => x.dropTag c, o.info)
  else if c.op = 0x0B then
    (s.modCtx c.cid fun x =>
      { x with accRole := Vector.ofFn fun i : Fin 4 => if c.m.testBit i.val then !x.accRole[i] else x.accRole[i] }, 0)
  else if c.op = 0x0C then
    ((maskAccs c.m).foldl (fun s n =>
      (s.putOwn c.cid (cellsAt (accKey s c.cid n 0 0) (leBytes 16384 0))).modCtx c.cid fun x =>
        { x with touched := x.touched.filter fun y => y.1 != n }) s, 0)
  else if c.op = 0x0D then seqLoad s c
  else if c.op = 0x07 then (s.modRegs c.cid fun r => { r with slvstat := BitVec.ofNat 32 o.info }, o.info)
  else (s, o.info)

/-- Whether a finished operation may not end yet (R291). -/
def EngOp.endsLater (s : State) (o : EngOp) : Bool := decide ((s.core (coreOf o.cmd.cid)).time < o.until_)

/-- R196, R197: a finished operation ends: its flags go to XFLAGS and its result word is ready. -/
def execEngineOpEnd (core : Nat) (s : State) : Host.Outcome State Fault Refusal :=
  match (s.core core).run with
  | none => .next s
  | some o =>
    if !o.finished || o.endsLater s || gangEndWaits s o 0 then .next s
    else
      let r := engEffect (EngOp.orFlags s o) o
      .next ((r.1.modRegs o.cmd.cid fun x => x.readyWord o.cmd.req (resultWord o.flags r.2)).modCore core fun k =>
        { k with run := none })

end Sys2Proof.Machine
end

