-- ==== Sys2Proof/Machine/Copy.lean ====
section
/-! DEFINITION. The copy engine and its streams (R148, R240 to R247, R351). -/

namespace Sys2Proof.Machine

/-! ### Formats and fields (R41, R148, R242) -/

/-- Bytes of an element of a format code that is no BPI code. -/
def codeBytes (code : Nat) : Nat :=
  if code = 0x00 ∨ code = 0x33 then 8
  else if code = 0x01 ∨ code = 0x04 ∨ code = 0x32 then 4
  else if code = 0x05 then 1
  else 2

/-- An angle format (R41). -/
def isAngle (code : Nat) : Bool := decide (0x31 ≤ code) && decide (code ≤ 0x33)

/-- The value of an element (R28, R32). -/
def codeValue (code x : Nat) : FVal :=
  match fmtOfCode code with
  | some f => decodeF f x
  | none => intVal (8 * codeBytes code) x

/-- A value in a format (R130, R131). -/
def codeDeliver (code : Nat) (rm : RMode) (v : FVal) : FRes :=
  match fmtOfCode code with
  | some f => deliver f (.mode rm) v
  | none =>
    let r := toIntN (.mode rm) (8 * codeBytes code) v
    ⟨r.1, r.2⟩

/-- One converted element between formats that are no BPI formats (R148); the same format moves unchanged. -/
def convElem (sf df : Nat) (rm : RMode) (x : Nat) : FRes :=
  if sf = df then ⟨x, 0⟩
  else if isAngle sf then
    let m := 8 * codeBytes sf
    let n := 8 * codeBytes df
    if m < n then ⟨x * 2 ^ (n - m), 0⟩
    else
      let r := narrowAngle (.mode rm) m n x
      ⟨r.1, r.2⟩
  else codeDeliver df rm (codeValue sf x)

/-- ROWS, COLS and the other fields of the shape word (R242). -/
def Cmd.rows (c : Cmd) : Nat := fieldN c.c.toNat 48 16 + 1
/-- COLS. -/
def Cmd.cols (c : Cmd) : Nat := fieldN c.c.toNat 32 16 + 1
/-- SFMT. -/
def Cmd.sfmt (c : Cmd) : Nat := fieldN c.c.toNat 24 8
/-- DFMT. -/
def Cmd.dfmt (c : Cmd) : Nat := fieldN c.c.toNat 16 8
/-- ESZ. -/
def Cmd.esz (c : Cmd) : Nat := fieldN c.c.toNat 11 2
/-- A copy is raw (R242). -/
def Cmd.raw (c : Cmd) : Bool := c.sfmt == 0xFF && c.dfmt == 0xFF
/-- The source row stride, signed. -/
def Cmd.sstr (c : Cmd) : Int := (c.d.extractLsb' 32 32).toInt
/-- The destination row stride, signed. -/
def Cmd.dstr (c : Cmd) : Int := (c.d.extractLsb' 0 32).toInt

/-- The format that governs an operand: in the scratchpad its bank's as it stood at issue (R147), else the field's
(R242). An operand that runs into a bank of another format has the format of the bank of its start address (R148 does not say
which; DESIGN CHOICE, log entry 79). -/
def Cmd.effFmt (c : Cmd) (va : Word) (field : Nat) : Nat :=
  if Config.windowL ≤ va.toNat ∧ va.toNat < Config.windowL + 0x40000 then
    (c.bank ((va.toNat - Config.windowL) / 0x4000)).getD field
  else field

/-- The source format of a copy, 0xFF in a raw one. -/
def Cmd.srcFmt (c : Cmd) : Nat := if c.raw then 0xFF else c.effFmt c.a c.sfmt
/-- The destination format of a copy, 0xFF in a raw one. -/
def Cmd.dstFmt (c : Cmd) : Nat := if c.raw then 0xFF else c.effFmt c.b c.dfmt

/-- Whether a format is a BPI format. -/
def isBpi (code : Nat) : Bool := (bpiPlanes code).isSome

/-- The bindings that the next copy with a command's tag takes: the oldest of each direction (R247; log entry 28). -/
def State.bindsFor (s : State) (c : Cmd) : List (Nat × Nat) :=
  let l := (s.ctx c.cid).binds.filter fun b => b.1 == c.m
  (l.find? fun b => decide (b.2 < 8)).toList ++ (l.find? fun b => decide (8 ≤ b.2)).toList

/-- The checks of R242 at issue. -/
def copyOk (s : State) (c : Cmd) : Bool :=
  let fill := c.op == 0x14
  let sb := isBpi (c.srcFmt) && !fill
  let db := isBpi (c.dstFmt)
  fieldN c.c.toNat 0 11 == 0 && rmField (fieldN c.c.toNat 13 3) && (c.raw || c.esz == 0)
    && (if fill then c.sstr == 0 && (c.raw || (c.sfmt == 0 && fmtListed c.dfmt))
        else c.raw || (fmtListed (c.srcFmt) && fmtListed (c.dstFmt) && c.sfmt != 0xFF && c.dfmt != 0xFF))
    && (!(sb || db) || c.cols % 32 == 0)
    && (s.bindsFor c).all fun b => if b.2 < 8 then c.b == 0 && c.dstr == 0 else c.a == 0 && c.sstr == 0

/-- Copies of a core, from issue to completion (R240). -/
def copiesOf (s : State) (l : Nat) : Nat := (s.ctx (2 * l)).copies.length + (s.ctx (2 * l + 1)).copies.length

/-- The ninth copy of a core waits (R240). -/
def copyBusy (s : State) (c : Cmd) : Bool := decide (8 ≤ copiesOf s (coreOf c.cid))

/-- A copy starts; the streams bound to its tag attach to it (R247). RM = 7 reads RMODE at issue (R243). -/
def copyPut (s : State) (c : Cmd) : State :=
  let x := s.ctx c.cid
  let rm := if fieldN c.c.toNat 13 3 = 7 then c.rmode.toNat else fieldN c.c.toNat 13 3
  let bs := s.bindsFor c
  s.setCtx c.cid { x with
    binds := bs.foldl (fun l b => l.erase b) x.binds
    copies := x.copies ++ [⟨c, rm, 0, 0, bs.map (·.2), [], [], none⟩] }

/-- The input stream a copy fills, if any (R247). -/
def Copy.fills (k : Copy) : Option Nat := k.streams.find? fun q => decide (q < 8)

/-- Whether a copy takes its source from pushes (R247). -/
def Copy.fromPush (k : Copy) : Bool := k.streams.any fun q => decide (8 ≤ q)

/-- A copy command (R241): four parameters, no result word. -/
def copyRun (op : Nat) (f : TFld) (s : State) : Host.Outcome State Fault Refusal :=
  tRun ⟨op, true, true, fun _ => .command, fun _ => false, copyOk s, copyBusy, copyPut, fun _ _ => none⟩ f s

/-- R241, R243. -/
def execCpGo (f : TFld) (s : State) : Host.Outcome State Fault Refusal := copyRun 0x10 f s
/-- R241, R243. -/
def execCpTr (f : TFld) (s : State) : Host.Outcome State Fault Refusal := copyRun 0x11 f s
/-- R241, R243. -/
def execCpFill (f : TFld) (s : State) : Host.Outcome State Fault Refusal := copyRun 0x14 f s

/-- The checks of `cp.bind` (R247). -/
def bindOk (s : State) (c : Cmd) : Bool :=
  decide (c.a.toNat < 16) &&
    (match (s.ctx c.cid).r.stream (c.a.toNat % 8) with
      | some q => !q.output && q.closed
      | none => true)

/-- R247. Elements that a finished input copy delivered and nothing has popped stay in front for a new input binding;
an output binding starts empty (log 28). -/
def bindPut (s : State) (c : Cmd) : State :=
  let n := c.a.toNat % 8
  let out := decide (8 ≤ c.a.toNat)
  s.modCtx c.cid fun x =>
    let old := match x.r.stream n with
      | some q => if out then [] else q.elems
      | none => []
    { x with binds := x.binds ++ [(c.m, c.a.toNat)], r := x.r.setStream n (some ⟨out, c.m, old, false, []⟩) }

/-- R247. -/
def execCpBind (f : TFld) (s : State) : Host.Outcome State Fault Refusal :=
  tRun ⟨0x12, true, true, fun _ => .command, fun _ => false, bindOk s, fun _ _ => false, bindPut, fun _ _ => none⟩ f s

/-- The checks of `cp.wait` (R245). -/
def copyWaitOk (c : Cmd) : Bool := decide (c.a.toNat < 2 ^ 16) && c.a != 0

/-- R245. -/
def execCpWait (f : TFld) (s : State) : Host.Outcome State Fault Refusal :=
  tRun ⟨0x13, false, true, fun c => .copies c.a.toNat c.seq, fun _ => false, copyWaitOk, fun _ _ => false, fun s _ => s,
    fun _ _ => none⟩ f s

/-! ### Elements (R243) -/

/-- The level at which a copy's access enters the machine: the Q of its endpoint (R326). -/
def copyLevel (region : Nat) : Nat := if region = 4 then 1 else if region = 8 then 3 else 0

/-- Whether a copy may reach a region (R241). -/
def copyRegion (region : Nat) : Bool := region == 0 || region == 1 || region == 4 || region == 8

/-- A read by a copy. -/
def copyRead (s : State) (cid va n : Nat) : Except AFault (List (Option Byte)) :=
  match locateAll s cid .read va n with
  | .error e => .error e
  | .ok ls =>
    if ls.all fun l => copyRegion l.region then
      .ok (ls.map fun l => some (s.readByte (coreOf cid) (copyLevel l.region) l.key))
    else .error (accFault va)

/-- Bytes to write at an address; none leaves a byte unchanged. -/
abbrev Put := Nat × List (Option Byte)

/-- Whether two bytes are of one ordering kind and one side, so that they are one write (R164, R281). -/
def Loc.samePage (a b : Loc) : Bool := a.q == b.q && a.kind == b.kind && a.host == b.host

/-- The bytes of a write that are of one kind enter the machine (R326, R329). -/
def enterPart (cls cid seq : Nat) (s : State) (part : List (Loc × Option Byte)) : State :=
  let cells := part.filterMap fun x => x.2.map fun b => (x.1.key, b)
  match part.head? with
  | none => s
  | some (l, _) =>
    if l.q = 0 then s.putOwn cid cells
    else s.enter (coreOf cid) (copyLevel l.region) ⟨cid, cls, seq, l.q, l.kind, l.host, cells⟩

/-- A write by a copy (R326), or the fault it meets; `cls` is the class that writes. -/
def copyWrite (s : State) (cls cid seq : Nat) (p : Put) : Except AFault State :=
  match locateAll s cid .write p.1 p.2.length with
  | .error e => .error e
  | .ok ls =>
    if ls.all fun l => copyRegion l.region then
      .ok (((ls.zip p.2).splitBy fun a b => a.1.samePage b.1).foldl (enterPart cls cid seq) s)
    else .error (accFault p.1)

/-- Several writes, each checked before any is done. -/
def copyWrites (s : State) (cls cid seq : Nat) : List Put → Except AFault State
  | [] => .ok s
  | p :: t =>
    match copyWrite s cls cid seq p with
    | .error e => .error e
    | .ok s => copyWrites s cls cid seq t

/-- An address plus a signed offset, mod 2^64. -/
def addrPlus (a : Word) (o : Int) : Nat := (a + BitVec.ofInt 64 o).toNat

/-- The bytes of a source operand at an offset from A: memory, or the bytes the pushes gave (R247). -/
def srcBytes (s : State) (k : Copy) (o : Int) (lin n : Nat) : Except AFault (List (Option Byte)) :=
  if k.fromPush then .ok ((k.pushed.drop lin).take n) else copyRead s k.cmd.cid (addrPlus k.cmd.a o) n

/-- The source bytes of a whole copy. -/
def srcTotal (c : Cmd) : Nat :=
  let sf := c.srcFmt
  if c.op = 0x14 then 0
  else if isBpi sf then c.rows * bpiSize sf c.cols
  else c.rows * c.cols * (if c.raw then 2 ^ c.esz else codeBytes sf)

/-- The little-endian value of bytes, none where one of them is invalid. -/
def optNat (bs : List (Option Byte)) : Option Nat := (allSome bs).map leNat

/-- An element before its conversion: bits in a format, or a BPI value. -/
inductive Src where
  | code (x : Nat)
  | bpi (v : Nat) (q : Int) (e : Nat)
  | gone
deriving DecidableEq, Repr

/-- Element (r, c) of the source. -/
def srcElem (s : State) (k : Copy) (r c : Nat) : Except AFault Src :=
  let cmd := k.cmd
  let sf := cmd.srcFmt
  let row : Int := (r : Int) * cmd.sstr
  if isBpi sf then
    let z := bpiSize sf cmd.cols
    let n := sf % 16
    match mapE (fun p =>
        let o := p * (cmd.cols / 8) + c / 32 * 4
        srcBytes s k (row + o) (r * z + o) 4) (List.range n) with
    | .error e => .error e
    | .ok ws =>
      match allSome (ws.map optNat) with
      | none => .ok .gone
      | some planes =>
        let v := bpiGather planes (c % 32)
        if 0x20 ≤ sf then
          let o := n * (cmd.cols / 8) + c / 32
          match srcBytes s k (row + o) (r * z + o) 1 with
          | .error e => .error e
          | .ok b => .ok (match optNat b with
            | some e => .bpi v (bpiRead n v) e
            | none => .gone)
        else .ok (.bpi v (bpiRead n v) 127)
  else
    let se := if cmd.raw then 2 ^ cmd.esz else codeBytes sf
    match srcBytes s k (row + c * se) ((r * cmd.cols + c) * se) se with
    | .error e => .error e
    | .ok b => .ok (match optNat b with
      | some x => .code x
      | none => .gone)

/-- The value of a source element. -/
def Src.value (sf : Nat) : Src → FVal
  | .code x => codeValue sf x
  | .bpi _ q e => bpiVal q e
  | .gone => .fin false 0 0

/-- The source row and column of the element at a position in the order of R243. -/
def elemAt (c : Cmd) (pos : Nat) : Nat × Nat := (pos / c.cols, pos % c.cols)

/-- The other side of a copy: `cp.tr` exchanges rows and columns (R243). -/
def turned (c : Cmd) (x : Nat × Nat) : Nat × Nat := if c.op = 0x11 then (x.2, x.1) else x

/-- Elements of a copy. -/
def workTotal (c : Cmd) : Nat := c.rows * c.cols

/-- Elements of a destination row. -/
def dstLen (c : Cmd) : Nat := if c.op = 0x11 then c.rows else c.cols

/-- Elements of a BPI destination row, padded to a multiple of 32 (R33). -/
def dstPad (c : Cmd) : Nat := (dstLen c + 31) / 32 * 32

/-- A stretch of a destination row: its offset, and for each byte the bits it changes with their value; none leaves the
byte as it is. -/
abbrev Stretch := Nat × List (Option (Nat × Nat))

/-- Whole bytes at an offset. -/
def byteStretch (o : Nat) (bs : List Byte) : Stretch := (o, bs.map fun b => some (255, b.toNat))

/-- Element i of a BPI row of n elements, its planes' bits and its block's scale byte; the last element brings the
padding of the row with it (R33). -/
def bpiStretches (df n i v e : Nat) : List Stretch :=
  let k := df % 16
  let z := (n + 31) / 32 * 32
  let last := i + 1 = n
  let planes := (List.range k).map fun p =>
    let bit := v / 2 ^ (7 - p) % 2 * 2 ^ (i % 8)
    let o := p * (z / 8) + i / 8
    if last then (o, some (256 - 2 ^ (i % 8), bit) :: List.replicate (z / 8 - i / 8 - 1) (some (255, 0)))
    else (o, [some (2 ^ (i % 8), bit)])
  let pad := if last then (4 - z / 32 % 4) % 4 else 0
  if 0x20 ≤ df then planes ++ [(k * (z / 8) + i / 32, some (255, e) :: List.replicate pad (some (255, 0)))] else planes

/-- The source elements of the 32-element block that holds element (row, i) of the destination. -/
def blockElems (s : State) (k : Copy) (row i : Nat) : Except AFault (List Src) :=
  mapE (fun x => let p := turned k.cmd x; srcElem s k p.1 p.2)
    (((List.range 32).map fun j => (row, i / 32 * 32 + j)).filter fun x => decide (x.2 < dstLen k.cmd))

/-- An element converted to a BPI format with block scales (R36): its 8-bit form, its block's scale and its flags. The
block is converted as its source stands; an invalid source element counts as zero (log 28). -/
def scaledElem (rm : RMode) (v : FVal) (block : List FVal) : Nat × Nat × BitVec 8 :=
  if block.all FVal.isFin then
    let e := bpiScale block
    match v with
    | .fin n m x =>
      let q := bpiRound (.mode rm) e n m x
      (bpiByte q.1, e, if q.2 then 0 else flNX)
    | _ => (0, e, 0)
  else (0, 255, flNV)

/-- The bytes that the element at the position of a copy writes in its destination row, with the flags (R148, R242,
R243). A BPI element moves unchanged where the formats agree and its block moves with it. -/
def elemStretches (s : State) (k : Copy) : Except AFault (List Stretch × BitVec 8) :=
  let c := k.cmd
  let sf := c.srcFmt
  let df := c.dstFmt
  let rm := RMode.ofCode k.rm
  let de := if c.raw then 2 ^ c.esz else codeBytes df
  let at_ := elemAt c k.pos
  let d := turned c at_
  if c.op = 0x14 then
    .ok (if isBpi df then bpiStretches df (dstLen c) d.2 (c.a.toNat % 256) (c.a.toNat / 256 % 256)
      else [byteStretch (d.2 * de) (leBytes de c.a.toNat)], 0)
  else
    match srcElem s k at_.1 at_.2 with
    | .error e => .error e
    | .ok .gone => .ok (if isBpi df then [] else [(d.2 * de, List.replicate de none)], 0)
    | .ok x =>
      if !isBpi df then
        let r : FRes := match x with
          | .code b => if c.raw then ⟨b, 0⟩ else convElem sf df rm b
          | y => codeDeliver df rm (y.value sf)
        .ok ([byteStretch (d.2 * de) (leBytes de r.bits)], r.flags)
      else
        let put (v : Nat × Nat × BitVec 8) : List Stretch × BitVec 8 := (bpiStretches df (dstLen c) d.2 v.1 v.2.1, v.2.2)
        match x, decide (sf = df ∧ (df < 0x20 ∨ c.op ≠ 0x11)) with
        | .bpi v _ e, true => .ok (put (v, e, 0))
        | x, _ =>
          if df < 0x20 then
            let r := bpiElem (.mode rm) (x.value sf)
            .ok (put (r.1, 127, r.2))
          else
            match blockElems s k d.1 d.2 with
            | .error e => .error e
            | .ok b => .ok (put (scaledElem rm (x.value sf) (b.map (Src.value sf))))

/-- The byte at an address that a copy writes, as the copy would read it. -/
def oldByte (s : State) (cid va : Nat) : Nat :=
  match locateAll s cid .write va 1 with
  | .ok (l :: _) => (s.readByte (coreOf cid) (copyLevel l.region) l.key).toNat
  | _ => 0

/-- A byte with the bits of a mask replaced. -/
def maskedByte (old m v : Nat) : Byte := BitVec.ofNat 8 ((old &&& (255 - m)) ||| v)

/-- A stretch as a write at an address: bytes of which only some bits change keep the others. -/
def stretchPut (s : State) (cid va : Nat) (st : Stretch) : Put :=
  (va, st.2.zipIdx.map fun x => x.1.map fun b =>
    maskedByte (if b.1 = 255 then 0 else oldByte s cid ((va + x.2) % 2 ^ 64)) b.1 b.2)

/-- A stretch laid into waiting bytes. -/
def stretchInto (base : Nat) (l : List (Option Byte)) (st : Stretch) : List (Option Byte) :=
  st.2.zipIdx.foldl (fun l x =>
    let i := base + st.1 + x.2
    l.set i (x.1.map fun b => maskedByte (((l.getD i none).getD 0).toNat) b.1 b.2)) l

/-- An operand's alignment: its elements', or 4 bytes for BPI (R242). -/
def operandAligned (a : Word) (stride : Int) (rows align : Nat) : Bool :=
  a.toNat % align == 0 && (rows == 1 || stride % (align : Int) == 0)

/-- What is checked before any element moves (R242): alignment and angle pairs. The address of the fault. -/
def copyBad (k : Copy) : Option Nat :=
  let c := k.cmd
  let sf := c.srcFmt
  let df := c.dstFmt
  let size (f : Nat) : Nat := if c.raw then 2 ^ c.esz else if isBpi f then 4 else codeBytes f
  let inp := k.fills.isSome
  if c.op ≠ 0x14 ∧ !k.fromPush ∧ !operandAligned c.a c.sstr c.rows (size sf) then some c.a.toNat
  else if !inp ∧ !operandAligned c.b c.dstr (if c.op = 0x11 then c.cols else c.rows) (size df) then some c.b.toNat
  else if c.op ≠ 0x14 ∧ !c.raw ∧ isAngle sf ≠ isAngle df then some c.a.toNat
  else none

/-- A copy as a list entry is replaced. -/
def setCopy (s : State) (cid pos : Nat) (k : Copy) : State :=
  s.modCtx cid fun x => { x with copies := x.copies.set pos k }

/-- What of a context waits on the fault service for a copy, and for an `as.ld`: each of them alone (R246, R289). -/
def copyCls (c : Cmd) : Nat := 8 + 2 * c.req
/-- See `copyCls`. -/
def asCls (c : Cmd) : Nat := 9 + 2 * c.req

/-- A copy stops at its element (R246): a translation fault goes to the fault service, and an access fault traps. -/
def copyFault (s : State) (cid pos : Nat) (k : Copy) (write : Bool) (e : AFault) : State :=
  if e.trans then
    (s.noteWalk cid e.va).postFault cid (copyCls k.cmd) (if write then .engineWrite else .engineRead) 9 e
  else (setCopy s cid pos { k with held := some (6, e.va) }).modCtx cid fun x => x.postTrap ⟨6, 9, 0, 0, e.va⟩

/-- The source bytes that an output-stream copy needs for its next element: its own, or those of its BPI rows, or of its
block (R33, R36, R247). -/
def srcNeeds (k : Copy) : Nat :=
  let c := k.cmd
  let se := if c.raw then 2 ^ c.esz else codeBytes c.srcFmt
  let scaled := isBpi c.dstFmt && decide (0x20 ≤ c.dstFmt)
  if scaled && c.op == 0x11 then srcTotal c
  else if isBpi c.srcFmt then (k.pos / c.cols + 1) * bpiSize c.srcFmt c.cols
  else if scaled then min (srcTotal c) ((k.pos / 32 + 1) * 32 * se)
  else (k.pos + 1) * se

/-- Whether those bytes have been pushed. A copy takes no push after its last one, and a fill takes none (R247). -/
def pushesReady (k : Copy) : Bool := !k.fromPush || decide (min (srcTotal k.cmd) (srcNeeds k) ≤ k.pushed.length)

/-- Whether a copy of an output stream still lacks pushes that the program has to make: what is queued in its stream and what
it has taken is less than its source (R246, R247). -/
def lacksPushes (r : Regs) (k : Copy) : Bool :=
  match k.streams.find? fun q => decide (8 ≤ q) with
  | some q => decide (k.pushed.length + 128 * ((r.stream (q - 8)).map (·.elems.length)).getD 0 < srcTotal k.cmd)
  | none => false

/-- The bytes of a copy into a stream after an element: packed in the order of R243, a BPI row's bits where R33 places
them. -/
def packElem (k : Copy) (sts : List Stretch) : List (Option Byte) :=
  let c := k.cmd
  let z := bpiSize c.dstFmt (dstPad c)
  let d := turned c (elemAt c k.pos)
  if !isBpi c.dstFmt then k.bytes ++ sts.flatMap fun st => st.2.map fun x => x.map fun b => BitVec.ofNat 8 b.2
  else if c.op = 0x11 then
    sts.foldl (stretchInto (d.1 * z)) (if k.pos = 0 then List.replicate (c.cols * z) (some 0) else k.bytes)
  else
    let l := if d.2 = 0 then k.bytes ++ List.replicate z (some 0) else k.bytes
    sts.foldl (stretchInto (l.length - z)) l

/-- What the next element of a copy reaches in memory, an address and a number of bytes each: its source, or those of its block
(R36), and the bytes it writes (R284). -/
def copySpans (k : Copy) (sts : List Stretch) : List (Nat × Nat) :=
  let c := k.cmd
  let d := turned c (elemAt c k.pos)
  let block := isBpi c.dstFmt && decide (0x20 ≤ c.dstFmt)
  let elems := if !block then [d]
    else ((List.range 32).map fun j => (d.1, d.2 / 32 * 32 + j)).filter fun x => decide (x.2 < dstLen c)
  let se := if c.raw then 2 ^ c.esz else codeBytes c.srcFmt
  let src (x : Nat × Nat) : Nat × Nat :=
    let row : Int := (x.1 : Int) * c.sstr
    if isBpi c.srcFmt then (addrPlus c.a row, bpiSize c.srcFmt c.cols) else (addrPlus c.a (row + x.2 * se), se)
  (if c.op = 0x14 ∨ k.fromPush then [] else elems.map fun x => src (turned c x)) ++
    (if k.fills.isSome then [] else sts.map fun st => (addrPlus c.b ((d.1 : Int) * c.dstr + st.1), st.2.length))

/-- One element of a copy (R243, R246, R247). -/
def copyElem (s : State) (cid pos : Nat) (k : Copy) : State :=
  let c := k.cmd
  match (if k.pos = 0 then copyBad k else none) with
  | some va => copyFault s cid pos k false (accFault va)
  | none =>
    match elemStretches s k with
    | .error e => copyFault s cid pos k false e
    | .ok p =>
      let s := s.noteSpans cid (copySpans k p.1)
      let en := (s.ctx cid).r.enabled p.2
      if en ≠ 0 then
        ((setCopy s cid pos { k with held := some (9, 0) }).modRegs cid fun r => r.raise p.2).modCtx cid fun x =>
          x.postTrap ⟨9, 9, en, 0, 0⟩
      else
        let k' : Copy := { k with pos := k.pos + 1, flags := k.flags ||| p.2 }
        if k.fills.isSome then setCopy s cid pos { k' with bytes := packElem k p.1 }
        else
          let row : Int := ((turned c (elemAt c k.pos)).1 : Int) * c.dstr
          match copyWrites s 1 cid c.seq (p.1.map fun st => stretchPut s cid (addrPlus c.b (row + st.1)) st) with
          | .error e => copyFault s cid pos k true e
          | .ok t => setCopy t cid pos k'

/-- Whether a copy into a stream may move its next element: it pauses while 8 elements wait, and while a whole element
waits for its delivery (R247). In a stopped context it goes on, since it completes into the image (R221, R246). -/
def deliverRoom (s : State) (k : Copy) : Bool :=
  match k.fills with
  | some q => ((s.ctx k.cmd.cid).status == .stopped ||
        ((s.ctx k.cmd.cid).r.stream q).all (fun x => decide (x.elems.length < 8))) &&
      (decide (k.bytes.length < 128) || isBpi k.cmd.dstFmt)
  | none => true

/-- Whether a copy may move its next element now: no fence holds class C (R159, R244), no fault or trap holds it (R246),
and its stream has room or data (R247). -/
def copyReady (s : State) (cid : Nat) (k : Copy) : Bool :=
  let c := s.ctx cid
  (k.held.isSome && c.status == .ending) ||
    (!s.blockedAt cid 1 k.cmd.seq false && !s.svcWaits cid (copyCls k.cmd) && decide (k.pos < workTotal k.cmd)
      && (k.held.isNone || (!c.r.inHandler && !c.traps.any (fun t => t.slot == 9)))
      && pushesReady k && deliverRoom s k)

/-- A held copy of a task that ends is reported and dropped (R246); any other moves its next element. -/
def copyStep (s : State) (cid pos : Nat) (k : Copy) : State :=
  match k.held, (s.ctx cid).status with
  | some h, .ending => s.modCtx cid fun x => { x with copies := x.copies.eraseIdx pos }.reportHeld h
  | _, _ => copyElem s cid pos { k with held := none }

/-- Bytes of a destination row of a copy. -/
def dstRowBytes (c : Cmd) : Nat :=
  if isBpi c.dstFmt then bpiSize c.dstFmt (dstPad c) else dstLen c * (if c.raw then 2 ^ c.esz else codeBytes c.dstFmt)

/-- The ranges of keys of some consecutive addresses, page by page, as far as they can be told. -/
def keyRanges (s : State) (cid va n : Nat) : List (Nat × Nat × Nat) :=
  let cuts := (List.range (n / 4096 + 2)).filterMap fun i =>
    let lo := if i = 0 then va else (va / 4096 + i) * 4096
    let hi := min (va + n) ((va / 4096 + i + 1) * 4096)
    if lo < hi then some (lo, hi - lo) else none
  cuts.filterMap fun x => match locate s cid .write (x.1 % 2 ^ 64) with
    | .ok l => some (0, l.key, l.key + x.2)
    | .error _ => none

/-- The ranges of memory a copy writes, for the keyed order (R351), by the place of the bytes and not by their address, so
that two pages of one frame meet; none for a copy into a stream. -/
def copyRanges (s : State) (k : Copy) : List (Nat × Nat × Nat) :=
  let c := k.cmd
  if k.fills.isSome then []
  else (List.range (if c.op = 0x11 then c.cols else c.rows)).flatMap fun i =>
    keyRanges s c.cid (addrPlus c.b ((i : Int) * c.dstr)) (dstRowBytes c)

/-- Whether two ranges overlap. -/
def rangesMeet (a b : Nat × Nat × Nat) : Bool := a.1 == b.1 && decide (a.2.1 < b.2.2) && decide (b.2.1 < a.2.2)

/-- A deterministic copy with a smaller key writes the same place (R351). -/
def earlierCopy (s : State) (k : Copy) : Bool :=
  let mine := copyRanges s k
  s.ctxs.any fun c => c.2.bind.det && c.2.copies.any fun x =>
    x.cmd.key.lt k.cmd.key && (copyRanges s x).any fun y => mine.any (rangesMeet y)

/-- R243: the next element of a copy of a free context. -/
def copyPerform (s : State) (cid pos : Nat) : State :=
  match (s.ctx cid).copies[pos]? with
  | none => s
  | some k => if !(s.ctx cid).bind.det && copyReady s cid k then copyStep s cid pos k else s

/-- R351: the next element of a copy of a deterministic context. -/
def keyedCopy (s : State) (cid pos : Nat) : State :=
  match (s.ctx cid).copies[pos]? with
  | none => s
  | some k =>
    if (s.ctx cid).bind.det && copyReady s cid k && s.frameReached cid ((s.ctx cid).keyTime k.cmd.key + 64)
        && !earlierCopy s k then copyStep s cid pos k else s

/-- R245: a copy that has moved everything completes: its flags go to XFLAGS and stay for `cp.wait`. -/
def execCopyComplete (cid pos : Nat) (s : State) : Host.Outcome State Fault Refusal :=
  match (s.ctx cid).copies[pos]? with
  | none => .next s
  | some k =>
    let inp := k.fills.isSome
    if k.pos < workTotal k.cmd ∨ (inp ∧ !k.bytes.isEmpty) then .next s
    else .next (s.modCtx cid fun x =>
      { x with copies := x.copies.eraseIdx pos, copyFlags := x.copyFlags ++ [(k.cmd.m, k.cmd.seq, k.flags)],
               r := x.r.raise k.flags })

/-! ### Streams (R162, R247) -/

/-- A stream element from 128 bytes. -/
def elemWords (bs : List Byte) : List VWord := (wordsOfBytes bs).map fun w => ⟨w, true⟩

/-- A request that no element is left for lands 32 invalid words (R306). -/
def MReq.noElem (x : MReq) : MReq :=
  { x with bytes := List.replicate 128 (some 0), okWords := List.replicate 32 false, arrived := true, qn := none }

/-- The binding of an input stream finishes: a `qrd` for which no element is left lands 32 invalid words, and the stream is
unbound once its elements are popped (R247, R306). -/
def Regs.finishStream (r : Regs) (n : Nat) : Regs :=
  match r.stream n with
  | none => r
  | some q =>
    let left := ((r.pops n).drop q.elems.length).map (·.id)
    let r : Regs := { r with land := r.land.map fun x => if left.contains x.id then x.noElem else x }
    r.setStream n (if q.elems.isEmpty then none else some { q with closed := true })

/-- An element arrives at an input stream, behind those that wait (R162). -/
def Regs.streamElem (r : Regs) (n : Nat) (e : List VWord) : Regs :=
  match r.stream n with
  | none => r
  | some q => r.setStream n (some { q with elems := q.elems ++ [e] })

/-- The first 128 waiting bytes as an element, padded with zero bytes (R247). -/
def firstElem (bs : List Byte) : List VWord := elemWords (bs.take 128 ++ List.replicate (128 - bs.length) 0)

/-- The waiting bytes of a copy into a stream that are final: all once it has moved everything, and of BPI rows those
that are complete. -/
def finalBytes (k : Copy) : Nat :=
  let c := k.cmd
  if workTotal c ≤ k.pos then k.bytes.length
  else if !isBpi c.dstFmt then k.bytes.length
  else if c.op = 0x11 then 0
  else if k.pos % c.cols = 0 then k.bytes.length
  else k.bytes.length - bpiSize c.dstFmt (dstPad c)

/-- R247: the next element of a copy into a stream. -/
def copyDeliver (s : State) (cid q i : Nat) (k : Copy) : State :=
  let all := decide (workTotal k.cmd ≤ k.pos)
  if k.bytes.isEmpty ∨ !(decide (128 ≤ finalBytes k) || all) then s
  else
    let rest := k.bytes.drop 128
    let e := firstElem (k.bytes.map fun b => b.getD 0)
    (setCopy s cid i { k with bytes := rest }).modRegs cid fun r =>
      let r := r.streamElem q e
      if all && rest.isEmpty then r.finishStream q else r

/-- R247: the copy of an output stream takes the oldest push when its next element needs it; after its last push the
stream is unbound. A push takes its place on path C (R157, R159, R324). -/
def execPushConsumed (cid q : Nat) (s : State) : Host.Outcome State Fault Refusal :=
  let c := s.ctx cid
  match c.copies.findIdx? fun k => k.streams.contains (q + 8), c.r.stream q with
  | some i, some st =>
    match c.copies[i]?, st.elems with
    | some k, e :: t =>
      if srcTotal k.cmd = 0 then .next (s.modRegs cid fun r => r.setStream q none)
      else if pushesReady k || k.held.isSome || s.svcWaits cid (copyCls k.cmd) || s.blockedAt cid 1 k.cmd.seq false
          || s.blockedAt cid 1 (st.seqs.headD 0) false then .next s
      else
        let bs := e.flatMap fun w => (leBytes 4 w.bits.toNat).map fun b => if w.ok then some b else none
        let k := { k with pushed := k.pushed ++ bs }
        let done := decide (srcTotal k.cmd ≤ k.pushed.length)
        .next ((setCopy s cid i k).modRegs cid fun r =>
          r.setStream q (if done then none else some { st with elems := t, seqs := st.seqs.drop 1 }))
    | some k, [] =>
      -- a fill takes no push
      if srcTotal k.cmd = 0 then .next (s.modRegs cid fun r => r.setStream q none) else .next s
    | none, _ => .next s
  | _, _ => .next s

/-! ### The macro sequencer (R190, R191, R215) -/

/-- sq[i]. -/
def sqAt (q : Seq) (i : Nat) : Word := q.sq.getD i 0

/-- The command an entry issues (R190, R191). Its result word goes to sq[sD] when it completes (R215). It keeps the place
of `seq.run` in the context's order (R326), and takes the formats and RMODE as they stand when it issues. -/
def seqCmd (s : State) (c : Cmd) (q : Seq) (e : Nat) : Cmd :=
  { c with op := fieldN e 121 7, a := sqAt q (fieldN e 117 4), b := sqAt q (fieldN e 113 4), c := sqAt q (fieldN e 109 4),
           d := sqAt q (fieldN e 105 4), m := fieldN e 101 4, dreg := BitVec.ofNat 6 (fieldN e 105 4),
           req := (s.ctx c.cid).nextId, fmts := s.bankFmts c.cid, rmode := (s.ctx c.cid).r.rmode }

/-- Whether a sequencer's command returns a scalar. -/
def returnsWord (op : Nat) : Bool := (decide (1 ≤ op) && decide (op ≤ 5)) || op == 7 || op == 0x0A || op == 0x13

/-- Writes sq[i]. -/
def Seq.setSq (q : Seq) (i : Nat) (v : Word) : Seq := { q with sq := q.sq.set i v }

/-- What a copy's wait covers: whether every copy with a tag of the mask issued before `seq` has completed, and the
flags of those that have (R245). -/
def copiesDone (c : Ctx) (mask seq : Nat) : Bool :=
  !(c.copies.any fun k => mask.testBit k.cmd.m && decide (k.cmd.seq < seq))

/-- The flags raised by the covered copies (R245). -/
def copyWaitFlags (c : Ctx) (mask seq : Nat) : BitVec 8 :=
  c.copyFlags.foldl (fun f k => if mask.testBit k.1 && decide (k.2.1 < seq) then f ||| k.2.2 else f) 0

/-- A command of the sequencer that breaks a check of R195 is discarded and traps as an illegal slot at the boundary
(log entry 21). -/
def seqIllegal (s : State) (cid : Nat) : State := s.modCtx cid fun x => x.postTrap ⟨3, 9, 0, 0, 0⟩

/-- The checks of R195 on the fields of an entry's command: a mask of 0 and a modifier of `rot.grad` are refused too. -/
def seqFieldsOk (c : Cmd) : Bool :=
  engOk c && !((c.op == 0x0B || c.op == 0x0C) && c.m == 0) && !(c.op == 0x06 && c.m != 0)

/-- The sequencer issues a command; none while it has to wait (R75, R159, R191, R215, R240). DESIGN CHOICE (log 63): a
command discarded at its start leaves the sq register of its sD as it is, and the run goes on. -/
def seqIssue (s : State) (o : EngOp) (e : Nat) : Option State :=
  let cid := o.cmd.cid
  let x := s.ctx cid
  let c := seqCmd s o.cmd x.seqr e
  let s1 := s.modCtx cid fun x => { x with nextId := x.nextId + 1,
                                           seqr := { x.seqr with issued := x.seqr.issued + 1, lastCopy := none } }
  if c.op < 0x10 then
    if x.seqr.inner.isSome || s.blockedAt cid c.engClass c.seq false || s.accWaits c || s.savWaits c then none
    else if !seqFieldsOk c then some (seqIllegal s1 cid)
    else
      match engStart s1 (c.atStart s1) with
      | .ok i => 
        some ((engBegin ((s1.recordFetches cid (startFetches s1 c)).retarget c) c i).modCtx cid fun x =>
          { x with seqr := { x.seqr with inner := some i } })
      | .error f =>
        if f.trans then
          if s.svcWaits cid 1 || s.deliveredNow cid then none
          else some (((gangReplay s c (x.seqr.issued + 1)).noteWalk cid f.va).postFault cid 1 .engineRead 9 f)
        else some (s1.modCtx cid fun x => (x.dropTag c).postTrap ⟨6, 9, 0, 0, f.va⟩)
  else if c.op = 0x12 then some (if bindOk s c then bindPut s1 c else seqIllegal s1 cid)
  else if c.op = 0x13 then
    if !copyWaitOk c then some (seqIllegal s1 cid)
    else if copiesDone x c.a.toNat (c.seq + 1) then
      let v := (resultWord (copyWaitFlags x c.a.toNat (c.seq + 1)) c.a.toNat).bits
      some (s1.modCtx cid fun y => { y with seqr := y.seqr.setSq c.dreg.toNat v })
    else none
  else if copyBusy s c then none
  else if copyOk s c then
    some ((copyPut s1 c).modCtx cid fun y => { y with seqr := { y.seqr with lastCopy := some c.req } })
  else some (seqIllegal s1 cid)

/-- The counter operation and the stride update of an entry (R190, R191). -/
def seqUpdate (q : Seq) (e : Nat) : Seq :=
  let n := fieldN e 97 2
  let k := q.k.getD n 0
  let kop := fieldN e 99 2
  let k' := if kop = 1 then k + 1 else if kop = 2 then k - 1 else if kop = 3 then sqAt q (fieldN e 93 4) else k
  let q := { q with k := q.k.set n k' }
  if fieldN e 92 1 = 1 then q.setSq (fieldN e 88 4) (sqAt q (fieldN e 88 4) + sqAt q (fieldN e 84 4)) else q

/-- Whether the command the sequencer enqueued last has completed (R191). -/
def seqEngineDone (c : Ctx) : Bool :=
  c.seqr.inner.isNone && (match c.seqr.lastCopy with
    | some n => !(c.copies.any fun k => k.cmd.req == n)
    | none => true)

/-- COND (R190). -/
def seqCond (c : Ctx) (e : Nat) : Bool :=
  let k := c.seqr.k.getD (fieldN e 97 2) 0
  match fieldN e 81 3 with
  | 0 => true
  | 1 => k == 0
  | 2 => k != 0
  | 3 => seqEngineDone c
  | 4 => c.r.xflags.getLsbD 6
  | 5 => c.r.dlPend
  | _ => !(c.copies.any fun x => x.cmd.m == fieldN e 77 4)

/-- The sequencer's running command ends: its word goes to its sq register (R215), and its flags to XFLAGS and to the
run. -/
def seqInnerEnd (s : State) (core : Nat) (o i : EngOp) : State :=
  let cid := o.cmd.cid
  let r := engEffect (EngOp.orFlags s i) i
  let put (q : Seq) : Seq :=
    let q := { q with inner := none }
    if returnsWord i.cmd.op then q.setSq i.cmd.dreg.toNat (resultWord i.flags r.2).bits else q
  (r.1.modCtx cid fun x => { x with seqr := put x.seqr }).modCore core fun k =>
    { k with run := some { o with flags := o.flags ||| i.flags } }

/-- One transition out of the entry the sequencer stands at (R191, R215). -/
def seqMove (s : State) (core : Nat) (o : EngOp) (e : Nat) : State :=
  let cid := o.cmd.cid
  let c := s.ctx cid
  let at_ := c.seqr.at_
  if fieldN e 121 7 = 0 ∧ fieldN e 71 6 = at_ then
    if c.seqr.inner.isSome then s
    else s.modCore core fun k =>
      { k with run := some { o with finished := true, info := c.seqr.issued % 2 ^ 16 + at_ * 2 ^ 16 } }
  else if fieldN e 64 1 = 1 ∧ c.seqr.inner.isSome then s
  else
    let goal := if seqCond c e then fieldN e 71 6 else fieldN e 65 6
    let t := s.modCtx cid fun x => { x with seqr := { x.seqr with at_ := goal, prev := some at_ } }
    if fieldN e 64 1 = 1 then engStepEnd t core { o with step := goal } false else t

/-- R191: the sequencer makes one transition; on arriving from a different entry it first acts. -/
def execSeqTransition (core : Nat) (s : State) : Host.Outcome State Fault Refusal :=
  match (s.core core).run with
  | none => .next s
  | some o =>
    let cid := o.cmd.cid
    let q := (s.ctx cid).seqr
    if o.cmd.op ≠ 0x0E ∨ o.finished then .next s
    else
      match q.inner.bind (fun i => if i.finished && !i.endsLater s && !gangEndWaits s i q.issued then some i else none), q.table[q.at_]? with
      | some i, _ => .next (seqInnerEnd s core o i)
      | none, none => .next s
      | none, some e =>
        if q.prev = some q.at_ then .next (seqMove s core o e)
        else
          match (if fieldN e 121 7 = 0 then some s else seqIssue s o e) with
          | none => .next s
          | some t =>
            if (t.ctx cid).seqr.issued = q.issued ∧ fieldN e 121 7 ≠ 0 then .next t
            else
              .next (seqMove (t.modCtx cid fun x => { x with seqr := { seqUpdate x.seqr e with prev := some q.at_ } }) core o e)

end Sys2Proof.Machine
end

