-- ==== Sys2Proof/Machine/Aster.lean ====
section
/-! DEFINITION. The Asterism equivalence engine (R258 to R277, R279). -/

namespace Sys2Proof.Machine

/-! ### Handles and fields (R260, R267) -/

/-- The cluster a handle names, on the issuing core's die (R260). -/
def Cmd.eqClu (c : Cmd) : Nat := dieOf (coreOf c.cid) * 32 + fieldN c.a.toNat 56 5
/-- NE. -/
def Cmd.eqNe (c : Cmd) : Nat := fieldN c.a.toNat 18 19
/-- BASE. -/
def Cmd.eqBase (c : Cmd) : Nat := fieldN c.a.toNat 0 18

/-- The checks of a handle (R272). -/
def handleOk (c : Cmd) : Bool :=
  fieldN c.a.toNat 61 3 == 0 && fieldN c.a.toNat 37 19 == 0 && decide (1 ≤ c.eqNe) && decide (c.eqBase + c.eqNe ≤ 262144)

/-- The checks of an Asterism command at issue (R272). -/
def eqOk (c : Cmd) : Bool :=
  handleOk c &&
    (if c.op = 0x21 ∨ c.op = 0x23 then decide (c.b.toNat < c.eqNe) && decide (c.c.toNat < c.eqNe)
     else if c.op = 0x22 ∨ c.op = 0x24 then decide (c.b.toNat < c.eqNe)
     else if c.op = 0x25 then fieldN c.c.toNat 37 25 == 0 && (c.c.getLsbD 63 || c.c == 0)
     else true)

/-- Whether an array of a relabel is 4-byte aligned and lies wholly in used scratchpad banks or in cluster memory
(R267). -/
def relabelArray (s : State) (cid va n : Nat) : Bool :=
  let o := va - Config.windowL
  let cells := (List.range n).map fun i => windowLoc s cid (o + 4 * i)
  decide (Config.windowL ≤ va) && va % 4 == 0 && decide (va + 4 * n ≤ 2 ^ 64)
    && (cells.all (fun l => l.any fun l => l.region == 0) || cells.all (fun l => l.any fun l => l.region == 4))

/-- The address of a relabel array that breaks R267. -/
def eqBad (s : State) (c : Cmd) : Option Nat :=
  if c.op ≠ 0x25 then none
  else
    let v := winAddr (fieldN c.c.toNat 0 25)
    if !relabelArray s c.cid c.b.toNat c.eqNe then some c.b.toNat
    else if c.c.getLsbD 63 && !relabelArray s c.cid v c.eqNe then some v
    else none

/-- The engine's 64-entry queue is full (R268). -/
def eqBusy (s : State) (c : Cmd) : Bool := decide (64 ≤ (s.clu c.eqClu).eqQ.length)

/-- A request leaves the core (R268). -/
def eqPut (s : State) (c : Cmd) : State :=
  (s.modCtx c.cid fun x => { x with eqOut := x.eqOut ++ [(c.seq, c.eqClu)] }).modClu c.eqClu fun k => { k with eqQ := k.eqQ ++ [c] }

/-- A request. -/
def eqRun (op : Nat) (f : TFld) (s : State) : Host.Outcome State Fault Refusal :=
  tRun { TSpec.plain op true eqOk eqBusy eqPut with bad := eqBad } f s

/-- R272. -/
def execEqInit (f : TFld) (s : State) : Host.Outcome State Fault Refusal := eqRun 0x20 f s
/-- R272. -/
def execEqUnite (f : TFld) (s : State) : Host.Outcome State Fault Refusal := eqRun 0x21 f s
/-- R272. -/
def execEqFind (f : TFld) (s : State) : Host.Outcome State Fault Refusal := eqRun 0x22 f s
/-- R272. -/
def execEqSame (f : TFld) (s : State) : Host.Outcome State Fault Refusal := eqRun 0x23 f s
/-- R272. -/
def execEqSize (f : TFld) (s : State) : Host.Outcome State Fault Refusal := eqRun 0x24 f s
/-- R272. -/
def execEqRelabel (f : TFld) (s : State) : Host.Outcome State Fault Refusal := eqRun 0x25 f s
/-- R272. -/
def execEqSnap (f : TFld) (s : State) : Host.Outcome State Fault Refusal := eqRun 0x26 f s
/-- R272. -/
def execEqUndo (f : TFld) (s : State) : Host.Outcome State Fault Refusal := eqRun 0x27 f s

/-- R275. -/
def execEqFence (f : TFld) (s : State) : Host.Outcome State Fault Refusal :=
  tRun ⟨0x28, false, true, fun c => .eqFence c.seq, fun _ => false, fun _ => true, fun _ _ => false, fun s _ => s,
    fun _ _ => none⟩ f s

/-! ### The forest (R259, R261 to R265) -/

/-- The index of element a of the store within the first of some forests that holds it. -/
def ownIn (fs : List (Nat × Nat)) (a : Nat) : Option Nat :=
  (fs.find? fun f => decide (f.1 ≤ a) && decide (a < f.1 + f.2)).map fun f => a - f.1

/-- The own index of element a of the store: within the forest that last initialised it, or, before any has, within the
forest whose request first reached it (R258, R259, R266). -/
def Cluster.own (k : Cluster) (a : Nat) : Nat := (ownIn (k.inits ++ k.uses) a).getD a

/-- Element v of the forest at `base`; one that no request has changed since its reset holds the Reset column of R259,
before the first `eq.init` of its forest too (R258). Forests that overlap share their elements (R260). -/
def Cluster.elem (k : Cluster) (base v : Nat) : Elem :=
  k.forest.getD (base + v) (let i := (ownIn k.inits (base + v)).getD v; ⟨i, 1, i, 0⟩)

/-- A request reaches a forest. -/
def Cluster.use (k : Cluster) (base ne : Nat) : Cluster :=
  if k.inits.contains (base, ne) || k.uses.contains (base, ne) then k else { k with uses := k.uses ++ [(base, ne)] }

/-- Changes element v. -/
def Cluster.modElem (k : Cluster) (base v : Nat) (f : Elem → Elem) : Cluster :=
  { k with forest := k.forest.set (base + v) (f (k.elem base v)) }

/-- The walk of a find (R261): in a forest that shares no elements every step goes to a smaller index. -/
def findGo (k : Cluster) (base : Nat) : Nat → Nat → List Nat → Nat × List Nat
  | 0, y, path => (y, path)
  | n + 1, y, path =>
    let e := k.elem base y
    if e.parent = y then (y, path)
    else findGo k base n (if e.sgen = k.gen ∧ e.short ≠ y then e.short else e.parent) (y :: path)

/-- A find with its path compression (R261). -/
def Cluster.find (k : Cluster) (base x : Nat) : Nat × Cluster :=
  let r := findGo k base 262144 x []
  (r.1, r.2.foldl (fun k z => k.modElem base z fun e => { e with short := r.1, sgen := k.gen }) k)

/-- A union is logged for the snapshots of its forest; past 65,536 records they break (R264). -/
def Cluster.logUnion (k : Cluster) (handle hi : Nat) : Cluster :=
  if k.stack.isEmpty ∨ !(k.stackFor.any fun b => b.2.2.2 == handle) then k
  else if 65536 ≤ k.ulog.length then { k with stack := k.stack.map (fun e => (e.1, true)), ulog := [] }
  else { k with ulog := hi :: k.ulog }

/-- A union: the root and whether it merged (R262). -/
def Cluster.unite (k : Cluster) (handle base a b : Nat) : Nat × Bool × Cluster :=
  let x := k.find base a
  let y := x.2.find base b
  let k := y.2
  if x.1 = y.1 then (x.1, false, k)
  else
    let lo := min x.1 y.1
    let hi := max x.1 y.1
    let n := (k.elem base hi).size
    let k := k.modElem base hi fun e => { e with parent := lo }
    let k := k.modElem base lo fun e => { e with size := e.size + n }
    (lo, true, k.logUnion handle hi)

/-- Takes back the unions logged after a position (R265): the log is newest first. -/
def undoGo (base pos : Nat) : List Nat → Cluster → Cluster
  | [], k => { k with ulog := [] }
  | hi :: t, k =>
    if t.length + 1 ≤ pos then { k with ulog := hi :: t }
    else
      let lo := (k.elem base hi).parent
      let n := (k.elem base hi).size
      let k := k.modElem base lo fun e => { e with size := e.size - n }
      undoGo base pos t (k.modElem base hi fun e => { e with parent := hi })

/-- GEN + 1 mod 512; a wrap first writes SHORT := own index in every element (R263). -/
def Cluster.bumpGen (k : Cluster) : Cluster :=
  if k.gen = 511 then { k with gen := 0, forest := k.forest.map fun x => (x.1, { x.2 with short := k.own x.1 }) }
  else { k with gen := k.gen + 1 }

/-- The forest a stack belongs to, empty (R266, R274). -/
def Cluster.dropStack (k : Cluster) : Cluster := { k with stack := [], stackFor := none, ulog := [] }

/-- An undo (R265): status, value, and whether it was broken. -/
def Cluster.undo (k : Cluster) (base : Nat) : Nat × Nat × Cluster :=
  let pop (k : Cluster) : Cluster :=
    let k := { k with stack := k.stack.drop 1 }
    if k.stack.isEmpty then { k with stackFor := none } else k
  match k.stack with
  | [] => (3, 0, k)
  | (pos, broken) :: _ =>
    if broken then (2, 0, pop k)
    else
      let n := k.ulog.length - pos
      let k := (pop (undoGo base pos k.ulog k)).bumpGen
      (0, n % 2 ^ 17 + k.gen * 2 ^ 17, k)

/-- Whether a forest overlaps a poisoned range (R277). -/
def Cluster.forestPoisoned (k : Cluster) (base ne : Nat) : Bool :=
  k.poisoned.any fun p => decide (base < p.2) && decide (p.1 < base + ne)

/-- The stack is bound to another forest than a handle's (R264). -/
def Cluster.stackElse (k : Cluster) (handle : Nat) : Bool := !k.stack.isEmpty && !(k.stackFor.any fun x => x.2.2.2 == handle)

/-- The elements of the store that a request reads; an undo that reverts nothing reads none (R264, R265). -/
def Cluster.reads (k : Cluster) (c : Cmd) : List Nat :=
  let base := c.eqBase
  let path (x : Nat) : List Nat :=
    let r := findGo k base 262144 x []
    (r.1 :: r.2).map (base + ·)
  if c.op = 0x21 ∨ c.op = 0x23 then path c.b.toNat ++ path c.c.toNat
  else if c.op = 0x22 ∨ c.op = 0x24 then path c.b.toNat
  else if c.op = 0x25 then (List.range c.eqNe).map (base + ·)
  else if c.op = 0x27 then
    match k.stack with
    | (pos, false) :: _ =>
      if k.stackElse c.a.toNat then []
      else (k.ulog.take (k.ulog.length - pos)).flatMap fun hi => [base + hi, base + (k.elem base hi).parent]
    | _ => []
  else []

/-- Whether a request meets an element with an uncorrectable error (R277). -/
def Cluster.meetsBad (k : Cluster) (c : Cmd) : Bool := !k.bad.isEmpty && (k.reads c).any k.bad.contains

/-- What a range [lo, hi) leaves of a range. -/
def clipRange (lo hi : Nat) (p : Nat × Nat) : List (Nat × Nat) :=
  (if p.1 < min p.2 lo then [(p.1, min p.2 lo)] else []) ++ (if max p.1 hi < p.2 then [(max p.1 hi, p.2)] else [])

/-- R274: `eq.init`; it clears the poison of the forest's own elements. -/
def Cluster.initForest (k : Cluster) (handle base ne : Nat) : Cluster :=
  let k := { k with forest := k.forest.filter (fun x => decide (x.1 < base) || decide (base + ne ≤ x.1)),
                    inits := (base, ne) :: k.inits.filter (fun f => decide (f.1 < base) || decide (base + ne < f.1 + f.2)),
                    poisoned := k.poisoned.flatMap (clipRange base (base + ne)),
                    bad := k.bad.filter fun a => decide (a < base) || decide (base + ne ≤ a) }
  if k.stackFor.any fun b => b.2.2.2 == handle then k.dropStack else k

/-- `eq.snap` (R264): status and depth. -/
def Cluster.snap (k : Cluster) (b : Nat × Nat × Nat × Nat) : Nat × Nat × Cluster :=
  if k.stackElse b.2.2.2 then (4, 0, k)
  else if 4 ≤ k.stack.length then (1, 0, k)
  else
    (0, k.stack.length + 1,
      { k with stack := (k.ulog.length, false) :: k.stack, stackFor := some (k.stackFor.getD b) })

/-! ### Relabelling (R267) -/

/-- The labels of the roots, ascending (R267). -/
def rootLabels (k : Cluster) (base ne : Nat) : List Nat := (List.range ne).filter fun x => (k.elem base x).parent == x

/-- One add of a relabel at word `w` of the issuing core's atomic area. -/
def relabelAdd (s : State) (c : Cmd) (w : Nat) (x : Nat) : State :=
  let key := kAtom (coreOf c.cid) (4 * w)
  let old := s.atomWord key
  let new := if c.c.getLsbD 62 then (fAdd fmtF32 .rne (decodeF fmtF32 old) (decodeF fmtF32 x)).bits else (old + x) % 2 ^ 32
  s.putCells (cellsAt key (leBytes 4 new))

/-- A relabel meets a poisoned granule or another fault at one element: the first is an access fault of its context at the
next boundary, and the relabel goes on (R257, log entry 59). -/
def relabelFault (c : Cmd) (st : State × Bool × Bool) (va : Nat) : State × Bool × Bool :=
  if st.2.2 then st else (st.1.modCtx c.cid fun x => x.postTrap ⟨6, 9, 0, 0, va⟩, st.2.1, true)

/-- One element of a relabel: its label goes to B, and its value to the sums; whether a sum was cut, and whether an access
met a fault. -/
def relabelElem (c : Cmd) (roots : List Nat) (st : State × Bool × Bool) (x : Nat) : State × Bool × Bool :=
  let r := (st.1.clu c.eqClu).find c.eqBase x
  let s := st.1.modClu c.eqClu fun _ => r.2
  let l := (roots.findIdx? (· == r.1)).getD 0
  let st := match copyWrite s 3 c.cid c.seq (c.b.toNat + 4 * x, (leBytes 4 l).map some) with
    | .ok t => (t, st.2)
    | .error e => relabelFault c (s, st.2) e.va
  if c.c.getLsbD 63 then
    let aoff := fieldN c.c.toNat 25 12
    if l < 4096 - aoff then
      match copyRead st.1 c.cid (winAddr (fieldN c.c.toNat 0 25) + 4 * x) 4 with
      | .ok b => (relabelAdd st.1 c (aoff + l) (leNat (b.map fun y => y.getD 0)), st.2)
      | .error e => relabelFault c st e.va
    else (st.1, true, st.2.2)
  else st

/-! ### Processing (R268 to R270, R273) -/

/-- What a request does: status and value (R273). INFO[27:0] is 0 where the status is not 0, which R273 leaves open
(DESIGN CHOICE, log entry 73). -/
def eqDo (s : State) (c : Cmd) : State × Nat × Nat :=
  let cl := c.eqClu
  let s := s.modClu cl fun k => k.use c.eqBase c.eqNe
  let k := s.clu cl
  let base := c.eqBase
  let h := c.a.toNat
  let put (k : Cluster) : State := s.modClu cl fun _ => k
  if c.op = 0x20 then (put (k.initForest h base c.eqNe), 0, c.eqNe)
  else if k.forestPoisoned base c.eqNe then (s, 5, 0)
  else if k.meetsBad c then
    ((put { k with poisoned := (base, base + c.eqNe) :: k.poisoned }).logCore (cl * 16) errPoison (2 ^ 80 + base), 5, 0)
  else if c.op = 0x21 then
    let r := k.unite h base c.b.toNat c.c.toNat
    (put r.2.2, 0, r.1 + (if r.2.1 then 2 ^ 18 else 0))
  else if c.op = 0x22 then
    let r := k.find base c.b.toNat
    (put r.2, 0, r.1)
  else if c.op = 0x23 then
    let r := k.find base c.b.toNat
    let q := r.2.find base c.c.toNat
    (put q.2, 0, if r.1 = q.1 then 1 else 0)
  else if c.op = 0x24 then
    let r := k.find base c.b.toNat
    (put r.2, 0, (r.2.elem base r.1).size)
  else if c.op = 0x25 then
    let roots := rootLabels k base c.eqNe
    let r := (List.range c.eqNe).foldl (relabelElem c roots) (s, false, false)
    (r.1, 0, roots.length + (if r.2.1 then 2 ^ 19 else 0))
  else if c.op = 0x26 then
    let b := (s.ctx c.cid).bind
    let r := k.snap (b.part, b.launch, b.node, h)
    (put r.2.2, r.1, r.2.1)
  else
    if k.stackElse h then (s, 4, 0)
    else
      let r := k.undo base
      (put r.2.2, r.1, r.2.1)

/-- A request is processed: its word is ready, and a poisoned forest or a broken undo traps (R265, R273). -/
def eqProcess (s : State) (c : Cmd) : State :=
  let r := eqDo s c
  let s := r.1.modClu c.eqClu fun k => { k with eqQ := k.eqQ.filter fun x => !(x.cid == c.cid && x.seq == c.seq) }
  s.modCtx c.cid fun x =>
    let x := { x with eqOut := x.eqOut.filter (fun y => y.1 != c.seq),
                      r := x.r.readyWord c.req (resultWord 0 (r.2.1 * 2 ^ 28 + r.2.2 % 2 ^ 28)) }
    if r.2.1 = 5 then x.postTrap ⟨6, 9, 0, 0, 0⟩ else if r.2.1 = 2 then x.postTrap ⟨14, 9, 0, 0, 0⟩ else x

/-- The first of each context's requests in a list, in list order. -/
def firstPerCtx (q : List Cmd) : List Cmd :=
  q.foldl (fun acc c => if acc.any fun x => x.cid == c.cid then acc else acc ++ [c]) []

/-- One of a list, by free choices (arrival order is not fixed, R268). -/
def pickFree (seed : Nat) : List Cmd → Option Cmd
  | [] => none
  | [c] => some c
  | c :: t => if Config.openChoice (2 ^ 201 + seed) then some c else pickFree (seed + 1) t

/-- A deterministic request may be processed: 64 cc of frame time after its stamp, and no request with a smaller key
waits (R269). -/
def keyedReady (s : State) (q : List Cmd) (c : Cmd) : Bool :=
  s.frameReached c.cid ((s.ctx c.cid).keyTime c.key + 64)
    && !(q.any fun x => (s.ctx x.cid).bind.det && x.key.lt c.key)

/-- The requests that an engine may process next: each context's oldest, not held by a fence (R268, R269, R271). -/
def eqNextCands (s : State) (cluster : Nat) : List Cmd :=
  let q := (s.clu cluster).eqQ
  (firstPerCtx q).filter fun c =>
    !s.blockedAt c.cid 3 c.seq false && (!(s.ctx c.cid).bind.det || keyedReady s q c)

/-- R268: the engine processes the next request in its order. -/
def execEqRequestProcess (cluster : Nat) (s : State) : Host.Outcome State Fault Refusal :=
  match pickFree (s.tick * 4096) (eqNextCands s cluster) with
  | none => .next s
  | some c => .next { eqProcess s c with tick := s.tick + 1 }

end Sys2Proof.Machine
end

