-- ==== Sys2Proof/Machine/Catalogue.lean ====
section
/-! DEFINITION. The Catalogue product-key unit (R293 to R306). -/

namespace Sys2Proof.Machine

/-! ### Issue (R297, R298, R301) -/

/-- Q. -/
def Cmd.pkQ (c : Cmd) : Nat := fieldN c.a.toNat 32 8 + 1
/-- WMODE. -/
def Cmd.pkMode (c : Cmd) : Nat := fieldN c.a.toNat 30 2
/-- ACC. -/
def Cmd.pkAcc (c : Cmd) : Bool := c.a.getLsbD 29
/-- STRM, of a lookup. -/
def Cmd.pkStrm (c : Cmd) : Bool := c.op == 0x31 && c.a.getLsbD 28
/-- QN. -/
def Cmd.pkQn (c : Cmd) : Nat := fieldN c.a.toNat 25 3
/-- k. -/
def Cmd.pkK (c : Cmd) : Nat := fieldN c.a.toNat 20 5 + 1
/-- k1. -/
def Cmd.pkK1 (c : Cmd) : Nat := fieldN c.a.toNat 15 5 + 1
/-- SLOT. -/
def Cmd.pkSlot (c : Cmd) : Nat := if c.op = 0x30 then c.b.toNat % 16 else c.a.toNat % 16

/-- A stream whose binding has not finished (R247, R298). -/
def streamBusy (s : State) (cid n : Nat) : Bool :=
  match (s.ctx cid).r.stream n with
  | some q => !(!q.output && q.closed)
  | none => false

/-- The checks at issue (R297, R298). -/
def pkOk (s : State) (c : Cmd) : Bool :=
  let w := c.a.toNat
  if c.op = 0x30 then w % 64 == 0 && decide (c.b.toNat < 16)
  else
    fieldN w 40 24 == 0 && fieldN w 4 11 == 0 && c.pkMode != 3 &&
      (if c.op = 0x31 then
        c.c.toNat % 64 == 0 && decide (c.pkK ≤ c.pkK1 * c.pkK1) && !(c.pkAcc && c.pkStrm)
          && (c.pkStrm || c.pkQn == 0) && !(c.pkStrm && streamBusy s c.cid c.pkQn)
      else fieldN w 25 5 == 0 && fieldN w 15 5 == 0 && c.b.toNat % 64 == 0)

/-- No room: the context's seventeenth command, or a full queue (R302). -/
def pkBusy (s : State) (c : Cmd) : Bool :=
  decide (16 ≤ (s.ctx c.cid).pkOut.length) || decide (64 ≤ (s.die (dieOf (coreOf c.cid))).pkQ.length)

/-- The tag of a lookup's stream. -/
def pkTag : Nat := 16

/-- A command enters the unit's queue; a streaming lookup binds its stream (R299). -/
def pkPut (s : State) (c : Cmd) : State :=
  let bindIt (x : Ctx) : Ctx :=
    if c.pkStrm then
      let old := match x.r.stream c.pkQn with
        | some q => q.elems
        | none => []
      { x with r := x.r.setStream c.pkQn (some ⟨false, pkTag, old, false, []⟩) }
    else x
  (s.modCtx c.cid fun x => bindIt { x with pkOut := x.pkOut ++ [c.seq], pkCount := x.pkCount + 1 }).modDie
    (dieOf (coreOf c.cid)) fun d => { d with pkQ := d.pkQ ++ [c] }

/-- A command of the Catalogue. -/
def pkIssue (op : Nat) (f : TFld) (s : State) : Host.Outcome State Fault Refusal :=
  tRun (.plain op true (pkOk s) pkBusy pkPut) f s

/-- R305. -/
def execPkCfg (f : TFld) (s : State) : Host.Outcome State Fault Refusal := pkIssue 0x30 f s
/-- R295, R299. -/
def execPkLook (f : TFld) (s : State) : Host.Outcome State Fault Refusal := pkIssue 0x31 f s
/-- R300. -/
def execPkBack (f : TFld) (s : State) : Host.Outcome State Fault Refusal := pkIssue 0x32 f s

/-- R301: the commands since the previous `pk.wait` are counted here, and the count starts again. -/
def execPkWait (f : TFld) (s : State) : Host.Outcome State Fault Refusal :=
  let x := s.me
  tRun ⟨0x33, false, true, fun c => .pkWait x.pkFrom c.seq x.pkCount, fun _ => false, fun _ => true, fun _ _ => false,
    fun s c => s.modCtx c.cid fun y => { y with pkFrom := c.seq, pkCount := 0 }, fun _ _ => none⟩ f s

/-! ### Rows at near-memory units (R308, R327) -/

/-- The key of a range that lies within one logical channel of stack memory (R308). -/
def nmRow (s : State) (cid : Nat) (perm : Perm) (va n : Nat) : Except AFault Nat :=
  match locateAll s cid perm va n with
  | .error e => .error e
  | .ok ls =>
    match ls.head? with
    | none => .error (accFault va)
    | some h =>
      if h.region = 8 ∧ h.key < 2 ^ 64 ∧ h.key % 8192 + n ≤ 8192
          ∧ ((List.range n).zip ls).all (fun x => x.2.key == h.key + x.1) then .ok h.key
      else .error (accFault va)

/-- The logical channel of a stack key (R308). -/
def channelOf (key : Nat) : Nat := key % 2 ^ 44 / 2 ^ 13 % 256

/-- A row of n bytes with a write to one of its granules still in the package buffer (R327). -/
def granulesPending (s : State) (key n : Nat) : Bool :=
  s.hub.pkgBuf.any fun w => w.cells.any fun c => decide (key / 64 ≤ c.1 / 64) && decide (c.1 / 64 ≤ (key + n - 1) / 64)

/-- The offset in a row of n bytes of the first poisoned granule it holds, from the row's first byte on (R319). -/
def poisonIn (s : State) (key n : Nat) : Option Nat :=
  ((List.range (n / 64 + 2)).find? fun i => decide (key / 64 + i ≤ (key + n - 1) / 64) && s.hub.poison.contains (key / 64 + i)).map
    fun i => (key / 64 + i) * 64 - key

/-- A row of n bytes that holds a poisoned granule (R319). -/
def rowPoisoned (s : State) (key n : Nat) : Bool := (poisonIn s key n).isSome

/-- The adds of a row at its unit: elements in a poisoned granule are skipped (R312, R319). -/
def nmAddRow (s : State) (key size : Nat) (add : Nat → Nat → Nat) (xs : List Nat) : State :=
  let cells := ((List.range xs.length).zip xs).flatMap fun x =>
    let k := key + x.1 * size
    if s.poisoned k then [] else cellsAt k (leBytes size (add (leNat (memGetBytes s.mem k size)) x.2))
  s.putCells cells

/-- The FP32 sum of a near-memory add: rounded once, no flag (R312). -/
def addF32 (a b : Nat) : Nat := (fAdd fmtF32 .rne (decodeF fmtF32 a) (decodeF fmtF32 b)).bits

/-! ### Configurations (R293, R294, R305) -/

/-- Bytes of an element: FP32 or BF16. -/
def pkBytes (code : Nat) : Nat := if code = 1 then 4 else 2

/-- The value of an element. -/
def pkVal (code x : Nat) : FVal := decodeF (if code = 1 then fmtF32 else fmtBF16) x

/-- GSTR (R294). -/
def PkCfg.gstr (p : PkCfg) : Nat := (4 * p.dv + 63) / 64 * 64

/-- Bytes of one key table. -/
def PkCfg.table (p : PkCfg) : Nat := p.nk * p.dh * pkBytes p.kfmt

/-- A configuration block (R294), or none where R305 refuses it. -/
def pkParse (bs : List Byte) : Option PkCfg :=
  let p : PkCfg :=
    { nk := slice bs 32 4, dh := slice bs 36 2, dv := slice bs 38 2, kfmt := slice bs 40 1, vfmt := slice bs 41 1,
      share := slice bs 42 1 == 1, koff := slice bs 44 4, vaddr := slice bs 16 8, gvaddr := slice bs 24 8,
      vstr := slice bs 48 8 }
  let fmt (x : Nat) : Bool := x == 1 || x == 2
  if decide (1 ≤ p.nk) && decide (p.nk ≤ 4096) && decide (1 ≤ p.dh) && decide (p.dh ≤ 512) && decide (1 ≤ p.dv)
      && decide (p.dv ≤ 2048) && fmt p.kfmt && fmt p.vfmt && decide (slice bs 42 1 ≤ 1) && slice bs 43 1 == 0
      && slice bs 56 8 == 0 && p.koff % 64 == 0
      && decide (p.koff + (if p.share then 1 else 2) * p.table ≤ 2 ^ 23) && p.vaddr % 64 == 0 && p.vstr % 64 == 0
      && decide (p.dv * pkBytes p.vfmt ≤ p.vstr) then some p
  else none

/-- Element t of key i of a half in the key SRAM (R293, R294). -/
def pkKeyElem (s : State) (die : Nat) (p : PkCfg) (half i t : Nat) : FVal :=
  let e := pkBytes p.kfmt
  let o := p.koff + (if half = 1 && !p.share then p.table else 0) + (i * p.dh + t) * e
  pkVal p.kfmt (leNat (memGetBytes s.mem (kKey die (o % 2 ^ 23)) e))

/-! ### Arithmetic (R295) -/


/-- One FMA step: RN(acc + a x b). -/
def FRes.fma (acc : FRes) (a b : FVal) : FRes :=
  let r := fFma fmtF32 .rne a b (decodeF fmtF32 acc.bits)
  ⟨r.bits, acc.flags ||| r.flags⟩

/-- One addition: RN(acc + a). -/
def FRes.add (acc : FRes) (a : Nat) : FRes :=
  let r := fAdd fmtF32 .rne (decodeF fmtF32 acc.bits) (decodeF fmtF32 a)
  ⟨r.bits, acc.flags ||| r.flags⟩

/-- An FP32 encoding as a value. -/
def f32 (x : Nat) : FVal := decodeF fmtF32 x

/-- The flags of a list of results. -/
def orFlags (l : List FRes) : BitVec 8 := l.foldl (fun f r => f ||| r.flags) 0

/-- The scores of one half: FMA over the dimensions in increasing order. -/
def pkScores (s : State) (die : Nat) (p : PkCfg) (half : Nat) (x : List FVal) : List FRes :=
  (List.range p.nk).map fun i =>
    ((List.range p.dh).zip x).foldl (fun acc tx => acc.fma tx.2 (pkKeyElem s die p half i tx.1)) ⟨0, 0⟩

/-- The rank of a score: NaN below every number, and -0 equal to +0. -/
def scoreKey (x : Nat) : Int :=
  match f32 x with
  | .nan _ => -(2 ^ 32)
  | _ => if x / 2 ^ 31 % 2 = 1 then -((x % 2 ^ 31 : Nat) : Int) else ((x % 2 ^ 31 : Nat) : Int)

/-- A candidate: its score, its combined index and its two halves. -/
structure PkCand where
  c : Nat
  row : Nat
  i : Nat
  j : Nat
deriving DecidableEq, Repr

/-- Whether a candidate ranks before another: descending score, and the lower index among equals. -/
def PkCand.before (a b : PkCand) : Bool :=
  decide (scoreKey b.c < scoreKey a.c) || (scoreKey a.c == scoreKey b.c && decide (a.row < b.row))

/-- Inserts a candidate at its rank. -/
def rankInsert (x : PkCand) : List PkCand → List PkCand
  | [] => [x]
  | y :: t => if x.before y then x :: y :: t else y :: rankInsert x t

/-- The best n of a list. -/
def rankBest (n : Nat) (l : List PkCand) : List PkCand := l.foldl (fun acc x => (rankInsert x acc).take n) []

/-- The best min(k1, NK) of a half's scores. -/
def halfBest (k1 : Nat) (sc : List FRes) : List PkCand :=
  rankBest k1 (((List.range sc.length).zip sc).map fun x => ⟨x.2.bits, x.1, x.1, 0⟩)

/-- The candidates of I x J with their sums. -/
def pkPairs (nk : Nat) (is js : List PkCand) : List (PkCand × BitVec 8) :=
  is.flatMap fun a => js.map fun b =>
    let r := fAdd fmtF32 .rne (f32 a.c) (f32 b.c)
    (⟨r.bits, a.i * nk + b.i, a.i, b.i⟩, r.flags)

/-- The weights of the ranked candidates by WMODE, and the flags. -/
def pkWeights (mode : Nat) (cs : List Nat) : List Nat × BitVec 8 :=
  let share (es : List Nat) (fl : BitVec 8) : List Nat × BitVec 8 :=
    let sum := (es.drop 1).foldl FRes.add ⟨es.headD 0, 0⟩
    let ws := es.map fun e => fDiv fmtF32 .rne (f32 e) (f32 sum.bits)
    (ws.map (·.bits), fl ||| sum.flags ||| orFlags ws)
  if mode = 0 then
    let ds := cs.map fun c => fSub fmtF32 .rne (f32 c) (f32 (cs.headD 0))
    let es := ds.map fun d => fExp fmtF32 (.mode .rne) (f32 d.bits)
    share (es.map (·.bits)) (orFlags ds ||| orFlags es)
  else if mode = 1 then share cs 0
  else
    let w := fDiv fmtF32 .rne (.fin false 1 0) (.fin false cs.length 0)
    (List.replicate cs.length w.bits, w.flags)

/-- The elements of a value row. -/
def pkRowVals (s : State) (p : PkCfg) (key : Nat) : List FVal :=
  let e := pkBytes p.vfmt
  (List.range p.dv).map fun t => pkVal p.vfmt (leNat (memGetBytes s.mem (key + t * e) e))

/-- The key of value row r, at its unit. -/
def pkRowKey (s : State) (cid : Nat) (p : PkCfg) (r : Nat) : Except AFault Nat :=
  nmRow s cid .unitRead ((p.vaddr + r * p.vstr) % 2 ^ 64) (p.dv * pkBytes p.vfmt)

/-- The address of the first poisoned granule of value rows (R303, R342). -/
def pkPoisonAt (s : State) (p : PkCfg) (rows keys : List Nat) : Option Nat :=
  (rows.zip keys).findSome? fun x => (poisonIn s x.2 (p.dv * pkBytes p.vfmt)).map fun i =>
    (p.vaddr + x.1 * p.vstr + i) % 2 ^ 64

/-- The partial sum of one unit: its rows in rank order. -/
def pkPartial (s : State) (p : PkCfg) (rows : List (Nat × Nat)) : List FRes :=
  rows.foldl (fun acc r => (acc.zip (pkRowVals s p r.1)).map fun x => x.1.fma (f32 r.2) x.2) (List.replicate p.dv ⟨0, 0⟩)

/-- The gather: partial sums by unit, added in increasing channel order. `rows` holds each ranked row's key and
weight. -/
def pkGather (s : State) (p : PkCfg) (rows : List (Nat × Nat)) : List FRes :=
  let chans := (List.range 256).filter fun l => rows.any fun r => channelOf r.1 == l
  let parts := chans.map fun l => pkPartial s p (rows.filter fun r => channelOf r.1 == l)
  match parts with
  | [] => List.replicate p.dv ⟨0, 0⟩
  | z :: t => t.foldl (fun acc q => (acc.zip q).map fun x => ⟨(x.1.add x.2.bits).bits, (x.1.add x.2.bits).flags ||| x.2.flags⟩) z

/-- The selection record (R296): k entries. -/
def pkRecord (k : Nat) (cs : List PkCand) (ws : List Nat) : List Byte :=
  let one (x : PkCand × Nat) : List Byte :=
    leBytes 4 x.1.row ++ leBytes 4 x.2 ++ leBytes 2 x.1.i ++ leBytes 2 x.1.j ++ leBytes 4 x.1.c
  ((cs.zip ws).flatMap one) ++
    (List.replicate (k - cs.length) (one (⟨fmtF32.qnan, 2 ^ 32 - 1, 2 ^ 16 - 1, 2 ^ 16 - 1⟩, 0))).flatten

/-- The ranked candidates of a query with the flags of the scoring. -/
def pkSelect (s : State) (die : Nat) (p : PkCfg) (c : Cmd) (q : List FVal) : List PkCand × BitVec 8 :=
  let a := pkScores s die p 0 (q.take p.dh)
  let b := pkScores s die p 1 (q.drop p.dh)
  let pairs := pkPairs p.nk (halfBest c.pkK1 a) (halfBest c.pkK1 b)
  (rankBest c.pkK (pairs.map (·.1)), orFlags a ||| orFlags b ||| pairs.foldl (fun f x => f ||| x.2) 0)

/-! ### Accesses of the unit (R299, R326) -/

/-- Reads FP32 or BF16 elements. -/
def pkElems (code : Nat) (bs : List (Option Byte)) : List FVal :=
  let e := pkBytes code
  let l := bs.map fun b => b.getD 0
  (List.range (l.length / e)).map fun i => pkVal code (slice l (i * e) e)

/-- Reads query n. -/
def pkQuery (s : State) (cid : Nat) (p : PkCfg) (base n : Nat) : Except AFault (List FVal) :=
  let z := 2 * p.dh * pkBytes p.kfmt
  match copyRead s cid ((base + n * z) % 2 ^ 64) z with
  | .error e => .error e
  | .ok bs => .ok (pkElems p.kfmt bs)

/-- A write of plain bytes by the unit. -/
def pkWrite (s : State) (c : Cmd) (a : Nat) (bs : List Byte) : Except AFault State :=
  copyWrite s 4 c.cid c.seq (a % 2 ^ 64, bs.map some)

/-- A range of the unit's operands lies in one region or is translated (R299); translation faults wait for the access. -/
def pkRange (s : State) (cid : Nat) (perm : Perm) (a n : Nat) : Bool :=
  match locateAll s cid perm (a % 2 ^ 64) n with
  | .ok ls => ls.all fun l => copyRegion l.region
  | .error e => e.trans

/-- A step of the unit's work: done, a fault, a poisoned value row, or a wait for the package buffer (R303, R327). -/
inductive PkOut where
  | ok (s : State) (flags : BitVec 8) (row : List Byte)
  /-- The access that faults is a write (R285). -/
  | fault (write : Bool) (e : AFault)
  /-- The address of the poisoned granule. -/
  | poison (va : Nat)
  | wait

/-- What query n of a lookup reaches in memory, an address and a number of bytes each, for the value rows it takes (R284,
R299). -/
def pkSpans (c : Cmd) (p : PkCfg) (n : Nat) (rows : List Nat) : List (Nat × Nat) :=
  let z := 2 * p.dh * pkBytes p.kfmt
  let recs := c.c.toNat + (if c.pkStrm then 0 else c.pkQ * p.gstr) + n * c.pkK * 16
  ((c.b.toNat + n * z) % 2 ^ 64, z) :: (recs % 2 ^ 64, c.pkK * 16) ::
    (if c.pkStrm then [] else [((c.c.toNat + n * p.gstr) % 2 ^ 64, 4 * p.dv)])
    ++ rows.map fun r => ((p.vaddr + r * p.vstr) % 2 ^ 64, p.dv * pkBytes p.vfmt)

/-- What query n of a backward pass reaches, for the value rows of its record and the indices of its halves (R284, R300). -/
def pkBackSpans (c : Cmd) (p : PkCfg) (blk : List Byte) (n : Nat) (rows is js : List Nat) : List (Nat × Nat) :=
  let z := 2 * p.dh * pkBytes p.kfmt
  let k := c.pkK
  let at_ (o r size : Nat) : Nat × Nat := ((slice blk o 8 + r * size) % 2 ^ 64, size)
  [at_ 0 n z, at_ 8 n (k * 16), ((slice blk 16 8 + n * p.gstr) % 2 ^ 64, 4 * p.dv), at_ 24 n (2 * p.dh * 4), at_ 48 n (k * 4)]
    ++ is.map (fun i => at_ 32 i (p.dh * 4)) ++ js.map (fun j => at_ 40 j (p.dh * 4))
    ++ rows.flatMap fun r => ((p.vaddr + r * p.vstr) % 2 ^ 64, p.dv * pkBytes p.vfmt) ::
      (if p.gvaddr = 0 then [] else [((p.gvaddr + r * p.gstr) % 2 ^ 64, 4 * p.dv)])

/-- One query of a lookup (R295, R296, R299). -/
def pkLookup (s : State) (c : Cmd) (p : PkCfg) (n : Nat) : PkOut :=
  let die := dieOf (coreOf c.cid)
  match pkQuery s c.cid p c.b.toNat n with
  | .error e => .fault false e
  | .ok q =>
    let sel := pkSelect s die p c q
    match mapE (fun x => pkRowKey s c.cid p x.row) sel.1 with
    | .error e => .fault false e
    | .ok keys =>
      let z := p.dv * pkBytes p.vfmt
      if keys.any fun k => granulesPending s k z then .wait
      else match pkPoisonAt s p (sel.1.map (·.row)) keys with
      | some va => .poison va
      | none =>
        let w := pkWeights c.pkMode (sel.1.map (·.c))
        let sum := pkGather s p (keys.zip w.1)
        let rec_ := pkRecord c.pkK sel.1 w.1
        let fl := sel.2 ||| w.2
        let s := s.noteSpans c.cid (pkSpans c p n (sel.1.map (·.row)))
        if c.pkStrm then
          match pkWrite s c (c.c.toNat + n * c.pkK * 16) rec_ with
          | .error e => .fault true e
          | .ok t => .ok t (fl ||| orFlags sum) (sum.flatMap fun x => leBytes 4 x.bits)
        else
          let o := c.c.toNat + n * p.gstr
          match (if c.pkAcc then copyRead s c.cid (o % 2 ^ 64) (4 * p.dv) else .ok []) with
          | .error e => .fault false e
          | .ok old =>
            let sum := if c.pkAcc then
                (sum.zip (pkElems 1 old)).map fun x =>
                  let r := fAdd fmtF32 .rne x.2 (f32 x.1.bits)
                  (⟨r.bits, x.1.flags ||| r.flags⟩ : FRes)
              else sum
            match pkWrite s c o (sum.flatMap fun x => leBytes 4 x.bits) with
            | .error e => .fault true e
            | .ok t =>
              match pkWrite t c (c.c.toNat + c.pkQ * p.gstr + n * c.pkK * 16) rec_ with
              | .error e => .fault true e
              | .ok u => .ok u (fl ||| orFlags sum) []

/-! ### The backward pass (R300) -/

/-- The sums over distinct indices of one half: σ of each index, increasing. -/
def pkSigmas (es : List (Nat × Nat)) : List (Nat × FRes) :=
  let ixs := es.foldl (fun l x => if l.contains x.1 then l else l ++ [x.1]) []
  let sorted := ixs.foldl (fun l x => (l.filter fun y => decide (y < x)) ++ [x] ++ l.filter fun y => decide (x < y)) []
  sorted.map fun i => (i, (es.filter fun x => x.1 == i).foldl (fun a x => FRes.add a x.2) ⟨0, 0⟩)

/-- Accumulates σ x into the key gradients of one index; a fault comes with whether it is a write's. -/
def pkDk (c : Cmd) (p : PkCfg) (base : Nat) (xh : List FVal) (st : Except (Bool × AFault) (State × BitVec 8))
    (sg : Nat × FRes) : Except (Bool × AFault) (State × BitVec 8) :=
  match st with
  | .error e => .error e
  | .ok (s, fl) =>
    let a := base + sg.1 * p.dh * 4
    match copyRead s c.cid (a % 2 ^ 64) (4 * p.dh) with
    | .error e => .error (false, e)
    | .ok old =>
      let new := (((List.range p.dh).zip (pkElems 1 old)).zip xh).map fun x =>
        fFma fmtF32 .rne (f32 sg.2.bits) x.2 x.1.2
      match pkWrite s c a (new.flatMap fun r => leBytes 4 r.bits) with
      | .error e => .error (true, e)
      | .ok t => .ok (t, fl ||| orFlags new)

/-- One query of a backward pass. -/
def pkBackward (s : State) (c : Cmd) (p : PkCfg) (blk : List Byte) (n : Nat) : PkOut :=
  let die := dieOf (coreOf c.cid)
  let k := c.pkK
  let vz := p.dv * pkBytes p.vfmt
  match pkQuery s c.cid p (slice blk 0 8) n, copyRead s c.cid ((slice blk 8 8 + n * k * 16) % 2 ^ 64) (16 * k),
      copyRead s c.cid ((slice blk 16 8 + n * p.gstr) % 2 ^ 64) (4 * p.dv) with
  | .ok q, .ok rb, .ok gb =>
    let bs := rb.map fun b => b.getD 0
    let g := pkElems 1 gb
    let all : List (Nat × Nat × PkCand) := (List.range k).map fun m =>
      (m, slice bs (16 * m + 4) 4, ⟨slice bs (16 * m + 12) 4, slice bs (16 * m) 4, slice bs (16 * m + 8) 2, slice bs (16 * m + 10) 2⟩)
    let es := all.filter fun x => x.2.2.row != 2 ^ 32 - 1
    let gvKey (r : Nat) : Except AFault Nat := nmRow s c.cid .write ((p.gvaddr + r * p.gstr) % 2 ^ 64) (4 * p.dv)
    match mapE (fun x => pkRowKey s c.cid p x.2.2.row) es,
        (if p.gvaddr = 0 then .ok [] else mapE (fun x => gvKey x.2.2.row) es) with
    | .ok keys, .ok gks =>
      if keys.any (fun x => granulesPending s x vz) || gks.any (fun x => granulesPending s x (4 * p.dv)) then .wait
      else match pkPoisonAt s p (es.map fun x => x.2.2.row) keys with
      | some va => .poison va
      | none =>
        let s := s.noteSpans c.cid (pkBackSpans c p blk n (es.map (·.2.2.row)) (es.map (·.2.2.i)) (es.map (·.2.2.j)))
        let d := keys.map fun key => (g.zip (pkRowVals s p key)).foldl (fun a x => FRes.fma a x.1 x.2) ⟨0, 0⟩
        let prods := es.map fun x => g.map fun gt => fMul fmtF32 .rne (f32 x.2.1) gt
        let grads : List (Nat × List FRes) := if p.gvaddr = 0 then [] else gks.zip prods
        let s1 := grads.foldl (fun s x => nmAddRow s x.1 4 addF32 (x.2.map (·.bits))) s
        let bad := (es.zip grads).findSome? fun x => (poisonIn s x.2.1 (4 * p.dv)).map fun i =>
          (p.gvaddr + x.1.2.2.row * p.gstr + i) % 2 ^ 64
        let s1 := match bad with
          | some g => s1.modCtx c.cid fun y => y.postTrap ⟨13, 9, 0, 0, g⟩
          | none => s1
        let fl := orFlags d ||| grads.foldl (fun f x => f ||| orFlags x.2) 0
        let wd := es.zip d
        let sum := wd.foldl (fun a x => FRes.fma a (f32 x.1.2.1) (f32 x.2.bits)) (⟨0, 0⟩ : FRes)
        let tot := (es.drop 1).foldl (fun a x => FRes.add a x.2.2.c) (⟨(es.map (·.2.2.c)).headD 0, 0⟩ : FRes)
        let ds := wd.map fun x =>
          let u := fSub fmtF32 .rne (f32 x.2.bits) (f32 sum.bits)
          if c.pkMode = 0 then
            let r := fMul fmtF32 .rne (f32 x.1.2.1) (f32 u.bits)
            (⟨r.bits, u.flags ||| r.flags⟩ : FRes)
          else if c.pkMode = 1 then
            let r := fDiv fmtF32 .rne (f32 u.bits) (f32 tot.bits)
            ⟨r.bits, u.flags ||| r.flags⟩
          else ⟨0, 0⟩
        let fl := fl ||| sum.flags ||| (if c.pkMode = 1 then tot.flags else 0) ||| orFlags ds
        let byI := pkSigmas ((es.zip ds).map fun x => (x.1.2.2.i, x.2.bits))
        let byJ := pkSigmas ((es.zip ds).map fun x => (x.1.2.2.j, x.2.bits))
        let fl := fl ||| orFlags (byI.map (·.2)) ||| orFlags (byJ.map (·.2))
        let xq := q.take p.dh
        let yq := q.drop p.dh
        match byJ.foldl (pkDk c p (slice blk 40 8) yq) (byI.foldl (pkDk c p (slice blk 32 8) xq) (.ok (s1, fl))) with
        | .error e => .fault e.1 e.2
        | .ok (s2, fl) =>
          let dq (half : Nat) (sg : List (Nat × FRes)) : List FRes := (List.range p.dh).map fun t =>
            sg.foldl (fun a x => FRes.fma a (f32 x.2.bits) (pkKeyElem s die p half x.1 t)) ⟨0, 0⟩
          let dqs := dq 0 byI ++ dq 1 byJ
          let dsAt (m : Nat) : Nat := match ((es.zip ds).find? fun x => x.1.1 == m) with
            | some x => x.2.bits
            | none => 0
          match pkWrite s2 c (slice blk 24 8 + n * 2 * p.dh * 4) (dqs.flatMap fun r => leBytes 4 r.bits) with
          | .error e => .fault true e
          | .ok s3 =>
            match pkWrite s3 c (slice blk 48 8 + n * k * 4) ((List.range k).flatMap fun m => leBytes 4 (dsAt m)) with
            | .error e => .fault true e
            | .ok s4 => .ok s4 (fl ||| orFlags dqs) []
    | .error e, _ => .fault false e
    | _, .error e => .fault true e
  | .error e, _, _ => .fault false e
  | _, .error e, _ => .fault false e
  | _, _, .error e => .fault false e

/-! ### Processing (R302, R303, R305) -/

/-- A command at its start. -/
def PkRun.start (c : Cmd) : PkRun := ⟨c, 0, 0, 0, 0, false, [], []⟩

/-- A discarded command (R195). -/
def PkRun.discard (r : PkRun) (va : Nat) : PkRun := { r with status := 16, addr := va, finished := true }

/-- The value rows that a lookup would read whose pages or channels are wrong (R299): checked for every query that can
be read when the lookup starts. -/
def pkRowsBad (s : State) (c : Cmd) (p : PkCfg) : Option Nat :=
  let bad (n : Nat) : Option Nat :=
    match pkQuery s c.cid p c.b.toNat n with
    | .error _ => none
    | .ok q =>
      match mapE (fun x => pkRowKey s c.cid p x.row) (pkSelect s (dieOf (coreOf c.cid)) p c q).1 with
      | .error e => if e.trans then none else some e.va
      | .ok _ => none
  (List.range c.pkQ).findSome? bad

/-- The ranges of a command that break R299: the address of the first one. -/
def pkRangesBad (s : State) (c : Cmd) (p : PkCfg) (blk : List Byte) : Option Nat :=
  let q := c.pkQ
  let qz := 2 * p.dh * pkBytes p.kfmt
  let rows (o : Nat) (perm : Perm) : List (Nat × Perm × Nat) := [(o, perm, (q - 1) * p.gstr + 4 * p.dv)]
  let l : List (Nat × Perm × Nat) :=
    if c.op = 0x31 then
      [(c.b.toNat, .read, q * qz)]
        ++ (if c.pkStrm then [(c.c.toNat, .write, q * c.pkK * 16)]
            else rows c.c.toNat (if c.pkAcc then .readWrite else .write) ++ [(c.c.toNat + q * p.gstr, .write, q * c.pkK * 16)])
    else
      [(slice blk 0 8, .read, q * qz), (slice blk 8 8, .read, q * c.pkK * 16)] ++ rows (slice blk 16 8) .read
        ++ [(slice blk 24 8, .write, q * 2 * p.dh * 4), (slice blk 32 8, .readWrite, p.nk * p.dh * 4),
            (slice blk 40 8, .readWrite, p.nk * p.dh * 4), (slice blk 48 8, .write, q * c.pkK * 4)]
  (l.find? fun x => !pkRange s c.cid x.2.1 x.1 x.2.2).map (·.1)

/-- The configuration of a slot (R293). -/
def pkSlotCfg (s : State) (c : Cmd) : Option PkCfg :=
  ((s.die (dieOf (coreOf c.cid))).slots.find? fun x => x.1 == c.pkSlot).map (·.2)

/-- Empties a configuration slot. -/
def Die.dropSlot (d : Die) (n : Nat) : Die := { d with slots := d.slots.filter fun x => x.1 != n }

/-- Reads a 64-byte block. -/
def pkBlock (s : State) (cid : Nat) (a : Word) : Except AFault (List Byte) :=
  match copyRead s cid a.toNat 64 with
  | .error e => .error e
  | .ok bs => .ok (bs.map fun b => b.getD 0)

/-- A translation fault of the unit goes to the die's fault service, and the unit holds the command (R303). -/
def pkPost (s : State) (r : PkRun) (write : Bool) (e : AFault) : State :=
  (s.noteWalk r.cmd.cid e.va).postFault r.cmd.cid 4 (if write then .engineWrite else .engineRead) 9 e

/-- Starts a command: its blocks and its checks (R299, R305); deterministic operation has no value gradients (R334). -/
def pkStart (s : State) (r : PkRun) : State × PkRun :=
  let c := r.cmd
  let die := dieOf (coreOf c.cid)
  let fail (e : AFault) : State × PkRun := if e.trans then (pkPost s r false e, r) else (s, r.discard e.va)
  if c.op = 0x30 then
    match pkBlock s c.cid c.a with
    | .error e => fail e
    | .ok bs =>
      if (pkParse bs).isNone then (s, r.discard c.a.toNat)
      else ((s.noteSpan 9 c.cid c.a.toNat 64).modDie die fun d => d.dropSlot c.pkSlot, { r with blk := bs })
  else
    match pkSlotCfg s c with
    | none => (s, { r with status := 17, finished := true })
    | some p =>
      if c.op = 0x32 ∧ (s.ctx c.cid).bind.det ∧ p.gvaddr ≠ 0 then (s, r.discard p.gvaddr)
      else match (if c.op = 0x32 then pkBlock s c.cid c.b else .ok [0]) with
      | .error e => fail e
      | .ok blk =>
        if c.op = 0x32 ∧ (slice blk 56 8 ≠ 0 ∨ (p.share ∧ slice blk 32 8 ≠ slice blk 40 8)) then (s, r.discard c.b.toNat)
        else
          match pkRangesBad s c p blk with
          | some va => (s, r.discard va)
          | none =>
            match (if c.op = 0x31 then pkRowsBad s c p else none) with
            | some va => (s, r.discard va)
            | none => (if c.op = 0x32 then s.noteSpan 9 c.cid c.b.toNat 64 else s, { r with blk := blk })

/-- The 64-byte stretches of a key table, by its offset in the key SRAM and its address, from `done` bytes on. -/
def keyChunks (base size done : Nat) (off : Nat) : List (Nat × Nat × Nat) :=
  (List.range (size / 64 + 2)).filterMap fun i =>
    let lo := max (base / 64 * 64 + 64 * i) (base + done)
    let hi := min (base / 64 * 64 + 64 * i + 64) (base + size)
    if lo < hi then some (off + lo - base, lo, hi - lo) else none

/-- Copies stretches into the key SRAM, in order, up to the first that faults; the bytes copied so far. -/
def copyChunks (die cid koff : Nat) : List (Nat × Nat × Nat) → State → Nat → State × Nat × Option AFault
  | [], s, n => (s, n, none)
  | (o, va, z) :: t, s, n =>
    match copyRead s cid (va % 2 ^ 64) z with
    | .error e => (s, n, some e)
    | .ok bs =>
      copyChunks die cid koff t ((s.putCells (cellsAt (kKey die (koff + o)) (bs.map fun b => b.getD 0))).noteSpan 9 cid
        (va % 2 ^ 64) z) (n + z)

/-- The key copy of a `pk.cfg` (R305): in increasing address, up to a fault, from where it stopped; afterwards the slot is
configured. -/
def pkCopyKeys (s : State) (r : PkRun) (p : PkCfg) : State × PkRun :=
  let c := r.cmd
  let die := dieOf (coreOf c.cid)
  let one (k : Nat) : List (Nat × Nat × Nat) :=
    keyChunks (slice r.blk (8 * k) 8) p.table (r.done - k * p.table) (k * p.table)
  let x := copyChunks die c.cid p.koff (one 0 ++ if p.share then [] else one 1) s r.done
  let r := { r with done := x.2.1 }
  match x.2.2 with
  | some e => if e.trans then (pkPost x.1 r false e, r) else (x.1, r.discard e.va)
  | none => (x.1.modDie die fun d => { d with slots := d.slots.set c.pkSlot p }, { r with finished := true })

/-- Whether the keys of a configuration hold an uncorrectable error (R303). -/
def pkKeysBad (s : State) (die : Nat) (p : PkCfg) : Bool :=
  let lo := kKey die p.koff
  let hi := lo + (if p.share then 1 else 2) * p.table
  s.hub.poison.any fun g => decide (lo / 64 ≤ g) && decide (g < (hi + 63) / 64)

/-- One step of a started command. An error in the key SRAM makes the slot unconfigured, and nothing of the element in
work is delivered (R303, R306). -/
def pkAdvance (s : State) (r : PkRun) : State × PkRun :=
  let c := r.cmd
  if c.op = 0x30 then
    match pkParse r.blk with
    | some p => pkCopyKeys s r p
    | none => (s, r.discard c.a.toNat)
  else
    match pkSlotCfg s c with
    | none => (s, { r with status := 1, finished := true, out := [] })
    | some p =>
      let die := dieOf (coreOf c.cid)
      if pkKeysBad s die p then
        (s.modDie die fun d => d.dropSlot c.pkSlot, { r with status := 1, finished := true, out := [] })
      else
        match (if c.op = 0x31 then pkLookup s c p r.done else pkBackward s c p r.blk r.done) with
        | .ok t fl row =>
          (t, { r with done := r.done + 1, flags := r.flags ||| fl, out := r.out ++ row, finished := decide (c.pkQ ≤ r.done + 1) })
        | .wait => (s, r)
        | .poison va => (s, { r with status := 3, addr := va, finished := true })
        | .fault w e => if e.trans then (pkPost s r w e, r) else (s, r.discard e.va)

/-- A streaming lookup pauses while a whole element waits for its delivery, which needs room in the stream (R299): each formed
element is delivered before the next query can stop the command (R306). -/
def pkPaused (s : State) (r : PkRun) : Bool :=
  r.cmd.pkStrm && decide (128 ≤ r.out.length) && ((s.ctx r.cmd.cid).r.stream r.cmd.pkQn).isSome

/-- The commands the unit may take next (R302): each context's oldest, not held by a fence, in key order where the
context is deterministic. -/
def pkNextCands (s : State) (die : Nat) : List Cmd :=
  let q := (s.die die).pkQ
  (firstPerCtx q).filter fun c =>
    !s.blockedAt c.cid 4 c.seq false && (!(s.ctx c.cid).bind.det || keyedReady s q c)

/-- R302: the unit takes its next command, or goes on with the one it holds: a block, a key copy or a query. -/
def execPkCommandProcess (die : Nat) (s : State) : Host.Outcome State Fault Refusal :=
  match (s.die die).pkRun with
  | none =>
    match pickFree (s.tick * 4096) (pkNextCands s die) with
    | none => .next s
    | some c =>
      let s := s.modDie die fun d => { d with pkQ := d.pkQ.filter fun x => !(x.cid == c.cid && x.seq == c.seq) }
      let r := pkStart { s with tick := s.tick + 1 } (PkRun.start c)
      .next (r.1.modDie die fun d => { d with pkRun := some r.2 })
  | some r =>
    if r.finished || s.svcWaits r.cmd.cid 4 || pkPaused s r then .next s
    else
      let x := if r.blk.isEmpty then pkStart s r else pkAdvance s r
      .next (x.1.modDie die fun d => { d with pkRun := some x.2 })

/-- The status field of INFO and the count (R299, R305). -/
def PkRun.info (r : PkRun) : Nat := (if r.status = 17 then 1 else r.status) * 2 ^ 28 + r.done % 2 ^ 28

/-- R299, R303: a command ends: its flags go to XFLAGS, its word is ready, a stream it fed finishes (R306), and a delivered
fault, a poisoned row or a discarded command traps. -/
def execPkCommandEnd (die : Nat) (s : State) : Host.Outcome State Fault Refusal :=
  match (s.die die).pkRun with
  | none => .next s
  | some r =>
    if !r.finished || !r.out.isEmpty then .next s
    else
      let c := r.cmd
      let word := if r.status = 16 then SVal.whole 0 false
        else if r.status = 17 then SVal.whole (resultWord r.flags r.info).bits false
        else resultWord r.flags r.info
      let fin (x : Ctx) : Ctx :=
        let g := (x.r.raise r.flags).readyWord c.req word
        let g := if c.pkStrm then g.finishStream c.pkQn else g
        { x with r := g, pkOut := x.pkOut.filter fun y => y != c.seq, pkDone := x.pkDone ++ [(c.seq, r.flags)] }
      let trap (x : Ctx) : Ctx :=
        if r.status = 16 ∨ r.status = 17 then x.postTrap ⟨6, 9, 0, 0, r.addr⟩
        else if r.status = 2 then x.postTrap ⟨5, 9, 0, 0, r.addr⟩
        else if r.status = 3 then x.postTrap ⟨13, 9, 0, 0, r.addr⟩
        else x
      .next ((s.modCtx c.cid fun x => trap (fin x)).modDie die fun d => { d with pkRun := none })

/-! ### Delivery to streams (R247, R306) -/

/-- The next element of a streaming lookup; the last one is padded. -/
def pkDeliver (s : State) (cid q : Nat) : State :=
  let die := dieOf (coreOf cid)
  match (s.die die).pkRun with
  | none => s
  | some r =>
    if r.cmd.cid ≠ cid ∨ !r.cmd.pkStrm ∨ r.cmd.pkQn ≠ q ∨ r.out.isEmpty ∨ (r.out.length < 128 ∧ !r.finished) then s
    else
      (s.modRegs cid fun g => g.streamElem q (firstElem r.out)).modDie die fun d =>
        { d with pkRun := some { r with out := r.out.drop 128 } }

/-- The next element of an input stream, from its copy or its lookup. -/
def deliverElem (s : State) (cid q : Nat) (st : Stream) : State :=
  let c := s.ctx cid
  if pkTag ≤ st.tag then pkDeliver s cid q
  else
    match c.copies.findIdx? fun k => k.streams.contains q with
    | none => s
    | some i =>
      match c.copies[i]? with
      | some k => copyDeliver s cid q i k
      | none => s

/-- R162, R247, R306: the next element of an input stream arrives while fewer than 8 wait, and the oldest waiting `qrd`
takes its element. The image of a stopped victim takes every element (R221). -/
def execStreamElementDeliver (cid q : Nat) (s : State) : Host.Outcome State Fault Refusal :=
  let c := s.ctx cid
  match c.r.stream q with
  | none => .next s
  | some st =>
    if st.output then .next s
    else .next ((if st.elems.length < 8 ∨ c.status = .stopped then deliverElem s cid q st else s).servePop cid q)

end Sys2Proof.Machine
end

