-- ==== Sys2Proof/Machine/Vector.lean ====
section
/-! DEFINITION. The vector instructions (R109 to R134). -/

namespace Sys2Proof.Machine

/-- The rounding mode of a slot: 7 takes RMODE as it stands at issue (R42, R44). -/
def Regs.modeOf (r : Regs) (rm : BitVec 3) : RMode := RMode.ofCode (if rm = 7 then r.rmode else rm).toNat

/-- A vector result: words 0 to n - 1 of vD, unless nw is set, and the slot's latch (R72, R74). -/
def vecResult (lat : Nat) (f : VFld) (v : VVal) (flags : BitVec 8) (s : State) : State :=
  let n := vWords f.w
  s.launch lat (if f.nw = 1 then [] else [.vreg f.d n v]) (some (.vector (v.narrow n))) flags

/-- A result pair vD, vD+1; the latch takes the vD result (R109). -/
def pairResult (lat : Nat) (f : VFld) (v v' : VVal) (flags : BitVec 8) (s : State) : State :=
  let n := vWords f.w
  s.launch lat (if f.nw = 1 then [] else [.vreg f.d n v, .vreg (f.d + 1) n v'])
    (some (.vector (v.narrow n))) flags

/-- A V slot with its sources A and B read at issue (R109). -/
def vecRun (f : VFld) (s : State) (k : VVal → VVal → State → State) : Host.Outcome State Fault Refusal :=
  slotRun f.g s fun s =>
    match s.me.r.vsrc f.a, s.me.r.vsrc f.b with
    | some a, some b => k a b s
    | _, _ => s.illegalSlot

/-- A vector value and the flags from the results of its elements; none marks an invalid element. An element raises its
flags only where the result word that holds it is valid (R49, R61, R111). -/
def vecOf (wb : Nat) (l : List (Option FRes)) : VVal × BitVec 8 :=
  let v := VVal.ofElems wb fun i => match l.getD i none with
    | some r => (r.bits, true)
    | none => (0, false)
  (v, l.zipIdx.foldl (fun fl x => match x.1 with
    | some r => if (v.elem wb x.2).2 then fl ||| r.flags else fl
    | none => fl) 0)

/-- The latency of the FP families: 4 cc, and 8 cc for FP64 (R82). -/
def latFp (t : BitVec 2) : Nat := if t = 3 then 8 else 4

/-- An FP operation of two sources, element by element (R112). -/
def fpBin (lat : Nat) (t : BitVec 2) (f : VFld) (op : Fmt → RMode → Nat → Nat → FRes) (s : State) :
    Host.Outcome State Fault Refusal :=
  vecRun f s fun a b s =>
    let fm := fmtOfT t
    let rm := s.me.r.modeOf f.rm
    let r := vecOf fm.width <| (List.range (elemCount fm.width (vWords f.w))).map fun i =>
      let x := a.elem fm.width i
      let y := b.elem fm.width i
      if x.2 && y.2 then some (op fm rm x.1 y.1) else none
    vecResult lat f r.1 r.2 s

/-- An FP operation of one source, element by element. -/
def fpUn (lat : Nat) (t : BitVec 2) (f : VFld) (op : Fmt → RMode → Nat → FRes) (s : State) :
    Host.Outcome State Fault Refusal :=
  fpBin lat t { f with b := f.a } (fun fm rm x _ => op fm rm x) s

/-- R112. -/
def execVfadd (t : BitVec 2) (f : VFld) (s : State) : Host.Outcome State Fault Refusal :=
  fpBin (latFp t) t f (fun fm rm x y => fAdd fm rm (decodeF fm x) (decodeF fm y)) s

/-- R112. -/
def execVfsub (t : BitVec 2) (f : VFld) (s : State) : Host.Outcome State Fault Refusal :=
  fpBin (latFp t) t f (fun fm rm x y => fSub fm rm (decodeF fm x) (decodeF fm y)) s

/-- R112. -/
def execVfmul (t : BitVec 2) (f : VFld) (s : State) : Host.Outcome State Fault Refusal :=
  fpBin (latFp t) t f (fun fm rm x y => fMul fm rm (decodeF fm x) (decodeF fm y)) s

/-- R112: srcC names the addend register. -/
def execVfma (t : BitVec 2) (f : VFld) (s : State) : Host.Outcome State Fault Refusal :=
  vecRun f s fun a b s =>
    let fm := fmtOfT t
    let rm := s.me.r.modeOf f.rm
    let c := s.me.r.readV f.c
    let r := vecOf fm.width <| (List.range (elemCount fm.width (vWords f.w))).map fun i =>
      let x := a.elem fm.width i
      let y := b.elem fm.width i
      let z := c.elem fm.width i
      if x.2 && y.2 && z.2 then some (fFma fm rm (decodeF fm x.1) (decodeF fm y.1) (decodeF fm z.1)) else none
    vecResult (latFp t) f r.1 r.2 s

/-- R31. -/
def execVfmin (t : BitVec 2) (f : VFld) (s : State) : Host.Outcome State Fault Refusal :=
  fpBin (latFp t) t f (fun fm _ x y => fMinMax fm false x y) s

/-- R31. -/
def execVfmax (t : BitVec 2) (f : VFld) (s : State) : Host.Outcome State Fault Refusal :=
  fpBin (latFp t) t f (fun fm _ x y => fMinMax fm true x y) s

/-- R112. -/
def execVfdivF32 (f : VFld) (s : State) : Host.Outcome State Fault Refusal :=
  fpBin 16 2 f (fun fm rm x y => fDiv fm rm (decodeF fm x) (decodeF fm y)) s

/-- R112. -/
def execVfdivF64 (f : VFld) (s : State) : Host.Outcome State Fault Refusal :=
  fpBin 30 3 f (fun fm rm x y => fDiv fm rm (decodeF fm x) (decodeF fm y)) s

/-- A condition of `vfcmp` (R113). -/
def fpCond (cond : Nat) (o : Option Ordering) : Bool :=
  match cond with
  | 0 => o == some .eq
  | 1 => o == some .lt
  | 2 => o == some .lt || o == some .eq
  | 3 => o == none
  | 4 => o != some .eq
  | 5 => o == some .gt
  | 6 => o == some .gt || o == some .eq
  | _ => o != none

/-- The NV flag of a compare (R113): `lt`, `le`, `gt` and `ge` raise it for any NaN, the others for a signaling one. -/
def fpCondFlag (cond : Nat) (a b : FVal) : BitVec 8 :=
  if a.isSig || b.isSig then flNV
  else if (cond == 1 || cond == 2 || cond == 5 || cond == 6) && (a.isNan || b.isNan) then flNV
  else 0

/-- The two outputs of a compare: the bits of A, valid in vD where every element of a word satisfies the condition and
in vD+1 where none does (R113, R119). `c i` is the verdict on element i, none for an invalid element. -/
def comparePair (wb : Nat) (a : VVal) (c : Nat → Option Bool) : VVal × VVal :=
  let of (w : Nat) : List (Option Bool) :=
    if wb = 64 then [c (w / 2)] else (List.range (32 / wb)).map fun k => c (32 / wb * w + k)
  (VVal.ofWords fun w => ⟨(a.word w).bits, (of w).all (· == some true)⟩,
   VVal.ofWords fun w => ⟨(a.word w).bits, (of w).all (· == some false)⟩)

/-- R113. An element raises its NV where its word is valid in a register of the pair (R49, R61). -/
def execVfcmp (t : BitVec 2) (f : VFld) (s : State) : Host.Outcome State Fault Refusal :=
  vecRun f s fun a b s =>
    let fm := fmtOfT t
    let one (i : Nat) : Option (Bool × BitVec 8) :=
      let x := a.elem fm.width i
      let y := b.elem fm.width i
      let u := decodeF fm x.1
      let v := decodeF fm y.1
      if x.2 && y.2 then some (fpCond f.c.toNat (fCmp u v), fpCondFlag f.c.toNat u v) else none
    let l := (List.range (elemCount fm.width (vWords f.w))).map one
    let p := comparePair fm.width a fun i => (l.getD i none).map (·.1)
    let fl := l.zipIdx.foldl (fun fl x => match x.1 with
      | some r => if (p.1.elem fm.width x.2).2 || (p.2.elem fm.width x.2).2 then fl ||| r.2 else fl
      | none => fl) 0
    pairResult (latFp t) f p.1 p.2 fl s

/-- R114: 0 abs, 1 neg, 2 copysign, on sign bits only. -/
def execVfsgn (t : BitVec 2) (f : VFld) (s : State) : Host.Outcome State Fault Refusal :=
  let g := fun (fm : Fmt) (x y : Nat) =>
    let mag := x % fm.signBit
    let neg := if f.c = 0 then false else if f.c = 1 then x < fm.signBit else fm.signBit ≤ y
    (⟨fm.withSign neg mag, 0⟩ : FRes)
  if f.c = 2 then fpBin (latFp t) t f (fun fm _ x y => g fm x y) s
  else fpUn (latFp t) t f (fun fm _ x => g fm x x) s

/-- R115. -/
def execVfrnd (t : BitVec 2) (f : VFld) (s : State) : Host.Outcome State Fault Refusal :=
  fpUn (latFp t) t f (fun fm rm x => fRint fm rm (f.c == 1) x) s

/-- R116. -/
def execVfclass (t : BitVec 2) (f : VFld) (s : State) : Host.Outcome State Fault Refusal :=
  fpUn (latFp t) t f (fun fm _ x => ⟨fClass fm x, 0⟩) s

/-- One level of the pairwise tree (R51). -/
def sumPairs (f : Fmt) (rm : RMode) : List FRes → List FRes
  | a :: b :: t =>
    let r := fAdd f rm (decodeF f a.bits) (decodeF f b.bits)
    ⟨r.bits, a.flags ||| b.flags ||| r.flags⟩ :: sumPairs f rm t
  | l => l

/-- The pairwise tree over at most 2^fuel elements (R51). -/
def sumTree (f : Fmt) (rm : RMode) : Nat → List FRes → FRes
  | 0, l => l.headD ⟨0, 0⟩
  | n + 1, l => if l.length ≤ 1 then l.headD ⟨0, 0⟩ else sumTree f rm n (sumPairs f rm l)

/-- Whether words 0 to n - 1 are all valid. -/
def VVal.allOk (v : VVal) (n : Nat) : Bool := (List.range n).all fun i => (v.word i).ok

/-- R117. -/
def execVfsum (t : BitVec 2) (f : VFld) (s : State) : Host.Outcome State Fault Refusal :=
  vecRun f s fun a _ s =>
    let fm := fmtOfT t
    let n := elemCount fm.width (vWords f.w)
    let r := sumTree fm (s.me.r.modeOf f.rm) 7 ((List.range n).map fun i => ⟨(a.elem fm.width i).1, 0⟩)
    let ok := a.allOk (vWords f.w)
    vecResult 5 f (VVal.ofElems fm.width fun i => if i = 0 then (r.bits, ok) else (0, true))
      (if ok then r.flags else 0) s

/-! ### Integers and logic (R118 to R121) -/

/-- An operation on 32-bit words (R118). -/
def wordBin (f : VFld) (op : BitVec 32 → BitVec 32 → BitVec 32) (s : State) : Host.Outcome State Fault Refusal :=
  vecRun f s fun a b s =>
    vecResult 2 f (VVal.ofWords fun i => ⟨op (a.word i).bits (b.word i).bits, (a.word i).ok && (b.word i).ok⟩) 0 s

/-- An operation on 64-bit elements (R118). -/
def dwordBin (f : VFld) (op : Word → Word → Word) (s : State) : Host.Outcome State Fault Refusal :=
  vecRun f s fun a b s =>
    vecResult 2 f (VVal.ofElems 64 fun i =>
      let x := a.elem 64 i
      let y := b.elem 64 i
      ((op (BitVec.ofNat 64 x.1) (BitVec.ofNat 64 y.1)).toNat, x.2 && y.2)) 0 s

/-- The count of a word shift: B[4:0] (R118). -/
def vshCount (b : BitVec 32) : Nat := b.toNat % 32

/-- R118. -/
def execVadd (f : VFld) (s : State) : Host.Outcome State Fault Refusal := wordBin f (fun a b => a + b) s
/-- R118. -/
def execVsub (f : VFld) (s : State) : Host.Outcome State Fault Refusal := wordBin f (fun a b => a - b) s
/-- R118. -/
def execVmul (f : VFld) (s : State) : Host.Outcome State Fault Refusal := wordBin f (fun a b => a * b) s
/-- R118. -/
def execVmulh (f : VFld) (s : State) : Host.Outcome State Fault Refusal :=
  wordBin f (fun a b => (a.signExtend 64 * b.signExtend 64).extractLsb' 32 32) s
/-- R118. -/
def execVmin (f : VFld) (s : State) : Host.Outcome State Fault Refusal :=
  wordBin f (fun a b => if a.slt b then a else b) s
/-- R118. -/
def execVmax (f : VFld) (s : State) : Host.Outcome State Fault Refusal :=
  wordBin f (fun a b => if a.slt b then b else a) s
/-- R118. -/
def execVminu (f : VFld) (s : State) : Host.Outcome State Fault Refusal :=
  wordBin f (fun a b => if a.ult b then a else b) s
/-- R118. -/
def execVmaxu (f : VFld) (s : State) : Host.Outcome State Fault Refusal :=
  wordBin f (fun a b => if a.ult b then b else a) s
/-- R118. -/
def execVand (f : VFld) (s : State) : Host.Outcome State Fault Refusal := wordBin f (fun a b => a &&& b) s
/-- R118. -/
def execVor (f : VFld) (s : State) : Host.Outcome State Fault Refusal := wordBin f (fun a b => a ||| b) s
/-- R118. -/
def execVxor (f : VFld) (s : State) : Host.Outcome State Fault Refusal := wordBin f (fun a b => a ^^^ b) s
/-- R118. -/
def execVshl (f : VFld) (s : State) : Host.Outcome State Fault Refusal :=
  wordBin f (fun a b => a <<< vshCount b) s
/-- R118. -/
def execVshr (f : VFld) (s : State) : Host.Outcome State Fault Refusal :=
  wordBin f (fun a b => a >>> vshCount b) s
/-- R118. -/
def execVsra (f : VFld) (s : State) : Host.Outcome State Fault Refusal :=
  wordBin f (fun a b => a.sshiftRight (vshCount b)) s
/-- R118. -/
def execVaddD (f : VFld) (s : State) : Host.Outcome State Fault Refusal := dwordBin f (fun a b => a + b) s
/-- R118. -/
def execVsubD (f : VFld) (s : State) : Host.Outcome State Fault Refusal := dwordBin f (fun a b => a - b) s

/-- A word compare into a validity pair (R119). -/
def wordCmp (f : VFld) (c : BitVec 32 → BitVec 32 → Bool) (s : State) : Host.Outcome State Fault Refusal :=
  vecRun f s fun a b s =>
    let p := comparePair 32 a fun i =>
      if (a.word i).ok && (b.word i).ok then some (c (a.word i).bits (b.word i).bits) else none
    pairResult 2 f p.1 p.2 0 s

/-- R119. -/
def execVcmpEq (f : VFld) (s : State) : Host.Outcome State Fault Refusal := wordCmp f (fun a b => a == b) s
/-- R119. -/
def execVcmpLt (f : VFld) (s : State) : Host.Outcome State Fault Refusal := wordCmp f (fun a b => a.slt b) s
/-- R119. -/
def execVcmpLtu (f : VFld) (s : State) : Host.Outcome State Fault Refusal := wordCmp f (fun a b => a.ult b) s

/-- R120. -/
def execVsel (f : VFld) (s : State) : Host.Outcome State Fault Refusal :=
  vecRun f s fun a b s => vecResult 2 f (VVal.ofWords fun i => if (a.word i).ok then a.word i else b.word i) 0 s

/-- R121. -/
def execVvalid (f : VFld) (s : State) : Host.Outcome State Fault Refusal :=
  vecRun f s fun a _ s =>
    vecResult 2 f (VVal.ofWords fun i => ⟨if (a.word i).ok then 0xFFFFFFFF else 0, true⟩) 0 s

/-- The mask of the valid words among the first n. -/
def VVal.okMask (v : VVal) (n : Nat) : BitVec 32 :=
  BitVec.ofNat 32 ((List.range n).foldl (fun x i => if (v.word i).ok then x + 2 ^ i else x) 0)

/-- R121. -/
def execVvmask (f : VFld) (s : State) : Host.Outcome State Fault Refusal :=
  vecRun f s fun a _ s =>
    vecResult 2 f (VVal.ofWords fun i => ⟨if i = 0 then a.okMask (vWords f.w) else 0, true⟩) 0 s

/-- R121. -/
def execVmaskv (f : VFld) (s : State) : Host.Outcome State Fault Refusal :=
  vecRun f s fun a b s =>
    let m := b.word 0
    vecResult 2 f (VVal.ofWords fun i => ⟨(a.word i).bits, (a.word i).ok && m.ok && m.bits.getLsbD i⟩) 0 s

/-! ### Moves (R122 to R125) -/

/-- R122: srcA names a scalar register. -/
def execVsplat (f : VFld) (s : State) : Host.Outcome State Fault Refusal :=
  slotRun f.g s fun s =>
    let v := s.me.r.readS f.a
    vecResult 2 f (VVal.ofWords fun i =>
      if f.c = 1 ∧ i % 2 = 1 then ⟨v.bits.hi, v.ok1⟩ else ⟨v.bits.lo, v.ok0⟩) 0 s

/-- R123. -/
def execViota (f : VFld) (s : State) : Host.Outcome State Fault Refusal :=
  slotRun f.g s fun s => vecResult 2 f (VVal.ofWords fun i => ⟨BitVec.ofNat 32 i, true⟩) 0 s

/-- R124: to a scalar register, and to no latch. -/
def execVext (f : VFld) (s : State) : Host.Outcome State Fault Refusal :=
  vecRun f s fun a _ s =>
    let w := a.word f.c.toNat
    s.launch 2 [.sreg (f.d.setWidth 6) ⟨w.bits.setWidth 64, w.ok, true⟩] none 0

/-- R125. -/
def execVins (f : VFld) (s : State) : Host.Outcome State Fault Refusal :=
  vecRun f s fun a b s =>
    vecResult 2 f (VVal.ofWords fun i => if i = f.c.toNat then b.word 0 else a.word i) 0 s

/-! ### Reductions, scans, sorts and segmented sums (R126 to R128) -/

/-- A reduction into word 0 (R126). -/
def reduce (f : VFld) (op : BitVec 32 → BitVec 32 → BitVec 32) (s : State) : Host.Outcome State Fault Refusal :=
  vecRun f s fun a _ s =>
    let n := vWords f.w
    let r := (List.range (n - 1)).foldl (fun x i => op x (a.word (i + 1)).bits) (a.word 0).bits
    vecResult 5 f (VVal.ofWords fun i => if i = 0 then ⟨r, a.allOk n⟩ else ⟨0, true⟩) 0 s

/-- R126. -/
def execVredAdd (f : VFld) (s : State) : Host.Outcome State Fault Refusal := reduce f (fun a b => a + b) s
/-- R126. -/
def execVredMax (f : VFld) (s : State) : Host.Outcome State Fault Refusal :=
  reduce f (fun a b => if a.slt b then b else a) s

/-- R126. -/
def execVscanAdd (f : VFld) (s : State) : Host.Outcome State Fault Refusal :=
  vecRun f s fun a _ s =>
    vecResult 5 f (VVal.ofWords fun i =>
      ⟨(List.range (i + 1)).foldl (fun x k => x + (a.word k).bits) 0, a.allOk (i + 1)⟩) 0 s

/-- Inserts a pair behind every pair whose key is not greater. -/
def sortInsert (lt : BitVec 32 → BitVec 32 → Bool) (x : VWord × VWord) : List (VWord × VWord) → List (VWord × VWord)
  | [] => [x]
  | y :: t => if lt x.1.bits y.1.bits then x :: y :: t else y :: sortInsert lt x t

/-- The stable sort of R127: valid keys in order, then the words with an invalid key in source order. -/
def sortPairs (lt : BitVec 32 → BitVec 32 → Bool) (l : List (VWord × VWord)) : List (VWord × VWord) :=
  (l.filter fun x => x.1.ok).foldl (fun acc x => sortInsert lt x acc) [] ++ l.filter fun x => !x.1.ok

/-- R127. -/
def execVsort (f : VFld) (s : State) : Host.Outcome State Fault Refusal :=
  vecRun f s fun a b s =>
    let l := (List.range (vWords f.w)).map fun i => (a.word i, b.word i)
    let r := sortPairs (if f.c = 0 then BitVec.ult else BitVec.slt) l
    pairResult 6 f (VVal.ofList (r.map (·.1))) (VVal.ofList (r.map (·.2))) 0 s

/-- One segment of R128: its key, its sum, its validity and flags. -/
structure Segment where
  key : BitVec 32
  sum : Nat
  ok : Bool
  flags : BitVec 8
deriving DecidableEq, Repr

/-- A run of words with one key, summed in word order; an invalid word makes the whole segment invalid (R128). -/
def segmentOf (isF : Bool) (rm : RMode) : List (VWord × VWord) → Segment
  | [] => ⟨0, 0, false, 0⟩
  | (k, v) :: t => t.foldl (fun g x =>
      let r := if isF then fAdd fmtF32 rm (decodeF fmtF32 g.sum) (decodeF fmtF32 x.2.bits.toNat)
               else ⟨(g.sum + x.2.bits.toNat) % 2 ^ 32, 0⟩
      ⟨g.key, r.bits, g.ok && x.1.ok && x.2.ok, g.flags ||| r.flags⟩) ⟨k.bits, v.bits.toNat, k.ok && v.ok, 0⟩

/-- The segments of R128 in increasing word order; an invalid key is a segment of its own. -/
def segmentsOf (isF : Bool) (rm : RMode) (l : List (VWord × VWord)) : List Segment :=
  (l.splitBy fun x y => x.1.ok && y.1.ok && x.1.bits == y.1.bits).map (segmentOf isF rm)

/-- R128. -/
def execVsegsum (f : VFld) (s : State) : Host.Outcome State Fault Refusal :=
  vecRun f s fun a b s =>
    let l := (List.range (vWords f.w)).map fun i => (a.word i, b.word i)
    let g := segmentsOf (f.c == 1) (s.me.r.modeOf f.rm) l
    let fl := g.foldl (fun fl x => if x.ok then fl ||| x.flags else fl) 0
    pairResult 6 f (VVal.ofList (g.map fun x => ⟨x.key, x.ok⟩))
      (VVal.ofList (g.map fun x => ⟨BitVec.ofNat 32 x.sum, x.ok⟩)) fl s

/-! ### Conversions (R129 to R134) -/

/-- The element widths of a conversion pair, source and destination (R130). -/
def cvtWidths (c : Nat) : Nat × Nat :=
  match c with
  | 0x00 | 0x01 => (32, 16)
  | 0x02 | 0x03 => (16, 32)
  | 0x04 => (64, 32)
  | 0x05 => (32, 64)
  | 0x06 | 0x07 => (32, 32)
  | 0x08 => (64, 32)
  | 0x09 => (32, 64)
  | 0x0A => (32, 8)
  | 0x0B => (8, 32)
  | 0x0C | 0x0D => (16, 16)
  | 0x0E | 0x0F => (32, 32)
  | 0x10 | 0x11 => (64, 64)
  | 0x12 => (32, 16)
  | _ => (16, 32)

/-- A result from a code or integer and its flags. -/
def resOf (x : Nat × BitVec 8) : FRes := ⟨x.1, x.2⟩

/-- One converted element (R130, R131). -/
def cvtElem (c : Nat) (rd : Rounding) (x : Nat) : FRes :=
  match c with
  | 0x00 => deliver fmtBF16 rd (decodeF fmtF32 x)
  | 0x01 => deliver fmtF16 rd (decodeF fmtF32 x)
  | 0x02 => deliver fmtF32 rd (decodeF fmtBF16 x)
  | 0x03 => deliver fmtF32 rd (decodeF fmtF16 x)
  | 0x04 => deliver fmtF32 rd (decodeF fmtF64 x)
  | 0x05 => deliver fmtF64 rd (decodeF fmtF32 x)
  | 0x06 => resOf (toIntN rd 32 (decodeF fmtF32 x))
  | 0x07 => deliver fmtF32 rd (intVal 32 x)
  | 0x08 => resOf (toIntN rd 32 (decodeF fmtF64 x))
  | 0x09 => deliver fmtF64 rd (intVal 32 x)
  | 0x0A => resOf (toIntN rd 8 (decodeF fmtF32 x))
  | 0x0B => deliver fmtF32 rd (intVal 8 x)
  | 0x0C => deliver fmtF16 rd (decodeF fmtBF16 x)
  | 0x0D => deliver fmtBF16 rd (decodeF fmtF16 x)
  | 0x0E => resOf (radToCode rd 32 (decodeF fmtF32 x))
  | 0x0F => codeToRad fmtF32 rd 32 x
  | 0x10 => resOf (radToCode rd 64 (decodeF fmtF64 x))
  | 0x11 => codeToRad fmtF64 rd 64 x
  | 0x12 => resOf (narrowAngle rd 32 16 x)
  | _ => ⟨x * 2 ^ 16, 0⟩

/-- The random word of element e (R54). -/
def srWord (w : BitVec 32) (e : Nat) : Nat :=
  (w.rotateLeft (5 * e % 32) ^^^ BitVec.ofNat 32 (e * 0x9E3779B9)).toNat

/-- The conversion of a register (R129): the narrower side lies in the low words, and the words above it that the
width spans are +0 and valid. -/
def cvtVec (c words : Nat) (rd : Nat → Rounding) (a : VVal) : VVal × BitVec 8 :=
  let (sw, dw) := cvtWidths c
  let n := words * 32 / max sw dw
  let r := vecOf dw <| (List.range n).map fun i =>
    let x := a.elem sw i
    if x.2 then some (cvtElem c (rd i) x.1) else none
  (VVal.ofWords fun w => if w < n * dw / 32 then r.1.word w else ⟨0, true⟩, r.2)

/-- R129: under rm = 5 one random word is popped at issue (R53, R132). -/
def execVcvt (f : VFld) (s : State) : Host.Outcome State Fault Refusal :=
  vecRun f s fun a _ s =>
    if f.rm = 5 then
      match s.me.r.rng with
      | [] => s.hold none
      | w :: t =>
        let r := cvtVec f.c.toNat (vWords f.w) (fun i => .sr (srWord w i)) a
        if s.collides 3 (if f.nw = 1 then [] else [.vreg f.d (vWords f.w) r.1]) then s.illegalSchedule
        else vecResult 3 f r.1 r.2 (s.modRegs s.cur.cid fun q => { q with rng := t })
    else
      let m := s.me.r.modeOf f.rm
      let r := cvtVec f.c.toNat (vWords f.w) (fun _ => .mode m) a
      vecResult 3 f r.1 r.2 s

/-- k of `vbpk` and `vbupk`: srcC[2:0] + 1 (R133). -/
def bpiK (c : BitVec 5) : Nat := c.toNat % 8 + 1

/-- The scaled bit of `vbpk` and `vbupk` (R133). -/
def bpiScaled (c : BitVec 5) : Bool := c.getLsbD 3

/-- R133. -/
def execVbpk (f : VFld) (s : State) : Host.Outcome State Fault Refusal :=
  vecRun f s fun a _ s =>
    let k := bpiK f.c
    let sc := bpiScaled f.c
    let ok := a.allOk 32
    let words := (List.range 32).map fun i => (a.word i).bits
    let (e, vs, fl) :=
      if sc then bpiBlock (fun _ => .mode (s.me.r.modeOf f.rm)) (words.map fun w => decodeF fmtF32 w.toNat)
      else (127, words.map fun w => bpiByte w.toInt, 0)
    vecResult 3 f (VVal.ofWords fun i =>
      if i < k then ⟨BitVec.ofNat 32 (bpiPlane vs (7 - i)), ok⟩
      else if sc && i == k then ⟨BitVec.ofNat 32 e, ok⟩
      else ⟨0, true⟩) (if ok then fl else 0) s

/-- R134. -/
def execVbupk (f : VFld) (s : State) : Host.Outcome State Fault Refusal :=
  vecRun f s fun a _ s =>
    let k := bpiK f.c
    let sc := bpiScaled f.c
    let ok := a.allOk (if sc then k + 1 else k)
    let planes := (List.range k).map fun i => (a.word i).bits.toNat
    let scale := (a.word k).bits.toNat % 256
    let one (i : Nat) : FRes :=
      let q := bpiRead k (bpiGather planes i)
      if sc then deliver fmtF32 (.mode (s.me.r.modeOf f.rm)) (bpiVal q scale)
      else ⟨(q % 2 ^ 32).toNat, 0⟩
    let r := vecOf 32 ((List.range 32).map fun i => if ok then some (one i) else none)
    vecResult 3 f r.1 r.2 s

/-- R77. -/
def execVnop (g : BitVec 5) (s : State) : Host.Outcome State Fault Refusal := slotRun g s id

end Sys2Proof.Machine
end

