-- ==== Sys2Proof/Machine/FSlot.lean ====
section
/-! DEFINITION. The special-function slot and the crossbar slot (R135 to R142). -/

namespace Sys2Proof.Machine

/-- An occupied F slot takes the F unit for its issue cycle and 3 more, enabled or not; the unit in use by the same
context is an illegal schedule (R83, R135). A slot that traps, also where its landing after `lat` cc in `ws` would collide,
does not issue and takes nothing (R224). -/
def fRun (g : BitVec 5) (lat : Nat) (ws : List RWrite) (s : State) (k : State → State) : Host.Outcome State Fault Refusal :=
  if s.now < s.me.r.fUntil ∨ (guardOn s.me.r g ∧ s.collides lat ws) then .next s.illegalSchedule
  else slotRun g (s.modRegs s.cur.cid fun r => { r with fUntil := s.now + 4 }) k

/-- The registers an F result of one register writes. -/
def oneDst (f : FFld) : List RWrite := if f.nw = 1 then [] else [.vreg f.d 32 VVal.zero]
/-- The registers an F result of a pair writes. -/
def pairDst (f : FFld) : List RWrite := if f.nw = 1 then [] else [.vreg f.d 32 VVal.zero, .vreg (f.d + 1) 32 VVal.zero]

/-- The rounding of an F slot. -/
def fRounding (f : FFld) (r : Regs) : Rounding := .mode (r.modeOf f.rm)

/-- An F result of one register (R135). -/
def fResult (lat : Nat) (f : FFld) (r : VVal × BitVec 8) (s : State) : State :=
  s.launch lat (if f.nw = 1 then [] else [.vreg f.d 32 r.1]) (some (.vector r.1)) r.2

/-- An F result of a register pair; the latch takes the dst result (R135). -/
def fPair (lat : Nat) (f : FFld) (r r' : VVal × BitVec 8) (s : State) : State :=
  s.launch lat (if f.nw = 1 then [] else [.vreg f.d 32 r.1, .vreg (f.d + 1) 32 r'.1]) (some (.vector r.1))
    (r.2 ||| r'.2)

/-- A function of each FP32 element (R136). -/
def fFun32 (f : FFld) (g : Rounding → Nat → FRes) (s : State) : Host.Outcome State Fault Refusal :=
  fRun f.g 14 (oneDst f) s fun s =>
    let a := s.me.r.readV f.s
    let rd := fRounding f s.me.r
    fResult 14 f (vecOf 32 ((List.range 32).map fun i =>
      let x := a.elem 32 i
      if x.2 then some (g rd x.1) else none)) s

/-- A function of each FP64 element (R136). -/
def fFun64 (f : FFld) (g : Rounding → Nat → FRes) (s : State) : Host.Outcome State Fault Refusal :=
  fRun f.g 28 (oneDst f) s fun s =>
    let a := s.me.r.readV f.s
    let rd := fRounding f s.me.r
    fResult 28 f (vecOf 64 ((List.range 16).map fun i =>
      let x := a.elem 64 i
      if x.2 then some (g rd x.1) else none)) s

/-- The mode of a rounding that is not stochastic. -/
def Rounding.rmode : Rounding → RMode
  | .mode m => m
  | .sr _ => .rne

/-- R77, R83: an `fnop` whose bits are not all zero and whose guard is not `!p0` takes the unit like any F operation. -/
def execFnop (g : BitVec 5) (s : State) : Host.Outcome State Fault Refusal :=
  if g = 0 ∨ g = 16 then .next s else fRun g 14 [] s id

/-- R136. -/
def execFexpF32 (f : FFld) (s : State) : Host.Outcome State Fault Refusal :=
  fFun32 f (fun rd x => fExp fmtF32 rd (decodeF fmtF32 x)) s

/-- R136. -/
def execFexpF64 (f : FFld) (s : State) : Host.Outcome State Fault Refusal :=
  fFun64 f (fun rd x => fExp fmtF64 rd (decodeF fmtF64 x)) s

/-- R136. -/
def execFlogF32 (f : FFld) (s : State) : Host.Outcome State Fault Refusal :=
  fFun32 f (fun rd x => fLog fmtF32 rd (decodeF fmtF32 x)) s

/-- R136. -/
def execFlogF64 (f : FFld) (s : State) : Host.Outcome State Fault Refusal :=
  fFun64 f (fun rd x => fLog fmtF64 rd (decodeF fmtF64 x)) s

/-- R136. -/
def execFerfF32 (f : FFld) (s : State) : Host.Outcome State Fault Refusal :=
  fFun32 f (fun rd x => fErf fmtF32 rd (decodeF fmtF32 x)) s

/-- R136. -/
def execFerfF64 (f : FFld) (s : State) : Host.Outcome State Fault Refusal :=
  fFun64 f (fun rd x => fErf fmtF64 rd (decodeF fmtF64 x)) s

/-- R136. -/
def execFerfcF32 (f : FFld) (s : State) : Host.Outcome State Fault Refusal :=
  fFun32 f (fun rd x => fErfc fmtF32 rd (decodeF fmtF32 x)) s

/-- R136. -/
def execFerfcF64 (f : FFld) (s : State) : Host.Outcome State Fault Refusal :=
  fFun64 f (fun rd x => fErfc fmtF64 rd (decodeF fmtF64 x)) s

/-- R136. -/
def execFrcpF32 (f : FFld) (s : State) : Host.Outcome State Fault Refusal :=
  fFun32 f (fun rd x => fRcp fmtF32 rd.rmode (decodeF fmtF32 x)) s

/-- R136. -/
def execFrcpF64 (f : FFld) (s : State) : Host.Outcome State Fault Refusal :=
  fFun64 f (fun rd x => fRcp fmtF64 rd.rmode (decodeF fmtF64 x)) s

/-- R136. -/
def execFsqrtF32 (f : FFld) (s : State) : Host.Outcome State Fault Refusal :=
  fFun32 f (fun rd x => fSqrt fmtF32 rd.rmode (decodeF fmtF32 x)) s

/-- R136. -/
def execFsqrtF64 (f : FFld) (s : State) : Host.Outcome State Fault Refusal :=
  fFun64 f (fun rd x => fSqrt fmtF64 rd.rmode (decodeF fmtF64 x)) s

/-- R136. -/
def execFrsqrtF32 (f : FFld) (s : State) : Host.Outcome State Fault Refusal :=
  fFun32 f (fun rd x => fRsqrt fmtF32 rd.rmode (decodeF fmtF32 x)) s

/-- R136. -/
def execFrsqrtF64 (f : FFld) (s : State) : Host.Outcome State Fault Refusal :=
  fFun64 f (fun rd x => fRsqrt fmtF64 rd.rmode (decodeF fmtF64 x)) s

/-- R136: faithful, so rm is ignored (R55). -/
def execFexp2F32 (f : FFld) (s : State) : Host.Outcome State Fault Refusal :=
  fFun32 f (fun _ x => faithful 0xf x fun rd => fExp2 fmtF32 rd (decodeF fmtF32 x)) s

/-- R136: faithful, so rm is ignored (R55). -/
def execFlog2F32 (f : FFld) (s : State) : Host.Outcome State Fault Refusal :=
  fFun32 f (fun _ x => faithful 0x10 x fun rd => fLog2 fmtF32 rd (decodeF fmtF32 x)) s

/-- R136: faithful, so rm is ignored (R55). -/
def execFtanhF32 (f : FFld) (s : State) : Host.Outcome State Fault Refusal :=
  fFun32 f (fun _ x => faithful 0x11 x fun rd => fTanh fmtF32 rd (decodeF fmtF32 x)) s

/-- R136: faithful, so rm is ignored (R55). -/
def execFsigmF32 (f : FFld) (s : State) : Host.Outcome State Fault Refusal :=
  fFun32 f (fun _ x => faithful 0x12 x fun rd => fSigm fmtF32 rd (decodeF fmtF32 x)) s

/-- R137. -/
def execFangcsA32 (f : FFld) (s : State) : Host.Outcome State Fault Refusal :=
  fRun f.g 14 (pairDst f) s fun s =>
    let a := s.me.r.readV f.s
    let l := (List.range 32).map fun i =>
      let x := a.elem 32 i
      if x.2 then some (angleCosSin fmtF32 (fRounding f s.me.r) 32 x.1) else none
    fPair 14 f (vecOf 32 (l.map (Option.map (·.1)))) (vecOf 32 (l.map (Option.map (·.2)))) s

/-- R138: the pair of sources is v(src) and v(src+1); the code raises no flag. -/
def execFangofA32 (f : FFld) (s : State) : Host.Outcome State Fault Refusal :=
  fRun f.g 14 (pairDst f) s fun s =>
    let a := s.me.r.readV f.s
    let b := s.me.r.readV (f.s + 1)
    let l := (List.range 32).map fun i =>
      let x := a.elem 32 i
      let y := b.elem 32 i
      if x.2 && y.2 then some (angleOf fmtF32 (s.me.r.modeOf f.rm) 32 (decodeF fmtF32 x.1) (decodeF fmtF32 y.1)) else none
    fPair 14 f (vecOf 32 (l.map (Option.map fun r => ⟨r.1, 0⟩))) (vecOf 32 (l.map (Option.map (·.2)))) s

/-- R137. -/
def execFangcsA64 (f : FFld) (s : State) : Host.Outcome State Fault Refusal :=
  fRun f.g 28 (pairDst f) s fun s =>
    let a := s.me.r.readV f.s
    let l := (List.range 16).map fun i =>
      let x := a.elem 64 i
      if x.2 then some (angleCosSin fmtF64 (fRounding f s.me.r) 64 x.1) else none
    fPair 28 f (vecOf 64 (l.map (Option.map (·.1)))) (vecOf 64 (l.map (Option.map (·.2)))) s

/-- R138: the pair of sources is v(src) and v(src+1); the code raises no flag. -/
def execFangofA64 (f : FFld) (s : State) : Host.Outcome State Fault Refusal :=
  fRun f.g 28 (pairDst f) s fun s =>
    let a := s.me.r.readV f.s
    let b := s.me.r.readV (f.s + 1)
    let l := (List.range 16).map fun i =>
      let x := a.elem 64 i
      let y := b.elem 64 i
      if x.2 && y.2 then some (angleOf fmtF64 (s.me.r.modeOf f.rm) 64 (decodeF fmtF64 x.1) (decodeF fmtF64 y.1)) else none
    fPair 28 f (vecOf 64 (l.map (Option.map fun r => ⟨r.1, 0⟩))) (vecOf 64 (l.map (Option.map (·.2)))) s

/-! ### The crossbar slot (R139 to R142) -/

/-- An X result: all 32 words of vD after 2 cc, with no latch and no flag (R139). -/
def xResult (f : XFld) (g : Nat → VWord) (s : State) : State :=
  s.launch 2 [.vreg f.d 32 (VVal.ofWords g)] none 0

/-- R77. -/
def execXnop (g : BitVec 5) (s : State) : Host.Outcome State Fault Refusal := slotRun g s id

/-- Pattern n of the context (R139). -/
def Regs.pattern (r : Regs) (n : BitVec 5) : List (Option Nat) := r.pat[n.toNat]'n.isLt

/-- Whether a pattern sends two source words to one destination word (R83, R141). -/
def patCollides : List (Option Nat) → Bool
  | [] => false
  | none :: t => patCollides t
  | some d :: t => t.contains (some d) || patCollides t

/-- R141. -/
def execXperm (f : XFld) (s : State) : Host.Outcome State Fault Refusal :=
  slotRun f.g s fun s =>
    let r := s.me.r
    let p := r.pattern f.p
    if patCollides p then s.illegalSchedule
    else
      let a := r.readV f.s
      let d := r.readV f.d
      xResult f (fun i => match p.findIdx? (· == some i) with
        | some j => a.word j
        | none => d.word i) s

/-- R140. -/
def execXcfg (f : XFld) (s : State) : Host.Outcome State Fault Refusal :=
  slotRun f.g s fun s =>
    let a := s.me.r.readV f.s
    if !a.allOk 32 then s.illegalSlot
    else
      let p := (List.range 32).map fun i =>
        let w := (a.word i).bits.toNat
        if w / 32 % 2 = 0 then some (w % 32) else none
      s.launch 2 [.pat f.d p] none 0

/-- A fixed movement: word i of the result is A word `src i` (R142). -/
def xMove (f : XFld) (src : Nat → Nat) (s : State) : Host.Outcome State Fault Refusal :=
  slotRun f.g s fun s => xResult f (fun i => (s.me.r.readV f.s).word (src i)) s

/-- R142. -/
def execXbcast (f : XFld) (s : State) : Host.Outcome State Fault Refusal := xMove f (fun _ => f.p.toNat) s

/-- R142. -/
def execXrotl (f : XFld) (s : State) : Host.Outcome State Fault Refusal :=
  xMove f (fun i => (i + 32 - f.p.toNat) % 32) s

/-- The source granule of `xdeal` (R142). -/
def dealGranule (m j : Nat) : Nat := if j < m / 2 then 2 * j else 2 * (j - m / 2) + 1

/-- The source granule of `xweave` (R142). -/
def weaveGranule (m j : Nat) : Nat := if j % 2 = 0 then j / 2 else m / 2 + j / 2

/-- The source word of a granule movement with granules of 2^f words. -/
def granuleWord (f : Nat) (g : Nat → Nat → Nat) (i : Nat) : Nat := g (32 / 2 ^ f) (i / 2 ^ f) * 2 ^ f + i % 2 ^ f

/-- R142. -/
def execXdeal (f : XFld) (s : State) : Host.Outcome State Fault Refusal := xMove f (granuleWord f.p.toNat dealGranule) s

/-- R142. -/
def execXweave (f : XFld) (s : State) : Host.Outcome State Fault Refusal := xMove f (granuleWord f.p.toNat weaveGranule) s

end Sys2Proof.Machine
end

