-- ==== Sys2Proof/Machine/Gang.lean ====
section
/-! DEFINITION. The completion of a bundle (R94 to R108), barriers (R248 to R250) and gangs (R252 to R255). -/

namespace Sys2Proof.Machine

/-! ### The completion of a bundle -/

/-- The level block of the PERF counters counts the bundle and its occupied, enabled slots (R235). -/
def Regs.countBundle (r : Regs) (filled : BitVec 10) : Regs :=
  let r := r.count 0x101 1
  let r := r.countLevel 0
  (List.range 10).foldl (fun r i => if filled.getLsbD i then r.countLevel (1 + i) else r) r

/-- What the end of a task records of itself: nothing went wrong, unless an item of its work fails (R108). -/
def Ctx.endHere (c : Ctx) : Ctx :=
  let c := c.dictUnmet
  let bad := (c.hTraps ++ c.traps).find? fun t => t.cause != 10
  { c with
    status := .ending, traps := [], hTraps := []
    firstFail := match c.firstFail, bad with
      | none, some t => some ⟨2, t.cause, t.slot, c.r.inHandler, t.addr, c.bun.pc⟩
      | f, _ => f }

/-- The break or `trap` of a completed bundle (R103, R104, R227): the whole bundle is done, and `next` is the bundle that
would have issued next. -/
def Ctx.trapAfter (c : Ctx) (t : BitVec 5 × BitVec 14) : Ctx :=
  if t.1 = 12 ∧ c.held then { c with dbgStop := some (c.r.pc, 0, t.2) }
  else c.takeTrap ⟨t.1, 0, 0, t.2, 0⟩ c.r.pc 0 After.none

/-- The bundle of a context completes: its end test runs, and what its S0 slot left to the completion happens. -/
def State.completeBundle (s : State) (cid : Nat) : State :=
  s.modCtx cid fun c =>
    let b := c.bun
    let a := b.aft
    let f := flowOut b.pc b.len a c.r.transfers c.r.loops
    let r := c.r.countBundle a.filled
    let r := if c.bind.det && b.fs then { r with frame := r.frame + 1 } else r
    let r := { r with pc := f.pc, transfers := f.transfers, loops := f.loops,
                      waitTo := if a.wait = 0 then 0 else (s.core (coreOf cid)).cc + 1 + a.wait.toNat }
    let c := { c with
      r := r, bun := { b with fs := false }, yielding := a.yields, ckWant := c.ckWant || b.ck,
      fused := c.fused && !a.dcpl,
      links := c.links.map fun l => { l with left := l.left - 1 }
      ival := { c.ival with bundles := c.ival.bundles + 1 } }
    if a.ends then c.endHere
    else if a.eret then c.doEret
    else
      match a.trap with
      | some t => c.trapAfter t
      | none => c

/-! ### Barriers (R248 to R250) -/

/-- R249: the arrival is on its way with its frame time (R349), and the context waits. -/
def cbarPut (s : State) (c : Cmd) : State :=
  (s.modCtx c.cid fun x => { x with barrier := some (c.a.toNat, none) }).modClu (s.ctx c.cid).bind.barClu fun k =>
    { k with cbarQ := k.cbarQ ++ [{ c with c := BitVec.ofNat 64 (s.ctx c.cid).r.frameTime }] }

/-- R249. -/
def execCbar (f : TFld) (s : State) : Host.Outcome State Fault Refusal :=
  tRun (.plain 0x1B true (fun c => decide (c.a.toNat < 16) && decide (1 ≤ c.b.toNat) && decide (c.b.toNat ≤ 32))
    (fun _ _ => false) cbarPut) f s

/-- Whether an arrival may count: every older store of the context is visible at cluster scope (R250). -/
def cbarReady (s : State) (c : Cmd) : Bool :=
  !((s.ctx c.cid).mq.any fun b => b.kind.writes && b.ord != 2 && decide (b.seq < c.seq))
    && !((s.flyingAtomics c.cid).any fun b => decide (b.seq < c.seq))
    && !(s.hidden c.cid 1 fun w => w.cls == 0 && w.ord != 2 && decide (w.seq < c.seq))

/-- A barrier takes an arrival of `n` participants at frame time `t`; none when the participants disagree (R249). -/
def Barrier.arrive (b : Barrier) (n t : Nat) : Option Barrier :=
  let e := if b.arrivals = 0 then n else b.expected
  let t := if b.arrivals = 0 then t else max b.last t
  if n ≠ e then none
  else if b.arrivals + 1 = e then some ⟨e, 0, b.gen + 1, t, t + 16⟩
  else some ⟨e, b.arrivals + 1, b.gen, t, b.doneAt⟩

/-- R249: the arrival of a context's `cbar` is counted, or is an error that traps at the next boundary. -/
def execCbarArrival (cid : Nat) (s : State) : Host.Outcome State Fault Refusal :=
  let k := (s.ctx cid).bind.barClu
  match takeFirst (fun c => c.cid == cid) (s.clu k).cbarQ with
  | none => .next s
  | some (c, rest) =>
    if !cbarReady s c then .next s
    else
      let n := c.a.toNat % 16
      let b := (s.clu k).barriers[n]'(Nat.mod_lt _ (by decide))
      let s := s.modClu k fun k => { k with cbarQ := rest }
      match b.arrive c.b.toNat c.c.toNat with
      | none => .next (s.modCtx cid fun x => { x with barrier := none }.postTrap ⟨3, 9, 0, 0, 0⟩)
      | some b' =>
        .next ((s.modClu k fun k => { k with barriers := k.barriers.set n b' (Nat.mod_lt _ (by decide)) }).modCtx cid fun x =>
          { x with barrier := some (n, some b.gen) })

/-- R249: a context departs once the generation it arrived in has completed, in deterministic operation at the largest
arrival time + 16 (R349). -/
def execCbarRelease (cid : Nat) (s : State) : Host.Outcome State Fault Refusal :=
  let c := s.ctx cid
  match c.barrier with
  | some (n, some g) =>
    let b := (s.clu c.bind.barClu).barriers[n % 16]'(Nat.mod_lt _ (by decide))
    if b.gen = g ∨ (c.bind.det ∧ c.r.frameTime < b.doneAt) then .next s
    else .next (s.modCtx cid fun x => { x with barrier := none })
  | _ => .next s

/-! ### Gangs (R252 to R255) -/

/-- Whether two contexts run one tile task. -/
def Binding.sameTask (a b : Binding) : Bool :=
  a.part == b.part && a.launch == b.launch && a.node == b.node && a.x == b.x && a.y == b.y && a.z == b.z

/-- The members of a context's gang, in the order of their index. -/
def State.members (s : State) (cid : Nat) : List Nat :=
  let b := (s.ctx cid).bind
  sortBy (fun x y => decide ((s.ctx x).bind.member ≤ (s.ctx y).bind.member))
    ((s.ctxs.filter fun x => x.2.status != .free && x.2.bind.sameTask b).map (·.1))

/-- A member's result word of `fuse` is ready: INFO is its index (R253). -/
def fuseWord (s : State) (cid : Nat) : State :=
  let m := (s.ctx cid).bind.member
  s.modRegs cid fun r => { r with words := r.words.map fun w =>
    if w.wait == .gang then { w with wait := .command, val := some (resultWord 0 m) } else w }

/-- R253: a lone member fuses at once, a fused member keeps going, and any other raises its line and stops. -/
def fusePut (s : State) (c : Cmd) : State :=
  let x := s.ctx c.cid
  if !x.bind.gang || x.fused then (fuseWord s c.cid).modCtx c.cid fun x => { x with fused := true }
  else (s.modCtx c.cid fun x => { x with lineFuse := some x.bun.pc }).pause c.cid (slotsBelow 9)

/-- R253. -/
def execFuse (f : TFld) (s : State) : Host.Outcome State Fault Refusal :=
  tRun ⟨0x18, false, false, fun _ => .gang, fun _ => false, fun _ => true, fun _ _ => false, fusePut, fun _ _ => none⟩ f s

/-- R255: acts when the bundle completes, on every member of the gang. -/
def execDcpl (f : TFld) (s : State) : Host.Outcome State Fault Refusal :=
  tRun (.plain 0x19 false (fun _ => true) (fun _ _ => false) fun s c =>
    s.modCtx c.cid fun x => { x with bun := { x.bun with aft := { x.bun.aft with dcpl := true } } }) f s

/-- R255: a lone member goes on at once. -/
def execRejoin (f : TFld) (s : State) : Host.Outcome State Fault Refusal :=
  tRun (.plain 0x1A false (fun _ => true) (fun _ _ => false) fun s c =>
    s.modCtx c.cid fun x => { x with lineRejoin := x.bind.gang }) f s

/-- A member that waits at a `fuse` takes the illegal-slot trap there, and its line falls (R253). -/
def fuseTrap (s : State) (cid : Nat) : State :=
  s.modCtx cid fun c =>
    ({ c with lineFuse := none,
              r := { c.r with words := c.r.words.filter fun w => w.wait != TWait.gang } }).takeTrap ⟨3, 9, 0, 0, 0⟩ c.bun.pc
      (slotsBelow 9) c.bun.aft

/-- The cores of a fused gang count time together. -/
def State.syncCores (s : State) (ids : List Nat) : State :=
  let t := (ids.map fun i => (s.core (coreOf i)).time).foldl max 0
  ids.foldl (fun s i => s.modCore (coreOf i) fun k => { k with time := t }) s

/-- A member of a gang that fuses: the leader's loop shadows and transfers govern it, and its `fuse` bundle completes
(R253, R254). -/
def fuseMember (leader : Ctx) (s : State) (cid : Nat) : State :=
  ((fuseWord s cid).modCtx cid fun c =>
    { c with lineFuse := none, r := { c.r with loops := leader.r.loops, transfers := leader.r.transfers } }).completeBundle
      cid |>.modCtx cid fun c => { c with fused := true, bun := { c.bun with nextSkip := 0, nextAft := After.none, nextWord := none, nextRe := false } }

/-- R253: once the line is high in every running member, none of which a pre-emption has stopped, the gang fuses, or every
member traps where the addresses differ. -/
def execGangFusion (leader : Nat) (s : State) : Host.Outcome State Fault Refusal :=
  let ms := s.members leader
  let l := s.ctx leader
  if !(l.bind.gang && decide (ms.length = l.bind.gangW * l.bind.gangH)
      && ms.all fun i => (s.ctx i).lineFuse.isSome && (s.ctx i).status == .running) then
    .next s
  else if ms.all fun i => (s.ctx i).lineFuse == l.lineFuse then .next ((ms.foldl (fuseMember l) s).syncCores ms)
  else .next (ms.foldl fuseTrap s)

/-- R255: once every member waits at a `rejoin`, all go on decoupled. -/
def execGangRejoin (leader : Nat) (s : State) : Host.Outcome State Fault Refusal :=
  let ms := s.members leader
  let l := s.ctx leader
  if !(l.bind.gang && decide (ms.length = l.bind.gangW * l.bind.gangH)
      && ms.all fun i => (s.ctx i).lineRejoin && (s.ctx i).status == .running) then .next s
  else .next (ms.foldl (fun s i => s.modCtx i fun c => { c with lineRejoin := false, fused := false }) s)

end Sys2Proof.Machine
end

