-- ==== Sys2Proof/Machine/NearMem.lean ====
section
/-! DEFINITION. The commands of the near-memory units and of the angle store (R287 to R290, R307 to R319, R363 to R365). -/

namespace Sys2Proof.Machine

/-! ### Issue (R311) -/

/-- The rows of a command. -/
def Cmd.nmRows (c : Cmd) : Nat := if c.op = 0x39 then 1 else fieldN c.c.toNat 48 16 + 1
/-- LEN of `nm.add`. -/
def Cmd.nmLen (c : Cmd) : Nat := fieldN c.c.toNat 37 11 + 1
/-- FMT of `nm.add`. -/
def Cmd.nmFmt (c : Cmd) : Nat := fieldN c.c.toNat 24 8
/-- An `nm.fai` that returns its old value (R313). -/
def Cmd.returning (c : Cmd) : Bool := c.op == 0x39 && c.dreg != 0

/-- The checks at issue (R311 to R314). -/
def nmOk (c : Cmd) : Bool :=
  let w := c.c.toNat
  if c.op = 0x38 then fieldN w 32 5 == 0 && (c.nmFmt == 1 || c.nmFmt == 2 || c.nmFmt == 4) && fieldN w 0 24 % 64 == 0
  else if c.op = 0x39 then decide (w ≤ 1)
  else c.a.toNat % 64 == 0 && fieldN w 1 23 == 0 && (c.d == 0 || fieldN w 24 24 == 0)

/-- A deterministic context may not issue an FP `nm.add` (R334). -/
def nmAddOk (s : State) (c : Cmd) : Bool := nmOk c && !((s.ctx c.cid).bind.det && c.nmFmt != 4)

/-- Whether every row of a command has performed, or it has stopped. -/
def NCmd.over (n : NCmd) : Bool := n.stopped || decide (n.cmd.nmRows ≤ n.row)

/-- The context's thirty-third command finds no room (R310). -/
def nmBusy (s : State) (c : Cmd) : Bool := decide (32 ≤ ((s.ctx c.cid).ncmds.filter fun n => !n.over).length)

/-- A command enters its context's N path. -/
def nmPut (s : State) (c : Cmd) : State :=
  s.modCtx c.cid fun x =>
    { x with ncmds := x.ncmds ++ [⟨c, 0, 0, [], none, false, none, (s.core (coreOf c.cid)).beats + 640⟩], nmCount := x.nmCount + (if c.returning then 0 else 1) }

/-- R312: four parameters, no result word. -/
def execNmAdd (f : TFld) (s : State) : Host.Outcome State Fault Refusal :=
  tRun ⟨0x38, true, true, fun _ => .command, fun _ => false, nmAddOk s, nmBusy, nmPut, fun _ _ => none⟩ f s
/-- R313: the old value also goes to latch b6. -/
def execNmFai (f : TFld) (s : State) : Host.Outcome State Fault Refusal :=
  tRun ⟨0x39, false, true, fun _ => .command, fun _ => true, nmOk, nmBusy, nmPut, fun _ _ => none⟩ f s
/-- R314, R315. -/
def execNmOpt (f : TFld) (s : State) : Host.Outcome State Fault Refusal :=
  tRun ⟨0x3A, true, true, fun _ => .command, fun _ => false, nmOk, nmBusy, nmPut, fun _ _ => none⟩ f s

/-- R317. -/
def execNmFence (f : TFld) (s : State) : Host.Outcome State Fault Refusal :=
  let n := s.me.nmCount
  tRun ⟨0x3B, false, true, fun c => .nmFence c.seq n, fun _ => false, fun _ => true, fun _ _ => false,
    fun s c => s.modCtx c.cid fun y => { y with nmCount := 0 }, fun _ _ => none⟩ f s

/-! ### Row steps (R312 to R315) -/

/-- The row number of the n-th row: a count, or a word of the index list (R312, R314, R363). -/
def nmIndex (s : State) (c : Cmd) (n first : Nat) : Except AFault Nat :=
  if c.d = 0 then .ok (first + n)
  else
    let a := (c.d.toNat + 4 * n) % 2 ^ 64
    if c.d.toNat % 4 ≠ 0 then .error (accFault a)
    else
      match copyRead s c.cid a 4 with
      | .error e => .error e
      | .ok bs => .ok (leNat (bs.map fun b => b.getD 0))

/-- What a row does: the bytes it writes, where it met a poisoned granule, and the old word of an `nm.fai`. -/
structure NmDone where
  cells : List Host.Cell
  poisoned : Option Nat
  old : Option SVal
  blk : List Byte

/-- The outcome of trying a row: done, a fault of an access of some kind (R285), or a wait for the package buffer (R327). -/
inductive NmOut where
  | done (d : NmDone)
  | fault (kind : AccessKind) (e : AFault)
  | wait

/-- The address of the first poisoned granule in a row of n bytes at an address (R319). -/
def poisonVa (s : State) (va key n : Nat) : Option Nat := (poisonIn s key n).map fun o => va + o

/-- New bytes for elements at a row, but those in poisoned granules (R319). -/
def freshCells (s : State) (key size : Nat) (xs : List Nat) : List Host.Cell :=
  ((List.range xs.length).zip xs).flatMap fun x =>
    if s.poisoned (key + x.1 * size) then [] else cellsAt (key + x.1 * size) (leBytes size x.2)

/-- Elements of a row in memory. -/
def rowElems (s : State) (key size n : Nat) : List Nat := (List.range n).map fun t => leNat (memGetBytes s.mem (key + t * size) size)

/-- One addition of `nm.add` (R312). -/
def nmSum (fmt a b : Nat) : Nat :=
  if fmt = 4 then (a + b) % 2 ^ 32
  else
    let f := if fmt = 1 then fmtF32 else fmtBF16
    (fAdd f .rne (decodeF f a) (decodeF f b)).bits

/-- The n-th row of an `nm.add` (R312). -/
def nmAddStep (s : State) (c : Cmd) (n : Nat) : NmOut :=
  let e := if c.nmFmt = 2 then 2 else 4
  let z := c.nmLen * e
  let src := (c.a.toNat + n * z) % 2 ^ 64
  if src < Config.windowL ∨ src % e ≠ 0 then .fault .engineRead (accFault src)
  else
    match copyRead s c.cid src z, nmIndex s c n 0 with
    | .error f, _ => .fault .engineRead f
    | _, .error f => .fault .engineRead f
    | .ok bs, .ok idx =>
      let dst := (c.b.toNat + idx * fieldN c.c.toNat 0 24) % 2 ^ 64
      if dst % e ≠ 0 then .fault .atomic (accFault dst)
      else
        match nmRow s c.cid .write dst z with
        | .error f => .fault .atomic f
        | .ok key =>
          if granulesPending s key z then .wait
          else
            let b := bs.map fun x => x.getD 0
            let xs := (List.range c.nmLen).map fun t => slice b (t * e) e
            let new := ((rowElems s key e c.nmLen).zip xs).map fun x => nmSum c.nmFmt x.1 x.2
            .done ⟨freshCells s key e new, poisonVa s dst key z, none, []⟩

/-- An `nm.fai` (R313). -/
def nmFaiStep (s : State) (c : Cmd) : NmOut :=
  let e := if c.c = 0 then 4 else 8
  if c.a.toNat % e ≠ 0 then .fault .atomic (accFault c.a.toNat)
  else
    match nmRow s c.cid .unitUpdate c.a.toNat e with
    | .error f => .fault .atomic f
    | .ok key =>
      if granulesPending s key e then .wait
      else
        let bs := memGetBytes s.mem key e
        if s.poisoned key then .done ⟨[], some (c.a.toNat / 64 * 64), some (SVal.whole 0 false), []⟩
        else
          .done ⟨cellsAt key (leBytes e (leNat bs + c.b.toNat)), none, some (SVal.mkOk (extendLoad e true bs)), []⟩

/-- The fields of an optimiser block (R314). -/
structure OptBlk where
  p : Nat
  x : Nat
  m : Nat
  v : Nat
  len : Nat
  kind : Nat
  fmt : Nat
  lr : Nat
  b1 : Nat
  b2 : Nat
  eps : Nat
  wd : Nat
  bc1 : Nat
  bc2 : Nat

/-- Reads the fields; none where R314 makes the block an access fault. -/
def optParse (bs : List Byte) : Option OptBlk :=
  let b : OptBlk :=
    { p := slice bs 0 8, x := slice bs 8 8, m := slice bs 16 8, v := slice bs 24 8, len := slice bs 32 2,
      kind := slice bs 34 1, fmt := slice bs 35 1, lr := slice bs 36 4, b1 := slice bs 40 4, b2 := slice bs 44 4,
      eps := slice bs 48 4, wd := slice bs 52 4, bc1 := slice bs 56 4, bc2 := slice bs 60 4 }
  if 1 ≤ b.len ∧ b.len ≤ 2048 ∧ b.kind ≤ 1 ∧ (b.fmt = 0x31 ∨ b.fmt = 0x02) ∧ ¬(b.kind = 0 ∧ b.v = 0) then some b else none

/-- FP32 operations of a row step, under RNE and without flags (R315). -/
def o32Mul (a b : Nat) : Nat := (fMul fmtF32 .rne (f32 a) (f32 b)).bits
/-- Addition. -/
def o32Add (a b : Nat) : Nat := (fAdd fmtF32 .rne (f32 a) (f32 b)).bits
/-- Subtraction. -/
def o32Sub (a b : Nat) : Nat := (fSub fmtF32 .rne (f32 a) (f32 b)).bits
/-- Division. -/
def o32Div (a b : Nat) : Nat := (fDiv fmtF32 .rne (f32 a) (f32 b)).bits
/-- Square root. -/
def o32Sqrt (a : Nat) : Nat := (fSqrt fmtF32 .rne (f32 a)).bits
/-- 1.0 in FP32. -/
def one32 : Nat := 0x3F800000

/-- The code step of an angle master (R315): RNE(Δ 2^32 / 2π), saturated; 0 where Δ is not finite. -/
def angleStep (d : Nat) : Int :=
  match f32 d with
  | .fin neg m e =>
    if m = 0 then 0
    else
      let t := absolute 12 (dyTag neg m e) (fun w => ((Ball.dyadic w m e).scale (2 ^ 32)).div w ((piBall w).scale 2)) precisions
      let k := (roundInt (.mode .rne) neg t.1 t.2).1
      if neg then -((min k (2 ^ 31) : Nat) : Int) else ((min k (2 ^ 31) : Nat) : Int)
  | _ => 0

/-- The split of an angle master (R40): plane and extension. -/
def splitA16 (m : Nat) : Nat × Nat :=
  let a := (m + 2 ^ 15) / 2 ^ 16 % 2 ^ 16
  (a, (m + 2 ^ 32 - a * 2 ^ 16 % 2 ^ 32) % 2 ^ 16)

/-- The master of a plane and an extension (R40). -/
def joinA16 (a x : Nat) : Nat := (a * 2 ^ 16 + x + (if 2 ^ 15 ≤ x then 2 ^ 32 - 2 ^ 16 else 0)) % 2 ^ 32

/-- One element of a row step (R315): gradient, moments, plane and extension to new moments, plane and extension. -/
def optElem (b : OptBlk) (g m v a x : Nat) : Nat × Nat × Nat × Nat :=
  let adam := b.kind == 0
  let m' := if adam then o32Add (o32Mul b.b1 m) (o32Mul (o32Sub one32 b.b1) g) else o32Add (o32Mul b.b1 m) g
  let v' := if adam then o32Add (o32Mul b.b2 v) (o32Mul (o32Sub one32 b.b2) (o32Mul g g)) else v
  let u := if adam then o32Div (o32Mul m' b.bc1) (o32Add (o32Sqrt (o32Mul v' b.bc2)) b.eps) else m'
  if b.fmt = 2 then
    let f := a * 2 ^ 16 + x
    let f' := o32Sub f (o32Mul b.lr (o32Add u (o32Mul b.wd f)))
    (m', v', f' / 2 ^ 16, f' % 2 ^ 16)
  else
    let c := angleStep (o32Mul b.lr u)
    let q := splitA16 ((((joinA16 a x : Nat) : Int) - c) % 2 ^ 32).toNat
    (m', v', q.1, q.2)

/-- A row that an `nm.opt` reaches (R314): its address, the size of its elements, and what its page must allow (R281). -/
structure OptLeg where
  va : Nat
  size : Nat
  perm : Perm
deriving DecidableEq, Repr

/-- The rows of the step of row r, the home row first (R314, R315): primary, extension, first moment, gradient, and for
AdamW the second moment. The gradient is written with GZ only. -/
def optLegs (c : Cmd) (b : OptBlk) (r : Nat) : List OptLeg :=
  let leg (base size : Nat) (perm : Perm) : OptLeg := ⟨(base + r * ((size * b.len + 63) / 64 * 64)) % 2 ^ 64, size, perm⟩
  [leg b.p 2 .unitUpdate, leg b.x 2 .unitUpdate, leg b.m 4 .unitUpdate,
    leg c.b.toNat 4 (if c.c.getLsbD 0 then .unitUpdate else .unitRead)]
    ++ (if b.kind = 0 then [leg b.v 4 .unitUpdate] else [])

/-- The keys of rows of n elements, or the fault of the first that faults, with its kind (R312, R315). -/
def optKeys (s : State) (cid n : Nat) : List OptLeg → Except (AccessKind × AFault) (List Nat)
  | [] => .ok []
  | g :: t =>
    let kind : AccessKind := if g.perm = .unitRead then .engineRead else .atomic
    if g.va % g.size ≠ 0 then .error (kind, accFault g.va)
    else
      match nmRow s cid g.perm g.va (n * g.size) with
      | .error e => .error (kind, e)
      | .ok k =>
        match optKeys s cid n t with
        | .error e => .error e
        | .ok ks => .ok (k :: ks)

/-- A row's new elements but those the step skips. -/
def keptCells (key size : Nat) (skip : Nat → Bool) (xs : List Nat) : List Host.Cell :=
  ((List.range xs.length).zip xs).flatMap fun x => if skip x.1 then [] else cellsAt (key + x.1 * size) (leBytes size x.2)

/-- The step of row r (R314, R315). -/
def optRow (s : State) (c : Cmd) (blk : List Byte) (b : OptBlk) (r : Nat) : NmOut :=
  let legs := optLegs c b r
  match optKeys s c.cid b.len legs with
  | .error e => .fault e.1 e.2
  | .ok keys =>
    let rows := keys.zip legs
    if rows.any fun x => granulesPending s x.1 (b.len * x.2.size) then .wait
    else
      let key (i : Nat) : Nat := keys.getD i 0
      let adam := b.kind == 0
      let skip (t : Nat) : Bool := rows.any fun x => s.poisoned (x.1 + t * x.2.size)
      let elem (t : Nat) : Nat × Nat × Nat × Nat :=
        let rd (k size : Nat) : Nat := leNat (memGetBytes s.mem (k + t * size) size)
        optElem b (rd (key 3) 4) (rd (key 2) 4) (if adam then rd (key 4) 4 else 0) (rd (key 0) 2) (rd (key 1) 2)
      let es := (List.range b.len).map elem
      let cells := keptCells (key 2) 4 skip (es.map (·.1)) ++ (if adam then keptCells (key 4) 4 skip (es.map (·.2.1)) else [])
        ++ keptCells (key 0) 2 skip (es.map (·.2.2.1)) ++ keptCells (key 1) 2 skip (es.map (·.2.2.2))
        ++ (if c.c.getLsbD 0 then keptCells (key 3) 4 skip (es.map fun _ => 0) else [])
      .done ⟨cells, rows.findSome? fun x => poisonVa s x.2.va x.1 (b.len * x.2.size), none, blk⟩

/-- Reads the optimiser block, in the local window or translated (R314). -/
def optBlock (s : State) (c : Cmd) : Except AFault (List Byte) :=
  match locateAll s c.cid .read c.a.toNat 64 with
  | .error e => .error e
  | .ok ls => .ok (ls.map fun l => s.readByte (coreOf c.cid) (min l.q 3) l.key)

/-- The n-th row of an `nm.opt`: the block is read with the first row (R314). -/
def nmOptStep (s : State) (c : Cmd) (blk : List Byte) (n : Nat) : NmOut :=
  match (if blk.isEmpty then optBlock s c else .ok blk) with
  | .error e => .fault .engineRead e
  | .ok bs =>
    match optParse bs with
    | none => .fault .engineRead (accFault c.a.toNat)
    | some b =>
      match nmIndex s c n (fieldN c.c.toNat 24 24) with
      | .error e => .fault .engineRead e
      | .ok r => optRow s c bs b r

/-- The next row of a command. -/
def nmTry (s : State) (n : NCmd) : NmOut :=
  if n.cmd.op = 0x38 then nmAddStep s n.cmd n.row
  else if n.cmd.op = 0x39 then nmFaiStep s n.cmd
  else nmOptStep s n.cmd n.blk n.row

/-- The addresses at which a command's row n reaches units (R312 to R315); none where they cannot be told. -/
def nmReach (s : State) (m : NCmd) (n : Nat) : Option (List Nat) :=
  let c := m.cmd
  if c.op = 0x38 then
    match nmIndex s c n 0 with
    | .ok i => some [(c.b.toNat + i * fieldN c.c.toNat 0 24) % 2 ^ 64]
    | .error _ => none
  else if c.op = 0x39 then some [c.a.toNat]
  else
    match (if m.blk.isEmpty then optBlock s c else .ok m.blk), nmIndex s c n (fieldN c.c.toNat 24 24) with
    | .ok bs, .ok r => (optParse bs).map fun b => (optLegs c b r).map (·.va)
    | _, _ => none

/-- What row n of a command reaches in memory, an address and a number of bytes each (R284, R312 to R315). -/
def nmSpans (s : State) (m : NCmd) (n : Nat) : List (Nat × Nat) :=
  let c := m.cmd
  let index : List (Nat × Nat) := if c.d = 0 ∨ c.op = 0x39 then [] else [((c.d.toNat + 4 * n) % 2 ^ 64, 4)]
  let own : List (Nat × Nat) :=
    if c.op = 0x38 then
      let z := c.nmLen * (if c.nmFmt = 2 then 2 else 4)
      ((c.a.toNat + n * z) % 2 ^ 64, z) :: ((nmReach s m n).getD []).map fun va => (va, z)
    else if c.op = 0x39 then [(c.a.toNat, if c.c = 0 then 4 else 8)]
    else
      (if m.blk.isEmpty then [(c.a.toNat, 64)] else []) ++
        match (if m.blk.isEmpty then optBlock s c else .ok m.blk), nmIndex s c n (fieldN c.c.toNat 24 24) with
        | .ok bs, .ok r => ((optParse bs).map fun b => (optLegs c b r).map fun g => (g.va, b.len * g.size)).getD []
        | _, _ => []
  index ++ own

/-- The logical channels of the units that a command's row n reaches; none where they cannot be told. -/
def nmChannels (s : State) (m : NCmd) (n : Nat) : Option (List Nat) :=
  (nmReach s m n).bind fun vas => vas.mapM fun va => match locate s m.cmd.cid .unitRead va with
    | .ok l => if l.region = 8 then some (channelOf l.key) else none
    | .error _ => none

/-- Whether an older command of the path still has a row for a unit that the next row reaches, or one whose units are not
known (R310). -/
def nmOlder (s : State) (older : List NCmd) (n : NCmd) : Bool :=
  let mine := nmChannels s n n.row
  older.any fun o => !o.over && (mine.isNone || (List.range (o.cmd.nmRows - o.row)).any fun i =>
    match nmChannels s o (o.row + i) with
    | none => true
    | some h => h.any fun u => (mine.getD []).contains u)

/-- Replaces a command of an N path. -/
def setN (s : State) (cid pos : Nat) (n : NCmd) : State := s.modCtx cid fun x => { x with ncmds := x.ncmds.set pos n }

/-- A command stops (R312, R313): the trap waits for the boundary, and a requested old value is invalid. -/
def nmStop (s : State) (cid pos : Nat) (n : NCmd) (cause va : Nat) : State :=
  (setN s cid pos { n with stopped := true, held := none, old := some (SVal.whole 0 false) }).modCtx cid fun x =>
    x.postTrap ⟨cause, 9, 0, 0, va⟩

/-- A row is done: its bytes are in memory, and a poisoned granule traps with its address; the next `nm.fence` reports it
for a command that it covers (R309, R317, R319). -/
def nmFinish (s : State) (cid pos : Nat) (n : NCmd) (d : NmDone) : State :=
  let s := setN (s.putCells d.cells) cid pos { n with row := n.row + 1, blk := d.blk, old := d.old }
  match d.poisoned with
  | none => s
  | some va => s.modCtx cid fun x =>
      { x with nmPoison := if n.cmd.returning then x.nmPoison
          else some (min (x.nmPoison.getD n.cmd.seq) n.cmd.seq) }.postTrap ⟨13, 9, 0, 0, va⟩

/-- R309: the next row of the command at a position of the context's N path performs at its unit. -/
def execNmRowPerform (cid pos : Nat) (s : State) : Host.Outcome State Fault Refusal :=
  let q := (s.ctx cid).ncmds
  match q[pos]? with
  | none => .next s
  | some n =>
    if n.over || n.held.isSome || s.blockedAt cid 5 n.cmd.seq false || nmOlder s (q.take pos) n then .next s
    else
      match nmTry s n with
      | .wait => .next s
      | .done d => .next (nmFinish (s.noteSpans cid (nmSpans s n n.row)) cid pos n d)
      | .fault kind e =>
        if e.trans then
          .next (((setN s cid pos { n with held := some e.va }).noteWalk cid e.va).postFault cid 3 kind 9 e)
        else .next (nmStop s cid pos n 6 e.va)

/-- Whether the word of a returning `nm.fai` may come: no sooner than 640 cc after its issue (R313). An invalid one comes when
the fault is known, and a stopped task's goes into its image (R221). -/
def NCmd.wordFree (n : NCmd) (s : State) (cid : Nat) : Bool :=
  !n.cmd.returning || n.stopped || decide (n.from_ ≤ (s.core (coreOf cid)).beats) || (s.ctx cid).status == .stopped

/-- R310: the acknowledgement of a performed row returns; the last one ends the command, and the old value of an
`nm.fai` is then ready (R313). -/
def execNmAcknowledge (cid pos : Nat) (s : State) : Host.Outcome State Fault Refusal :=
  match (s.ctx cid).ncmds[pos]? with
  | none => .next s
  | some n =>
    let acked := if n.acked < n.row then n.acked + 1 else n.acked
    if n.over && decide (n.row ≤ acked) && n.wordFree s cid then
      let word (r : Regs) : Regs := match n.old with
        | some v => if n.cmd.returning then r.readyWord n.cmd.req v else r
        | none => r
      .next (s.modCtx cid fun x => { x with ncmds := x.ncmds.eraseIdx pos, r := word x.r })
    else .next (setN s cid pos { n with acked := acked })

/-! ### The angle store (R287 to R290) -/

/-- The checks of `as.ld` (R289). -/
def asOk (c : Cmd) : Bool :=
  let n := c.c.toNat
  c.a.toNat % 64 == 0 && c.b.toNat % 64 == 0 && n % 64 == 0 && decide (64 ≤ n) && decide (n ≤ 2 ^ 31)
    && decide (Config.windowK ≤ c.b.toNat) && decide (c.b.toNat + n ≤ Config.windowK + 2 ^ 31)

/-- An `as.ld` leaves the core (R289). -/
def asPut (s : State) (c : Cmd) : State :=
  s.modCtx c.cid fun x => { x with asLds := x.asLds ++ [⟨c, 0, none, none⟩], asCount := x.asCount + 1 }

/-- R289. -/
def execAsLd (f : TFld) (s : State) : Host.Outcome State Fault Refusal :=
  tRun (.plain 0x40 false asOk (fun _ _ => false) asPut) f s

/-- R290. -/
def execAsWait (f : TFld) (s : State) : Host.Outcome State Fault Refusal :=
  let n := s.me.asCount
  tRun ⟨0x41, false, false, fun c => .asWait c.seq n, fun _ => false, fun _ => true, fun _ _ => false,
    fun s c => s.modCtx c.cid fun y => { y with asCount := 0 }, fun _ _ => none⟩ f s

/-- A die's angle store is in read phase (R288): a context of a declaring node is bound on it. -/
def readPhase (s : State) (die : Nat) : Bool :=
  s.ctxs.any fun c => dieOf (coreOf c.1) == die && c.2.status != .free && c.2.bind.astore

/-- Granules of an `as.ld`. -/
def AsLd.total (a : AsLd) : Nat := a.cmd.c.toNat / 64

/-- Whether an `as.ld` may go on: no fence holds class L, and no fault or trap of it is open (R159, R289). -/
def asReady (s : State) (cid : Nat) (a : AsLd) : Bool :=
  let x := s.ctx cid
  (a.held.isSome && x.status == .ending) ||
    (!s.blockedAt cid 7 a.cmd.seq false && !s.svcWaits cid (asCls a.cmd) && decide (a.granules < a.total)
      && a.status != some 1 && (a.held.isNone || (!x.r.inHandler && !x.traps.any (fun t => t.slot == 9))))

/-- Replaces an `as.ld`. -/
def setAs (s : State) (cid pos : Nat) (a : AsLd) : State := s.modCtx cid fun x => { x with asLds := x.asLds.set pos a }

/-- An `as.ld` stops at its granule (R289): a translation fault goes to the fault service, and an access fault traps. -/
def asFault (s : State) (cid pos : Nat) (a : AsLd) (e : AFault) : State :=
  if e.trans then ((setAs s cid pos a).noteWalk cid e.va).postFault cid (asCls a.cmd) .engineRead 9 e
  else (setAs s cid pos { a with held := some (6, e.va) }).modCtx cid fun x => x.postTrap ⟨6, 9, 0, 0, e.va⟩

/-- One granule of an `as.ld`; before the first one, and before the first one after a resumption, the phase is checked: nothing
writes a store in read phase (R288, R289). -/
def asGranule (s : State) (cid pos : Nat) (a : AsLd) : State :=
  let die := dieOf (coreOf cid)
  if a.status.isNone ∧ readPhase s die then setAs s cid pos { a with status := some 1, held := none }
  else
    let a := { a with status := some 0, held := none }
    let va := (a.cmd.a.toNat + 64 * a.granules) % 2 ^ 64
    match locateAll s cid .read va 64 with
    | .error e => asFault s cid pos a e
    | .ok ls =>
      if ls.all fun l => l.region == 8 then
        let bs := ls.map fun l => s.readByte (coreOf cid) 3 l.key
        let key := kAngle die (a.cmd.b.toNat - Config.windowK + 64 * a.granules)
        setAs (s.putCells (cellsAt key bs)) cid pos { a with granules := a.granules + 1 }
      else asFault s cid pos a (accFault va)

/-- A held `as.ld` of a task that ends is reported and dropped (R108); any other moves its next granule. -/
def asStep (s : State) (cid pos : Nat) (a : AsLd) : State :=
  match a.held, (s.ctx cid).status with
  | some h, .ending => s.modCtx cid fun x =>
      { x with asLds := x.asLds.eraseIdx pos, r := x.r.readyWord a.cmd.req (SVal.whole 0 false) }.reportHeld h
  | _, _ => asGranule (s.noteWalk cid ((a.cmd.a.toNat + 64 * a.granules) % 2 ^ 64)) cid pos a

/-- The angle-store range an `as.ld` writes. -/
def asRange (c : Cmd) : Nat × Nat × Nat := (dieOf (coreOf c.cid), c.b.toNat, c.b.toNat + c.c.toNat)

/-- A deterministic `as.ld` with a smaller key writes the same place (R351). -/
def earlierAs (s : State) (a : AsLd) : Bool :=
  s.ctxs.any fun c => c.2.bind.det && c.2.asLds.any fun x => x.cmd.key.lt a.cmd.key && rangesMeet (asRange x.cmd) (asRange a.cmd)

/-- The next granule of an `as.ld` of a free context. -/
def asPerform (s : State) (cid pos : Nat) : State :=
  match (s.ctx cid).asLds[pos]? with
  | none => s
  | some a => if !(s.ctx cid).bind.det && asReady s cid a then asStep s cid pos a else s

/-- R351: the next granule of an `as.ld` of a deterministic context. -/
def keyedAs (s : State) (cid pos : Nat) : State :=
  match (s.ctx cid).asLds[pos]? with
  | none => s
  | some a =>
    if (s.ctx cid).bind.det && asReady s cid a && s.frameReached cid ((s.ctx cid).keyTime a.cmd.key + 64)
        && !earlierAs s a then asStep s cid pos a else s

/-- R289: an `as.ld` that has written its last granule, or was refused, readies its result word. -/
def execAsLdComplete (cid pos : Nat) (s : State) : Host.Outcome State Fault Refusal :=
  match (s.ctx cid).asLds[pos]? with
  | none => .next s
  | some a =>
    if a.granules < a.total ∧ a.status ≠ some 1 then .next s
    else
      let st := a.status.getD 0
      .next (s.modCtx cid fun x =>
        { x with asLds := x.asLds.eraseIdx pos,
                 r := x.r.readyWord a.cmd.req (resultWord 0 (st * 2 ^ 28 + a.granules % 2 ^ 28)) })

/-! ### Single accesses (R326, R351) -/

/-- R351: in key order, an atomic, a copy's element write (positions from 2,000) or an `as.ld` granule (from 3,000). -/
def execKeyedPerform (cid pos : Nat) (s : State) : Host.Outcome State Fault Refusal :=
  if pos < 2000 then .next (s.keyedAtomic cid pos)
  else if pos < 3000 then .next (keyedCopy s cid (pos - 2000))
  else .next (keyedAs s cid (pos - 3000))

end Sys2Proof.Machine
end

