-- ==== Sys2Proof/Machine/Landing.lean ====
section
/-! DEFINITION. Landings: fixed-latency results (R81), M requests (R150, R151) and result words (R194, R196), and the freezes
that a late one causes. -/

namespace Sys2Proof.Machine

/-- The value of a result word once what it waits for has come about (R245, R275, R290, R301, R317, R328). -/
def wordValue (s : State) (cid : Nat) (w : TWord) : Option SVal :=
  let c := s.ctx cid
  match w.val with
  | some v => some v
  | none =>
    match w.wait with
    | .command => none
    | .gang => none
    | .copies m seq => if copiesDone c m seq then some (resultWord (copyWaitFlags c m seq) m) else none
    | .eqFence seq => if s.classDone cid 3 seq 0 then some (resultWord 0 0) else none
    | .pkWait lo seq n =>
      if s.classDone cid 4 seq 0 then
        some (resultWord (c.pkDone.foldl (fun f k => if lo ≤ k.1 ∧ k.1 < seq then f ||| k.2 else f) 0) (n % 2 ^ 28))
      else none
    | .nmFence seq n =>
      if c.ncmds.any fun k => decide (k.cmd.seq < seq) && !k.cmd.returning then none
      else some (resultWord 0 ((if c.nmPoison.any fun q => decide (q < seq) then 3 * 2 ^ 28 else 0) + n % 2 ^ 28))
    | .asWait seq n =>
      if c.asLds.any fun k => decide (k.cmd.seq < seq) then none else some (resultWord 0 (n % 2 ^ 28))

/-! ### What is due -/

/-- Whether results of a context come due: not while it is stopped for a pre-emption, nor before its first bundle after a
resumption (R221, R223). A task that ends before that bundle drains: what it kept lands (R108). -/
def Ctx.landing (c : Ctx) : Bool := c.status != .stopped && (!c.resumed || c.status == .ending)

/-- Whether a context in free operation has a due request whose data has not arrived, or a due result word that is not
ready: its core clock domain freezes before any landing of the cycle (R150, R194). -/
def State.lateIn (s : State) (cid : Nat) : Bool :=
  let c := s.ctx cid
  let cc := (s.core (coreOf cid)).cc
  c.landing && !c.bind.det && (c.r.land.any (fun q => decide (q.due ≤ cc) && !q.arrived)
    || c.r.words.any fun w => decide (w.due ≤ cc) && (wordValue s cid w).isNone)

/-- The contexts of the clock domain of a context's core: those of the cores of its fused gang (R254). -/
def State.clockCtxs (s : State) (cid : Nat) : List Nat :=
  (s.gangOf (2 * coreOf cid)).flatMap fun i => [2 * coreOf i, 2 * coreOf i + 1]

/-- Whether the clock domain of a context's core is frozen in this cycle. -/
def State.frozenNow (s : State) (cid : Nat) : Bool := (s.clockCtxs cid).any s.lateIn

/-- A fixed-latency result of a context that is due (R81). -/
def State.dueResult (s : State) (cid : Nat) : Option (Pending × List Pending) :=
  let cc := (s.core (coreOf cid)).cc
  let fl := if (s.ctx cid).landing && !s.frozenNow cid then (s.ctx cid).r.flight else []
  match takeFirst (fun p => decide (p.due ≤ cc) && p.isCtl) fl with
  | some x => some x
  | none => takeFirst (fun p => decide (p.due ≤ cc)) fl

/-- A request of the context that is due: in a frozen cycle one that is late, else one that has arrived, and else, in
deterministic operation, one whose lateness has not been reported (R150). -/
def State.dueReq (s : State) (cid : Nat) : Option (MReq × List MReq) :=
  let c := s.ctx cid
  let cc := (s.core (coreOf cid)).cc
  let l := if c.landing then c.r.land else []
  if s.frozenNow cid then takeFirst (fun q => decide (q.due ≤ cc) && !q.arrived && !c.bind.det) l
  else
    match takeFirst (fun q => decide (q.due ≤ cc) && q.arrived) l with
    | some x => some x
    | none => takeFirst (fun q => decide (q.due ≤ cc) && !q.late) l

/-- A result word of the context that is due, as `dueReq` for requests (R194). -/
def State.dueWord (s : State) (cid : Nat) : Option (TWord × List TWord) :=
  let c := s.ctx cid
  let cc := (s.core (coreOf cid)).cc
  let l := if c.landing then c.r.words else []
  if s.frozenNow cid then takeFirst (fun w => decide (w.due ≤ cc) && (wordValue s cid w).isNone && !c.bind.det) l
  else
    match takeFirst (fun w => decide (w.due ≤ cc) && (wordValue s cid w).isSome) l with
    | some x => some x
    | none => takeFirst (fun w => decide (w.due ≤ cc) && !w.late) l

/-- The landings of a stopped context keep their remaining offsets, and so do a wait and the F unit, all counted from cc
`t`, the one after its last bundle (R221, R237). A wait that ran out before the stop with no bundle since counts too: it
held the next bundle until its end. -/
def Regs.toOffsets (r : Regs) (t : Nat) : Regs :=
  { r with flight := r.flight.map fun p => { p with due := p.due - t }
           land := r.land.map fun q => { q with due := q.due - t, from_ := 0 }
           words := r.words.map fun w => { w with due := w.due - t }
           waitTo := max r.waitTo r.waited - t, waited := 0, fUntil := r.fUntil - t }

/-- The landings, the wait and the F unit of a resumed context, in the cycles of its core from `u` on (R223, R237). -/
def Regs.fromOffsets (r : Regs) (u : Nat) : Regs :=
  { r with flight := r.flight.map fun p => { p with due := p.due + u }
           land := r.land.map fun q => { q with due := q.due + u }
           words := r.words.map fun w => { w with due := w.due + u }
           waitTo := if r.waitTo = 0 then 0 else r.waitTo + u
           fUntil := if r.fUntil = 0 then 0 else r.fUntil + u }

/-- A resumed context's remaining offsets count from this cc (R223), also for a further pre-emption (R221). -/
def State.rebase (s : State) (cid : Nat) : State :=
  let u := (s.core (coreOf cid)).cc
  s.modCtx cid fun c => { c with resumed := false, r := c.r.fromOffsets u, bun := { c.bun with after := u } }

/-! ### The landings -/

/-- The bank-format writes of a result, which go to the core (R147). -/
def State.bankWrites (s : State) (cid : Nat) (ws : List RWrite) : State :=
  ws.foldl (fun s w => match w with
    | .ctl n v => if 0x10 ≤ n.toNat ∧ n.toNat ≤ 0x1F then s.writeBankfmt cid (n.setWidth 4) v else s
    | _ => s) s

/-- R81: the oldest due result of the context lands, a `cwr` first (R48). -/
def execResultLanding (cid : Nat) (s : State) : Host.Outcome State Fault Refusal :=
  match s.dueResult cid with
  | none => .next s
  | some (p, rest) =>
    let s := s.modCtx cid fun c => { c with r := { c.r with flight := rest } }
    .next ((s.modCtx cid fun c => c.landResult p).bankWrites cid p.writes)

/-- Whether the data of a request may have arrived: its bytes are there, and no fewer cycles have passed than its memory takes
(R150, R151). A stopped task's requests complete into its image whatever the time (R221). -/
def State.hasArrived (s : State) (cid : Nat) (q : MReq) : Bool :=
  q.bytes.all Option.isSome && (decide (q.from_ ≤ (s.core (coreOf cid)).beats) || (s.ctx cid).status == .stopped)

/-- R150, R151: the data of a request arrives. A pop takes the element it waits for once path C lets it (R162). -/
def execMDataArrival (cid req : Nat) (s : State) : Host.Outcome State Fault Refusal :=
  let s := match (s.ctx cid).r.land.find? fun q => q.id == req with
    | some q => match q.qn with
      | some n => s.servePop cid n
      | none => s
    | none => s
  let go (q : MReq) : MReq := if q.id = req ∧ s.hasArrived cid q then { q with arrived := true } else q
  .next (s.modRegs cid fun r => { r with land := r.land.map go })

/-- The value a request lands, as its latch takes it, and its write (R150, R153, R154). -/
def MReq.value (q : MReq) : RWrite × Latch :=
  let bs := q.bytes.map fun b => b.getD 0
  match q.dest with
  | .sreg r size sext =>
    let v := SVal.whole (extendLoad size sext bs) (q.okWords.all fun b => b)
    (.sreg r v, .scalar v)
  | .vreg r n =>
    let v := VVal.ofList ((wordsOfBytes bs).zipWith (fun w ok => ⟨w, ok⟩) q.okWords)
    (.vreg r n v, .vector (v.narrow n))

/-- A request lands. -/
def Regs.landReq (r : Regs) (q : MReq) : Regs :=
  ((r.apply q.value.1).writeLatch q.port q.value.2)

/-- R150: a due request lands; a late one freezes the core, or raises the overrun fault in deterministic operation and
lands when it arrives. -/
def execMLandingDue (cid : Nat) (s : State) : Host.Outcome State Fault Refusal :=
  match s.dueReq cid with
  | none => .next s
  | some (q, rest) =>
    if q.arrived then
      .next (s.modCtx cid fun c =>
        { c with r := { c.r with land := rest }.landReq q, ival := c.ival.note [q.value.1.landed q.port] })
    else if (s.ctx cid).bind.det then
      let go (x : MReq) : MReq := if x.id = q.id then { x with late := true } else x
      .next (s.modCtx cid fun c => { c with r := { c.r with land := c.r.land.map go } }.postTrap ⟨7, q.port, 0, 0, 0⟩)
    else .next (s.freezeCores cid (some (if q.qn.isSome then 0xC else 0xB)))

/-- A result word lands in its register; the old value of an `nm.fai` also fills latch b6 (R71, R313). -/
def Regs.landWord (r : Regs) (w : TWord) (v : SVal) : Regs :=
  let r := r.writeS w.reg v
  if w.b6 then r.writeLatch 6 (.scalar v) else r

/-- R194, R196: a result word that is due lands; a late one freezes the core, or raises the overrun fault in deterministic
operation. -/
def execResultWordDue (cid : Nat) (s : State) : Host.Outcome State Fault Refusal :=
  match s.dueWord cid with
  | none => .next s
  | some (w, rest) =>
    match wordValue s cid w with
    | some v =>
      .next (s.modCtx cid fun c =>
        { c with r := { c.r with words := rest }.landWord w v, ival := c.ival.note [(RWrite.sreg w.reg v).landed 9] })
    | none =>
      if (s.ctx cid).bind.det then
        let go (x : TWord) : TWord := if x.id = w.id then { x with late := true } else x
        .next (s.modCtx cid fun c => { c with r := { c.r with words := c.r.words.map go } }.postTrap ⟨7, 9, 0, 0, 0⟩)
      else .next (s.freezeCores cid (some 0xB))

/-- Whether an address lies on a page of host or peer memory that a context may read. -/
def remoteVa (s : State) (cid va : Nat) : Bool :=
  match locateAll s cid .read va 1 with
  | .ok ls => ls.any fun l => l.host
  | .error _ => false

/-- R374: an error response to a read by an engine, at an address of host or peer memory, is its access fault. The engines of
a context: 0 the array, 1 the Catalogue unit; from 2 on, in turns of three, its copies, its `as.ld`s and its near-memory
commands (log entry 44). -/
def engineRemoteError (s : State) (cid unit va : Nat) : State :=
  let c := s.ctx cid
  let e := accFault va
  let i := (unit - 2) / 3
  if unit = 0 then
    match (s.core (coreOf cid)).run with
    | some o =>
      if o.cmd.cid ≠ cid ∨ o.finished then s
      else if o.cmd.op = 0x0E then
        match c.seqr.inner with
        | some j => if j.finished then s else innerFault s cid j e
        | none => s
      else opFault s (coreOf cid) o e
    | none => s
  else if unit = 1 then
    s.modDie (dieOf (coreOf cid)) fun d => { d with pkRun := d.pkRun.map fun r =>
      if r.cmd.cid = cid ∧ !r.finished then r.discard va else r }
  else if unit % 3 = 2 then
    match c.copies[i]? with
    | some k => if k.held.isSome then s else copyFault s cid i k false e
    | none => s
  else if unit % 3 = 0 then
    match c.asLds[i]? with
    | some a => if a.held.isSome then s else asFault s cid i a e
    | none => s
  else
    match c.ncmds[i]? with
    | some n => if n.over then s else nmStop s cid i n 6 va
    | none => s

end Sys2Proof.Machine
end

