-- ==== Sys2Proof/Machine/Protect.lean ====
section
/-! DEFINITION. When a checkpoint interval becomes unprotected (R228, R229): its limits, and the frozen cycles that could end
only after the interval has been committed (DEDUCED, log entry 36). -/

namespace Sys2Proof.Machine

/-! ### What cannot go on before the interval ends

`stuck` lists entries of a context's M queue, oldest first, that cannot act before held stores of its interval leave. -/

/-- Whether an entry of `stuck` holds a command of class `cls` with number `seq` (R158, R159, R324). -/
def holdsClass (stuck : List MAcc) (cls seq : Nat) : Bool :=
  stuck.any fun b => decide (b.seq < seq) && (b.kind == .acquire || b.kind.blocks cls)

/-- Whether a command of the array is held: itself, or a copy of the sequencer that it runs (R326). -/
def engineHeld (s : State) (cid : Nat) (stuck : List MAcc) (d : Cmd) : Bool :=
  d.cid == cid && (holdsClass stuck d.engClass d.seq ||
    (d.op == 0x0E && holdsClass stuck 1 d.seq && (s.ctx cid).copies.any fun k => k.cmd.seq == d.seq))

/-- The commands of a core's array in the order in which it serves them (R193). -/
def engineLine (s : State) (l : Nat) : List Cmd :=
  ((s.core l).run.toList ++ (s.core l).heldOps).map (·.cmd) ++ (s.core l).engQ

/-- Whether the command of the array that `f` names waits behind one of `cid` that is held, or is one. -/
def lineHeld (s : State) (cid : Nat) (stuck : List MAcc) (l : Nat) (f : Cmd → Bool) : Bool :=
  let q := engineLine s l
  match q.findIdx? f with
  | some i => (q.take (i + 1)).any (engineHeld s cid stuck)
  | none => false

/-- Whether an acc.ld or acc.st of a context waits for an exchange that is held (R160). -/
def swapHeld (s : State) (cid : Nat) (stuck : List MAcc) (a : MAcc) : Bool :=
  a.keys.head?.any fun k => decide (5 * 2 ^ 64 ≤ k ∧ k < 6 * 2 ^ 64) &&
    lineHeld s cid stuck (coreOf a.cid) fun d =>
      d.cid == a.cid && decide (d.seq < a.seq) && d.swaps ((k - 5 * 2 ^ 64) / 2 ^ 15 % 4)

/-- Whether older work of a class, on which a fence waits, is held (R159). -/
def classHeld (s : State) (cid : Nat) (stuck : List MAcc) (seq : Nat) (cls : Nat) : Bool :=
  let c := s.ctx cid
  let held (n : Nat) : Bool := decide (n < seq) && holdsClass stuck cls n
  match cls with
  | 0 => stuck.any fun b => !b.kind.isFence && decide (b.seq < seq)
  | 1 => (c.copies.any fun k => held k.cmd.seq) || (c.r.land.any fun q => q.qn.isSome && held q.seq)
          || c.r.streams.toList.any fun q => q.any fun x => x.seqs.any held
  | 3 => c.eqOut.any fun k => held k.1
  | 4 => c.pkOut.any held
  | 5 => c.ncmds.any fun k => held k.cmd.seq
  | 6 => stuck.any fun b => b.host && decide (b.seq < seq)
  | k => (k == 7 && c.asLds.any fun x => held x.cmd.seq) ||
      (s.engCmds cid).any fun d => d.engClass == k && decide (d.seq < seq) &&
        lineHeld s cid stuck (coreOf cid) fun e => e.cid == cid && e.seq == d.seq

/-- Whether an entry of the M queue cannot act: it is a held store, or it waits for an older entry that cannot (R158, R159,
R163, R164, R228, R324). -/
def entryHeld (s : State) (cid : Nat) (stuck : List MAcc) (a : MAcc) : Bool :=
  let older (f : MAcc → Bool) : Bool := stuck.any fun b => decide (b.seq < a.seq) && f b
  let atom (k : MKind) : Bool := match k with
    | .atomic _ => true
    | _ => false
  match a.kind with
  | .fence => classHeld s cid stuck a.seq 0
  | .xfence x _ => (classesOf x).any (classHeld s cid stuck a.seq)
  | _ =>
    s.heldStore cid a
      || older (fun b => (b.kind == .acquire && a.ord != 2) || b.kind.blocks 0 || (a.host && b.kind.blocks 6))
      || (a.ord == 1 && older fun b => b.ord == 1 && !b.kind.isFence)
      || older (fun b => (a.kind.writes || b.kind.isLoad || atom b.kind) && overlap b.keys a.keys)
      || (a.kind.writes && a.ord != 2 && older fun b => b.kind.writes && b.ord != 2)
      || swapHeld s cid stuck a

/-- The entries of a context's M queue that cannot act before held stores of its interval leave. -/
def State.stuckEntries (s : State) (cid : Nat) : List MAcc :=
  (s.ctx cid).mq.foldl (fun acc a => if entryHeld s cid acc a then acc ++ [a] else acc) []

/-! ### What a frozen cycle waits for -/

/-- Whether the next element of stream n of a context comes from a command that is held (R247, R306). -/
def streamHeld (s : State) (cid : Nat) (stuck : List MAcc) (n : Nat) : Bool :=
  let c := s.ctx cid
  (c.copies.any fun k => (k.streams.contains n || k.streams.contains (n + 8)) && holdsClass stuck 1 k.cmd.seq)
    || (s.die (dieOf (coreOf cid))).pkQ.any fun k => k.cid == cid && k.pkStrm && k.pkQn == n && holdsClass stuck 4 k.seq

/-- Whether a late request of context `x` waits for something that is held. -/
def requestHeld (s : State) (cid : Nat) (stuck : List MAcc) (x : Nat) (q : MReq) : Bool :=
  match q.qn with
  | some n => x == cid && (holdsClass stuck 1 q.seq || streamHeld s cid stuck n)
  | none =>
    (x == cid && stuck.any fun a => !a.locs.isEmpty && a.req == q.id)
      || (s.ctx x).mq.any fun a => a.req == q.id && swapHeld s cid stuck a

/-- Whether a late result word of context `x` waits for something that is held (R194). -/
def wordHeld (s : State) (cid : Nat) (stuck : List MAcc) (x : Nat) (w : TWord) : Bool :=
  let c := s.ctx cid
  match w.wait with
  | .command =>
    lineHeld s cid stuck (coreOf x) (fun d => d.cid == x && d.req == w.id)
      || (x == cid &&
        ((c.ncmds.any fun k => k.cmd.req == w.id && holdsClass stuck 5 k.cmd.seq)
          || (c.hCmds.any fun k => k.req == w.id && stuck.any fun b => decide (b.seq < k.seq))
          || (c.savs.any fun k => k.req == w.id && holdsClass stuck 2 k.seq)
          || (s.clu (clusterOf (coreOf cid))).eqQ.any fun k => k.cid == cid && k.req == w.id && holdsClass stuck 3 k.seq
          || (s.die (dieOf (coreOf cid))).pkQ.any fun k => k.cid == cid && k.req == w.id && holdsClass stuck 4 k.seq))
  | .copies m seq => x == cid && c.copies.any fun k =>
      m.testBit k.cmd.m && decide (k.cmd.seq < seq) && holdsClass stuck 1 k.cmd.seq
  | .eqFence seq => x == cid && classHeld s cid stuck seq 3
  | .pkWait _ seq _ => x == cid && classHeld s cid stuck seq 4
  | .nmFence seq _ => x == cid && classHeld s cid stuck seq 5
  | .asWait seq _ => x == cid && c.asLds.any fun k => decide (k.cmd.seq < seq) && holdsClass stuck 7 k.cmd.seq
  | .gang => false

/-- Whether a slot in front of whose bundle a core freezes waits for room that only something held can give (R75, R76). -/
def roomHeld (s : State) (cid : Nat) (stuck : List MAcc) (w : SlotWord) : Bool :=
  let l := coreOf w.cid
  let c := s.ctx cid
  if w.slot = 9 then
    let op := fieldN w.bits 28 7
    if op < 0x10 then (engineLine s l).head?.any (engineHeld s cid stuck)
    else if op < 0x18 then
      ((s.ctx (2 * l)).copies ++ (s.ctx (2 * l + 1)).copies).all fun k => k.cmd.cid == cid && holdsClass stuck 1 k.cmd.seq
    else if op < 0x30 then
      (s.clu (clusterOf l)).eqQ.all fun k => k.cid == cid && holdsClass stuck 3 k.seq
    else if op < 0x38 then
      (s.die (dieOf l)).pkQ.all fun k => k.cid == cid && holdsClass stuck 4 k.seq
    else w.cid == cid && (c.ncmds.filter fun k => !k.over).all fun k => holdsClass stuck 5 k.cmd.seq
  else match decodeSlot .m w.bits with
    | some (.qwr f) => w.cid == cid && streamHeld s cid stuck (f.base.toNat % 8)
    | _ => false

/-- Whether a frozen cycle of the context's clock domain can end only after its interval has been committed, and no boundary
comes at which a checkpoint would be taken (R158, R228; DEDUCED, log entry 36). -/
def State.waitsOnInterval (s : State) (cid : Nat) : Bool :=
  let stuck := s.stuckEntries cid
  !stuck.isEmpty && (s.clockCtxs cid).any fun x =>
    let c := s.ctx x
    let cc := (s.core (coreOf x)).cc
    (c.landing && !c.bind.det &&
      ((c.r.land.any fun q => decide (q.due ≤ cc) && !q.arrived && requestHeld s cid stuck x q)
        || c.r.words.any fun w => decide (w.due ≤ cc) && (wordValue s x w).isNone && wordHeld s cid stuck x w))
      || (s.core (coreOf x)).freezing.any fun w => w.cid == x && roomHeld s cid stuck w

/-- Whether an interval has to become unprotected (R229). -/
def State.unprotDue (s : State) (cid : Nat) : Bool :=
  let c := s.ctx cid
  c.status == .running && !c.ival.unprotected &&
    (s.waitsOnInterval cid || decide (4096 ≤ c.ival.bundles) || decide (512 < c.ival.undoRows.length)
      || decide (256 < s.storeEntries cid))

end Sys2Proof.Machine
end

