-- ==== Sys2Proof/Machine/Issue.lean ====
section
/-! DEFINITION. Fetch (R66), the merge stage (R217 to R220), the issue of bundles, operating points and sub-bundles (R232,
R233), and the steps of a context at its bundle boundaries. -/

namespace Sys2Proof.Machine

/-! ### Fetch and header (R63 to R67) -/

/-- A fetched bundle: its length in halfwords, whether it is index 0x0000, and its 384 bits. -/
structure Fetch where
  len : Nat
  zero : Bool
  word : Nat
deriving DecidableEq, Repr

/-- What a fetch gives: a bundle, the illegal-index trap, or a fault (R66). -/
inductive Fetched where
  | bundle (f : Fetch)
  | illegal
  | fault (e : AFault)
deriving DecidableEq, Repr

/-- The current dictionary bank (R68). -/
def Regs.dict (r : Regs) : DictBank := if r.curBank then r.bank1 else r.bank0

/-- The bundle at the program counter (R66). One that stopped in a slot for the fault service is the bundle fetched before: a
`dict.sw` of it that is done changes only later indices (R101; DEDUCED, log entry 69). -/
def fetchAt (s : State) (cid : Nat) : Fetched :=
  let l := s.fetcher cid
  let r := (s.ctx l).r
  match (s.ctx l).bun.nextWord with
  | some (n, z, w) => .bundle ⟨n, z, w⟩
  | none =>
    match fetchHalf s l r.pc.toNat with
    | .error e => .fault e
    | .ok h =>
      if h = 0 then .bundle ⟨1, true, 0⟩
      else if h = 0xFFFF then
        match mapE (fetchHalf s l) ((List.range 24).map fun i => (r.pc + BitVec.ofNat 64 (1 + i)).toNat) with
        | .error e => .fault e
        | .ok hs => .bundle ⟨25, false, hs.foldr (fun x n => n * 2 ^ 16 + x) 0⟩
      else if h < 0x400 then
        match r.dict.entries[h - 1]? with
        | some w => .bundle ⟨1, false, w.toNat⟩
        | none => .illegal
      else .illegal

/-- Position and width of a slot's field (R63). -/
def slotField : Nat → Nat × Nat
  | 0 => (320, 32)
  | 1 => (288, 32)
  | 2 => (248, 40)
  | 3 => (208, 40)
  | 4 => (168, 40)
  | 5 => (144, 24)
  | 6 => (104, 40)
  | 7 => (64, 40)
  | 8 => (40, 24)
  | _ => (0, 40)

/-- The bits of a slot (R63). -/
def Fetch.slot (f : Fetch) (n : Nat) : Nat := fieldN f.word (slotField n).1 (slotField n).2
/-- The guard field of a slot (R69). -/
def Fetch.guard (f : Fetch) (n : Nat) : BitVec 5 := BitVec.ofNat 5 (f.slot n / 2 ^ ((slotField n).2 - 5))
/-- The header (R64). -/
def Fetch.head (f : Fetch) (lo n : Nat) : Nat := fieldN f.word (352 + lo) n
/-- STAMP. -/
def Fetch.stamp (f : Fetch) : Nat := f.head 18 14
/-- OPPT of a bundle that has a header; index 0x0000 takes the current point (R65). -/
def Fetch.oppt (f : Fetch) (op : Nat) : Nat := if f.zero then op else f.head 15 3
/-- FS, as a count of frames begun. -/
def Fetch.fs (f : Fetch) : Nat := f.head 10 1
/-- HOLD. -/
def Fetch.hold (f : Fetch) : Bool := f.head 9 1 == 1
/-- An empty bundle (R65). -/
def Fetch.empty (f : Fetch) : Bool := f.word % 2 ^ 352 == 0
/-- A header that R64 refuses. -/
def Fetch.badHead (f : Fetch) : Bool := f.head 0 9 != 0 || decide (5 ≤ f.head 12 3)
/-- Whether a slot is occupied (R83). -/
def Fetch.occupied (f : Fetch) (n : Nat) : Bool := f.slot n != 0 && f.guard n != 16
/-- The lane groups a V slot takes, in bits (R83). The illegal width code 11 takes none: its slot traps as illegal (DESIGN
CHOICE, log entry 56). -/
def Fetch.vWidth (f : Fetch) (n : Nat) : Nat :=
  if f.occupied n then (if fieldN (f.slot n) 26 2 = 3 then 0 else 256 * 2 ^ fieldN (f.slot n) 26 2) else 0
/-- The combined V width of a bundle (R83). -/
def Fetch.vBits (f : Fetch) : Nat := f.vWidth 2 + f.vWidth 3 + f.vWidth 4
/-- The V slot that a breach of the lane budget traps: the highest occupied one (R83). -/
def Fetch.laneTrap (f : Fetch) : Option Nat :=
  if 2048 < f.vBits then (if f.occupied 4 then some 4 else if f.occupied 3 then some 3 else some 2) else none

/-! ### Readiness (R217 to R221) -/

/-- The slot whose bundles govern the operating point: A, or B while A is unbound (R220). -/
def State.governs (s : State) (cid : Nat) : Bool := slotOf cid == 0 || (s.ctx (2 * coreOf cid)).status == .free

/-- Whether a context stands in a bundle that a pre-emption may leave: at a slot that waits on the fault service, for the
whole fused gang (R285), or at a `fuse` (R253, R339). -/
def State.waitsInside (s : State) (cid : Nat) : Bool :=
  (s.ctx cid).lineFuse.isSome || (s.gangOf cid).any fun i => (s.ctx i).svcWait.isSome

/-- Whether a victim of a pre-emption stops at this boundary (R221). -/
def State.stopsHere (s : State) (cid : Nat) : Bool :=
  let c := s.ctx cid
  c.preempt && decide (c.r.flight.length ≤ 48) && (c.traps.isEmpty || c.r.inHandler) && c.hTraps.isEmpty
    && (c.bun.nextSkip == 0 || s.waitsInside cid)

/-- Whether a context could issue, its next bundle given and no `wait` running (R219, R221, R232, R249, R253, R285). -/
def State.ctxReady (s : State) (cid : Nat) : Bool :=
  let c := s.ctx cid
  c.status == .running && c.svcWait.isNone && !c.yielding && c.barrier.isNone && c.lineFuse.isNone
    && !c.lineRejoin && c.dbgStop.isNone && !s.stopsHere cid
    && ((s.core (coreOf cid)).settle == 0 || s.governs cid)

/-- What a context's turn in this cycle is. -/
inductive Turn where
  | idle
  | issue (f : Fetch)
  /-- A bundle that issues at its stamp, which is now (R349). -/
  | stamped (f : Fetch)
  /-- The stamp has passed (R349). -/
  | late
  | trap (cause : BitVec 5) (addr : Nat)
  /-- A translation fault of the fetch, to be offered to the fault service (R285). -/
  | service (e : AFault)
deriving DecidableEq, Repr

/-- The frame time at which a deterministic context's bundle is to issue (R349). -/
def Ctx.stampTime (c : Ctx) (f : Fetch) : Nat := (c.r.frame + f.fs) * c.bind.frame + f.stamp

/-- The turn of a context whose gang, if fused, is ready (R66, R64, R232, R349). A `wait` that runs past the stamp of the
next bundle raises the overrun fault at that stamp (R106). -/
def State.turnOf (s : State) (cid : Nat) : Turn :=
  let c := s.ctx cid
  let k := s.core (coreOf cid)
  if !((s.gangOf cid).all s.ctxReady) then .idle
  else if k.cc < c.r.waitTo then
    match fetchAt s cid with
    | .bundle f =>
      if c.bind.det && !f.zero && !f.badHead && !c.bun.nextFree && decide (c.stampTime f ≤ c.r.frameTime) then .late else .idle
    | _ => .idle
  else
    match fetchAt s cid with
    | .illegal => .trap 1 0
    | .fault e => if e.trans then .service e else .trap 6 e.va
    | .bundle f =>
      let t := c.stampTime f
      if f.badHead then .trap 2 0
      else if c.bind.det && !f.zero && !c.bun.nextFree then
        if c.bind.frame ≤ f.stamp ∨ t < c.r.frameTime then .late
        else if c.r.frameTime < t then .idle
        else if k.settle ≠ 0 ∧ (!f.empty ∨ f.oppt k.op ≠ k.op) then .trap 8 0
        else .stamped f
      else if k.settle ≠ 0 ∧ (!f.empty ∨ f.oppt k.op ≠ k.op) then .trap 8 0
      else .issue f

/-! ### What has to happen before the next issue -/

/-- Landings and pushes of this cycle that have not happened yet. -/
def State.landsNow (s : State) (cid : Nat) : Bool :=
  (s.dueResult cid).isSome || (s.dueReq cid).isSome || (s.dueWord cid).isSome || decide (0 < (s.ctx cid).r.rngDue)

/-- A context as it would stand at this cc: a resumed one's remaining offsets count from here (R223). -/
def State.rebased (s : State) (cid : Nat) : State := if (s.ctx cid).resumed then s.rebase cid else s

/-- Whether two bundles conflict in the merge stage (R84, R219). -/
def State.conflict (s : State) (a b : Nat) (fa fb : Fetch) : Bool :=
  let k := s.core (coreOf a)
  let t := (s.rebased a).rebased b
  let busy (other : Nat) (f : Fetch) : Bool := f.occupied 5 && decide (k.cc < (t.ctx other).r.fUntil)
  ((List.range 10).any fun n => fa.slot n != 0 && fb.slot n != 0) || decide (2048 < fa.vBits + fb.vBits)
    || busy b fa || busy a fb || fa.hold || fb.hold

/-- Whether this cycle is one in which the context's next bundle would issue: the merge stage chooses it (R219, R366). -/
def State.chosen (s : State) (cid : Nat) : Bool :=
  let a := 2 * coreOf cid
  match s.turnOf a, s.turnOf (a + 1) with
  | .issue fa, .issue fb =>
    if slotOf cid = 0 then !(s.core (coreOf cid)).forced
    else (s.core (coreOf cid)).forced || !s.conflict a (a + 1) fa fb
  | ta, tb => (if slotOf cid = 0 then ta else tb) != .idle

/-- A trap waits that the context can take at its next boundary (R224, R227). -/
def Ctx.trapWaits (c : Ctx) : Bool := (!c.hTraps.isEmpty || (!c.traps.isEmpty && !c.r.inHandler)) && c.bun.nextSkip == 0

/-- The first miss of the clock domain of a context whose freeze or overrun is due (R284). -/
def State.missOf (s : State) (cid : Nat) : Option Miss :=
  (s.gangOf (2 * coreOf cid)).findSome? fun i => s.stalled (coreOf i)

/-- Whether a freeze in front of a bundle is under way in the clock domain of a context (R76, R284). -/
def State.freezing (s : State) (cid : Nat) : Bool :=
  (s.gangOf (2 * coreOf cid)).any (fun i => (s.core (coreOf i)).freezing.isSome) || (s.missOf cid).isSome

/-- A trap that the context takes now, in place of its next issue (R224, R366). -/
def State.trapDue (s : State) (cid : Nat) : Bool := (s.ctx cid).trapWaits && !s.freezing cid && s.chosen cid

/-- A checkpoint that is taken at this boundary (R228): no trap is being taken, which one that waits for a handler's `eret`
is not. -/
def State.ckptDue (s : State) (cid : Nat) : Bool :=
  let c := s.ctx cid
  c.status == .running && c.ckWant && decide (c.r.flight.length ≤ 48) && (s.engCmds cid).isEmpty
    && (c.traps.isEmpty || c.r.inHandler) && c.hTraps.isEmpty && c.bun.nextSkip == 0

/-- Whether a `wait` has run out (R106); that of a stopped context counts no more (R237). -/
def State.waitOver (s : State) (cid : Nat) : Bool :=
  (s.ctx cid).status == .running && (s.ctx cid).r.waitTo != 0 && decide ((s.ctx cid).r.waitTo ≤ (s.core (coreOf cid)).cc)

/-- Whether a context stands between two bundles, or has not started. -/
def State.atBoundary (s : State) (cid : Nat) : Bool :=
  let c := s.ctx cid
  c.status == .bound || (c.status == .running && s.issueCores.isEmpty && c.bun.nextSkip == 0)

/-- Whether a deadline event of the context is to be acted on: it posts its trap at once, and abandons the task at a boundary;
a stopped context keeps it for its resumption (R344). -/
def State.deadlineDue (s : State) (cid : Nat) : Bool :=
  let c := s.ctx cid
  (c.r.dlEvent || c.abandoned) && (match c.status with
    | .running => (c.r.dlEvent && c.r.dlTrap) || s.atBoundary cid
    | .stopped => false
    | _ => true)

/-- Whether a step of the context at this boundary comes before the next issue of its core. -/
def State.boundaryDue (s : State) (cid : Nat) : Bool :=
  let c := s.ctx cid
  s.landsNow cid || s.deadlineDue cid || s.waitOver cid || s.trapDue cid || s.ckptDue cid || s.unprotDue cid
    || (c.status == .running && s.stopsHere cid)

/-- The cores that a core's cycle takes along: those of the fused gang it leads; none for a member it does not lead. The
members of a gang that a pre-emption has stopped drain one by one. -/
def State.domain (s : State) (core : Nat) : List Nat :=
  let c := s.ctx (2 * core)
  if c.fused && c.bind.gang && c.status != .stopped then
    if c.bind.leader = 2 * core then (s.gangOf (2 * core)).map coreOf else []
  else [core]

/-- The contexts of a core whose clock runs for them: those with a task, running or not (R221, R235, R344). -/
def clockedCtxs (s : State) (l : Nat) : List Nat := liveCtxs s l ++ boundCtxs s l

/-- Whether a deterministic task comes before another one on the physical core that carries both: the one inside a frame goes
on to its end, then the lower frame comes, then the lower leader and core (R348; DESIGN CHOICE, log entry 30). -/
def turnBefore (a b : Nat × Ctx) : Bool :=
  let inside (x : Nat × Ctx) : Bool := x.2.r.frameTime % x.2.bind.frame != 0
  let frame (x : Nat × Ctx) : Nat := x.2.r.frameTime / x.2.bind.frame
  if inside a ≠ inside b then inside a
  else if frame a ≠ frame b then decide (frame a < frame b)
  else if a.2.bind.leader ≠ b.2.bind.leader then decide (a.2.bind.leader < b.2.bind.leader)
  else decide (a.1 ≤ b.1)

/-- Whether a deterministic task has its turn: on the physical core of each member of its fused gang it comes before every other
running one. The others stand at a frame boundary, saved on that core, and no time of theirs passes (R348, R349). -/
def State.hasTurn (s : State) (cid : Nat) : Bool :=
  (s.gangOf cid).all fun i => s.ctxs.all fun x =>
    !(x.2.status == .running && x.2.bind.det && s.hub.physOf (coreOf x.1) == s.hub.physOf (coreOf i))
      || turnBefore (i, s.ctx i) x

/-- Whether a deterministic task's clock domain waits: it has no turn on its physical core, or it is ahead of another task of its
node, by a frame or, of one that has its turn, in frame time, since what one of them does to another is timed in frame time
(R348, R349; DEDUCED, log entry 70). A victim goes on to its boundary. -/
def State.detAhead (s : State) (cid : Nat) : Bool :=
  let c := s.ctx cid
  let t := c.r.frameTime
  c.status == .running && c.bind.det && (!s.hasTurn cid || (!c.preempt &&
    ((s.detRunning cid).any (fun x => decide (x.2.r.frameTime / c.bind.frame < t / c.bind.frame)
        || (decide (x.2.r.frameTime < t) && s.hasTurn x.1))
      || (s.detSaved cid).any fun u => decide (u < t))))

/-- Whether the merge stage of a core chooses an issue now. -/
def State.mayIssue (s : State) (core : Nat) : Bool :=
  let d := s.domain core
  s.issue.isEmpty && s.issueCores.isEmpty && !d.isEmpty && !(clockedCtxs s core).isEmpty && (s.missOf (2 * core)).isNone
    && d.all fun l => (s.core l).settle != 1 && !(clockedCtxs s l).any s.boundaryDue && !(liveCtxs s l).any s.detAhead

/-! ### The end of a cycle -/

/-- A `trap` or `brk` of one member of a fused gang is taken by every member, and a `dcpl` of one decouples them all
(R254, R255). -/
def State.shareAfter (s : State) (ids : List Nat) : State :=
  ids.foldl (fun t i => t.modCtx i fun c =>
    let g := s.gangOf i
    { c with bun := { c.bun with aft := { c.bun.aft with
        trap := g.findSome? fun j => (s.ctx j).bun.aft.trap, dcpl := g.any fun j => (s.ctx j).bun.aft.dcpl } } }) s

/-- The freeze in front of a bundle is over. -/
def State.thaw (s : State) (cores : List Nat) : State := cores.foldl (fun s l => s.modCore l fun k => { k with freezing := none }) s

/-- A record of a context that waits is written, if nothing holds it (R210). -/
def State.issueSav (s : State) (cid : Nat) : State := if (s.ctx cid).savs.isEmpty then s else savPerform s cid

/-- The issue in progress is over: its records are written, its bundles complete and its cycle ends. Where a freeze came
before it and a trap has become due, the trap is taken in its place (R366). -/
def State.finishIssue (s : State) : State :=
  if s.issue.isEmpty && !s.issueCores.isEmpty then
    let t := s.rewind.thaw s.issueCores
    if s.issueCores.any (fun l => (s.core l).freezing.isSome) && s.issueCores.any (fun l => (liveCtxs t l).any t.trapDue) then t
    else
      let s := s.issuing.foldl State.issueSav (s.shareAfter s.issuing)
      let s := s.issuing.foldl State.completeBundle s
      { s.issueCores.foldl State.endCycle s with issuing := [], issueCores := [], before := none }
  else s

/-! ### Issue -/

/-- The slot classes of the sub-bundles at a current-limit level (R233). -/
def subBundles : Nat → List (List Nat)
  | 0 => [[0, 1, 2, 3, 4, 5, 6, 7, 8, 9]]
  | 1 => [[0, 1, 6, 7, 8, 5], [2, 3, 4, 9]]
  | 2 => [[0, 1, 6, 7, 8], [2, 3, 5], [4, 9]]
  | _ => [[0, 1], [2, 3, 4], [5], [6, 7], [8], [9]]

/-- The current-limit level in force at a logical core: that of the cluster whose physical core carries it (R353, R357). -/
def State.limitLevel (s : State) (l : Nat) : Nat :=
  let k := s.clu (clusterOf (s.hub.physOf l))
  max (k.lim % 4) (k.thr % 4)

/-- The stretch cycles of an issue: one for each sub-bundle after the first that has an occupied slot in the bundle as fetched
(R233). Slots that are done or that a trap cuts off count too (DESIGN CHOICE, log entry 86). -/
def stretchOf (level : Nat) (fs : List Fetch) : Nat :=
  ((subBundles level).filter fun g => g.any fun n => fs.any fun f => f.occupied n).length - 1

/-- Whether a comparator of the context stops a slot of the bundle at `pc`, and which (R234). -/
def Ctx.matching (c : Ctx) (pc : Word) (slot : Nat) : Option Nat :=
  (List.range 4).find? fun n => (c.brk.toList.getD n none).any fun b => b.1 == pc && b.2.getLsbD slot

/-- A bundle begins to issue in a context at cc `cc`, merged behind one of slot A or not (R219). -/
def Ctx.startBundle (c : Ctx) (pc : Word) (op cc : Nat) (merged : Bool) (f : Fetch) : Ctx :=
  let c := c.fixLinks (pc + BitVec.ofNat 64 f.len)
  let skip := c.bun.nextSkip
  let filled := (List.range 10).foldl (fun (m : BitVec 10) n =>
    if f.occupied n && !skip.getLsbD n && guardOn c.r (f.guard n) then m ||| (1 <<< n : BitVec 10) else m) c.bun.nextAft.filled
  { c with
    r := { c.r with pc := pc }
    bun := ⟨pc, f.len, if f.zero then 0 else f.head 12 3, f.stamp, f.oppt op, !f.zero && f.head 11 1 == 1,
      !f.zero && f.fs == 1, skip, f.laneTrap, c.bun.nextPass, { c.bun.nextAft with filled := filled }, cc + 1, c.seq, merged,
      f.word, f.zero, c.bun.nextRe, 0, After.none, false, none, none, false⟩ }

/-- The slots that a context issues of a bundle: those with bits, and those a comparator stops, but for the done ones. -/
def Ctx.slotWord (c : Ctx) (cid : Nat) (f : Fetch) (n : Nat) : Option SlotWord :=
  if c.bun.skip.getLsbD n then none
  else if f.slot n ≠ 0 ∨ (c.matching c.bun.pc n).isSome then some ⟨cid, n, f.slot n⟩
  else none

/-- The bundles of some contexts begin to issue, each with its fused gang: slot by slot, and within a slot by member. `base`
is the state to which a freeze goes back. -/
def State.startIssue (base s : State) (core : Nat) (fs : List (Nat × Fetch)) : State :=
  let cores := s.domain core
  let level := (cores.map s.limitLevel).foldl max 0
  let st := stretchOf level (fs.map (·.2))
  let start (s : State) (x : Nat × Fetch) : State :=
    let pc := (s.ctx (s.fetcher x.1)).r.pc
    let s := s.noteSpan 0 (s.fetcher x.1) (2 * pc.toNat % 2 ^ 64) (2 * x.2.len)
    (s.gangOf x.1).foldl (fun s i => s.modCtx i fun c =>
      c.startBundle pc (s.core core).op (s.core (coreOf i)).cc (slotOf i == 1 && decide (1 < fs.length)) x.2) s
  let t := fs.foldl start s
  let want := match fs.find? fun x => s.governs x.1 with
    | some x => x.2.oppt (s.core core).op
    | none => (s.core core).op
  let t := cores.foldl (fun t l => t.modCore l fun k => { k with stretch := st, want := want }) t
  { t with
    issue := fs.flatMap fun x => (List.range 10).flatMap fun n =>
      (t.gangOf x.1).filterMap fun i => (t.ctx i).slotWord i x.2 n
    issuing := fs.flatMap fun x => t.gangOf x.1
    issueCores := cores
    before := some ⟨base.ctxs, base.cores, base.clus, base.dies, base.hub⟩ }

/-- The chosen contexts issue. The remaining offsets of one that has been resumed and has not issued since count from this
cc, and what is due now lands first (R223). -/
def State.issueOf (base s : State) (core : Nat) (fs : List (Nat × Fetch)) : State :=
  match (fs.flatMap fun x => base.gangOf x.1).filter fun i => (base.ctx i).resumed with
  | [] => base.startIssue s core fs
  | l => l.foldl State.rebase base

/-- A ready context does not issue in this cycle (R235). -/
def State.mergeLoss (s : State) (cid : Nat) : State := s.modRegs cid fun r => r.countLevel 0xE

/-- The merge state after a choice (R219). -/
def State.setMerge (s : State) (core : Nat) (forced : Bool) (blocked : Nat) : State :=
  s.modCore core fun k => { k with forced := forced || blocked == 64, blocked := blocked }

/-- A fetch fault goes to the fault service, and the context waits (R66, R285). -/
def State.fetchFault (s : State) (cid : Nat) (e : AFault) : State :=
  (((s.modCtx cid fun c => { c with svcWait := some (fetchSlot, e.va) }).noteMiss 0 cid e.va).postFault cid 0 .fetch 0 e)

/-- A trap that a bundle raises before any slot issues (R64, R66, R225, R232): all but cause 8 are boundary traps. A bundle in
a settle window traps at issue, so a resumed one keeps its done slots. -/
def State.fetchTrap (s : State) (cid : Nat) (t : TrapInfo) : State :=
  if t.cause = 8 then s.resumedTrap cid t else s.placeTrap cid t

/-- What the merge stage chooses (R219). -/
def mergeStage (s : State) (core : Nat) (ta tb : Turn) : State :=
  let a := 2 * core
  let b := 2 * core + 1
  let k := s.core core
  match ta, tb with
  | .issue fa, .issue fb =>
    if k.forced then s.issueOf ((s.setMerge core false 0).mergeLoss a) core [(b, fb)]
    else if s.conflict a b fa fb then s.issueOf ((s.setMerge core false (k.blocked + 1)).mergeLoss b) core [(a, fa)]
    else s.issueOf (s.setMerge core false 0) core [(a, fa), (b, fb)]
  | .issue fa, _ => s.issueOf s core [(a, fa)]
  | _, .issue fb => s.issueOf (s.setMerge core false 0) core [(b, fb)]
  | _, _ => s.idleCycle (s.domain core)

/-- Whether a cycle of a core is one that a miss beyond the walker's queue freezes, or in which its overrun is raised (R284). -/
def State.missCycle (s : State) (core : Nat) : Option Miss :=
  if s.issue.isEmpty && s.issueCores.isEmpty && !(s.domain core).isEmpty && !(s.domain core).any fun l =>
      (clockedCtxs s l).any s.landsNow then s.missOf (2 * core) else none

/-- R284: a miss beyond the walker's queue freezes the clock domain of its core for a cycle, or raises the overrun fault in
deterministic operation. -/
def State.missStep (s : State) (core : Nat) (m : Miss) : State :=
  if (s.ctx m.cid).bind.det then
    let go (x : Miss) : Miss := if x = m then { x with late := true } else x
    (s.modCore (coreOf m.cid) fun k => { k with misses := k.misses.map go }).modCtx m.cid fun c =>
      c.postTrap ⟨7, m.slot, 0, 0, 0⟩
  else s.freezeCores (2 * core) none

/-- R219: the merge stage of a core chooses what issues in this cycle; the slots of the choice then issue one by one. A
fetch that cannot give a bundle traps or waits, and a bundle that issues at its stamp is left to `DET_STAMP_ISSUE`. -/
def execBundleIssue (core : Nat) (s : State) : Host.Outcome State Fault Refusal :=
  if let some m := s.missCycle core then .next (s.missStep core m)
  else if !s.mayIssue core then .next s
  else
    match s.turnOf (2 * core), s.turnOf (2 * core + 1) with
    | .stamped _, _ => .next s
    | .late, _ => .next s
    | .trap c va, _ => .next (s.fetchTrap (2 * core) ⟨c, 0, 0, 0, va⟩)
    | .service e, _ => .next (s.fetchFault (2 * core) e)
    | _, .trap c va => .next (s.fetchTrap (2 * core + 1) ⟨c, 0, 0, 0, va⟩)
    | _, .service e => .next (s.fetchFault (2 * core + 1) e)
    | ta, tb => .next (mergeStage s core ta tb).finishIssue

/-- R349: a deterministic context's bundle issues at its stamp, or the stamp has passed and the overrun fault is
raised. -/
def execDetStampIssue (cid : Nat) (s : State) : Host.Outcome State Fault Refusal :=
  if !s.mayIssue (coreOf cid) then .next s
  else
    match s.turnOf cid with
    | .stamped f => .next (s.issueOf s (coreOf cid) [(cid, f)]).finishIssue
    | .late => .next (s.placeTrap cid ⟨7, 0, 0, 0, 0⟩)
    | _ => .next s

/-- R65: an empty bundle issues. -/
def execEmptyBundle (cid : Nat) (s : State) : Host.Outcome State Fault Refusal :=
  match s.turnOf cid with
  | .issue f => if f.empty then execBundleIssue (coreOf cid) s else .next s
  | .stamped f => if f.empty then execDetStampIssue cid s else .next s
  | _ => .next s

/-- R232: the settle window ends. -/
def execSettleWindowEnd (core : Nat) (s : State) : Host.Outcome State Fault Refusal :=
  eventRun ((s.core core).settle == 1) s (s.modCore core fun k => { k with settle := 0 })

/-- R106: the wait is over. -/
def execWaitExpiry (cid : Nat) (s : State) : Host.Outcome State Fault Refusal :=
  eventRun (s.waitOver cid) s (s.modRegs cid fun r => { r with waitTo := 0, waited := r.waitTo })

/-- R52, R53: the generator pushes a word. -/
def execRngPush (cid : Nat) (s : State) : Host.Outcome State Fault Refusal :=
  eventRun (decide (0 < (s.ctx cid).r.rngDue)) s (s.modRegs cid fun r => { r.rngStep with rngDue := r.rngDue - 1 })

/-! ### Dictionary loads (R100, R101) -/

/-- The entries of the dictionary group at an address: its count, and the entries where R101 allows the count. -/
def dictRead (s : State) (cid : Nat) (a : Nat) : Except AFault (Nat × List (BitVec 384)) :=
  let rd (va n : Nat) : Except AFault (List Byte) :=
    match locateAll s cid .read va n with
    | .error e => .error e
    | .ok ls => .ok (s.readKeys (coreOf cid) 3 (ls.map (·.key)))
  match rd a 16 with
  | .error e => .error e
  | .ok h =>
    let n := slice h 0 4
    if n = 0 ∨ 1023 < n then .ok (n, [])
    else
      match mapE (fun i => rd (a + 16 + 48 * i) 48) (List.range n) with
      | .error e => .error e
      | .ok es => .ok (n, es.map fun b => BitVec.ofNat 384 (leNat b))

/-- The bank that is not current takes a group (R68, R100). -/
def Regs.fillDict (r : Regs) (b : DictBank) : Regs := if r.curBank then { r with bank0 := b } else { r with bank1 := b }

/-- A dictionary load ends with a fault (R101); in a task that ends it is a failed item of its work (R108). -/
def Ctx.dictFault (c : Ctx) (cause va : Nat) : Ctx :=
  let c := { c with r := { c.r with dictLoad := .faulted cause va false } }
  if c.status == .ending then c.dictUnmet else c

/-- R100: a dictionary load ends; a translation fault goes to the fault service first (R285). -/
def execDictLoadEnd (cid : Nat) (s : State) : Host.Outcome State Fault Refusal :=
  let c := s.ctx cid
  if c.r.dictLoad ≠ .running ∨ s.svcWaits cid 6 then .next s
  else
    match dictRead s cid c.r.dictAddr.toNat with
    | .error e =>
      if e.trans then .next ((s.noteMiss 0 cid e.va).postFault cid 6 .read 0 e)
      else .next (s.modCtx cid fun c => c.dictFault 6 e.va)
    | .ok (n, es) => .next ((s.noteSpan 0 cid c.r.dictAddr.toNat (16 + 48 * es.length)).modRegs cid fun r => { r.fillDict ⟨r.dictAddr, es⟩ with dictLoad := .loaded n })

/-! ### Boundary traps, deadlines and checkpoints -/

/-- The trap a context takes at a boundary: the oldest (R224). A deadline's names slot 9 while an operation is held
(R380). -/
def trapInfo (s : State) (cid : Nat) (t : BoundaryTrap) : TrapInfo :=
  ⟨BitVec.ofNat 5 t.cause, if t.cause = 10 then (if (s.heldOp cid).isSome then 9 else 0) else t.slot, t.flags, t.code, t.addr⟩

/-- The trap of the hold of an operation enters its handler (R186, R380). -/
def State.enterHold (s : State) (cid : Nat) (t : TrapInfo) : State :=
  if t.slot = 9 ∧ (t.cause = 9 ∨ t.cause = 10) then
    s.modCore (coreOf cid) fun k => { k with heldOps := k.heldOps.map fun o =>
      if o.cmd.cid = cid then { o with entered := true } else o }
  else s

/-- The pending trap of the lowest slot among some contexts, and among equal slots that of the first of them (R254). -/
def firstTrap (s : State) (f : Ctx → List BoundaryTrap) : List Nat → Option (Nat × BoundaryTrap)
  | [] => none
  | i :: is =>
    match (f (s.ctx i)).head?, firstTrap s f is with
    | none, r => r
    | some t, some r => if (trapInfo s r.1 r.2).slot < (trapInfo s i t).slot then some r else some (i, t)
    | some t, none => some (i, t)

/-- R224, R227, R254, R366: a pending trap is taken in place of the bundle's issue, by every member of a fused gang; one
that arose in a handler is fatal. -/
def execTrapAtBoundary (cid : Nat) (s : State) : Host.Outcome State Fault Refusal :=
  if !(s.issueCores.isEmpty && !(s.clockCtxs cid).any s.landsNow && s.trapDue cid) then .next s
  else
    let g := s.gangOf cid
    match firstTrap s Ctx.hTraps g, firstTrap s Ctx.traps g with
    | some (_, t), _ =>
      .next (g.foldl (fun s i => s.modCtx i fun c => { c with hTraps := [] }.fail t.cause t.slot t.addr c.r.pc) s)
    | none, some (j, t) =>
      let ti := trapInfo s j t
      let s := s.modCtx j fun c => { c with traps := c.traps.drop 1 }
      .next ((g.foldl (fun s i => s.enterHold i ti) s).placeTrap cid ti)
    | none, none => .next s

/-- The task is abandoned: it stops at this boundary and drains; no trap is recorded with it (R342, R344). -/
def Ctx.abandon (c : Ctx) : Ctx :=
  { c with status := .ending, traps := [], hTraps := [], abandoned := false,
           endInfo := some ⟨4, 10, 0, false, 0, c.r.pc⟩ }

/-- A context of an abandoned task stops here, or at its next boundary. -/
def State.abandonAt (s t : State) (cid : Nat) : State :=
  t.modCtx cid fun c => if s.atBoundary cid then c.abandon else { c with abandoned := true }

/-- The saved images of a task that is being abandoned: each stops at the boundary at which it resumes (R339, R344). -/
def State.abandonSaved (s : State) (b : Binding) : State :=
  let go (x : Saved) : Saved := if x.ctx.bind.sameTask b then { x with ctx := { x.ctx with abandoned := true } } else x
  s.modPart b.part fun p => { p with saved := p.saved.map go }

/-- R344: the deadline event traps, or abandons the task, also one that is bound and has not started; each context of the
task stops at its own boundary. -/
def execDeadlineEvent (cid : Nat) (s : State) : Host.Outcome State Fault Refusal :=
  let c := s.ctx cid
  if !s.deadlineDue cid then .next s
  else
    let t := s.modCtx cid fun c => { c with abandoned := false, r := { c.r with dlEvent := false } }
    if c.status ≠ .running ∧ c.status ≠ .bound then .next t
    else if c.r.dlEvent && c.r.dlTrap && !c.abandoned then .next (t.modCtx cid fun c => c.postTrap ⟨10, 0, 0, 0, 0⟩)
    else .next ((s.members cid).foldl (State.abandonAt s) (t.abandonSaved c.bind))

/-- The interval of a context that begins at a checkpoint (R228). -/
def State.newInterval (s : State) (cid : Nat) : State :=
  s.modCtx cid fun c =>
    { c with ckpt := some ⟨c.r, s.bankFmts cid, c.links, (s.core (coreOf cid)).cc⟩,
             ival := ⟨[], c.seq, [], [], [], 0, false, 0⟩, ckWant := false }

/-- R228: the checkpoint is taken, which commits the previous interval. -/
def execCheckpointTake (cid : Nat) (s : State) : Host.Outcome State Fault Refusal :=
  eventRun (s.ckptDue cid && s.issueCores.isEmpty) s (s.newInterval cid)

/-- R229: the interval becomes unprotected. -/
def execIntervalUnprotected (cid : Nat) (s : State) : Host.Outcome State Fault Refusal :=
  eventRun (s.unprotDue cid) s (s.modCtx cid Ctx.unprotect)

end Sys2Proof.Machine
end

