-- ==== Sys2Proof/Machine/Graph.lean ====
section
/-! DEFINITION. Task graphs: what the scheduler reads and checks before it starts one (R25, R26, R330 to R334, R378,
R384), the records it writes (R341 to R343, R382), and where tile tasks may bind (R217, R248, R252, R278, R288, R338,
R348). -/

namespace Sys2Proof.Machine

/-! ### The hub's accesses through a partition's root directory (R280, R372, R382) -/

/-- The page of a hub access. -/
def hubPage (s : State) (part : Nat) (perm : Perm) (va : Nat) : Except AFault Page :=
  if !isTranslated va ∨ (va / 2 ^ 56 ≠ 0 ∧ va / 2 ^ 56 ≠ 255) then .error ⟨false, va, 0, 0⟩
  else
    match walk s part va with
    | .page p e => if p.allows perm then .ok p else .error ⟨false, va, p.level, e⟩
    | .transFault l e => .error ⟨true, va, l, e⟩
    | .accessFault l e => .error ⟨false, va, l, e⟩

/-- The key of a byte the hub reaches; a read of a poisoned granule faults. -/
def hubKey (s : State) (part : Nat) (perm : Perm) (va : Nat) : Except AFault Nat :=
  match hubPage s part perm va with
  | .error e => .error e
  | .ok p =>
    let k := p.key + (va % 2 ^ 57 - p.base)
    if perm != .write && s.poisoned k then .error ⟨false, va, 0, 0⟩ else .ok k

/-- The keys of `n` bytes. -/
def hubKeys (s : State) (part : Nat) (perm : Perm) (va n : Nat) : Except AFault (List Nat) :=
  mapE (fun i => hubKey s part perm ((va + i) % 2 ^ 64)) (List.range n)

/-- Bytes that the scheduler reads at a scope: package scope (R334), or system scope for a host's launch (R371). -/
def hubRead (s : State) (part scope va n : Nat) : Except AFault (List Byte) :=
  match hubKeys s part .read va n with
  | .error e => .error e
  | .ok ks => .ok (s.readKeys 0 scope ks)

/-- Whether a range translates with a permission, poisoned or not (R334, R382). -/
def hubAllows (s : State) (part : Nat) (perm : Perm) (va n : Nat) : Bool :=
  (mapE (fun i => hubPage s part perm ((va + i) % 2 ^ 64)) (List.range n)).isOk

/-- The writer of a partition's record writes that wait in the bridge. -/
def hubCid (part : Nat) : Nat := 2 ^ 40 + part

/-- Whether a bridge entry is a record write of the schedulers. -/
def BufWrite.ofHub (w : BufWrite) : Bool := decide (2 ^ 40 ≤ w.cid)

/-- The number by which the record writes of a node are known in the bridge. -/
def recSeq (launch node : Nat) : Nat := launch * 65536 + node

/-- A write leaves the package buffer: it is in memory, or with the bridge (R322 step 3). -/
def State.leavePkg (s : State) (w : BufWrite) : State :=
  if w.host then s.modHub fun h => { h with bridge := h.bridge ++ [w] } else s.putCells w.cells

/-- The writes of the package buffer up to the last one that touches some keys move on, so that a write behind them keeps the
order of its address (R322 step 2). -/
def State.drainPkg (s : State) (ks : List Nat) : State :=
  let b := s.hub.pkgBuf
  let keep := (b.reverse.takeWhile fun w => !(w.cells.any fun c => ks.contains c.1)).length
  (b.take (b.length - keep)).foldl State.leavePkg (s.modHub fun h => { h with pkgBuf := b.drop (b.length - keep) })

/-- A write of the scheduler, at system scope (R342): into memory, or to the bridge for a page of host or peer memory (R373),
there as class 10. Where it faults it is dropped and logged, and the answer is
false (R382). -/
def hubWrite (s : State) (part seq va : Nat) (bs : List Byte) : State × Bool :=
  match hubKeys s part .write va bs.length with
  | .error _ => (s.logError part errRecord va, false)
  | .ok ks =>
    let s := s.drainPkg ks
    let w : BufWrite := ⟨hubCid part, 10, seq, 4, 0, true, ks.zip bs⟩
    (if ks.any remoteKey then s.modHub fun h => { h with bridge := h.bridge ++ [w] } else s.putCells w.cells, true)

/-- Whether record writes of a node have not been acknowledged. -/
def recPending (s : State) (part launch node : Nat) : Bool :=
  s.hub.bridge.any fun w => w.cid == hubCid part && w.seq == recSeq launch node

/-- The launch number of the started graph of a queue. -/
def launchOf (s : State) (part q : Nat) : Nat := (((s.part part).queues.toList.getD q []).head?.map (·.seq)).getD 0

/-! ### Kernels (R25, R26, R384) -/

/-- The T slots of bundles given as bytes (R63), of those that are not disabled for good (R69). -/
def tOps (bs : List Byte) : List Nat :=
  let w := leNat (bs.take 5)
  if w / 2 ^ 35 = 16 then [] else [w]

/-- Literal bundles of an index stream (R66). -/
def literals : Nat → List Byte → List (List Byte)
  | 0, _ => []
  | n + 1, bs =>
    match bs with
    | [] => []
    | _ => if slice bs 0 2 = 0xFFFF then ((bs.drop 2).take 48) :: literals n (bs.drop 50) else literals n (bs.drop 2)

/-- The entries of the dictionary groups from an offset on, up to a group that is another kernel's first (R24, R25). -/
def groupEntries (sec : List Byte) (others : List Nat) : Nat → Nat → List (List Byte)
  | 0, _ => []
  | fuel + 1, o =>
    let n := slice sec o 4
    if sec.length ≤ o ∨ others.contains (slice sec (o + 4) 4) then []
    else ((List.range (min n 1023)).map fun i => (sec.drop (o + 16 + 48 * i)).take 48)
      ++ groupEntries sec others fuel ((o + 16 + 48 * n + 63) / 64 * 64)

/-- Offset and size of a section (R25). -/
def secOf (img : List Byte) (n : Nat) : Nat × Nat := (slice img (16 + 16 * n) 8, slice img (24 + 16 * n) 8)

/-- The alignment of a section (R25). -/
def secAlign (n : Nat) : Nat := [64, 2, 64, 16, 64, 64, 16, 8].getD n 1

/-- Whether two sections stand in their order; an empty one has no place (R25). -/
def secBefore (img : List Byte) (m n : Nat) : Bool :=
  let a := secOf img m
  let b := secOf img n
  a.2 == 0 || b.2 == 0 || decide (a.1 + a.2 ≤ b.1)

/-- Whether an image has the shape of R25: its magic, its reserved bytes, and sections in order, aligned and inside it. That
a breach of any of these is cause 3 of R334 is a DESIGN CHOICE (log entry 65). -/
def imageShape (img : List Byte) : Bool :=
  slice img 0 4 == 0x01464C4E && slice img 4 4 == 0 && decide (4771 ≤ (secOf img 0).2) && (secOf img 0).1 == 0
    && (List.range 8).all fun n => decide ((secOf img n).1 + (secOf img n).2 ≤ img.length)
      && ((secOf img n).2 == 0 || (secOf img n).1 % secAlign n == 0) && (List.range n).all fun m => secBefore img m n

/-- An image at an address, whole; none where it is not one (R25, R334). An image that cannot be read is cause 3, a DESIGN
CHOICE (log entry 65). -/
def readNoluf (s : State) (part scope va : Nat) : Option (List Byte) :=
  if va % 64 ≠ 0 then none
  else
    match hubRead s part scope (va + 8) 8 with
    | .error _ => none
    | .ok h =>
      match hubRead s part scope va (leNat h) with
      | .error _ => none
      | .ok img => if img.length < 4771 || !imageShape img then none else some img

/-- Whether the launch policy accepts an image (R378). -/
def policyAccepts (p : Part) (img : List Byte) : Bool :=
  let sig := leNat ((img.drop 144).take 4627)
  let msg := Config.sha3 (img.drop 4771)
  p.keys.any (fun k => Config.sigVerifies k msg sig) || (!p.require && sig == 0)

/-- Whether an entry of the symbols section is that of a kernel record (R384): a kernel in section 1 with the record's
code, and a name in the section. -/
def symbolOk (img r : List Byte) : Bool :=
  let sec := (img.drop (secOf img 7).1).take (secOf img 7).2
  let c := slice sec 0 8
  let e := (sec.drop (8 + 24 * slice r 0 4)).take 24
  decide (8 + 24 * c ≤ sec.length) && decide (slice r 0 4 < c) && slice e 4 1 == 1 && slice e 5 1 == 1 && slice e 6 2 == 0
    && slice e 8 8 == slice r 4 4 && slice e 16 8 == 2 * slice r 8 4 && decide (8 + 24 * c ≤ slice e 0 4)
    && (sec.drop (slice e 0 4)).contains 0

/-- Whether a buffer entry of a plan keeps R26: a used bank with its format, and bytes and live bundles in range. -/
def bufferOk (plan e : List Byte) : Bool :=
  let bank := slice e 0 1
  decide (bank < 16) && slice e 1 1 == slice plan bank 1 && slice e 1 1 != 0xFF && slice e 2 2 == 0
    && decide (1 ≤ slice e 6 2) && decide (slice e 4 2 + slice e 6 2 ≤ 16384) && decide (slice e 8 4 ≤ slice e 12 4)

/-- Whether a kernel record keeps R384, and its plan R26; `plan` holds the bank formats and the buffer entries. Which
breaches make a record invalid is a DESIGN CHOICE (log entry 65). -/
def recordOk (img r plan : List Byte) : Bool :=
  let det := slice r 30 1
  symbolOk img r && slice r 4 4 % 2 == 0 && decide (slice r 4 4 + 2 * slice r 8 4 ≤ (secOf img 1).2)
    && slice r 16 4 % 64 == 0 && decide (slice r 16 4 + 16 ≤ (secOf img 2).2)
    && slice img ((secOf img 2).1 + slice r 16 4 + 4) 4 == slice r 12 4
    && slice r 24 4 % 16 == 0 && decide (slice r 24 4 + 16 + 16 * slice r 28 2 ≤ (secOf img 3).2)
    && decide (det ≤ 1) && slice r 31 1 == 0 && zeros ((r.drop 36).take 28)
    && (if det = 1 then decide (1 ≤ slice r 32 2) && decide (slice r 32 2 ≤ 16384) else slice r 32 2 == 0)
    && decide (1 ≤ slice r 34 1) && decide (slice r 34 1 ≤ 8) && decide (1 ≤ slice r 35 1) && decide (slice r 35 1 ≤ 8)
    && (plan.take 16).all (fun b => b == 0xFF || fmtListed b.toNat)
    && (List.range (slice r 28 2)).all fun i => bufferOk plan ((plan.drop (16 + 16 * i)).take 16)

/-- A kernel of an image at `va`, with the T slots of its bundles. -/
def kernelOf (img : List Byte) (va k : Nat) : Option (Kernel × List Nat) :=
  let count := ((secOf img 0).2 - 4771) / 64
  let rec' (i : Nat) : List Byte := (img.drop (4771 + 64 * i)).take 64
  let r := rec' k
  let plan := (img.drop ((secOf img 3).1 + slice r 24 4)).take (16 + 16 * slice r 28 2)
  if count ≤ k ∨ !recordOk img r plan then none
  else
    let code := (img.drop ((secOf img 1).1 + slice r 4 4)).take (2 * slice r 8 4)
    let sec2 := (img.drop (secOf img 2).1).take (secOf img 2).2
    let others := ((List.range count).map fun i => slice (rec' i) 12 4).filter fun g => g != slice r 12 4
    let ops := (groupEntries sec2 others 65536 (slice r 16 4) ++ literals (slice r 8 4) code).flatMap tOps
    some (⟨(va + (secOf img 1).1 + slice r 4 4) / 2, va + (secOf img 2).1 + slice r 16 4, (plan.take 16).map (·.toNat),
      slice r 30 1 == 1, slice r 32 2, slice r 34 1, slice r 35 1, ops.any fun w => fieldN w 28 7 == 0x1B⟩, ops)

/-! ### The checks of a graph (R334) -/

/-- A flag of a node (R332). -/
def NodeEnt.flag (e : NodeEnt) (b : Nat) : Bool := e.flags.testBit b
/-- CORES. -/
def NodeEnt.cores (e : NodeEnt) : Bool := e.flag 0
/-- DET. -/
def NodeEnt.det (e : NodeEnt) : Bool := e.flag 1
/-- Whether a node binds under a reservation (R338). -/
def NodeEnt.reserves (e : NodeEnt) : Bool := e.cores || e.det

/-- Whether its tasks take whole cores: deterministic or gang tasks (R217, R252). -/
def NodeEnt.sole (e : NodeEnt) : Bool := e.det || decide (1 < e.kern.gangW * e.kern.gangH)

/-- The number of gangs in one 4-cluster block (R348). -/
def Kernel.perBlock (k : Kernel) : Nat := 8 / k.gangW * (8 / k.gangH)

/-- The successors that a node entry names (R331). -/
def succsOf (b succ : List Byte) : List Nat :=
  (List.range (slice b 24 2)).map fun i => slice succ (4 * (slice b 20 4 + i)) 4

/-- Cause 1 for a node entry. -/
def nodeBad1 (s : State) (part : Nat) (b : List Byte) (ns cap : Nat) : Bool :=
  decide (64 ≤ slice b 10 2) || slice b 12 2 == 0 || slice b 14 2 == 0 || slice b 16 2 == 0 || decide (3 < slice b 26 1)
    || !zeros ((b.drop 28).take 4) || !zeros ((b.drop 56).take 72) || decide (ns < slice b 20 4 + slice b 24 2)
    || slice b 48 8 % 64 != 0 || !hubAllows s part .readWrite (slice b 48 8) (64 + 32 * cap)

/-- CAP of a node's completion record, as read at the start of the graph (R341, R382). -/
def capOf (s : State) (part scope : Nat) (b : List Byte) : Nat :=
  match hubRead s part scope (slice b 48 8 + 20) 4 with
  | .ok c => leNat c
  | .error _ => 0

/-- The nodes that some nodes lead to, themselves among them, in up to `n` rounds. -/
def reachFrom (succs : List (List Nat)) : Nat → List Nat → List Nat
  | 0, l => l
  | n + 1, l =>
    let new := ((l.flatMap fun i => succs.getD i []).filter fun j => !l.contains j).dedup
    if new.isEmpty then l else reachFrom succs n (l ++ new)

/-- Whether a node lies on a cycle. -/
def onCycle (succs : List (List Nat)) (i : Nat) : Bool := (reachFrom succs succs.length (succs.getD i [])).contains i

/-- Cause 2 for a node: a bad index, too many incoming edges, or a place in a cycle. -/
def nodeBad2 (succs : List (List Nat)) (nn i deps : Nat) : Bool :=
  (succs.getD i []).any (fun j => decide (nn ≤ j))
    || decide (deps < (succs.map fun l => (l.filter fun j => j == i).length).sum) || onCycle succs i

/-- Cause 4: too many logical cores, or a deterministic node outside the shape (R348). -/
def nodeBad4 (k : Kernel) (b : List Byte) : Bool :=
  let tiles := slice b 12 2 * slice b 14 2 * slice b 16 2
  ((slice b 10 2).testBit 0 && decide (256 < tiles * k.gangW * k.gangH))
    || ((slice b 10 2).testBit 1 && decide (64 ≤ (tiles - 1) / k.perBlock))

/-- Cause 6: what a deterministic queue refuses. -/
def nodeBad6 (ops : List Nat) (b : List Byte) : Bool :=
  let fmt := slice b 27 1
  ((slice b 10 2).testBit 4 && (decide (fmt ≤ 3) || (decide (0x22 ≤ fmt) && decide (fmt ≤ 0x28))))
    || (slice b 10 2).testBit 5
    || ops.any fun w => fieldN w 28 7 == 0x48 || fieldN w 28 7 == 0x49 || (fieldN w 28 7 == 0x39 && fieldN w 4 6 != 0)

/-- A node entry as the scheduler keeps it. -/
def mkEnt (k : Kernel) (b : List Byte) (succs : List Nat) (cap : Nat) : NodeEnt :=
  ⟨k, slice b 10 2, slice b 12 2, slice b 14 2, slice b 16 2, succs, slice b 32 8, slice b 40 8, slice b 48 8, cap⟩

/-- A node when its graph starts (R335). -/
def Node.start (e : NodeEnt) (deps cls ptb : Nat) : Node where
  ent := e
  state := if deps = 0 then .ready else .waiting
  deps := deps
  cls := cls
  since := ptb
  firstReady := ptb
  unbound := []
  live := 0
  zext := 0
  resv := none
  nDone := 0
  nFailed := 0
  nAband := 0
  nMigr := 0
  nEnt := 0
  nOvf := 0
  recFailed := false

/-- No such node. -/
def Node.none : Node :=
  Node.start ⟨⟨0, 0, [], false, 0, 1, 1, false⟩, 0, 0, 0, 0, [], 0, 0, 0, 0⟩ 0 0 0

/-- The first node of a list that fails a check, with the cause. -/
def firstBad (cause : Nat) (l : List Bool) : Option (Nat × Nat) := (l.findIdx? id).map fun i => (cause, i)

/-- The first of several answers. -/
def firstOf {α : Type} : List (Option α) → Option α
  | [] => none
  | some a :: _ => some a
  | none :: t => firstOf t

/-- The ranges of a graph header (R330); that a breach is cause 1, with no node to name, is a DESIGN CHOICE but for the
reserved bytes (log entry 65). -/
def headerOk (h : List Byte) : Bool :=
  decide (1 ≤ slice h 0 4) && decide (slice h 0 4 ≤ 65535) && decide (slice h 4 4 ≤ 2 ^ 20) && slice h 8 8 % 4 == 0
    && zeros (h.drop 16)

/-- The graph of a launch in a queue: its nodes, or the cause of its refusal and the first node that fails it (R334). -/
def checkGraph (s : State) (part queue : Nat) (l : Launch) : Except (Nat × Nat) (List Node) :=
  let none' : Nat := 0xFFFFFFFF
  match hubRead s part l.scope l.graph 64 with
  | .error _ => .error (7, none')
  | .ok h =>
    let nn := slice h 0 4
    let ns := slice h 4 4
    match mapE (fun i => hubRead s part l.scope (l.graph + 64 + 128 * i) 128) (List.range nn),
        hubRead s part l.scope (slice h 8 8) (4 * ns) with
    | .error _, _ => .error (7, none')
    | _, .error _ => .error (7, none')
    | .ok bs, .ok succ =>
      let caps := bs.map (capOf s part l.scope)
      let succs := bs.map fun b => succsOf b succ
      let imgs := bs.map fun b => readNoluf s part l.scope (slice b 0 8)
      let kerns := bs.zipWith (fun b (i : Option (List Byte)) => i.bind fun img =>
        if policyAccepts (s.part part) img then kernelOf img (slice b 0 8) (slice b 8 2) else none) imgs
      let det := decide (8 ≤ queue)
      let bad (f : Kernel × List Nat → List Byte → Bool) : List Bool :=
        bs.zipWith (fun b k => match k with
          | some k => f k b
          | none => false) kerns
      let checks : List (Option (Nat × Nat)) :=
        [ firstBad 1 (bs.zipWith (fun b c => nodeBad1 s part b ns c) caps),
          if headerOk h then none else some (1, none'),
          firstBad 2 ((List.range nn).map fun i => nodeBad2 succs nn i (slice (bs.getD i []) 18 2)),
          firstBad 3 (kerns.map Option.isNone),
          firstBad 4 (bad fun k b => nodeBad4 k.1 b),
          firstBad 5 (bad fun k b => (slice b 10 2).testBit 1 != det || (slice b 10 2).testBit 1 != k.1.det),
          if det then firstBad 6 (bad fun k b => nodeBad6 k.2 b) else none ]
      match firstOf checks with
      | some e => .error e
      | none =>
        .ok ((List.range nn).map fun i =>
          let b := bs.getD i []
          let k := match kerns.getD i none with
            | some k => k.1
            | none => Node.none.ent.kern
          Node.start (mkEnt k b (succs.getD i []) (caps.getD i 0)) (slice b 18 2)
            (l.ovr.getD (slice b 26 1)) s.hub.ptb)

/-! ### Queues and records (R333, R341 to R343) -/

/-- The launches of a queue. -/
def Part.queue (p : Part) (q : Nat) : List Launch := p.queues.toList.getD q []

/-- Replaces the launches of a queue. -/
def Part.setQueue (p : Part) (q : Nat) (l : List Launch) : Part :=
  if h : q < 16 then { p with queues := p.queues.set q l } else p

/-- The started graph of a queue. -/
def State.graph (s : State) (part q : Nat) : Option Launch := (s.part part).queue q |>.head?

/-- Changes the started graph of a queue. -/
def State.modGraph (s : State) (part q : Nat) (f : Launch → Launch) : State :=
  s.modPart part fun p => match p.queue q with
    | [] => p
    | l :: t => p.setQueue q (f l :: t)

/-- A node of the started graph of a queue. -/
def State.node (s : State) (part q n : Nat) : Node :=
  match s.graph part q with
  | some l => l.nodes.getD n Node.none
  | none => Node.none

/-- Changes a node. -/
def State.modNode (s : State) (part q n : Nat) (f : Node → Node) : State :=
  s.modGraph part q fun l => { l with nodes := l.nodes.modify n f }

/-- Adds 1 to a counter of a completion record: a fetch-add at memory (R341), or a split atomic of the bridge, which reads
the word and writes it when the remote side takes it (R375, log entry 78). Where it faults it is dropped and logged, and the
node is marked (R382). -/
def recAdd (s : State) (part q n o : Nat) : State :=
  let a := (s.node part q n).ent.crec + o
  match hubKeys s part .readWrite a 4 with
  | .error _ => (s.logError part errRecord a).modNode part q n fun x => { x with recFailed := true }
  | .ok ks =>
    let s := s.drainPkg ks
    if ks.any remoteKey then s.modHub fun h =>
      { h with bridge := h.bridge ++ [⟨hubCid part, 9, recSeq (launchOf s part q) n, 4, 0, true, ks.map fun k => (k, 0)⟩] }
    else s.putCells (ks.zip (leBytes 4 (leNat (s.readKeys 0 4 ks) + 1)))

/-- STATE of a completion record, and TEND where the state is final (R341, R342). -/
def recState (s : State) (part q n st : Nat) : State :=
  let a := (s.node part q n).ent.crec
  let seq := recSeq (launchOf s part q) n
  let r := if 2 ≤ st then hubWrite s part seq (a + 32) (leBytes 8 s.hub.ptb) else (s, true)
  let r' := hubWrite r.1 part seq (a + 28) (leBytes 4 st)
  if r.2 && r'.2 then r'.1 else r'.1.modNode part q n fun x => { x with recFailed := true }

/-- An entry of a completion record, or a count of OVF (R342). -/
def recEntry (s : State) (part q n : Nat) (x y z lcore : Nat) (e : EndInfo) : State :=
  let nd := s.node part q n
  if nd.nEnt < nd.ent.cap then
    let bs := leBytes 2 x ++ leBytes 2 y ++ leBytes 2 z ++ leBytes 1 e.status ++ leBytes 1 e.cause
      ++ leBytes 1 (e.slot % 16 + (if e.inHandler then 16 else 0)) ++ leBytes 3 0 ++ leBytes 4 lcore ++ leBytes 8 e.addr
      ++ leBytes 8 e.pc.toNat
    let r := hubWrite s part (recSeq (launchOf s part q) n) (nd.ent.crec + 64 + 32 * nd.nEnt) bs
    let s := r.1.modNode part q n fun x => { x with nEnt := x.nEnt + 1, recFailed := x.recFailed || !r.2 }
    recAdd s part q n 16
  else recAdd (s.modNode part q n fun x => { x with nOvf := x.nOvf + 1 }) part q n 24

/-- A graph record (R343), if the launch asked for one; a failed write is only logged (R382). -/
def graphRecord (s : State) (part : Nat) (l : Launch) (status cause : Nat) : State :=
  if l.notify = 0 then s
  else
    let done := (l.nodes.filter fun n => n.state == .done).length
    (hubWrite s part (recSeq l.seq 65535) l.notify (leBytes 4 status ++ leBytes 4 cause ++ leBytes 4 done ++ leBytes 4 l.first
      ++ leBytes 8 l.seq ++ leBytes 8 s.hub.ptb)).1

/-- A launch enters a queue (R333); none when the queue is full. -/
def enqueueLaunch (s : State) (part scope q graph : Nat) (ovr : Option Nat) (notify : Nat) : Option (State × Nat) :=
  let p := s.part part
  if 64 ≤ (p.queue q).length then none
  else
    some (s.modPart part fun p =>
      { p.setQueue q (p.queue q ++ [⟨p.nextSeq, graph, ovr, notify, false, false, 0xFFFFFFFF, [], scope⟩]) with
        nextSeq := p.nextSeq + 1 }, p.nextSeq)

/-! ### Places (R217, R248, R252, R278, R288, R338, R348) -/

/-- The cores of a partition, by logical number. -/
def partCores (p : Part) : List Nat := p.dies.flatMap fun d => (List.range 512).map fun i => d * 512 + i

/-- The queue whose started graph has a launch number. -/
def queueOf (s : State) (part launch : Nat) : Option Nat :=
  (List.range 16).find? fun q => (s.graph part q).any fun l => l.seq == launch

/-- The node of a binding. -/
def State.nodeOf (s : State) (b : Binding) : Node :=
  match queueOf s b.part b.launch with
  | some q => s.node b.part q b.node
  | none => Node.none

/-- What a context stands for in a reservation: itself, or its slot in its cluster or on its die (R338). -/
def Resv.cls (r : Resv) (c : Nat) : Nat :=
  match r.kind with
  | 0 => c
  | 1 => clusterOf (coreOf c) * 2 + slotOf c
  | _ => dieOf (coreOf c) * 2 + slotOf c

/-- Whether a reservation still lacks a context of this kind in this place (R338). -/
def Resv.lacks (r : Resv) (c : Nat) : Bool :=
  !r.granted.contains c &&
    decide ((r.granted.filter fun x => r.cls x == r.cls c).length < (r.need.filter fun x => r.cls x == r.cls c).length)

/-- A holder of a ticket (R338): a RELEASED node, by queue and index, or a group of saved tasks, by its first one. -/
structure Holder where
  resv : Resv
  saved : Option Nat
  queue : Nat
  idx : Nat
  launch : Nat
  node : Node
deriving DecidableEq, Repr

/-- The holders of a partition's tickets, by ticket. -/
def holders (s : State) (part : Nat) : List Holder :=
  let p := s.part part
  let nodes := (List.range 16).flatMap fun q => match (p.queue q).head? with
    | some l => (List.range l.nodes.length).filterMap fun i =>
        let n := l.nodes.getD i Node.none
        n.resv.map fun r => (⟨r, none, q, i, l.seq, n⟩ : Holder)
    | none => []
  let saved := (List.range p.saved.length).filterMap fun i => (p.saved[i]?).bind fun x => x.resv.map fun r =>
    (⟨r, some i, 0, x.ctx.bind.node, x.ctx.bind.launch, s.nodeOf x.ctx.bind⟩ : Holder)
  sortBy (fun a b => decide (a.resv.ticket ≤ b.resv.ticket)) (nodes ++ saved)

/-- The holder for which a free context is held (R338). -/
def heldBy (hs : List Holder) (cid : Nat) : Option Holder := hs.find? fun h => h.resv.granted.contains cid

/-- Whether slot A of a core hosts, or is held for, a deterministic or a gang task, so that slot B stays unbound (R217,
R252). -/
def soleCore (s : State) (hs : List Holder) (l : Nat) : Bool :=
  let a := s.ctx (2 * l)
  (a.status != .free && (a.bind.det || a.bind.gang)) || (heldBy hs (2 * l)).any fun h => h.node.ent.sole

/-- Whether a binding's node holds the barrier counters of a cluster against another node (R248). -/
def Binding.holdsClu (b : Binding) (part launch node k : Nat) : Bool :=
  b.coRes && (b.barClu == k || b.clu == k) && !(b.part == part && b.launch == launch && b.node == node)

/-- Whether a cluster's barrier counters are held by a co-resident node other than `self`, bound or saved (R248). -/
def countersHeld (s : State) (part launch node k : Nat) : Bool :=
  s.ctxs.any (fun x => x.2.status != .free && x.2.bind.holdsClu part launch node k)
    || s.hub.parts.any fun p => p.2.saved.any fun x => x.ctx.bind.holdsClu part launch node k

/-- The banks that a plan uses, as a mask (R26). -/
def usedBanks (fmts : List Nat) : BitVec 16 :=
  (List.range 16).foldl (fun (m : BitVec 16) n => if fmts.getD n 0xFF ≠ 0xFF then m ||| (1 <<< n : BitVec 16) else m) 0

/-- The physical banks of the other context of a core (R146). -/
def otherBanks (s : State) (cid : Nat) : List Nat :=
  let o := s.ctx (if slotOf cid = 0 then cid + 1 else cid - 1)
  if o.status == .free then []
  else ((List.range 16).filter fun n => o.bind.used.getLsbD n).map fun n => (o.bind.map.toList.getD n 0).toNat

/-- The number of banks a plan uses. -/
def Kernel.bankCount (k : Kernel) : Nat := ((List.range 16).filter fun i => (usedBanks k.banks).getLsbD i).length

/-- The other context of a core. -/
def sibling (cid : Nat) : Nat := if slotOf cid = 0 then cid + 1 else cid - 1

/-- The banks that the other context of a core uses, or the task for which it is held (R146). -/
def siblingBanks (s : State) (hs : List Holder) (cid : Nat) : Nat :=
  if (s.ctx (sibling cid)).status != .free then (otherBanks s cid).length
  else match heldBy hs (sibling cid) with
    | some h => h.node.ent.kern.bankCount
    | none => 0

/-- Whether a context is free for a task of a node (R146, R217, R252). A deterministic or gang task waits for slot B of its
core to be free too. -/
def fits (s : State) (hs : List Holder) (n : Node) (cid : Nat) : Bool :=
  let l := coreOf cid
  (s.ctx cid).status == .free && (n.ent.det || s.hub.liveCore l) && (slotOf cid == 0 || !soleCore s hs l)
    && (if n.ent.sole then slotOf cid == 0 else decide (n.ent.kern.bankCount + siblingBanks s hs cid ≤ 16))

/-- Whether a context may host a task of a node now (R146, R217, R248, R252, R288). -/
def mayHost (s : State) (hs : List Holder) (part launch node : Nat) (n : Node) (cid : Nat) : Bool :=
  let l := coreOf cid
  fits s hs n cid && (!n.ent.sole || ((s.ctx (cid + 1)).status == .free && (heldBy hs (cid + 1)).isNone))
    && (!n.ent.kern.cbar || !countersHeld s part launch node (clusterOf l))
    && (!n.ent.flag 3 || !(s.ctxs.any fun x => dieOf (coreOf x.1) == dieOf l && !x.2.asLds.isEmpty))

/-- The oldest ticket that lacks a free context (R338). -/
def wantedBy (s : State) (hs : List Holder) (cid : Nat) : Option Holder :=
  hs.find? fun h => h.resv.lacks cid && fits s hs h.node cid

/-- The contexts of a list of cores in the order of R338: slot A before slot B. -/
def slotOrder (cores : List Nat) : List Nat := cores.map (fun l => 2 * l) ++ cores.map fun l => 2 * l + 1

/-- A context is granted to the holder of a ticket. -/
def Resv.grant (r : Resv) (cid : Nat) : Resv := { r with granted := r.granted ++ [cid] }

/-- A free context goes to the oldest ticket that lacks it (R338). -/
def grantOne (s : State) (hs : List Holder) (cid : Nat) : List Holder :=
  if (heldBy hs cid).isSome then hs
  else match wantedBy s hs cid with
    | none => hs
    | some h => hs.map fun x => if x = h then { x with resv := x.resv.grant cid } else x

/-- The holders as they stand once every context that is free has gone to its ticket, the lowest cores first; what no
waiting ticket lacks stays free (R338). -/
def holdersNow (s : State) (part : Nat) : List Holder :=
  let hs := holders s part
  if hs.isEmpty then hs else (slotOrder (partCores (s.part part))).foldl (grantOne s) hs

/-- Whether no other free context of its kind and place that the same ticket lacks has a lower core (R338). -/
def grantFirst (s : State) (part : Nat) (hs : List Holder) (h : Holder) (cid : Nat) : Bool :=
  !((slotOrder (partCores (s.part part))).any fun c =>
    decide (c < cid) && h.resv.cls c == h.resv.cls cid && (heldBy hs c).isNone && wantedBy s hs c == some h)

/-- The core at column u and row v of a 4-cluster block (R2, R252). -/
def blockCore (die blk u v : Nat) : Nat :=
  die * 512 + (8 * (2 * (blk / 4) + v / 4) + 2 * (blk % 4) + u / 4) * 16 + 4 * (v % 4) + u % 4

/-- The members of the rectangle at a corner of a block, by member index (R252). -/
def rectangle (w h die blk u0 v0 : Nat) : List Nat :=
  (List.range (w * h)).map fun i => 2 * blockCore die blk (u0 + i % w) (v0 + i / w)

/-- Every rectangle of a shape in a partition, in the order of the leader's logical core. -/
def rectangles (p : Part) (w h : Nat) : List (List Nat) :=
  let all := p.dies.flatMap fun d => (List.range 8).flatMap fun k =>
    (List.range (9 - w)).flatMap fun u => (List.range (9 - h)).map fun v => rectangle w h d k u v
  sortBy (fun a b => decide (a.headD 0 ≤ b.headD 0)) all

/-- The gang that waits first among those of class 0 or 1 that take no ticket: a READY node or one with unbound tasks, its
class and its time on the ready list, and the rectangle kept free for it. -/
structure GangHold where
  launch : Nat
  node : Nat
  cls : Nat
  since : Nat
  rect : List Nat
deriving DecidableEq, Repr

/-- R340: every READY node is released at some time, and a gang needs a whole rectangle at once. DEDUCED (log entry 74): once
it has aged to class 1, nothing that comes after it on the ready lists binds into the first rectangle of its shape. -/
def waitingGang (s : State) (part : Nat) : Option GangHold :=
  let p := s.part part
  let all := (List.range 16).flatMap fun q => match s.graph part q with
    | some l => if l.started && !l.stopped then
        (List.range l.nodes.length).filterMap fun i =>
          let n := l.nodes.getD i Node.none
          if n.ent.kern.gangW * n.ent.kern.gangH ≤ 1 ∨ n.ent.reserves ∨ 1 < n.cls
              ∨ !(n.state == .ready || (n.state == .released && !n.unbound.isEmpty)) then none
          else ((rectangles p n.ent.kern.gangW n.ent.kern.gangH).find? fun r => r.all fun c => s.hub.liveCore (coreOf c)).map
            fun r => ⟨l.seq, i, n.cls, n.firstReady, r⟩
      else []
    | none => []
  (sortBy (fun a b => decide (a.cls < b.cls) || (a.cls == b.cls && decide (a.since ≤ b.since))) all).head?

/-- Whether the waiting gang comes before an item of a class, on a ready list since a time. -/
def GangHold.before (g : GangHold) (launch node cls since : Nat) : Bool :=
  !(g.launch == launch && g.node == node) && (decide (g.cls < cls) || (g.cls == cls && decide (g.since ≤ since)))

/-- Whether a context is kept free for the waiting gang. -/
def GangHold.keeps (g : GangHold) (cid : Nat) : Bool := g.rect.any fun c => coreOf c == coreOf cid

/-- The die that carries logical die d of a partition (R348): one of its own, or, for a logical die it lacks, a die of the
model's own (log entry 30). -/
def shapeDie (p : Part) (part d : Nat) : Nat := p.dies.getD d (8 * (part + 1) + d)

/-- The members of tile t of a deterministic node (R348). -/
def detPlace (p : Part) (part : Nat) (k : Kernel) (t : Nat) : List Nat :=
  let n := k.perBlock
  let blk := t / n
  let pos := t % n
  let a := blk % 8 / 4
  let b := blk % 4
  rectangle k.gangW k.gangH (shapeDie p part (blk / 8)) (4 * a + b) (pos % (8 / k.gangW) * k.gangW)
    (pos / (8 / k.gangW) * k.gangH)

/-- Disjoint rectangles, the earlier ones first, up to `n`. -/
def takeRects (rs : List (List Nat)) : Nat → List (List Nat) → List (List Nat)
  | 0, acc => acc
  | n + 1, acc =>
    match rs.find? fun r => !(acc.any fun a => a.any r.contains) with
    | some r => takeRects rs n (acc ++ [r])
    | none => acc

/-- The number of tile tasks of a node, its z extent chosen. -/
def Node.tiles (n : Node) : Nat := n.ent.gx * n.ent.gy * n.zext

/-- A list of contexts without those whose core an earlier one takes with too many banks for two (R146). -/
def pairsFit (k : Kernel) (l : List Nat) : List Nat :=
  l.foldl (fun acc c => if 16 < 2 * k.bankCount ∧ acc.contains (sibling c) then acc else acc ++ [c]) []

/-- The reservation of a CORES or DET node, or of a group of saved tasks, of `count` tile tasks (R278, R338, R348), before
any context is granted: free ones come first, then those that have to become free (log entry 31). `tiles` names the tiles of
a deterministic node. -/
def reserve (s : State) (part launch node : Nat) (n : Node) (tiles : List Nat) : Resv :=
  let p := s.part part
  let k := n.ent.kern
  let hs := holdersNow s part
  let ok (c : Nat) : Bool := mayHost s hs part launch node n c && (heldBy hs c).isNone
  let firstFree (l : List Nat) : List Nat := l.filter ok ++ l.filter fun c => !ok c
  let count := tiles.length
  if n.ent.det then ⟨p.nextTicket, tiles.flatMap (detPlace p part k), 0, []⟩
  else if 1 < k.gangW * k.gangH then
    let rs := rectangles p k.gangW k.gangH
    let rs := rs.filter (fun r => r.all ok) ++ rs.filter fun r => !r.all ok
    ⟨p.nextTicket, (takeRects rs count []).flatMap id, 0, []⟩
  else if n.tiles ≤ 16 then
    let clus := (partCores p).map clusterOf |>.dedup
    let slots (c : Nat) : List Nat := slotOrder ((List.range 16).map fun i => c * 16 + i)
    let free (c : Nat) : List Nat := pairsFit k ((slots c).filter ok)
    let fit := sortBy (fun a b => decide (coreOf ((free a).headD 0) ≤ coreOf ((free b).headD 0)))
      (clus.filter fun c => decide (count ≤ (free c).length))
    ⟨p.nextTicket, (match fit with
      | c :: _ => free c
      | [] => pairsFit k (firstFree (slots (clus.headD 0)))).take count, 1, []⟩
  else ⟨p.nextTicket, (pairsFit k (firstFree (slotOrder (partCores p)))).take count, 2, []⟩

/-- The contexts of a reservation that is granted whole, by tile and member; none before (R338). -/
def Resv.places (r : Resv) (count : Nat) : Option (List Nat) :=
  if r.need.length ≠ count ∨ r.need.any r.lacks then none
  else some (if r.kind = 0 then r.need
    else sortBy (fun a b => decide (slotOf a < slotOf b) || (slotOf a == slotOf b && decide (a ≤ b))) r.granted)

/-- The contexts the next unbound tile task of a node binds to now; none while it has to wait (R252, R288, R338). -/
def nextPlace (s : State) (part launch node : Nat) (n : Node) (tile : Nat) : Option (List Nat) :=
  let p := s.part part
  let k := n.ent.kern
  let m := k.gangW * k.gangH
  let hs := holdersNow s part
  let ok (c : Nat) : Bool := mayHost s hs part launch node n c
  let g := (waitingGang s part).filter fun g => g.before launch node n.cls n.firstReady
  let open_ (c : Nat) : Bool := ok c && (heldBy hs c).isNone && !(g.any fun g => g.keeps c)
  match n.resv with
  | some r =>
    (r.places (n.tiles * m)).bind fun l => if (l.drop (tile * m)).all ok then some ((l.drop (tile * m)).take m) else none
  | none =>
    if n.ent.reserves then none
    else if 1 < m then (rectangles p k.gangW k.gangH).find? fun r => r.all open_
    else ((slotOrder (partCores p)).find? open_).map fun c => [c]

end Sys2Proof.Machine
end

