-- ==== Sys2Proof/Machine/Sched.lean ====
section
/-! DEFINITION. The graph scheduler and the dispatchers (R330 to R349), pre-emption (R221 to R223), and the commands that
reach the scheduler from a task (R345 to R347). -/

namespace Sys2Proof.Machine

/-! ### Starting a graph and releasing its nodes (R333 to R340) -/

/-- R334: the graph at the head of a queue is read and checked, and starts or is refused whole. -/
def execGraphStart (part queue : Nat) (s : State) : Host.Outcome State Fault Refusal :=
  match s.graph part queue with
  | none => .next s
  | some l =>
    if l.started then .next s
    else
      match checkGraph s part queue l with
      | .ok ns => .next (s.modGraph part queue fun l => { l with started := true, nodes := ns })
      | .error (cause, first) =>
        let s := graphRecord s part { l with first := first } 2 cause
        .next (s.modPart part fun p => p.setQueue queue ((p.queue queue).drop 1))

/-- An item of a ready list (R337): its class, whether it comes after the saved tasks, when it became ready, whether it
could be served now, and how many free contexts it lacks (R339). -/
structure ReadyItem where
  cls : Nat
  late : Bool
  since : Nat
  queue : Nat
  node : Nat
  saved : Option Nat
  able : Bool
  lacks : Nat
deriving DecidableEq, Repr

/-- The order of the ready lists (R337). -/
def ReadyItem.before (a b : ReadyItem) : Bool :=
  decide (a.cls < b.cls) || (a.cls == b.cls && ((!a.late && b.late) || (a.late == b.late && decide (a.since < b.since))))

/-- Whether two saved tasks resume as one group: of one co-resident or deterministic node, or of one gang task (R339). -/
def sameGroup (a b : Binding) : Bool :=
  a.part == b.part && a.launch == b.launch && a.node == b.node && ((a.coRes && b.coRes) || (a.det && b.det) || a.sameTask b)

/-- The positions of the saved tasks that resume with one of them, by task and member. -/
def groupOf (p : Part) (i : Nat) : List Nat :=
  match p.saved[i]? with
  | none => []
  | some x =>
    let all := (List.range p.saved.length).filter fun j => (p.saved[j]?).any fun y => sameGroup x.ctx.bind y.ctx.bind
    let key (j : Nat) : Nat := match p.saved[j]? with
      | some y => (((y.ctx.bind.z * 65536 + y.ctx.bind.y) * 65536 + y.ctx.bind.x) * 64) + y.ctx.bind.member
      | none => 0
    sortBy (fun a b => decide (key a ≤ key b)) all

/-- Whether the group of a saved task is saved whole: none of it is bound any more. -/
def groupWhole (s : State) (b : Binding) : Bool := !(s.ctxs.any fun c => c.2.status != .free && sameGroup c.2.bind b)

/-- Whether a group resumes under a reservation: tasks of a CORES or DET node, and gangs (R338, R339). -/
def Binding.grouped (b : Binding) : Bool := b.coRes || b.det || b.gang

/-- The tile of a saved task, counted over its node's grid (R338). -/
def Saved.tile (x : Saved) (n : Node) : Nat := x.ctx.bind.x + n.ent.gx * (x.ctx.bind.y + n.ent.gy * x.ctx.bind.z)

/-- The reservation that a group of saved tasks takes (R338, R339). -/
def groupResv (s : State) (part i : Nat) : Resv :=
  let p := s.part part
  match p.saved[i]? with
  | none => ⟨0, [], 0, []⟩
  | some x =>
    let n := s.nodeOf x.ctx.bind
    reserve s part x.ctx.bind.launch x.ctx.bind.node n
      (((groupOf p i).filterMap fun j => p.saved[j]?).filter (fun y => y.ctx.bind.member == 0) |>.map fun y => y.tile n)

/-- The class of a saved task (R337). -/
def Saved.cls (x : Saved) (n : Node) : Nat := if n.cls < 2 then n.cls else max 1 (n.cls - x.boost)

/-- Where a group of saved tasks resumes (R223, R339); none while it has to wait. -/
def resumePlace (s : State) (part i : Nat) : Option (List Nat) :=
  let p := s.part part
  match p.saved[i]? with
  | none => none
  | some x =>
    let b := x.ctx.bind
    let hs := holdersNow s part
    let ok (c : Nat) : Bool := mayHost s hs part b.launch b.node (s.nodeOf b) c
    let g := (waitingGang s part).filter fun g => decide (g.cls < x.cls (s.nodeOf b))
    match x.resv with
    | some r => (r.places (groupOf p i).length).bind fun l => if l.all ok then some l else none
    | none =>
      if b.grouped then none
      else ((slotOrder (partCores p)).find? fun c =>
        ok c && (heldBy hs c).isNone && !(g.any fun g => g.keeps c)).map fun c => [c]

/-- Whether no context of a partition is free for an ordinary task of a node. -/
def noneFits (s : State) (hs : List Holder) (part : Nat) (n : Node) : Bool :=
  !((slotOrder (partCores (s.part part))).any fun c => fits s hs n c && (heldBy hs c).isNone)

/-- The free contexts that a reservation still lacks. -/
def Resv.missing (r : Resv) : Nat := r.need.length - r.granted.length

/-- The item of a saved task: a group is one item, at its first task, and takes its ticket when it is served for the first
time. -/
def savedItem (s : State) (hs : List Holder) (part i : Nat) (x : Saved) : Option ReadyItem :=
  let b := x.ctx.bind
  let n := s.nodeOf b
  let cls := x.cls n
  let item (able : Bool) (lacks : Nat) : Option ReadyItem := some ⟨cls, false, x.since, 0, 0, some i, able, lacks⟩
  if !b.grouped then
    let able := (resumePlace s part i).isSome
    item able (if !able && noneFits s hs part n then 1 else 0)
  else if (groupOf (s.part part) i).head? ≠ some i ∨ !groupWhole s b then none
  else match x.resv with
    | none => item (!((waitingGang s part).any fun g => decide (g.cls < cls))) 0
    | some r => item (resumePlace s part i).isSome r.missing

/-- Whether a READY node could be chosen: a reserving node takes its ticket, one deterministic node at a time, and any
other node needs a context for its first task (R335, R337, R338). -/
def nodeAble (s : State) (part : Nat) (l : Launch) (i : Nat) (n : Node) : Bool :=
  if n.state = .ready then
    if n.ent.reserves ∧ (waitingGang s part).any (fun g => g.before l.seq i n.cls n.firstReady) then false
    else if n.ent.det then !((List.range 16).any fun q => (s.graph part q).any fun g => g.nodes.any fun x =>
      x.ent.det && x.state == .released)
    else n.ent.reserves || (nextPlace s part l.seq i n 0).isSome
  else (nextPlace s part l.seq i n (n.unbound.headD 0)).isSome

/-- The contexts that the waiting tasks of a node lack, where no free context is there for the next one (R339). -/
def nodeLacks (s : State) (hs : List Holder) (part : Nat) (n : Node) : Nat :=
  let m := n.ent.kern.gangW * n.ent.kern.gangH
  match n.resv with
  | some r => r.missing
  | none =>
    if n.ent.reserves then 0
    else if decide (m ≤ 1) && !noneFits s hs part n then 0
    else m * (if n.state = .ready then n.ent.gx * n.ent.gy * (if n.ent.flag 4 then 1 else n.ent.gz) else n.unbound.length)

/-- The items of a partition's ready lists (R337). -/
def readyItems (s : State) (part : Nat) : List ReadyItem :=
  let p := s.part part
  let hs := holdersNow s part
  let saved := (List.range p.saved.length).filterMap fun i => (p.saved[i]?).bind (savedItem s hs part i)
  let nodes := (List.range 16).flatMap fun q => match s.graph part q with
    | some l =>
      (List.range l.nodes.length).filterMap fun i =>
        let n := l.nodes.getD i Node.none
        if l.started && !l.stopped && (n.state == .ready || (n.state == .released && !n.unbound.isEmpty)) then
          let able := nodeAble s part l i n
          some ⟨n.cls, true, n.firstReady, q, i, none, able, if able then 0 else nodeLacks s hs part n⟩
        else none
    | none => []
  saved ++ nodes

/-- Whether an item is the next that the schedulers serve: no item that could be served now comes before it. -/
def served (s : State) (part : Nat) (f : ReadyItem → Bool) : Bool :=
  let l := readyItems s part
  l.any fun a => f a && a.able && !(l.any fun b => b.able && b.before a)

/-- The z extent of a node (R332): for SPLITZ any from 1 to GZ, a free choice; GZ for a deterministic node, whose results are
the same in every run (R350; DEDUCED, log entry 70). -/
def NodeEnt.zChoice (e : NodeEnt) (tick : Nat) : Nat := if e.flag 4 && !e.det then 1 + Config.splitZ tick % e.gz else e.gz

/-- R335, R337: a READY node is chosen and its tile tasks are handed to the dispatchers; a CORES or DET node takes its
ticket (R338). -/
def execNodeRelease (part queue node : Nat) (s : State) : Host.Outcome State Fault Refusal :=
  match s.graph part queue with
  | none => .next s
  | some l =>
    let n := s.node part queue node
    if n.state ≠ .ready ∨ !served s part (fun a => a.saved.isNone && a.queue == queue && a.node == node) then .next s
    else
      let n := { n with state := .released, zext := n.ent.zChoice s.tick }
      let n := { n with unbound := List.range n.tiles }
      let n := if n.ent.reserves then { n with resv := some (reserve s part l.seq node n n.unbound) } else n
      let s := { s with tick := s.tick + 1 }
      let s := s.modPart part fun p => if n.ent.reserves then { p with nextTicket := p.nextTicket + 1 } else p
      .next (recState (s.modNode part queue node fun _ => n) part queue node 1)

/-- Changes a saved task. -/
def State.modSaved (s : State) (part i : Nat) (f : Saved → Saved) : State :=
  s.modPart part fun p => { p with saved := p.saved.modify i f }

/-- R338: a free context is granted to the oldest waiting ticket that still lacks one of its kind in its place; of several
the lowest core. -/
def execReservationGrant (part cid : Nat) (s : State) : Host.Outcome State Fault Refusal :=
  let hs := holders s part
  if (heldBy hs cid).isSome then .next s
  else
    match wantedBy s hs cid with
    | none => .next s
    | some h => if !grantFirst s part hs h cid then .next s else .next (match h.saved with
      | none => s.modNode part h.queue h.idx fun n => { n with resv := n.resv.map fun r => r.grant cid }
      | some i => s.modSaved part i fun x => { x with resv := x.resv.map fun r => r.grant cid })

/-- The promotion of a saved task that has waited AGE cycles since it was saved or last promoted (R337). -/
def Saved.promote (x : Saved) (cls age ptb : Nat) : Saved :=
  if 2 + x.boost ≤ cls ∧ x.aged + age ≤ ptb then { x with boost := x.boost + 1, aged := ptb } else x

/-- R337: an item that has waited AGE cycles is promoted by one class, never above class 1: a READY or RELEASED node, and
each saved task of a node. -/
def execAgePromotion (part queue node : Nat) (s : State) : Host.Outcome State Fault Refusal :=
  let n := s.node part queue node
  let age := (s.part part).age
  let waits := n.state == .ready || (n.state == .released && !n.unbound.isEmpty)
  let go (x : Saved) : Saved :=
    if x.ctx.bind.node = node ∧ queueOf s part x.ctx.bind.launch = some queue then x.promote n.cls age s.hub.ptb else x
  let t := s.modPart part fun p => { p with saved := p.saved.map go }
  if waits && decide (2 ≤ n.cls) && decide (n.since + age ≤ s.hub.ptb) then
    .next (t.modNode part queue node fun n => { n with cls := n.cls - 1, since := s.hub.ptb })
  else .next t

/-! ### The completion of nodes and graphs (R335, R343) -/

/-- A successor's count falls by one for an edge (R332, R335). -/
def decDeps (s : State) (part q i : Nat) : State :=
  s.modNode part q i fun n =>
    if n.state ≠ .waiting then n
    else if n.deps ≤ 1 then { n with deps := 0, state := .ready, since := s.hub.ptb, firstReady := s.hub.ptb }
    else { n with deps := n.deps - 1 }

/-- An unbound tile of a stopped graph is recorded as abandoned (R335). -/
def abandonTile (q i : Nat) (part : Nat) (s : State) (t : Nat) : State :=
  let n := s.node part q i
  let e := n.ent
  let s := recEntry s part q i (t % e.gx) (t / e.gx % e.gy) (t / e.gx / e.gy) 0 ⟨4, 0, 0, false, 0, 0⟩
  recAdd (s.modNode part q i fun n => { n with nAband := n.nAband + 1, unbound := n.unbound.drop 1 }) part q i 8

/-- The graph stops: WAITING and READY nodes are cancelled, and unbound tasks never bind (R335). -/
def stopGraph (s : State) (part q first : Nat) : State :=
  let s := s.modGraph part q fun l =>
    { l with stopped := true, first := if l.first = 0xFFFFFFFF then first else l.first }
  match s.graph part q with
  | none => s
  | some l =>
    (List.range l.nodes.length).foldl (fun s i =>
      let n := s.node part q i
      if n.state = .waiting ∨ n.state = .ready then
        recState (s.modNode part q i fun n => { n with state := .cancelled }) part q i 4
      else if n.state = .released then
        n.unbound.foldl (abandonTile q i part) (s.modNode part q i fun n => { n with resv := none })
      else s) s

/-- The snapshot stacks that a node bound are released (R266). -/
def dropStacks (s : State) (part launch node : Nat) : State :=
  { s with clus := s.clus.map fun k =>
      if k.2.stackFor.any (fun f => f.1 == part && f.2.1 == launch && f.2.2.1 == node) then (k.1, k.2.dropStack) else k }

/-- A RELEASED node whose tasks have all ended, and whose record is written, becomes DONE or FAILED (R335, R342, R382). -/
def nodeCheck (s : State) (part q i : Nat) : State :=
  let n := s.node part q i
  if n.state ≠ .released ∨ n.live ≠ 0 ∨ !n.unbound.isEmpty ∨ recPending s part (launchOf s part q) i then s
  else
    let s := dropStacks s part (match s.graph part q with
      | some l => l.seq
      | none => 0) i
    if n.nFailed + n.nAband = 0 ∧ !n.recFailed then
      let s := recState (s.modNode part q i fun n => { n with state := .done }) part q i 2
      if (s.node part q i).recFailed then stopGraph (s.modNode part q i fun n => { n with state := .failed }) part q i
      else n.ent.succs.foldl (fun s j => decDeps s part q j) s
    else stopGraph (recState (s.modNode part q i fun n => { n with state := .failed }) part q i 3) part q i

/-- Every node is checked, and once more for the nodes whose unbound tasks a failure has abandoned; then a graph whose nodes
are all final, and their records written, is complete, and its record is written (R335, R343). -/
def graphCheck (s : State) (part q : Nat) : State :=
  match s.graph part q with
  | none => s
  | some l =>
    let pass (s : State) : State := (List.range l.nodes.length).foldl (fun s i => nodeCheck s part q i) s
    let s := pass (pass s)
    match s.graph part q with
    | none => s
    | some l =>
      if l.started && !((List.range l.nodes.length).any (recPending s part l.seq))
          && l.nodes.all fun n => n.state == .done || n.state == .failed || n.state == .cancelled then
        (graphRecord s part l (if l.nodes.all fun n => n.state == .done then 0 else 1) 0).modPart part fun p =>
          p.setQueue q ((p.queue q).drop 1)
      else s

/-! ### Binding (R60, R146, R149, R248, R338, R344) -/

/-- The physical banks for the used banks of a plan: the free ones, in an order that is open (R146). -/
def chooseBanks (s : State) (cid : Nat) (used : BitVec 16) : Vector (BitVec 4) 16 :=
  let rot := Config.bankRotation s.tick
  let free := ((List.range 16).map fun i => (i + rot) % 16).filter fun b => !(otherBanks s cid).contains b
  let idx := (List.range 16).filter fun n => used.getLsbD n
  Vector.ofFn fun i => if used.getLsbD i.val then BitVec.ofNat 4 (free.getD (idx.idxOf i.val) 0) else BitVec.ofNat 4 i.val

/-- The dictionary group that bank 0 holds at launch (R60). DESIGN CHOICE (log entry 66): a group that cannot be read
leaves the bank empty, a count of 0 gives no entries, and one above 1,023 the first 1,023. -/
def firstGroup (s : State) (part scope a : Nat) : DictBank :=
  match hubRead s part scope a 16 with
  | .error _ => DictBank.empty
  | .ok h =>
    match hubRead s part scope (a + 16) (48 * min (slice h 0 4) 1023) with
    | .error _ => DictBank.empty
    | .ok bs => ⟨BitVec.ofNat 64 a, (List.range (bs.length / 48)).map fun i => BitVec.ofNat 384 (slice bs (48 * i) 48)⟩

/-- The registers of a tile task at launch (R52, R60, R344). -/
def presetRegs (e : NodeEnt) (zext x y z : Nat) (dict : DictBank) (deadline : Word) (op : Nat) : Regs :=
  let w (n : Nat) : SVal := SVal.mkOk (BitVec.ofNat 64 n)
  let r := Regs.reset
  { ((((((r.writeS 1 (w x)).writeS 2 (w y)).writeS 3 (w z)).writeS 4 (w e.args)).writeS 5
      (w (e.gx + e.gy * 2 ^ 16 + zext * 2 ^ 32))).writeS 6 (w e.crec)) with
    pc := BitVec.ofNat 64 e.kern.code, bank0 := dict, deadline := deadline, dlOp := op
    g0 := BitVec.ofNat 64 (x + 1), g1 := BitVec.ofNat 64 (y + 1), g2 := BitVec.ofNat 64 (z + 1) }

/-- DEADLINE at bind, in cc of an operating point (R344); none where the count would be 0. -/
def bindDeadline (s : State) (e : NodeEnt) (op : Nat) : Option Word :=
  if !e.flag 2 then some 0xFFFFFFFFFFFFFFFF
  else
    let n := (e.dline - s.hub.ptb) * (op + 1) / 8
    if n = 0 then none else some (BitVec.ofNat 64 n)

/-- Whether every member of a task gets a count at bind (R344). -/
def deadlinesOk (s : State) (e : NodeEnt) (ms : List Nat) : Bool :=
  ms.all fun c => (bindDeadline s e (s.core (coreOf c)).op).isSome

/-- The zero-fill of a bind (R149). -/
def zeroFill (s : State) (cid : Nat) (b : Binding) : State :=
  let l := coreOf cid
  let banks := (List.range 16).filter fun n => b.used.getLsbD n
  let m := banks.foldl (fun m n => let p := (b.map.toList.getD n 0).toNat
    memClear m (kScratch l p 0) (kScratch l p 0 + 2 ^ 14)) s.mem
  let m := memClear m (kOp cid 0) (kOp cid 0 + 2 ^ 16)
  let m := memClear m (kAcc cid 0 0 0) (kAcc cid 0 0 0 + 2 ^ 17)
  let other := (s.ctx (if slotOf cid = 0 then cid + 1 else cid - 1)).status != .free
  s.setMem (if other then m else memClear m (kAtom l 0) (kAtom l 0 + 2 ^ 14))

/-- The bank formats that the plan gives at bind (R147). -/
def planFormats (s : State) (cid : Nat) (b : Binding) (fmts : List Nat) : State :=
  s.modCore (coreOf cid) fun k => { k with fmt := (List.range 16).foldl (fun f n =>
    if b.used.getLsbD n then f.set! (b.map.toList.getD n 0).toNat (BitVec.ofNat 8 (fmts.getD n 0)) else f) k.fmt }

/-- The idle core of a bound context counts time from now on. -/
def wakeCore (s : State) (l : Nat) : State :=
  if (liveCtxs s l).isEmpty then s.modCore l fun k => { k with time := max k.time (s.hub.ptb * 840) } else s

/-- One context of a tile task is bound (R60, R217, R336); each counts its deadline in cc of its own core (R344). -/
def bindMember (part launch node tile : Nat) (n : Node) (leader : Nat) (dict : DictBank) (s : State) (mc : Nat × Nat) : State :=
  let e := n.ent
  let cid := mc.2
  let x := tile % e.gx
  let y := tile / e.gx % e.gy
  let z := tile / e.gx / e.gy
  let used := usedBanks e.kern.banks
  let b : Binding :=
    { part := part, launch := launch, node := node, x := x, y := y, z := z, det := e.det, frame := e.kern.frame,
      gangW := e.kern.gangW, gangH := e.kern.gangH, member := mc.1, leader := leader, used := used,
      map := chooseBanks s cid used, astore := e.flag 3, coRes := e.cores, order := (s.part part).nBinds,
      barClu := clusterOf (coreOf leader), clu := clusterOf (coreOf cid) }
  let op := (s.core (coreOf cid)).op
  let dl := (bindDeadline s e op).getD 0
  let s := s.modCore (coreOf cid) fun k => { k with corr := if (s.ctx (sibling cid)).status == .free then 0 else k.corr }
  let s := planFormats (zeroFill (wakeCore s (coreOf cid)) cid b) cid b e.kern.banks
  { s.setCtx cid { Ctx.reset with
      status := .bound, bind := b, r := presetRegs e n.zext x y z dict dl op } with tick := s.tick + 1 }

/-- Whether a node already holds the barrier counters of a cluster. -/
def holdsCounters (s : State) (part launch node k : Nat) : Bool :=
  let mine (b : Binding) : Bool :=
    b.part == part && b.launch == launch && b.node == node && (b.barClu == k || b.clu == k)
  s.ctxs.any (fun x => x.2.status != .free && mine x.2.bind) || (s.part part).saved.any fun x => mine x.ctx.bind

/-- The 16 barrier counters of a cluster are reset when a co-resident node is bound into it (R248). -/
def resetBarriers (part launch node : Nat) (s : State) (k : Nat) : State :=
  if holdsCounters s part launch node k then s else s.modClu k fun c => { c with barriers := Cluster.reset.barriers }

/-- R338: the next tile task of a node binds to a context (a gang task to its rectangle), or is recorded as abandoned when
its deadline leaves no count (R344). -/
def execTaskBind (part queue node cid : Nat) (s : State) : Host.Outcome State Fault Refusal :=
  match s.graph part queue with
  | none => .next s
  | some l =>
    let n := s.node part queue node
    match n.unbound with
    | [] => .next s
    | tile :: rest =>
      match nextPlace s part l.seq node n tile with
      | none => .next s
      | some ms =>
        if l.stopped ∨ n.state ≠ .released ∨ ms.head? ≠ some cid
            ∨ (!n.ent.reserves ∧ !served s part fun a => a.saved.isNone && a.queue == queue && a.node == node) then .next s
        else
          let e := n.ent
          let s := s.modNode part queue node fun n =>
            { n with unbound := rest, resv := if rest.isEmpty then none else n.resv }
          if !deadlinesOk s e ms then
            let s := recEntry s part queue node (tile % e.gx) (tile / e.gx % e.gy) (tile / e.gx / e.gy)
              (logicalCore s part (coreOf cid)) ⟨4, 16, 0, false, 0, 0⟩
            .next (graphCheck (recAdd (s.modNode part queue node fun n => { n with nAband := n.nAband + 1 }) part queue node 8)
              part queue)
          else
            let s := if e.cores then (ms.map fun c => clusterOf (coreOf c)).foldl (resetBarriers part l.seq node) s else s
            let s := (s.modNode part queue node fun n => { n with live := n.live + 1 }).modPart part fun p =>
              { p with nBinds := p.nBinds + 1 }
            let dict := firstGroup s part l.scope e.kern.group
            .next (((List.range ms.length).zip ms).foldl (bindMember part l.seq node tile n cid dict) s)

/-- The contexts that start together with one: all of a CORES or DET node, or the members of its task (R336, R349). -/
def startSet (s : State) (cid : Nat) : List Nat :=
  let b := (s.ctx cid).bind
  (s.ctxs.filter fun x => x.2.status == .bound && sameGroup x.2.bind b).map (·.1)

/-- R336: a BOUND task starts; tasks of CORES and DET nodes, only once every task of the node is bound. A deterministic
node starts frame 0 at frame time 0 (R349). -/
def execTaskStart (cid : Nat) (s : State) : Host.Outcome State Fault Refusal :=
  let c := s.ctx cid
  let whole := (s.nodeOf c.bind).unbound.isEmpty && !((s.part c.bind.part).saved.any fun x => sameGroup x.ctx.bind c.bind)
  if c.status ≠ .bound ∨ ((c.bind.coRes ∨ c.bind.det) ∧ !whole) then .next s
  else
    let ids := startSet s cid
    .next ((ids.foldl (fun s i => (s.modCtx i fun c => { c with status := .running }).newInterval i) s).syncCores ids)

/-! ### The end of a task (R108, R341, R342) -/

/-- Whether every item of outstanding work of a context is over (R108). -/
def State.drained (s : State) (cid : Nat) : Bool :=
  let c := s.ctx cid
  c.r.flight.isEmpty && c.r.land.isEmpty && c.r.words.isEmpty && (c.mq.all fun a => a.kind.isFence && s.fenceMet cid a)
    && (s.flyingAtomics cid).isEmpty && !(s.hidden cid 4 fun _ => true) && (s.engCmds cid).isEmpty && c.copies.isEmpty
    && c.ncmds.isEmpty && c.asLds.isEmpty && c.hCmds.isEmpty && c.savs.isEmpty && c.eqOut.isEmpty && c.pkOut.isEmpty
    && c.r.dictLoad != .running

/-- How a context's task ends: with the cause that ended it, or the first failure of its work, or well (R108, R342). -/
def Ctx.outcome (c : Ctx) : Option EndInfo := c.endInfo.orElse fun _ => c.firstFail

/-- R108: an ending task whose work is over is recorded, and its contexts are free; then its node and its graph may
complete (R335, R343). A gang's task ends when every member has ended, a saved one too (R252). -/
def execTaskEndComplete (cid : Nat) (s : State) : Host.Outcome State Fault Refusal :=
  let b := (s.ctx cid).bind
  let ms := if b.gang then s.members cid else [cid]
  if !(decide ((s.ctx cid).status = .ending) && decide (ms.length = b.gangW * b.gangH) && ms.all fun i => (s.ctx i).status == .ending && s.drained i) then .next s
  else
    let bad := firstOf (ms.map fun i => ((s.ctx i).outcome).map fun e => (i, e))
    let t := ms.foldl (fun s i => s.setCtx i Ctx.reset) s
    match queueOf s b.part b.launch with
    | none => .next t
    | some q =>
      let t := t.modNode b.part q b.node fun n => { n with live := n.live - 1 }
      match bad with
      | none =>
        .next (graphCheck (recAdd (t.modNode b.part q b.node fun n => { n with nDone := n.nDone + 1 }) b.part q b.node 0)
          b.part q)
      | some (i, e) =>
        let t := recEntry t b.part q b.node b.x b.y b.z (logicalCore s b.part (coreOf i)) e
        let t := t.modNode b.part q b.node fun n =>
          if e.status = 4 then { n with nAband := n.nAband + 1 } else { n with nFailed := n.nFailed + 1 }
        .next (graphCheck (recAdd t b.part q b.node (if e.status = 4 then 8 else 4)) b.part q)

/-! ### Pre-emption (R221 to R223, R339) -/

/-- The classes that an item of a class may pre-empt (R339). -/
def mayPreempt (cls victim : Nat) : Bool := (cls == 0 && decide (2 ≤ victim)) || (cls == 1 && victim == 3)

/-- Whether a context comes before another as a victim (R339). -/
def victimBefore (s : State) (a b : Nat) : Bool :=
  let x := (s.ctx a).bind
  let y := (s.ctx b).bind
  let cx := (s.nodeOf x).cls
  let cy := (s.nodeOf y).cls
  decide (cy < cx) || (cx == cy && (decide (y.order < x.order) || (x.order == y.order &&
    (decide (coreOf b < coreOf a) || (coreOf a == coreOf b && decide (b < a))))))

/-- R339: the scheduler names a victim for a task of class 0 or 1 that finds no free context, with its whole node or
gang; no more victims are on their way than contexts are lacking. -/
def execPreemptionRequest (part : Nat) (s : State) : Host.Outcome State Fault Refusal :=
  let items := (readyItems s part).filter fun a => !a.able && decide (0 < a.lacks)
  let going := (s.ctxs.filter fun x => x.2.bind.part == part && x.2.preempt).length
  let lacks (v : Nat) : Nat := ((items.filter fun a => mayPreempt a.cls v).map (·.lacks)).sum
  let cands := (s.ctxs.filter fun x => x.2.bind.part == part && x.2.status == .running && !x.2.preempt
    && decide (going < lacks (s.nodeOf x.2.bind).cls)).map (·.1)
  match cands.find? fun a => cands.all fun b => a == b || victimBefore s a b with
  | none => .next s
  | some v =>
    let b := (s.ctx v).bind
    .next { s with ctxs := s.ctxs.map fun x =>
      if (x.2.status == .running || (x.2.status == .ending && x.2.bind.gang)) && sameGroup x.2.bind b then
        (x.1, { x.2 with preempt := true })
      else x }

/-- Whether the work in flight of a stopped victim is over, so that its image can be written (R221): its engine operation
has stopped at a step or ended. A copy that waits for pushes its program has still to make stays in the image with its
stream, and so does a copy or an `as.ld` whose fault the task's handler is about to answer (R246, log entry 28). -/
def State.imageReady (s : State) (cid : Nat) : Bool :=
  let c := s.ctx cid
  c.mq.isEmpty && (s.flyingAtomics cid).isEmpty && !(s.hidden cid 4 fun _ => true) && c.ncmds.isEmpty
    && (c.asLds.all fun a => a.held.isSome) && c.hCmds.isEmpty && c.savs.isEmpty && c.eqOut.isEmpty && c.pkOut.isEmpty
    && (c.copies.all fun k => k.held.isSome || lacksPushes c.r k)
    && (c.r.land.all fun q => q.arrived || q.qn.isSome) && !(c.barrier.any fun b => b.2.isNone)
    && !((s.core (coreOf cid)).run.any fun o => o.cmd.cid == cid)

/-- Takes what a resumption tries again out of the records of the fault service: a slot or fetch, an engine operation and a
dictionary load (R285). Commands that run to completion before the image is written stay in them (R221, R319). -/
def dropWaiter (s : State) (cid : Nat) : State :=
  let go (l : List FaultRec) : List FaultRec := l.map fun f =>
    { f with waiters := f.waiters.filter fun w => w.1 != cid || (w.2 != 0 && w.2 != 1 && w.2 != 6) }
  s.modPart (s.partOf cid) fun p => { p with faults := go p.faults, faultWaiting := go p.faultWaiting }

/-- The image of a stopped context (R222). -/
def saveImage (s : State) (cid : Nat) : Saved :=
  let c := s.ctx cid
  let l := coreOf cid
  let k := s.core l
  let banks := (List.range 16).filter fun n => c.bind.used.getLsbD n
  { ctx := c
    banks := banks.map fun n =>
      let p := (c.bind.map.toList.getD n 0).toNat
      (n + 16 * (k.fmt.toList.getD p 0).toNat, memGetBytes s.mem (kScratch l p 0) (2 ^ 14))
    opStore := memGetBytes s.mem (kOp cid 0) (2 ^ 16)
    accs := memGetBytes s.mem (kAcc cid 0 0 0) (2 ^ 17)
    shadow := memGetBytes s.mem (kShadow cid 0) (2 ^ 16)
    op := k.heldOps.find? fun o => o.cmd.cid == cid
    queued := k.engQ.filter fun x => x.cid == cid
    since := s.hub.ptb, aged := s.hub.ptb, boost := 0, resv := none }

/-- Whether a context is the ended member of a decoupled gang that is pre-empted (R339): its work is over, but the task is
not, so it goes into an image with its mates. -/
def State.endedVictim (s : State) (cid : Nat) : Bool :=
  let c := s.ctx cid
  let ms := s.members cid
  c.status == .ending && c.preempt && c.bind.gang && s.drained cid
    && !(decide (ms.length = c.bind.gangW * c.bind.gangH) && ms.all fun i => (s.ctx i).status == .ending)

/-- R221: a victim stops at a boundary, with its whole fused gang; once its work in flight is over, its image is written
and its context is free. -/
def execPreemptionStop (cid : Nat) (s : State) : Host.Outcome State Fault Refusal :=
  let c := s.ctx cid
  if c.status = .running then
    let ms := s.gangOf cid
    if !(s.issueCores.isEmpty && ms.all fun i => s.stopsHere i && (s.ctx i).r.rngDue == 0) then .next s
    else
      .next (ms.foldl (fun s i => (dropWaiter s i).modCtx i fun c =>
        { c with status := .stopped, svcWait := none, r := if c.resumed then c.r else c.r.toOffsets c.bun.after }) s)
  else if (c.status = .stopped ∧ s.imageReady cid) ∨ s.endedVictim cid then
    let img := saveImage s cid
    let s := s.modCore (coreOf cid) fun k =>
      { k with engQ := k.engQ.filter (fun x => x.cid != cid), heldOps := k.heldOps.filter (fun o => o.cmd.cid != cid) }
    let s := s.modPart c.bind.part fun p => { p with saved := p.saved ++ [img] }
    .next (s.setCtx cid Ctx.reset)
  else .next s

/-- A command of a task that resumes on another context. -/
def Cmd.moveTo (c : Cmd) (cid : Nat) : Cmd := { c with cid := cid }

/-- A saved context as it resumes (R201, R222, R223, R237): its offsets count from the cc at which its first bundle issues,
but from now on where a `wait` of it still runs. Its schedule buffers hold no tag. -/
def Saved.context (x : Saved) (s : State) (cid leader : Nat) (status : TStatus) : Ctx :=
  let k := s.core (coreOf cid)
  let waits := decide (x.ctx.r.waitTo ≠ 0)
  let r := (if waits then x.ctx.r.fromOffsets k.cc else x.ctx.r).rescaleDeadline x.ctx.r.dlOp k.op
  { x.ctx with
    status := if x.ctx.status == .ending then .ending else status
    preempt := false, r := r, resumed := !waits, tag0 := none, tag1 := none
    bun := { x.ctx.bun with after := k.cc }
    bind := { x.ctx.bind with map := chooseBanks s cid x.ctx.bind.used, leader := leader, order := (s.part x.ctx.bind.part).nBinds }
    copies := x.ctx.copies.map fun c => { c with cmd := c.cmd.moveTo cid }
    asLds := x.ctx.asLds.map fun a => { a with cmd := a.cmd.moveTo cid, status := none }
    seqr := { x.ctx.seqr with inner := x.ctx.seqr.inner.map fun o => { o with cmd := o.cmd.moveTo cid } } }

/-- The memory and the engine work of an image come back (R222, R223). -/
def Saved.restore (x : Saved) (s : State) (cid : Nat) : State :=
  let l := coreOf cid
  let b := (s.ctx cid).bind
  let phys (n : Nat) : Nat := (b.map.toList.getD (n % 16) 0).toNat
  let m := x.banks.foldl (fun m e => memPutBytes m (kScratch l (phys e.1) 0) e.2) s.mem
  let m := memPutBytes (memPutBytes (memPutBytes m (kOp cid 0) x.opStore) (kAcc cid 0 0 0) x.accs) (kShadow cid 0) x.shadow
  (s.setMem m).modCore l fun k =>
    { k with
      fmt := x.banks.foldl (fun f e => f.set! (phys e.1) (BitVec.ofNat 8 (e.1 / 16))) k.fmt,
      engQ := k.engQ ++ x.queued.map (fun c => c.moveTo cid),
      heldOps := k.heldOps ++ x.op.toList.map fun o => { o with cmd := o.cmd.moveTo cid } }

/-- R223, R338: a group that is served takes its ticket; once its reservation is granted, its images are restored and it
runs on. -/
def execContextResume (save cid : Nat) (s : State) : Host.Outcome State Fault Refusal :=
  match s.hub.partOfDie (dieOf (coreOf cid)) with
  | none => .next s
  | some (part, p) =>
    if !served s part (fun a => a.saved == some save) then .next s
    else match resumePlace s part save with
    | none =>
      .next ((s.modSaved part save fun x => { x with resv := some (groupResv s part save) }).modPart part fun p =>
        { p with nextTicket := p.nextTicket + 1 })
    | some places =>
      let ids := groupOf p save
      if places.head? ≠ some cid then .next s
      else
        let one (s : State) (e : Nat × Nat) : State :=
          match p.saved[e.1]? with
          | none => s
          | some x =>
            let leader := match (ids.zip places).find? fun y => (p.saved[y.1]?).any fun z =>
                z.ctx.bind.sameTask x.ctx.bind && z.ctx.bind.member == 0 with
              | some y => y.2
              | none => e.2
            let s := wakeCore s (coreOf e.2)
            let s := s.setCtx e.2 (x.context s e.2 leader .running)
            { (x.restore s e.2).newInterval e.2 with tick := s.tick + 1 }
        let s := (ids.zip places).foldl one s
        .next ((s.modPart part fun p =>
          { p with saved := ((List.range p.saved.length).filter fun i => !ids.contains i).filterMap fun i => p.saved[i]?,
                   nBinds := p.nBinds + 1 }).syncCores places)

/-! ### Commands to the scheduler (R345 to R347) -/

/-- The fields of a `graph.go` (R345). -/
def graphGoOk (c : Cmd) : Bool := c.a.toNat % 64 == 0 && decide (c.b.toNat < 128) && c.c.toNat % 32 == 0

/-- The command waits in the context until every older access is visible at package scope (R345, R346). -/
def hPut (s : State) (c : Cmd) : State := s.modCtx c.cid fun x => { x with hCmds := x.hCmds ++ [c] }

/-- R345. -/
def execGraphGo (f : TFld) (s : State) : Host.Outcome State Fault Refusal :=
  tRun (.plain 0x48 true graphGoOk (fun _ _ => false) hPut) f s

/-- R346. -/
def execTaskSig (f : TFld) (s : State) : Host.Outcome State Fault Refusal :=
  tRun (.plain 0x49 true (fun _ => true) (fun _ _ => false) hPut) f s

/-- R347, R52: the generator takes the four words, and its queue is empty. -/
def seedPut (s : State) (c : Cmd) : State :=
  let zero := c.a = 0 ∧ c.b = 0 ∧ c.c = 0 ∧ c.d = 0
  s.modRegs c.cid fun r =>
    { r with g0 := c.a, g1 := c.b, g2 := c.c, g3 := if zero then 1 else c.d, rng := [], rngDue := 0 }

/-- R347. -/
def execRngSeed (f : TFld) (s : State) : Host.Outcome State Fault Refusal :=
  tRun ⟨0x4A, true, false, fun _ => .command, fun _ => false, fun _ => true, fun _ _ => false, seedPut, fun _ _ => none⟩ f s

/-- A launch by a task: the state, and INFO of its result word (R345, R382). -/
def graphGoDo (s : State) (c : Cmd) : State × Nat :=
  let part := s.partOf c.cid
  let b := c.b.toNat
  if c.c ≠ 0 ∧ !hubAllows s part .write c.c.toNat 32 then (s, 2 * 2 ^ 28)
  else
    match enqueueLaunch s part 3 (b % 16) c.a.toNat (if b.testBit 6 then some (b / 16 % 4) else none) c.c.toNat with
    | none => (s, 2 ^ 28)
    | some (s, n) => (s, n % 2 ^ 16)

/-- The node of a started graph whose entry lies at an address: where a graph is started in several queues, of the first
queue whose node is WAITING, else of the first whose is READY (R346, log entry 75). -/
def nodeAt (s : State) (part va : Nat) : Option (Nat × Nat) :=
  let all := (List.range 16).filterMap fun q => (s.graph part q).bind fun l =>
    if l.started && decide (l.graph + 64 ≤ va) && (va - l.graph - 64) % 128 == 0
        && decide ((va - l.graph - 64) / 128 < l.nodes.length) then some (q, (va - l.graph - 64) / 128) else none
  let is (st : NodeState) (x : Nat × Nat) : Bool := (s.node part x.1 x.2).state == st
  firstOf [all.find? (is .waiting), all.find? (is .ready), all.head?]

/-- A signal: the state, and INFO of its result word (R346). -/
def taskSigDo (s : State) (c : Cmd) : State × Nat :=
  let part := s.partOf c.cid
  match nodeAt s part c.a.toNat with
  | none => (s, 2 * 2 ^ 28)
  | some (q, i) =>
    let n := s.node part q i
    if n.state = .waiting then (decDeps s part q i, (n.deps - 1) % 2 ^ 16)
    else if n.state = .ready then (s, 2 ^ 28)
    else (s, 2 * 2 ^ 28)

/-- A command to the scheduler leaves the context once every older access on every path is visible at package scope
(R345, R346). -/
def hPerform (s : State) (cid : Nat) : State :=
  let s := s.dropFences cid
  match (s.ctx cid).hCmds with
  | [] => s
  | c :: rest =>
    if !((List.range 8).all fun k => s.classDone cid k c.seq 3) then s
    else
      let r := if c.op = 0x48 then graphGoDo s c else taskSigDo s c
      r.1.modCtx cid fun x => { x with hCmds := rest, r := x.r.readyWord c.req (resultWord 0 r.2) }

/-- R326: a single access of an engine performs: the next element of a copy (class 1), the record of a `rot.sav` (class 2), the
next granule of an `as.ld` (class 7), or a command to the scheduler (class 8). -/
def execEngineAccessPerform (cid cls pos : Nat) (s : State) : Host.Outcome State Fault Refusal :=
  if cls = 1 then .next (copyPerform s cid pos)
  else if cls = 2 then .next (savPerform s cid)
  else if cls = 7 then .next (asPerform s cid pos)
  else if cls = 8 then .next (hPerform s cid)
  else .next s

end Sys2Proof.Machine
end

