-- ==== Sys2Proof/Machine/Fabric.lean ====
section
/-! DEFINITION. Fault service and invalidation (R285, R286, R370), hosts and peers (R318, R368 to R375), keys, partitions,
boot and debug (R376 to R381). -/

namespace Sys2Proof.Machine

/-! ### Walks, fault replies and invalidations (R282 to R286, R370) -/

/-- Caches a translation for a core: in its micro-TLB and its cluster TLB (R256, R284). -/
def cacheFor (t : TlbEntry) (s : State) (core : Nat) : State :=
  (s.modCore core fun c => { c with tlb := pushCap 64 c.tlb t }).modClu (clusterOf core) fun k =>
    { k with tlb := pushCap 2048 k.tlb t }

/-- The misses that waited in a core of a die for room in the walker's queue enter it as far as it goes (R284). -/
def refillWalks (s : State) (die : Nat) : State :=
  ((s.cores.filter fun k => dieOf k.1 == die).flatMap fun k => k.2.misses.map fun m => (k.1, m)).foldl (fun s x =>
    if s.walkerFull x.2.cid x.2.va then s
    else (s.modCore x.1 fun k => { k with misses := k.misses.filter (· != x.2) }).noteMiss x.2.slot x.2.cid x.2.va) s

/-- R282, R284: a die's walk finishes, the oldest waiting one starts, and its translation is cached for the cores it
serves. The fault of a walk without one belongs to the access that asked for it. -/
def execTlbWalkComplete (die pos : Nat) (s : State) : Host.Outcome State Fault Refusal :=
  match (s.die die).walks[pos]? with
  | none => .next s
  | some w =>
    let s := s.modDie die fun d =>
      { d with walks := d.walks.eraseIdx pos ++ d.walkQ.take 1, walkQ := d.walkQ.drop 1,
               wcache := (walkTables s w.part w.page 3 0 (s.part w.part).root).foldl (pushCap 256) d.wcache }
    match walk s w.part w.page with
    | .page p e => .next (refillWalks (w.cores.foldl (cacheFor ⟨w.part, p.base, p.size, e, p.key⟩) s) die)
    | .transFault _ _ => .next (refillWalks s die)
    | .accessFault _ _ => .next (refillWalks s die)

/-- A waiting access tries again after *resume* (R285). -/
def resumeWaiter (va : Nat) (s : State) (w : Nat × Nat) : State :=
  if w.2 = 0 then s.modCtx w.1 fun c => { c with svcWait := none }
  else if w.2 = 3 then
    let go (n : NCmd) : NCmd := if n.held.any (samePage va) = true then { n with held := none } else n
    s.modCtx w.1 fun c => { c with ncmds := c.ncmds.map go }
  else s

/-- The first N command of a context that waits on a page. -/
def heldN (s : State) (cid va : Nat) : Option (Nat × NCmd) :=
  let l := (s.ctx cid).ncmds
  (l.findIdx? fun n => n.held.any (samePage va)).bind fun i => (l[i]?).map fun n => (i, n)

/-- An engine command of an ending task that a delivered fault stops is dropped, since no handler will continue it
(R108, R189). -/
def engGiveUp (s : State) (cid : Nat) : State :=
  let k := s.core (coreOf cid)
  let out (o : EngOp) : Bool := o.cmd.cid == cid && decide (3 ≤ o.heldWhy) && decide (o.heldWhy < 5)
  let run := match k.run with
    | some o => if o.cmd.cid = cid ∧ o.cmd.op = 0x0E then [o] else []
    | none => []
  let s := (k.heldOps.filter out ++ run).foldl (fun s o => engDrop s o.cmd) s
  s.modCore (coreOf cid) fun k =>
    { k with heldOps := k.heldOps.filter (fun o => !out o), run := if run.isEmpty then k.run else none }

/-- A waiting access takes its fault after *deliver* (R189, R225, R246, R285, R289, R303, R312): a fetch at the boundary, an
M slot at issue with the lower slots done, and any other at the next boundary. -/
def deliverWaiter (va : Nat) (s : State) (w : Nat × Nat) : State :=
  let cid := w.1
  let post (s : State) : State := s.modCtx cid fun c => c.postTrap ⟨5, 9, 0, 0, va⟩
  if w.2 = 0 then
    let t := s.modCtx cid fun c => { c with svcWait := none }
    match (s.ctx cid).svcWait with
    | some (slot, a) =>
      if slot = fetchSlot then t.placeTrap cid ⟨5, 0, 0, 0, a⟩ else t.resumedTrap cid ⟨5, slot, 0, 0, a⟩
    | none => s
  else if w.2 = 1 then post (if (s.ctx cid).status = .ending then engGiveUp s cid else s)
  else if w.2 = 3 then
    match heldN s cid va with
    | some (i, n) => nmStop s cid i n 5 va
    | none => s
  else if w.2 = 4 then
    s.modDie (dieOf (coreOf cid)) fun d => { d with pkRun := d.pkRun.map fun r =>
      if r.cmd.cid = cid then { r with finished := true, status := 2, addr := va } else r }
  else if w.2 = 6 then s.modCtx cid fun c => c.dictFault 5 va
  else if w.2 % 2 = 0 then
    let go (k : Copy) : Copy := if copyCls k.cmd = w.2 then { k with held := some (5, va) } else k
    post (s.modCtx cid fun c => { c with copies := c.copies.map go })
  else
    let go (a : AsLd) : AsLd := if asCls a.cmd = w.2 then { a with held := some (5, va) } else a
    post (s.modCtx cid fun c => { c with asLds := c.asLds.map go })

/-! ### The remote side (R374, R375) -/

/-- An acknowledged write of the bridge: its bytes, or the counter that a split atomic has read and raised (R375). -/
def State.remoteTake (s : State) (w : BufWrite) : State :=
  if w.cls = 9 then
    let ks := w.cells.map (·.1)
    s.putCells (ks.zip (leBytes 4 (leNat (ks.map (memGet s.mem)) + 1)))
  else s.putCells w.cells

/-- The queue of the started graph whose record a bridge entry writes. -/
def recQueue (s : State) (w : BufWrite) : Option Nat := queueOf s (w.cid - 2 ^ 40) (w.seq / 65536)

/-- R374: the remote side acknowledges a write, in order for one address; the record writes of the schedulers in their order,
since STATE and TEND come last (R342, R373, log entry 78). A node or a graph may then be complete. -/
def execRemoteAcknowledge (pos : Nat) (s : State) : Host.Outcome State Fault Refusal :=
  match takeWrite s.hub.bridge pos with
  | none => .next s
  | some (w, rest) =>
    let t := (s.modHub fun h => { h with bridge := rest }).remoteTake w
    if !w.ofHub then .next t
    else if (s.hub.bridge.take pos).any fun x => x.cid == w.cid then .next s
    else match recQueue s w with
      | some q => .next (graphCheck t (w.cid - 2 ^ 40) q)
      | none => .next t

/-- A record write that the remote side refuses is logged; its node ends FAILED and its graph stops (R382). -/
def recRefused (s : State) (w : BufWrite) : State :=
  let part := w.cid - 2 ^ 40
  let n := w.seq % 65536
  let s := s.logError part errRecord ((w.cells.map (·.1)).headD 0)
  match recQueue s w with
  | none => s
  | some q =>
    let s := s.modNode part q n fun x => { x with recFailed := true }
    let s := if (s.node part q n).state = .done then
        stopGraph (s.modNode part q n fun x => { x with state := .failed }) part q n
      else s
    graphCheck s part q

/-- Whether a context fetches the code at an address of host or peer memory: the bundle at its `pc` is to issue next (R66,
R374). -/
def remoteFetch (s : State) (cid va : Nat) : Bool :=
  let c := s.ctx cid
  let at_ := 2 * c.r.pc.toNat
  s.mayIssue (coreOf cid) && c.status == .running && s.fetcher cid == cid && c.svcWait.isNone
    && decide (at_ ≤ va) && decide (va < at_ + 2) &&
    (match locate s cid .fetch va with
     | .ok l => l.host
     | .error _ => false)

/-- A failed write to a host or a peer fails its task at the next boundary; in a task that ends it is a failed item of its work
(R108, R374). -/
def Ctx.writeFailed (c : Ctx) : Ctx :=
  if c.status = .ending then { c with firstFail := some (c.firstFail.getD ⟨2, 6, 9, c.r.inHandler, 0, c.r.pc⟩) }
  else { c with hTraps := c.hTraps ++ [⟨6, 9, 0, 0, 0⟩] }

/-- R374: an error response to a read of host or peer memory that has been sent is an access fault of the reading slot or
engine at the next boundary, and one to a write that has been sent, behind no open one to its address, fails the task. Positions
below 1,000 name accesses of the M queue, those from 1,000 on writes in the bridge, those from 2^64 on an engine and the address
that it reads, those from 2^128 on an address of which the context fetches code, and those from 2^129 on one of its dictionary
load (log entry 44). -/
def execRemoteErrorResponse (cid pos : Nat) (s : State) : Host.Outcome State Fault Refusal :=
  let va := pos % 2 ^ 64
  if 2 ^ 129 ≤ pos then
    if (s.ctx cid).r.dictLoad = .running ∧ remoteVa s cid va then .next (s.modCtx cid fun c => c.dictFault 6 va) else .next s
  else if 2 ^ 128 ≤ pos then
    if remoteFetch s cid va then .next (s.placeTrap cid ⟨6, 0, 0, 0, va⟩) else .next s
  else if 2 ^ 64 ≤ pos then
    if remoteVa s cid (pos % 2 ^ 64) then .next (engineRemoteError s cid (pos / 2 ^ 64 - 1) (pos % 2 ^ 64)) else .next s
  else if pos < 1000 then
    match (s.ctx cid).mq[pos]? with
    | some a =>
      if a.host && s.mayPerform cid a then
        let s := s.dropM cid a.seq
        let port := ((s.ctx cid).r.land.find? fun q => q.id == a.req).map (·.port) |>.getD 6
        .next (s.modCtx cid fun c =>
          { c with r := { c.r with land := c.r.land.filter fun q => q.id != a.req } }.postTrap ⟨6, port, 0, 0, a.va⟩)
      else if a.host && a.kind == .release && decide (4 ≤ a.scope) && s.mayLeave cid a then
        .next ((s.dropM cid a.seq).modCtx cid Ctx.writeFailed)
      else .next s
    | none => .next s
  else
    match takeWrite s.hub.bridge (pos - 1000) with
    | some (w, rest) =>
      let s' := s.modHub fun h => { h with bridge := rest }
      if w.ofHub then .next (recRefused s' w)
      else if w.cid = cid then
        .next (s'.modCtx cid Ctx.writeFailed)
      else .next s
    | none => .next s

/-- R285, R370: a fault reply resumes or delivers, and its record is free; an access that waited for a record takes it. A
reply that names no record is ignored. -/
def execFaultReply (part : Nat) (msg : List Byte) (s : State) : Host.Outcome State Fault Refusal :=
  let p := s.part part
  match p.faults.find? fun f => f.num == slice msg 8 8 with
  | none => .next s
  | some f =>
    if slice msg 0 2 ≠ 2 ∨ 1 < slice msg 2 1 then .next s
    else
      let s := s.modPart part fun p => { p with faults := p.faults.filter (fun x => x.num != f.num), faultWaiting := [] }
      let s := f.waiters.foldl (if slice msg 2 1 = 0 then resumeWaiter f.va else deliverWaiter f.va) s
      .next (p.faultWaiting.foldl (fun s w => s.enqueueFault w) s)

/-- Whether a partition has been formed: before that no endpoint of it takes a message (R369, R381). -/
def State.formed (s : State) (part : Nat) : Bool := !(s.part part).dies.isEmpty

/-- Whether an invalidation covers a cached translation (R286). -/
def invalHits (part : Nat) (v : Nat × Nat × Bool) (t : TlbEntry) : Bool :=
  t.part == part && (v.2.2 || (decide (t.base < v.1 % 2 ^ 57 + v.2.1) && decide (v.1 % 2 ^ 57 < t.base + t.size)))

/-- R286: an invalidation begins. -/
def execInvalidation (part : Nat) (msg : List Byte) (s : State) : Host.Outcome State Fault Refusal :=
  eventRun (s.formed part && slice msg 0 2 == 3) s (s.modPart part fun p =>
    { p with invals := p.invals ++ [(slice msg 8 8, slice msg 16 8, slice msg 2 1 % 2 == 1)] })

/-- Whether an access of the partition that used a translation is still under way: in an M queue, or a write that has not
performed, in a buffer or the bridge (R286, R322). -/
def translatedPending (s : State) (part : Nat) : Bool :=
  (s.ctxs.any fun c => c.2.bind.part == part &&
    (c.2.mq.any (fun a => a.keys.any fun k => decide (k < 2 ^ 64) || remoteKey k) || s.hidden c.1 4 fun w => decide (2 ≤ w.q))) ||
  s.hub.bridge.any fun w => w.cid == hubCid part

/-- Every translation cache drops what an invalidation covers, and the walkers' caches the partition's table entries. -/
def dropTranslations (s : State) (part : Nat) (v : Nat × Nat × Bool) : State :=
  let keep (l : List TlbEntry) : List TlbEntry := l.filter fun t => !invalHits part v t
  { s with
    cores := s.cores.map fun k => (k.1, { k.2 with tlb := keep k.2.tlb })
    clus := s.clus.map fun k => (k.1, { k.2 with tlb := keep k.2.tlb })
    dies := s.dies.map fun d => (d.1, { d.2 with wcache := d.2.wcache.filter fun t => t.part != part }) }

/-- R286: every cached translation of the range is gone, and no access that used one is under way: the completion is
sent. -/
def execInvalidationDone (part pos : Nat) (s : State) : Host.Outcome State Fault Refusal :=
  match (s.part part).invals[pos]? with
  | none => .next s
  | some v =>
    if translatedPending s part then .next s
    else
      let s := dropTranslations s part v
      .next ((s.modPart part fun p => { p with invals := p.invals.eraseIdx pos }).notify part
        (leBytes 2 0x8003 ++ leBytes 6 0 ++ leBytes 8 v.1 ++ leBytes 8 v.2.1 ++ leBytes 40 0))

/-! ### Launch messages (R370, R371, R382) -/

/-- Whether a launch message is malformed (R371). -/
def launchBad (s : State) (part : Nat) (m : List Byte) : Bool :=
  m.length != 64 || decide (16 ≤ slice m 2 1) || decide (8 ≤ slice m 3 1) || slice m 4 4 != 0 || slice m 8 8 % 64 != 0
    || !isTranslated (slice m 8 8) || !(slice m 8 8 / 2 ^ 56 == 0 || slice m 8 8 / 2 ^ 56 == 255)
    || slice m 16 8 % 32 != 0 || !zeros ((m.drop 32).take 32)
    || (slice m 16 8 != 0 && !hubAllows s part .write (slice m 16 8) 32)

/-- A launch reply (R371). -/
def launchReply (status seq tag : Nat) : List Byte :=
  leBytes 2 0x8001 ++ leBytes 2 status ++ leBytes 4 0 ++ leBytes 8 seq ++ leBytes 8 tag ++ leBytes 40 0

/-- R333, R371: a launch enters its queue or is refused, and is answered. -/
def execHostLaunch (part : Nat) (msg : List Byte) (s : State) : Host.Outcome State Fault Refusal :=
  if !s.formed part || slice msg 0 2 != 1 then .next s
  else
    let tag := slice msg 24 8
    if launchBad s part msg then .next (s.send (launchReply 2 0 tag))
    else
      let ovr := if (slice msg 3 1).testBit 2 then some (slice msg 3 1 % 4) else none
      match enqueueLaunch s part 4 (slice msg 2 1) (slice msg 8 8) ovr (slice msg 16 8) with
      | none => .next (s.send (launchReply 1 0 tag))
      | some (s, n) => .next (s.send (launchReply 0 n tag))

/-- R370. -/
def execUnknownLaunchMessage (part : Nat) (msg : List Byte) (s : State) : Host.Outcome State Fault Refusal :=
  let known := slice msg 0 2 == 1 || slice msg 0 2 == 2 || slice msg 0 2 == 3
  if known || !s.formed part then .next s else .next (s.send (leBytes 2 0x80FF ++ leBytes 62 0))

/-! ### Inbound operations (R318, R372) -/

/-- The key of a byte that an inbound operation reaches; KIND plays no part (R372). -/
def inKey (s : State) (part : Nat) (rd wr : Bool) (va : Nat) : Option Nat :=
  if !isTranslated va ∨ (va / 2 ^ 56 ≠ 0 ∧ va / 2 ^ 56 ≠ 255) then none
  else
    match walk s part va with
    | .page p _ =>
      let k := p.key + (va % 2 ^ 57 - p.base)
      if p.host || (rd && !p.r) || (wr && !p.w) || (rd && s.poisoned k) then none else some k
    | .transFault _ _ => none
    | .accessFault _ _ => none

/-- The keys of a range. -/
def inKeys (s : State) (part : Nat) (rd wr : Bool) (va n : Nat) : Option (List Nat) :=
  allSome ((List.range n).map fun i => inKey s part rd wr ((va + i) % 2 ^ 64))

/-- Answers of the memory endpoint: done, access error, not supported. -/
def answerOk : Byte := 0
/-- An access-error response (R372). -/
def answerAccess : Byte := 1
/-- A not-supported response (R318, R368). -/
def answerUnsupported : Byte := 2
/-- The answer to a message whose signature fails (R369). -/
def answerSignature : Byte := 3

/-- Whether the memory or the peer endpoint of a partition takes a packet: `src` is the fabric address of a peer module's peer
endpoint, which the peer table must list (R369), none for a host; the policy may ask for transport security (R368). -/
def Part.takes (p : Part) (src : Option Nat) (secured : Bool) : Bool :=
  (secured || !p.memSecure) && src.all fun a => p.peers.toList.contains (some a)

/-- An inbound operation: nothing before the partition is formed; a packet that its endpoints do not take is dropped and logged
(R368, R369; DESIGN CHOICE, log entry 76). -/
def inbound (s : State) (q : Requester) (k : Host.Outcome State Fault Refusal) : Host.Outcome State Fault Refusal :=
  if !s.formed q.part then .next s
  else if !(s.part q.part).takes q.src q.secured then .next (s.logError q.part errPacket 1)
  else k

/-- R372: an inbound read of memory; one RMA has up to 2^32 bytes (R368). -/
def execInboundRmaRead (q : Requester) (addr len : Nat) (s : State) : Host.Outcome State Fault Refusal :=
  inbound s q <| if 2 ^ 32 < len then .next (s.send [answerUnsupported])
  else match inKeys s q.part true false addr len with
  | some ks => .next (s.send (answerOk :: ks.map (memGet s.mem)))
  | none => .next (s.send [answerAccess])

/-- R372: an inbound write performs when it is in memory. -/
def execInboundRmaWrite (q : Requester) (addr : Nat) (data : List Byte) (s : State) : Host.Outcome State Fault Refusal :=
  inbound s q <| if 2 ^ 32 < data.length then .next (s.send [answerUnsupported])
  else match inKeys s q.part false true addr data.length with
  | some ks => .next ((s.putCells (ks.zip data)).send [answerOk])
  | none => .next (s.send [answerAccess])

/-- The new value of an inbound atomic: 0 fetch-add, 1 add, 2 swap, 3 compare-and-swap, 4 FP32 add (R318). -/
def inAtomNew (op size old x cmp : Nat) : Nat :=
  if op ≤ 1 then (old + x) % 2 ^ (8 * size)
  else if op = 2 then x % 2 ^ (8 * size)
  else if op = 3 then (if old = cmp % 2 ^ (8 * size) then x % 2 ^ (8 * size) else old)
  else addF32 old (x % 2 ^ 32)

/-- R318, R372: an inbound atomic, in one step at the unit of its target. The peer endpoint serves RMA only (R369): an atomic of
a peer has the not-supported response (R368; DESIGN CHOICE, log entry 76). -/
def execInboundAtomic (q : Requester) (addr op size operand compare : Nat) (s : State) :
    Host.Outcome State Fault Refusal :=
  inbound s q <| if q.src.isSome = true ∨ 4 < op ∨ (size ≠ 4 ∧ size ≠ 8) ∨ (op = 4 ∧ size ≠ 4) ∨ addr % size ≠ 0 then .next (s.send [answerUnsupported])
  else
    match inKeys s q.part true true addr size with
    | none => .next (s.send [answerAccess])
    | some ks =>
      let old := leNat (ks.map (memGet s.mem))
      let s := s.putCells (ks.zip (leBytes size (inAtomNew op size old operand compare)))
      .next (s.send (answerOk :: (if op = 1 ∨ op = 4 then [] else leBytes size old)))

/-- R368: a packet of an unsupported part or mode; in recovery mode only the management endpoint answers (R376). -/
def execUnsupportedPacket (part answered : Nat) (s : State) : Host.Outcome State Fault Refusal :=
  if s.hub.recovery then .next s
  else if answered = 1 then .next (s.send [answerUnsupported]) else .next (s.logError part errPacket 0)

/-! ### Messages under the owner key (R369, R378) -/

/-- A number as bytes, behind how many they are, so that no two numbers share their bytes. -/
def numBytes (w : Nat) : List Byte := leBytes 8 (w.log2 / 8 + 1) ++ leBytes (w.log2 / 8 + 1) w

/-- The digest of a list of numbers. -/
def numsDigest (l : List Nat) : Nat := Config.sha3 (l.flatMap numBytes)

/-- The digest of a management message. -/
def msgDigest (kind : Nat) (words : List Nat) : Nat := numsDigest (kind :: words)

/-- Whether the owner key signed a message. -/
def Hub.signed (h : Hub) (kind : Nat) (words : List Nat) (sig : Nat) : Bool :=
  !h.recovery && h.ownerKey.any fun k => Config.sigVerifies k (msgDigest kind words) sig

/-- A message that the owner key has to sign: done and answered, or answered with status 3 (R369). -/
def signedRun (s : State) (kind : Nat) (words : List Nat) (sig : Nat) (k : State → State) : Host.Outcome State Fault Refusal :=
  if s.hub.recovery then .next s
  else if s.hub.signed kind words sig then .next ((k s).send [answerOk]) else .next (s.send [answerSignature])

/-- R369: the owner key is installed once; then it changes only under its own signature. -/
def execOwnerKeyInstall (key sig : Nat) (s : State) : Host.Outcome State Fault Refusal :=
  match s.hub.ownerKey with
  | none => if s.hub.recovery then .next s else .next ((s.modHub fun h => { h with ownerKey := some key }).send [answerOk])
  | some _ => signedRun s 1 [key] sig fun s => s.modHub fun h => { h with ownerKey := some key }

/-- R378: REQUIRE and the launch keys, up to 8, of a partition; bit 1 of `require` asks for transport security on its memory
and peer endpoints (R368, log entry 76). -/
def execLaunchPolicyChange (part require : Nat) (keys : List Nat) (sig : Nat) (s : State) :
    Host.Outcome State Fault Refusal :=
  signedRun s 2 (part :: require :: keys) sig fun s =>
    s.modPart part fun p => { p with require := require.testBit 0, memSecure := require.testBit 1, keys := keys.take 8 }

/-- R369: a slot of a partition's peer table. -/
def execPeerTableChange (part slot valid addr sig : Nat) (s : State) : Host.Outcome State Fault Refusal :=
  signedRun s 3 [part, slot, valid, addr] sig fun s => s.modPart part fun p =>
    if h : slot < 16 then { p with peers := p.peers.set slot (if valid = 1 then some addr else none) } else p

/-- R360: the retirement table is cleared. -/
def execRetirementTableClear (sig : Nat) (s : State) : Host.Outcome State Fault Refusal :=
  signedRun s 4 [] sig fun s => s.modHub Hub.clearTable

/-- The dies that a mask names. -/
def maskDies (m : Nat) : List Nat := (List.range 8).filter fun d => m.testBit d

/-- The capacity of one logical channel (R308). -/
def channelCap (d : Nat) : Nat := 3 * 2 ^ 30 / ((8 + d - 1) / d)

/-- A write buffer without the bytes at some keys. -/
def dropKeys (f : Nat → Bool) (l : List BufWrite) : List BufWrite :=
  (l.map fun w => { w with cells := w.cells.filter fun c => !f c.1 }).filter fun w => !w.cells.isEmpty

/-- No write on its way reaches some keys any more. -/
def State.dropWrites (s : State) (f : Nat → Bool) : State :=
  { s with
    cores := s.cores.map fun k => (k.1, { k.2 with buf := dropKeys f k.2.buf })
    clus := s.clus.map fun k => (k.1, { k.2 with buf := dropKeys f k.2.buf })
    dies := s.dies.map fun d => (d.1, { d.2 with buf := dropKeys f d.2.buf })
    hub := { s.hub with pkgBuf := dropKeys f s.hub.pkgBuf } }

/-- What forming a partition clears (R381): its stack memory, with the writes to it that have not performed, and the stores
and caches of its dies, those that stand for logical dies it lacks among them (R348, log entry 30). -/
def formClear (s : State) (part : Nat) (dies : List Nat) (cap : Nat) : State :=
  let m := memClear s.mem (kStack part 0) (kStack part (256 * cap))
  let m := (dies ++ (List.range 8).map fun d => 8 * (part + 1) + d).foldl (fun m d => memClear m (kAngle d 0) (kAngle d 0 + 2 ^ 31)) m
  let mine (k : Nat) : Bool := decide (kStack part 0 ≤ k) && decide (k < kStack part (256 * cap))
  let s := ((s.setMem m).dropWrites mine).modHub fun h => { h with poison := h.poison.filter fun g => !mine (g * 64) }
  let mem : Nat → Bool := fun d => dies.contains d || decide (d / 8 = part + 1)
  let clu (k : Nat × Cluster) : Nat × Cluster := if mem (k.1 / 32) then
    (k.1, { k.2.dropStack with forest := [], inits := [], uses := [], gen := 0, poisoned := [], bad := [], tlb := [] }) else k
  let die (d : Nat × Die) : Nat × Die :=
    if mem d.1 then (d.1, { d.2 with slots := [], walks := [], walkQ := [], wcache := [] }) else d
  let core (k : Nat × Core) : Nat × Core := if mem (dieOf k.1) then (k.1, { k.2 with tlb := [] }) else k
  { s with cores := s.cores.map core, clus := s.clus.map clu, dies := s.dies.map die }

/-- R360, R369, R381: firmware forms a partition of dies that no other one has, and maps its shape onto the cores that are not
retired. The low 64 bits of `root` are the stack offset of
the root directory, and the bits above are the bytes that the firmware writes there (R280). -/
def execPartitionForm (part dieMask root sig : Nat) (s : State) : Host.Outcome State Fault Refusal :=
  let dies := maskDies dieMask
  let taken := s.hub.parts.any fun p => !p.2.dies.isEmpty && (p.1 == part || p.2.dies.any dies.contains)
  if s.hub.signed 5 [part, dieMask, root % 2 ^ 64, root / 2 ^ 64] sig ∧ (taken ∨ dies.isEmpty ∨ 8 ≤ part) then .next s
  else
    signedRun s 5 [part, dieMask, root % 2 ^ 64, root / 2 ^ 64] sig fun s =>
      let cap := channelCap dies.length
      let s := formClear s part dies cap
      let s := s.setMem (memPutBytes s.mem (kStack part (root % 2 ^ 64)) (leBytes ((root / 2 ^ 64).log2 / 8 + 1) (root / 2 ^ 64)))
      let s := s.modPart part fun _ =>
        { Part.reset with dies := dies, hosts := dies, host := Config.hostAddress part, root := root % 2 ^ 64, cap := cap }
      s.modHub fun h => h.mapPart part

/-- The work of some contexts is gone from the units they share: the arrays, the barriers, the Asterisms, the atomics on their
way and the Catalogue units; a bundle of theirs in issue is gone too. -/
def State.dropWork (s : State) (f : Nat → Bool) : State :=
  let keep (l : List Cmd) : List Cmd := l.filter fun c => !f c.cid
  let core (k : Nat × Core) : Nat × Core := (k.1, { k.2 with
    engQ := keep k.2.engQ, heldOps := k.2.heldOps.filter (fun o => !f o.cmd.cid), run := k.2.run.filter fun o => !f o.cmd.cid })
  let clu (k : Nat × Cluster) : Nat × Cluster := (k.1, { k.2 with
    cbarQ := keep k.2.cbarQ, eqQ := keep k.2.eqQ, atomQ := k.2.atomQ.filter fun a => !f a.cid })
  let die (d : Nat × Die) : Nat × Die := (d.1, { d.2 with
    pkQ := keep d.2.pkQ, pkRun := d.2.pkRun.filter fun r => !f r.cmd.cid })
  let t := { s with cores := s.cores.map core, clus := s.clus.map clu, dies := s.dies.map die }
  if s.issuing.any f then { t with issue := [], issuing := [], issueCores := [], before := none } else t

/-- R369, R379: a partition is dissolved: its work is gone, its kernel-debug domain is locked, and its dies are free. -/
def execPartitionDissolution (part sig : Nat) (s : State) : Host.Outcome State Fault Refusal :=
  signedRun s 6 [part] sig fun s =>
    let s := s.dropWork fun i => (s.ctx i).status != .free && (s.ctx i).bind.part == part
    let s := { s with ctxs := s.ctxs.map fun (c : Nat × Ctx) => if c.2.bind.part = part ∧ c.2.status ≠ TStatus.free then (c.1, Ctx.reset) else c }
    s.modHub fun h =>
      { h with parts := h.parts.filter (fun p => p.1 != part),
               kernelDebug := h.kernelDebug.map fun (d : Nat × DebugDom) =>
                 if d.1 = part then (d.1, { d.2 with unlocked := false, challenge := none }) else d }

/-- R369, R379: the debug keys of a domain (0: firmware; p + 1: kernel debug of partition p). -/
def execDebugKeyInstall (domain key sig : Nat) (s : State) : Host.Outcome State Fault Refusal :=
  signedRun s 7 [domain, key] sig fun s => s.modHub fun h =>
    if domain = 0 then { h with firmDebug := { h.firmDebug with keys := h.firmDebug.keys ++ [key] } }
    else
      let d := h.kernelDebug.getD (domain - 1) DebugDom.reset
      { h with kernelDebug := h.kernelDebug.set (domain - 1) { d with keys := d.keys ++ [key] } }

/-! ### Boot and attestation (R376, R377) -/

/-- The security, management or scheduler image that a boot verifies (R376). -/
def Hub.image (h : Hub) (i : Fin 3) : FwImage := h.images[i].getD ⟨Config.bootDigest i.val, 0, Config.bootSig i.val⟩

/-- Whether an image passes: its signature by the Tronas root key, and its version against the rollback counter (R376). -/
def Hub.passes (h : Hub) (f : FwImage) : Bool := Config.sigVerifies Config.rootKey f.digest f.sig && decide (h.rollback ≤ f.version)

/-- R376: the security (0), management (1) or scheduler (2) image is accepted in recovery mode when it passes; the next reset
boots it. -/
def execFirmwareImage (image : ImageFile) (version sig : Nat) (s : State) : Host.Outcome State Fault Refusal :=
  if !s.hub.recovery then .next s
  else if h : image.which < 3 then
    let f : FwImage := ⟨Config.sha3 image.bytes, version % 2 ^ 16, sig⟩
    if s.hub.passes f then .next ((s.modHub fun h' => { h' with images := h'.images.set image.which (some f) }).send [answerOk])
    else .next (s.send [answerSignature])
  else .next s

/-- The attestation report without its signature (R377). -/
def report (h : Hub) (nonce : List Byte) : List Byte :=
  let pad (bs : List Byte) (n : Nat) : List Byte := (bs ++ List.replicate n 0).take n
  let dig (i : Fin 3) : Nat := h.digests[i].getD (Config.bootDigest i.val)
  let pol := h.parts.flatMap (fun p => p.1 :: (if p.2.require then 1 else 0) :: p.2.keys)
    ++ h.kernelDebug.flatMap (fun d => d.2.keys) ++ h.firmDebug.keys
  pad nonce 64 ++ leBytes 64 (dig 0) ++ leBytes 64 (dig 1) ++ leBytes 64 (dig 2)
    ++ leBytes 2 h.versions[0] ++ leBytes 2 h.versions[1] ++ leBytes 2 h.versions[2] ++ leBytes 2 h.rollback
    ++ leBytes 64 (numsDigest pol) ++ leBytes 64 (numsDigest h.retireTable)
    ++ leBytes 8 ((if h.kernelDebug.any fun d => d.2.unlocked then 1 else 0) + (if h.firmDebug.unlocked then 2 else 0))

/-- R377: the report and its signature by the identity key. -/
def execAttestationRequest (nonce : List Byte) (s : State) : Host.Outcome State Fault Refusal :=
  let r := report s.hub nonce
  .next (s.send (r ++ leBytes 4627 (Config.identitySign (Config.sha3 r))))

/-! ### Debug (R104, R227, R234, R379) -/

/-- A debug domain. -/
def Hub.domain (h : Hub) (d : Nat) : DebugDom := if d = 0 then h.firmDebug else h.kernelDebug.getD (d - 1) DebugDom.reset

/-- Changes a debug domain. -/
def State.modDomain (s : State) (d : Nat) (f : DebugDom → DebugDom) : State :=
  s.modHub fun h =>
    if d = 0 then { h with firmDebug := f h.firmDebug }
    else { h with kernelDebug := h.kernelDebug.set (d - 1) (f (h.kernelDebug.getD (d - 1) DebugDom.reset)) }

/-- R379: 64 random bytes, which void an earlier challenge; refused after 8 consecutive failures. -/
def execDebugChallengeRequest (domain : Nat) (s : State) : Host.Outcome State Fault Refusal :=
  if s.hub.recovery then .next s
  else if 8 ≤ (s.hub.domain domain).fails then .next (s.send [answerAccess])
  else
    let n := s.hub.nChallenge
    let s := s.modDomain domain fun d => { d with challenge := some n }
    .next ((s.modHub fun h => { h with nChallenge := n + 1 }).send (answerOk :: leBytes 64 (Config.challenge n)))

/-- What an answer to a challenge signs (R379). -/
def unlockDigest (domain n : Nat) : Nat :=
  Config.sha3 (leBytes 64 (Config.challenge n) ++ leBytes 8 Config.serial ++ leBytes 8 (if domain = 0 then 1 else 0)
    ++ leBytes 8 (domain - 1))

/-- R379: a valid answer unlocks the domain; any other counts as a failure. -/
def execDebugUnlockAnswer (domain sig : Nat) (s : State) : Host.Outcome State Fault Refusal :=
  if s.hub.recovery then .next s
  else
    let d := s.hub.domain domain
    let good := d.challenge.any fun n => d.keys.any fun k => Config.sigVerifies k (unlockDigest domain n) sig
    if good then
      .next ((s.modDomain domain fun d => { d with challenge := none, fails := 0, unlocked := true }).send [answerOk])
    else .next ((s.modDomain domain fun d => { d with challenge := none, fails := d.fails + 1 }).send [answerSignature])

/-- R379: the domain is locked again, and no session of it holds a context any more. -/
def execDebugRelock (domain : Nat) (s : State) : Host.Outcome State Fault Refusal :=
  let s := s.modDomain domain fun d => { d with unlocked := false, challenge := none }
  if domain = 0 then .next s
  else
    .next { s with ctxs := s.ctxs.map fun (c : Nat × Ctx) =>
      if c.2.bind.part + 1 = domain then (c.1, { c.2 with held := false, dbgStop := none }) else c }

/-- Whether kernel debug is unlocked for the partition of a context. -/
def debugOpen (s : State) (cid : Nat) : Bool := (s.hub.domain (s.partOf cid + 1)).unlocked

/-- R234: the unlocked domain sets a comparator, and its session holds the context from then on (log entry 32). -/
def execBreakpointComparatorSet (cid n addr mask : Nat) (s : State) : Host.Outcome State Fault Refusal :=
  let v := if mask % 1024 = 0 then none else some (BitVec.ofNat 64 addr, BitVec.ofNat 10 mask)
  eventRun (debugOpen s cid && decide (n < 4) && decide ((s.ctx cid).status ≠ .free)) s
    (s.modCtx cid fun c => { c with brk := if h : n < 4 then c.brk.set n v else c.brk, held := true })

/-- R227: the session resumes a context stopped at a break; a slot that a comparator stopped issues. -/
def execDebugSessionResume (cid : Nat) (s : State) : Host.Outcome State Fault Refusal :=
  match (s.ctx cid).dbgStop with
  | none => .next s
  | some (_, slot, code) =>
    if !debugOpen s cid then .next s
    else
      .next (s.modCtx cid fun c =>
        { c with dbgStop := none,
                 bun := if 0x3FFC ≤ code.toNat then { c.bun with nextPass := some slot } else c.bun })

end Sys2Proof.Machine
end

