-- ==== Sys2Proof/Machine/HeldImage.lean ====
section
/-! DEFINITION. Writes of a held context's image by its kernel-debug session (R222, R379), part by part. The numbers of the
parts are a DESIGN CHOICE (log entry 33). -/

namespace Sys2Proof.Machine

/-! ### Registers -/

/-- A scalar value of an image write: bits 64 and 65 leave its words invalid (log entry 33). -/
def heldVal (value : Nat) : SVal := ⟨BitVec.ofNat 64 value, !value.testBit 64, !value.testBit 65⟩

/-- A vector value with another word i; bit 32 leaves it invalid (log entry 33). -/
def heldWord (v : VVal) (i value : Nat) : VVal :=
  VVal.ofWords fun j => if j = i then ⟨BitVec.ofNat 32 value, !value.testBit 32⟩ else v.word j

/-- A write of a held context's register image (R222, R379, log entry 33): 0 to 63 scalar registers, 64 to 79 predicates, 80
the program counter, 81 the current dictionary bank, 82 and 83 the banks' image addresses, 84 to 87 the generator, 88 to 95
the neither marks of the predicate pairs, 96 to 103 latches as scalars (bit 67 voids one), 128 to 159 patterns (6 bits a
lane, 32 or more none), from 256 on control registers, from 65,536 on words of vector registers (bit 32 leaves one invalid),
from 131,072 on words of vector latches. -/
def heldReg (r : Regs) (reg value : Nat) : Regs :=
  let w := BitVec.ofNat 64 value
  if reg < 64 then r.writeS (BitVec.ofNat 6 reg) (heldVal value)
  else if reg < 80 then r.writeP (BitVec.ofNat 4 reg) (w.getLsbD 0)
  else if reg = 80 then { r with pc := w }
  else if reg = 81 then { r with curBank := w.getLsbD 0 }
  else if reg = 82 then { r with bank0 := { r.bank0 with image := w } }
  else if reg = 83 then { r with bank1 := { r.bank1 with image := w } }
  else if reg = 84 then { r with g0 := w }
  else if reg = 85 then { r with g1 := w }
  else if reg = 86 then { r with g2 := w }
  else if reg = 87 then { r with g3 := w }
  else if reg < 96 then
    let m : BitVec 8 := 1 <<< (reg - 88)
    { r with neither := if w.getLsbD 0 then r.neither ||| m else r.neither &&& ~~~m }
  else if reg < 104 then
    r.writeLatch (reg - 96) (if value.testBit 67 then .voided else .scalar (heldVal value))
  else if 128 ≤ reg ∧ reg < 160 then
    let t := (List.range 32).map fun i => let x := fieldN value (6 * i) 6; if x < 32 then some x else none
    { r with pat := r.pat.setIfInBounds (reg - 128) t }
  else if 256 ≤ reg ∧ reg < 65536 then r.writeCtl (reg - 256) w
  else if 65536 ≤ reg ∧ reg < 65536 + 1024 then
    let v := BitVec.ofNat 5 ((reg - 65536) / 32)
    r.writeV v 32 (heldWord (r.readV v) (reg % 32) value)
  else if 131072 ≤ reg ∧ reg < 131072 + 256 then
    let n := (reg - 131072) / 32
    match r.latchAt (BitVec.ofNat 3 n) with
    | .vector v => r.writeLatch n (.vector (heldWord v (reg % 32) value))
    | _ => r.writeLatch n (.vector (heldWord VVal.zero (reg % 32) value))
  else r

/-! ### Lists of the image

From 2^24 on a number is 2^24 times a part, 2^12 times an item and a field. Bit 64 of the value of field 0 takes the item
away; the place behind the last item of a list takes a new one, where the part has one. -/

/-- Changes the item of a list at a place, takes it away, or adds one behind the last. -/
def editAt {α : Type} (l : List α) (i field value : Nat) (new : Option α) (f : α → α) : List α :=
  if field = 0 ∧ value.testBit 64 then l.eraseIdx i
  else if i = l.length then l ++ new.toList.map f
  else l.modify i f

/-- Field 0 of a pending transfer is its delay-bundle position, field 1 its target (R94). -/
def Transfer.edit (field value : Nat) (t : Transfer) : Transfer :=
  if field = 0 then { t with left := value % 2 ^ 64 } else { t with target := BitVec.ofNat 64 value }

/-- Fields 0, 1 and 2 of a loop shadow are its count, its start and its end (R96). -/
def LoopSh.edit (field value : Nat) (x : LoopSh) : LoopSh :=
  let w := BitVec.ofNat 64 value
  if field = 0 then { x with cnt := w } else if field = 1 then { x with start := w } else { x with last := w }

/-- Changes the shadow of a level, which becomes the innermost where it is not active (R96, R98). -/
def editLoops (l : List LoopSh) (lvl field value : Nat) : List LoopSh :=
  if 4 ≤ lvl then l
  else if field = 0 ∧ value.testBit 64 then l.filter fun x => x.lvl != lvl
  else if l.any fun x => x.lvl == lvl then l.map fun x => if x.lvl = lvl then x.edit field value else x
  else (LoopSh.edit field value ⟨lvl, 0, 0, 0⟩) :: l

/-- Word k of what a landing result writes (R81). -/
def RWrite.edit (k value : Nat) : RWrite → RWrite
  | .sreg r v => .sreg r (if k = 0 then heldVal value else v)
  | .vreg r n v => .vreg r n (heldWord v k value)
  | .pred p _ => .pred p (value.testBit 0)
  | .neither p => .neither p
  | .pat n t => .pat n (t.set k (if value < 32 then some value else none))
  | .ctl num _ => .ctl num (BitVec.ofNat 64 value)
  | .loopRegs lvl c a b =>
    let w := BitVec.ofNat 64 value
    .loopRegs lvl (if k = 0 then w else c) (if k = 1 then w else a) (if k = 2 then w else b)

/-- Word k of a latch value (R71). -/
def Latch.edit (k value : Nat) : Latch → Latch
  | .voided => .voided
  | .scalar v => .scalar (if k = 0 then heldVal value else v)
  | .vector v => .vector (heldWord v k value)

/-- A fixed-latency result in flight: the cc that remain (field 0), its flags (1), word k of its write j (64 + 64 j + k), and
word k of its latch value (2,048 + k). -/
def Pending.edit (cc field value : Nat) (p : Pending) : Pending :=
  if field = 0 then { p with due := cc + value }
  else if field = 1 then { p with flags := BitVec.ofNat 8 value }
  else if field < 64 then p
  else if field < 2048 then { p with writes := p.writes.modify (field / 64 - 1) (RWrite.edit (field % 64) value) }
  else { p with latch := p.latch.map (Latch.edit (field - 2048) value) }

/-- An entry of a landing buffer: the cc that remain (field 0), whether its data has come (1), and its byte k (64 + k). -/
def MReq.edit (cc field value : Nat) (q : MReq) : MReq :=
  if field = 0 then { q with due := cc + value }
  else if field = 1 then { q with arrived := value.testBit 0 }
  else { q with bytes := q.bytes.set (field - 64) (if value < 256 then some (BitVec.ofNat 8 value) else none) }

/-- A pending result word: the cc that remain (field 0) and its value (1; bit 67 takes it away). -/
def TWord.edit (cc field value : Nat) (w : TWord) : TWord :=
  if field = 0 then { w with due := cc + value } else { w with val := if value.testBit 67 then none else some (heldVal value) }

/-- A stream register: its binding (field 0: bit 0 output, bit 1 closed, the tag above them; bit 64 unbinds it), and word k of
its element e (32 + 32 e + k), where the place behind the last takes a new element, the push `seq` (R162, R247). -/
def editStream (q : Option Stream) (seq field value : Nat) : Option Stream :=
  let word : VWord := ⟨BitVec.ofNat 32 value, !value.testBit 32⟩
  if field = 0 then
    if value.testBit 64 then none
    else
      let x := q.getD ⟨false, 0, [], false, []⟩
      some { x with output := value.testBit 0, closed := value.testBit 1, tag := value / 4 % 2 ^ 62 }
  else q.map fun x =>
    let e := field / 32 - 1
    { x with elems := editAt x.elems e field value (some (List.replicate 32 ⟨0, true⟩)) fun l => l.set (field % 32) word
             seqs := if x.output ∧ e = x.elems.length then x.seqs ++ [seq] else x.seqs }

/-- The state of the last `dict.ld`, by the two low bits: none, running, loaded with the entries above them, or faulted with a
cause of six bits and the address above it (R100, R101). -/
def dictState (value : Nat) : DictLoad :=
  match value % 4 with
  | 0 => .none
  | 1 => .running
  | 2 => .loaded (value / 4)
  | _ => .faulted (value / 4 % 64) (value / 2 ^ 8) false

/-- Word `field` of the sweep-state record of a held operation, which then continues as `rot.rst` would from that record (R187,
R211); a record that breaks R211 changes nothing. -/
def editRecord (s : State) (cid field value : Nat) : State :=
  s.modCore (coreOf cid) fun k => { k with heldOps := k.heldOps.map fun o =>
    if o.cmd.cid ≠ cid then o
    else
      let bs := sweepRecord s o
      let bs := bs.take (8 * field) ++ leBytes 8 value ++ bs.drop (8 * field + 8)
      match (recCmd o.cmd (bs.take 64)).map fun c => resumeOp s c (bs.take 64) with
      | some (.ok x) => { x with flags := o.flags, heldWhy := o.heldWhy, entered := o.entered }
      | _ => o }

/-- Parameter `field` of the queued command at a place among those of the context (R193). -/
def editQueued (s : State) (cid item field value : Nat) : State :=
  let w := BitVec.ofNat 64 value
  let edit (c : Cmd) : Cmd :=
    match field with
    | 0 => { c with a := w }
    | 1 => { c with b := w }
    | 2 => { c with c := w }
    | _ => { c with d := w }
  s.modCore (coreOf cid) fun k =>
    match (k.engQ.filter fun c => c.cid == cid)[item]? with
    | some c => { k with engQ := k.engQ.map fun x => if x = c then edit x else x }
    | none => k

/-- A write of the registers' lists (R222): 1 transfers and 2 loop shadows, 3 and 4 those of the trap save area while a handler
runs, 5 results in flight, 6 the landing buffers, 7 result words, 9 the random-bit queue, 10 the last `dict.ld`. -/
def heldList (r : Regs) (cc part item field value : Nat) : Regs :=
  match part with
  | 1 => { r with transfers := editAt r.transfers item field value (some ⟨0, 0⟩) (Transfer.edit field value) }
  | 2 => { r with loops := editLoops r.loops item field value }
  | 3 => if r.inHandler then { r with save := { r.save with
      transfers := editAt r.save.transfers item field value (some ⟨0, 0⟩) (Transfer.edit field value) } } else r
  | 4 => if r.inHandler then { r with save := { r.save with loops := editLoops r.save.loops item field value } } else r
  | 5 => { r with flight := editAt r.flight item field value none (Pending.edit cc field value) }
  | 6 => { r with land := editAt r.land item field value none (MReq.edit cc field value) }
  | 7 => { r with words := editAt r.words item field value none (TWord.edit cc field value) }
  | 9 => { r with rng := editAt r.rng item field value (some 0) fun _ => BitVec.ofNat 32 value }
  | 10 => { r with dictLoad := dictState value }
  | _ => r

/-- A write of a numbered part: the registers' lists, 8 the streams, 11 the sweep-state record, 12 the queued commands, 13 the
touched-row marks (64 to an accumulator), 14 the sequencer table (fields 0 and 1 the halves of an entry). -/
def heldPart (s : State) (cid part item field value : Nat) : State :=
  match part with
  | 8 => s.modCtx cid fun c => { c with r := c.r.setStream item (editStream (c.r.stream item) c.seq field value) }
  | 11 => if field < 8 then editRecord s cid field value else s
  | 12 => editQueued s cid item field value
  | 13 => s.modCtx cid fun c =>
    let x := (item / 64, item % 64)
    let rest := c.touched.filter (· != x)
    { c with touched := if value.testBit 0 ∧ item < 256 then x :: rest else rest }
  | 14 => s.modCtx cid fun c => { c with seqr := { c.seqr with table := c.seqr.table.modify item fun e =>
      if field = 0 then e / 2 ^ 64 * 2 ^ 64 + value % 2 ^ 64 else value % 2 ^ 64 * 2 ^ 64 + e % 2 ^ 64 } }
  | _ => s.modRegs cid fun r => heldList r (s.core (coreOf cid)).cc part item field value

/-! ### Memory, and the message -/

/-- The key of a byte of a held context's memory image (R222): a window offset into its scratchpad banks, its operand store or
the visible banks of its accumulators, or, from 0x280000 on, into their working banks, from 0x290000 on into its shadow rows. -/
def imageKey (s : State) (cid o : Nat) : Option Nat :=
  if 0x280000 ≤ o ∧ o < 0x290000 then
    let n := (o - 0x280000) / 0x4000
    some (kAcc cid n (1 - visibleBank s cid n) (o % 0x4000))
  else if 0x290000 ≤ o ∧ o < 0x2A0000 then some (kShadow cid (o - 0x290000))
  else (windowLoc s cid o).bind fun l => if l.region ≤ 2 then some l.key else none

/-- R379: a part of the image of a context stopped at a break takes a value: a register (see `heldReg`), the sequencer's
sq0–sq15 and k0–k3 (192 to 211), from 2^24 on an item of a list (see `heldPart`), or, from 2^32 on, the byte of its memory at
an offset (see `imageKey`). A new program counter begins its bundle afresh (log entry 33). -/
def execHeldContextImageWrite (cid reg value : Nat) (s : State) : Host.Outcome State Fault Refusal :=
  if !(debugOpen s cid && (s.ctx cid).dbgStop.isSome) then .next s
  else if 2 ^ 32 ≤ reg then
    match imageKey s cid (reg - 2 ^ 32) with
    | some k => .next (s.putCells [(k, BitVec.ofNat 8 value)])
    | none => .next s
  else if 2 ^ 24 ≤ reg then .next (heldPart s cid (reg / 2 ^ 24) (reg / 2 ^ 12 % 2 ^ 12) (reg % 2 ^ 12) value)
  else
    let w := BitVec.ofNat 64 value
    let t := s.modCtx cid fun c =>
      let c := { c with r := heldReg c.r reg value }
      if reg = 80 then { c with bun := { c.bun with nextSkip := 0, nextAft := After.none, nextPass := none, nextWord := none } }
      else if 192 ≤ reg ∧ reg < 208 then { c with seqr := { c.seqr with sq := c.seqr.sq.set (reg - 192) w } }
      else if 208 ≤ reg ∧ reg < 212 then { c with seqr := { c.seqr with k := c.seqr.k.set (reg - 208) w } }
      else c
    .next (if 0x110 ≤ reg ∧ reg < 0x120 then t.writeBankfmt cid (BitVec.ofNat 4 (reg - 0x110)) w else t)

end Sys2Proof.Machine
end

