-- ==== Sys2Proof/Machine/Power.lean ====
section
/-! DEFINITION. Power and temperature (R352 to R357), errors and retirement (R230, R231, R256, R257, R359, R360), fatal
errors and the dump (R361, R362), reset and power loss (R288, R376). -/

namespace Sys2Proof.Machine

/-! ### Droop, current limit and ballast -/

/-- The first cycle in which the window no longer holds more than 16 of these boost cycles (R353). -/
def quietSince (win : List Nat) : Nat := if 16 < win.length then win.getD (win.length - 17) 0 + 1024 else 0

/-- R352: a detection closes the boost switch for the PTB cycle; the 64th boost cycle of a window raises the level and
clears the count. At level 3 nothing rises, and the switch stays open while the window holds 64. -/
def execDroopDetect (cluster core : Nat) (s : State) : Host.Outcome State Fault Refusal :=
  let now := s.hub.ptb
  eventRun (decide (core < 16)) s <| s.modClu cluster fun k =>
    let win := k.boosts.filter fun t => decide (now < t + 1024)
    let win := if win.contains now ∨ 64 ≤ win.length ∨ k.raised = some now then win else win ++ [now]
    if 64 ≤ win.length ∧ k.lim < 3 then { k with boosts := [], lim := k.lim + 1, quietFrom := now + 1, raised := some now }
    else { k with boosts := win, quietFrom := max k.quietFrom (quietSince win) }

/-- R353: after 4,096 quiet cycles the level falls by one, never below the thermal level. -/
def execCurrentLimitFall (cluster : Nat) (s : State) : Host.Outcome State Fault Refusal :=
  let k := s.clu cluster
  eventRun (decide (k.thr < k.lim) && decide (k.quietFrom + 4096 ≤ s.hub.ptb)) s
    (s.modClu cluster fun k => { k with lim := k.lim - 1, quietFrom := s.hub.ptb })

/-- The activity level of a period with `busy` busy cell-cycles (R354). -/
def activityLevel (busy : Nat) : Nat := (busy * 8 + 16 * 1024 * 256 - 1) / (16 * 1024 * 256)

/-- R354: the ballast keeps a period's level from falling by more than one; in a halted module nothing else is busy (R361). -/
def execBallastPeriod (cluster busy : Nat) (s : State) : Host.Outcome State Fault Refusal :=
  let busy := if s.halted then 0 else busy
  .next (s.modClu cluster fun k =>
    { k with activity := activityLevel busy, ballast := (k.activity + k.ballast - 1) - activityLevel busy })

/-! ### Fatal errors and the dump (R361, R362) -/

/-- The sections of a dump: offset and size (R362). -/
def dumpDir : List (Nat × Nat) :=
  [(0, 4 * 2 ^ 10), (4 * 2 ^ 10, 256 * 2 ^ 10), (260 * 2 ^ 10, 64 * 2 ^ 10), (324 * 2 ^ 10, 2 ^ 21),
   (2372 * 2 ^ 10, 896 * 2 ^ 20), (919876 * 2 ^ 10, 2 ^ 21)]

/-- What a die holds of some units, in the order of its physical cores; `core` gives the logical core of each (R362). -/
def byPhys {α : Type} (s : State) (die : Nat) (core : Nat → Nat) (l : List (Nat × α)) : List (Nat × α) :=
  let phys (x : Nat × α) : Nat := s.hub.physOf (core x.1)
  sortBy (fun a b => decide (phys a ≤ phys b)) (l.filter fun x => dieOf (phys x) == die)

/-- A die's part of the dump; COMPLETE is written last. -/
def dumpOf (s : State) (cause die : Nat) : Dump where
  magic := 0x444D5057
  die := die
  dir := dumpDir
  cause := cause
  ptb := s.hub.ptb
  complete := false
  log := s.hub.errLog
  lost := s.hub.errLost
  retire := s.hub.retireTable
  parts := s.hub.parts
  ctxs := byPhys s die coreOf s.ctxs
  images := ((byPhys s die coreOf s.ctxs).filter fun c => c.2.status != .free).map fun c => (c.1, saveImage s c.1)
  cores := byPhys s die id s.cores
  clus := s.clus.filter fun k => dieOf (s.hub.seat (16 * k.1)) == die
  phase := (s.die die).phase
  dieMax := (s.die die).dieMax

/-- Every core stops, and the dump is written while the module halts (R361, R362); a second fatal error during the dump leaves
COMPLETE 0. -/
def fatal (s : State) (cause : Nat) : State :=
  if s.halted then s.modHub fun h => { h with dumping := false }
  else
    let t := (List.range 8).foldl (fun t d => t.modDie d fun x => { x with dump := some (dumpOf s cause d) }) s
    { t with halted := true, issue := [], issuing := [], issueCores := [], hub := { t.hub with dumping := true } }

/-- The dump is whole: COMPLETE is written in every die's part (R362). -/
def finishDump (s : State) : State :=
  { s with hub := { s.hub with dumping := false },
           dies := s.dies.map fun d => (d.1, { d.2 with dump := d.2.dump.map fun x => { x with complete := true } }) }

/-- R361: causes are numbered by the list of R361, from 1 on (log entry 34). Causes 2 and 4 are detected errors, and are logged
before the dump is written (R359). -/
def execFatalError (cause : Nat) (s : State) : Host.Outcome State Fault Refusal :=
  .next (fatal (if !s.halted && (cause == 2 || cause == 4) then s.logError 0 errDetected cause else s) cause)

/-- R361: the watchdog of the management core. -/
def execWatchdogExpiry (s : State) : Host.Outcome State Fault Refusal := .next (fatal s 5)

/-- R362: the host clears COMPLETE of a collected dump; in recovery mode the endpoint takes no such message (R376). -/
def execDumpClear (die : Nat) (s : State) : Host.Outcome State Fault Refusal :=
  eventRun (!s.hub.recovery) s (s.modDie die fun d => { d with dump := d.dump.map fun x => { x with complete := false } })

/-! ### Temperature (R355 to R357) -/

/-- The threshold of a thermal level, in °C (R355). -/
def thermThreshold (n : Nat) : Nat := 90 + 5 * n

/-- The level that a temperature calls for (R355). -/
def thermLevel (t : Nat) : Nat := if 105 ≤ t then 3 else if 100 ≤ t then 2 else if 95 ≤ t then 1 else 0

/-- A reading of a cluster's sensor; 256 or more stands for no reading (R355, R356). -/
def Cluster.reading (k : Cluster) (r : Nat) : Cluster :=
  let none' := decide (256 ≤ r)
  let miss := if none' then k.noRead + 1 else 0
  let t := if none' then (if 16 ≤ miss then 105 else k.temp) else r
  let up := max k.thr (thermLevel t)
  let cool := if up = 0 ∨ thermThreshold up ≤ t + 5 then 0 else k.cool + 1
  let down := decide (1000 ≤ cool)
  { k with temp := t, noRead := miss, thr := if down then up - 1 else up, cool := if down then 0 else cool }

/-- R355, R356: the sensors of a die are read; 110 °C or above is a fatal error. -/
def execThermalReading (die : Nat) (temps : List Nat) (s : State) : Host.Outcome State Fault Refusal :=
  let go (s : State) (i : Nat) : State :=
    let c := die * 32 + i
    let s := s.modClu c fun k => k.reading (temps.getD i 256)
    if (s.clu c).noRead = 16 then s.logError c errSensor 0 else s
  let s := (List.range 32).foldl go s
  let s := s.modDie die fun d => { d with dieMax := ((List.range 32).map fun i => (s.clu (die * 32 + i)).temp).foldl max 0 }
  if temps.any fun t => decide (110 ≤ t) && decide (t < 256) then .next (fatal s 1) else .next s

/-! ### Errors (R230, R231, R256, R257, R319, R359, R360) -/

/-- A saturating 16-bit count. -/
def satInc (w : BitVec 16) (n : Nat) : BitVec 16 := BitVec.ofNat 16 (min 65535 (w.toNat + n))

/-- R230, R256, R277, R319: a corrected error changes no result and is counted; a parity error of the core's micro-TLB (kind
1) or of its cluster's TLB (kind 2) drops an entry, which is fetched again. -/
def execCorrectedError (core kind : Nat) (s : State) : Host.Outcome State Fault Refusal :=
  let s := (s.modCore core fun k => { k with corr := satInc k.corr 1 }).logCore core errCorrected kind
  if kind = 1 then .next (s.modCore core fun k => { k with tlb := k.tlb.drop 1 })
  else if kind = 2 then .next (s.modClu (clusterOf core) fun k => { k with tlb := k.tlb.drop 1 })
  else .next s

/-- A migration is recorded for the task of a context (R341, R342). -/
def recMigration (s : State) (cid : Nat) : State :=
  let b := (s.ctx cid).bind
  if (s.ctx cid).status = .free ∨ (s.ctx cid).status = .bound then s
  else
    match queueOf s b.part b.launch with
    | none => s
    | some q =>
      let s := recEntry s b.part q b.node b.x b.y b.z (logicalCore s b.part (coreOf cid)) ⟨3, 0, 0, false, 0, 0⟩
      recAdd (s.modNode b.part q b.node fun n => { n with nMigr := n.nMigr + 1 }) b.part q b.node 12

/-- The interval of a task commits after a recovery: its held stores leave. The errors of the interval count on until its next
checkpoint (R228, R230, R231, log entry 47). -/
def commitInterval (s : State) (cid : Nat) : State :=
  let n := (s.ctx cid).ival.errors
  if (s.ctx cid).status = .running ∨ (s.ctx cid).status = .ending then
    (s.newInterval cid).modCtx cid fun c => { c with ival := { c.ival with errors := n } }
  else s

/-- A context of a retired core migrates: its record has an entry, and it goes on with a new interval. -/
def migrateCtx (s : State) (cid : Nat) : State :=
  (commitInterval (recMigration s cid) cid).modCtx cid fun c => { c with ival := { c.ival with errors := 0 } }

/-- A core is retired (R231, R360): it enters the table, the host is told once, and the contexts of every logical core that it
carried go on on another physical core from their checkpoints with log and store buffer applied, with the results of an
undisturbed run. -/
def retireCore (s : State) (l : Nat) : State :=
  let moved := s.hub.carried (s.hub.physOf l)
  let s := (s.logCore l errRetired 0).modHub fun h => h.retire l
  let s := if s.hub.replSent then s else (s.modHub fun h => { h with replSent := true }).sendTo .management [answerOk]
  moved.foldl (fun s x => migrateCtx (migrateCtx s (2 * x)) (2 * x + 1)) s

/-- A context whose unprotected interval meets a detected error fails with cause "data error" (R230). -/
def dataError (s : State) (cid : Nat) : State :=
  (s.logCore (coreOf cid) errDetected (slotOf cid)).modCtx cid fun c =>
    { c with unprotE := BitVec.ofNat 8 (min 255 (c.unprotE.toNat + 1)) }.fail 15 0 0 c.bun.pc

/-- A step of the reflected CRC-64 with the ECMA-182 polynomial over one bit, then over a byte (R230). -/
def crcBit (c : Nat) : Nat := if c % 2 = 1 then c / 2 ^^^ 0xC96C5795D7870F42 else c / 2
/-- See `crcBit`. -/
def crcByte (c : Nat) (b : Byte) : Nat := crcBit (crcBit (crcBit (crcBit (crcBit (crcBit (crcBit (crcBit (c ^^^ b.toNat))))))))
/-- CRC-64 of a byte string (R230). -/
def crc64 (bs : List Byte) : Nat := bs.foldl crcByte (2 ^ 64 - 1) ^^^ (2 ^ 64 - 1)

/-- A result's bytes in the signature of a rerun (R230; log entry 68). -/
def Landed.sigBytes (r : Landed) : List Byte := leBytes 1 r.slot ++ leBytes 12 r.dest ++ r.bytes ++ leBytes 4 r.valid

/-- The signature of an undisturbed rerun of an interval (R230). -/
def Interval.signature (v : Interval) : Nat := crc64 (v.landed.reverse.flatMap Landed.sigBytes)

/-- The signature of one rerun: the interval's, unless another error strikes the rerun, a free choice. -/
def rerunSignature (s : State) (cid : Nat) : Nat × State :=
  let r := s.choose
  (if r.1 then (Config.strayWord s.tick).toNat else (s.ctx cid).ival.signature, r.2)

/-- A context is rolled back to its checkpoint and its interval rerun twice from it (R230). The reruns take their loads from
the load records and no time of the task, so that the state after them is the one before the error (DEDUCED, log entry 47).
Where their signatures agree the interval commits; where they do not, or at the fourth error of the interval, the core is
retired (R231). -/
def rollBack (s : State) (cid : Nat) : State :=
  let c := s.ctx cid
  if c.status = .free then s
  else if c.ival.unprotected then dataError s cid
  else
    let a := rerunSignature s cid
    let b := rerunSignature a.2 cid
    let errors := c.ival.errors + 1
    let s := b.2.modCtx cid fun c => { c with rerun := satInc c.rerun 2, ival := { c.ival with errors := errors } }
    let n := (s.core (coreOf cid)).cc - (c.ckpt.map (·.cc)).getD 0
    let s := s.logRec ⟨s.hub.ptb, s.hub.physOf (coreOf cid), coreOf cid, errDetected, slotOf cid, (n, n), (a.1, b.1)⟩
    if a.1 ≠ b.1 ∨ 4 ≤ errors then retireCore s (coreOf cid) else commitInterval s cid

/-- An error in a cluster's shared units or its Asterism fails every task bound in the cluster, and its cores are retired
(R257, R277). -/
def clusterError (s : State) (k : Nat) : State :=
  let ids := ((s.ctxs.filter fun c => clusterOf (coreOf c.1) == k && c.2.status != .free).flatMap fun c => s.members c.1).dedup
  let s := ids.foldl (fun s i => s.modCtx i fun c => c.fail 15 0 0 c.bun.pc) (s.logError (k * 16) errDetected 2)
  (List.range 16).foldl (fun s i => retireCore s (k * 16 + i)) s

/-- Whether a granule lies in cluster memory. -/
def cluGranule (g : Nat) : Bool := decide (2 * 2 ^ 64 ≤ g * 64) && decide (g * 64 < 3 * 2 ^ 64)

/-- R230, R257, R277, R303, R319: a detected error. `w` says where (log entry 47): 0 in a context's own state, 1 in a core,
not attributed to one context, 2 in a cluster's shared units, 3 in its Asterism's queue, GEN, stack or log; 16 + g in granule
g of memory, which is poisoned; 2^80 + a in element a of the forest store. An error in cluster memory rolls back the context
that met it and every one whose open interval read the granule. -/
def execDetectedError (w cid : Nat) (s : State) : Host.Outcome State Fault Refusal :=
  let l := coreOf cid
  let free (i : Nat) : Bool := (s.ctx i).status == .free
  let idle := if w = 0 then free cid else free (2 * l) && free (2 * l + 1)
  if w ≤ 1 ∧ idle = true then .next (s.logCore l errDetected w)
  else if w = 0 then .next (rollBack s cid)
  else if w = 1 then .next (rollBack (rollBack s (2 * l)) (2 * l + 1))
  else if w = 2 ∨ w = 3 then .next (clusterError s (clusterOf l))
  else if w < 16 then .next s
  else if 2 ^ 80 ≤ w then .next ((s.logCore l errDetected w).modClu (clusterOf l) fun k => { k with bad := (w - 2 ^ 80) :: k.bad })
  else
    let g := w - 16
    let s := (s.modHub fun h => { h with poison := if h.poison.contains g then h.poison else g :: h.poison }).logCore l errPoison g
    if cluGranule g then
      let ids := (s.ctxs.filter fun c => c.1 == cid || c.2.ival.reads.contains g).map (·.1)
      .next (ids.foldl rollBack s)
    else .next s

/-! ### Reset and power (R288, R361, R362, R376) -/

/-- What survives in the hub: the retirement table, the keys, the firmware and its rollback counter. -/
def Hub.nonVolatile (h : Hub) : Hub :=
  let lock (d : DebugDom) : DebugDom := { d with challenge := none, fails := 0, unlocked := false }
  { Hub.reset with
    retireTable := h.retireTable, coreMap := h.coreMap, replSent := h.replSent, ownerKey := h.ownerKey,
    kernelDebug := h.kernelDebug.map fun (d : Nat × DebugDom) => (d.1, lock d.2),
    firmDebug := lock h.firmDebug, nChallenge := h.nChallenge, images := h.images, digests := h.digests, versions := h.versions,
    rollback := h.rollback }

/-- Memory that a reset keeps: the angle stores (R288), and what lies outside the module. -/
def keptByReset (k : Nat) : Bool := remoteKey k || (decide (2 ^ 64 ≤ k) && decide (k < 2 * 2 ^ 64))

/-- R376: a reset boots the module; where an image does not pass, it stays in recovery mode. The dump survives (R362). -/
def execModuleReset (s : State) : Host.Outcome State Fault Refusal :=
  let h := s.hub
  let all : List FwImage := [h.image 0, h.image 1, h.image 2]
  .next { State.reset with
    dies := s.dies.map fun (d : Nat × Die) => (d.1, { Die.reset with dump := d.2.dump, phase := d.2.phase }),
    hub := { h.nonVolatile with recovery := !all.all h.passes,
                                digests := #v[some (h.image 0).digest, some (h.image 1).digest, some (h.image 2).digest],
                                versions := #v[(h.image 0).version, (h.image 1).version, (h.image 2).version] },
    mem := s.mem.filter fun c => keptByReset c.1,
    agenda := s.agenda, tick := s.tick }

/-- R288: the supply is lost, and with it everything volatile. -/
def execPowerOff (s : State) : Host.Outcome State Fault Refusal :=
  .next { State.reset with
    on := false, hub := s.hub.nonVolatile, mem := s.mem.filter fun c => remoteKey c.1, agenda := s.agenda, tick := s.tick }

end Sys2Proof.Machine
end

