-- ==== Sys2Proof/Machine/Scalar.lean ====
section
/-! DEFINITION. The scalar and predicate instructions (R85 to R92). -/

namespace Sys2Proof.Machine

/-- Latencies of the scalar slots (R82). -/
def latAlu : Nat := 1
/-- Latency of the multiplications (R82). -/
def latMul : Nat := 3
/-- Latency of the divisions (R82). -/
def latDiv : Nat := 18

/-- A scalar result goes to sD, unless nw is set, and to the slot's latch (R72, R85). -/
def scalarResult (lat : Nat) (nw : BitVec 1) (d : BitVec 6) (v : SVal) (s : State) : State :=
  s.launch lat (if nw = 1 then [] else [.sreg d v]) (some (.scalar v)) 0

/-- A register-form operation that reads both words of both sources (R85). -/
def regOp (lat : Nat) (op : Word → Word → Word) (f : SReg) (s : State) : Host.Outcome State Fault Refusal :=
  slotRun f.g s fun s =>
    match s.me.r.src f.a, s.me.r.src f.b with
    | some a, some b => scalarResult lat f.nw f.d (SVal.whole (op a.bits b.bits) (a.ok && b.ok)) s
    | _, _ => s.illegalSlot

/-- A register-form operation whose second source is a count or a descriptor in its word 0 (R85). -/
def regOpLow (op : Word → Word → Word) (f : SReg) (s : State) : Host.Outcome State Fault Refusal :=
  slotRun f.g s fun s =>
    match s.me.r.src f.a, s.me.r.src f.b with
    | some a, some b => scalarResult latAlu f.nw f.d (SVal.whole (op a.bits b.bits) (a.ok && b.ok0)) s
    | _, _ => s.illegalSlot

/-- A register-form operation of one source (R86). -/
def unOp (op : Word → Word) (f : SUn) (s : State) : Host.Outcome State Fault Refusal :=
  slotRun f.g s fun s =>
    match s.me.r.src f.a with
    | some a => scalarResult latAlu f.nw f.d (SVal.whole (op a.bits) a.ok) s
    | none => s.illegalSlot

/-- An operation with a 7-bit immediate (R89). -/
def immOp (op : Word → Word → Word) (f : SReg) (s : State) : Host.Outcome State Fault Refusal :=
  slotRun f.g s fun s =>
    match s.me.r.src f.a with
    | some a => scalarResult latAlu f.nw f.d (SVal.whole (op a.bits (imm7 f.b)) a.ok) s
    | none => s.illegalSlot

/-- A shift by an immediate count (R89). -/
def shiftImm (op : Word → Word → Word) (f : SSh) (s : State) : Host.Outcome State Fault Refusal :=
  slotRun f.g s fun s =>
    match s.me.r.src f.a with
    | some a => scalarResult latAlu f.nw f.d (SVal.whole (op a.bits (f.sh.setWidth 64)) a.ok) s
    | none => s.illegalSlot

/-- The even predicate of a compare (R91). -/
def predEven (p : BitVec 3) : BitVec 4 := p.setWidth 4 <<< 1

/-- What a compare writes to its pair: c and its complement, or the neither state (R91). -/
def cmpWrites (p : BitVec 3) (ok c : Bool) : List RWrite :=
  if ok then [.pred (predEven p) c, .pred (predEven p + 1) !c] else [.neither (predEven p)]

/-- A compare of two sources (R91): it writes no latch. -/
def cmpOp (c : Word → Word → Bool) (f : SCmp) (s : State) : Host.Outcome State Fault Refusal :=
  slotRun f.g s fun s =>
    match s.me.r.src f.a, s.me.r.src f.b with
    | some a, some b => s.launch latAlu (cmpWrites f.pd (a.ok && b.ok) (c a.bits b.bits)) none 0
    | _, _ => s.illegalSlot

/-- A compare with an immediate (R91). -/
def cmpImm (c : Word → Word → Bool) (f : SCmp) (s : State) : Host.Outcome State Fault Refusal :=
  slotRun f.g s fun s =>
    match s.me.r.src f.a with
    | some a => s.launch latAlu (cmpWrites f.pd a.ok (c a.bits (imm7 f.b))) none 0
    | none => s.illegalSlot

/-- A predicate operation (R92). -/
def predOp (op : Bool → Bool → Bool) (f : SPred) (s : State) : Host.Outcome State Fault Refusal :=
  slotRun f.g s fun s => s.launch latAlu [.pred f.pd (op (s.me.r.readPred f.pa) (s.me.r.readPred f.pb))] none 0

/-! ### The computed values (R86 to R88) -/

/-- The count of a shift or rotate: B[5:0] (R86). -/
def shCount (b : Word) : Nat := b.toNat % 64

/-- A x B, bits [127:64], signed (R86). -/
def mulhS (a b : Word) : Word := (a.signExtend 128 * b.signExtend 128).extractLsb' 64 64

/-- A x B, bits [127:64], unsigned (R86). -/
def mulhU (a b : Word) : Word := (a.setWidth 128 * b.setWidth 128).extractLsb' 64 64

/-- Signed division truncated toward zero; -1 for a zero divisor, and -2^63 / -1 wraps (R87). -/
def divS (a b : Word) : Word := if b = 0 then BitVec.allOnes 64 else BitVec.ofInt 64 (Int.tdiv a.toInt b.toInt)

/-- Unsigned division; 2^64 - 1 for a zero divisor (R87). -/
def divU (a b : Word) : Word := if b = 0 then BitVec.allOnes 64 else BitVec.ofNat 64 (a.toNat / b.toNat)

/-- Signed remainder, with the sign of A; A for a zero divisor (R87). -/
def remS (a b : Word) : Word := if b = 0 then a else BitVec.ofInt 64 (Int.tmod a.toInt b.toInt)

/-- Unsigned remainder; A for a zero divisor (R87). -/
def remU (a b : Word) : Word := if b = 0 then a else BitVec.ofNat 64 (a.toNat % b.toNat)

/-- Leading zero bits, 0 to 64 (R86). -/
def clzWord (a : Word) : Word := BitVec.ofNat 64 (if a = 0 then 64 else 63 - Nat.log2 a.toNat)

/-- One bits among the n low bits of a number. -/
def popcount : Nat → Nat → Nat
  | 0, _ => 0
  | n + 1, x => x % 2 + popcount n (x / 2)

/-- One bits, 0 to 64 (R86). -/
def popcWord (a : Word) : Word := BitVec.ofNat 64 (popcount 64 a.toNat)

/-- The field mask of a descriptor: 2^n - 1 with n = min(B[14:8], 64) (R88). -/
def bfMask (b : Word) : Word := BitVec.ofNat 64 (2 ^ min (fieldN b.toNat 8 7) 64 - 1)

/-- Field extraction (R88). -/
def bfxWord (a b : Word) : Word := (a >>> fieldN b.toNat 0 6) &&& bfMask b

/-- Field insertion into D (R88). -/
def bfiWord (d a b : Word) : Word :=
  let lo := fieldN b.toNat 0 6
  (d &&& ~~~(bfMask b <<< lo)) ||| ((a &&& bfMask b) <<< lo)

/-! ### The meanings -/

/-- R77. -/
def execNop (g : BitVec 5) (s : State) : Host.Outcome State Fault Refusal := slotRun g s id

/-- R86. -/
def execAdd (f : SReg) (s : State) : Host.Outcome State Fault Refusal := regOp latAlu (fun a b => a + b) f s

/-- R86. -/
def execSub (f : SReg) (s : State) : Host.Outcome State Fault Refusal := regOp latAlu (fun a b => a - b) f s

/-- R86. -/
def execMul (f : SReg) (s : State) : Host.Outcome State Fault Refusal := regOp latMul (fun a b => a * b) f s

/-- R86. -/
def execMulh (f : SReg) (s : State) : Host.Outcome State Fault Refusal := regOp latMul mulhS f s

/-- R86. -/
def execMulhu (f : SReg) (s : State) : Host.Outcome State Fault Refusal := regOp latMul mulhU f s

/-- R87. -/
def execDiv (f : SReg) (s : State) : Host.Outcome State Fault Refusal := regOp latDiv divS f s

/-- R87. -/
def execDivu (f : SReg) (s : State) : Host.Outcome State Fault Refusal := regOp latDiv divU f s

/-- R87. -/
def execRem (f : SReg) (s : State) : Host.Outcome State Fault Refusal := regOp latDiv remS f s

/-- R87. -/
def execRemu (f : SReg) (s : State) : Host.Outcome State Fault Refusal := regOp latDiv remU f s

/-- R86. -/
def execAnd (f : SReg) (s : State) : Host.Outcome State Fault Refusal := regOp latAlu (fun a b => a &&& b) f s

/-- R86. -/
def execOr (f : SReg) (s : State) : Host.Outcome State Fault Refusal := regOp latAlu (fun a b => a ||| b) f s

/-- R86. -/
def execXor (f : SReg) (s : State) : Host.Outcome State Fault Refusal := regOp latAlu (fun a b => a ^^^ b) f s

/-- R86. -/
def execAndn (f : SReg) (s : State) : Host.Outcome State Fault Refusal := regOp latAlu (fun a b => a &&& ~~~b) f s

/-- R86. -/
def execShl (f : SReg) (s : State) : Host.Outcome State Fault Refusal := regOpLow (fun a b => a <<< shCount b) f s

/-- R86. -/
def execShr (f : SReg) (s : State) : Host.Outcome State Fault Refusal := regOpLow (fun a b => a >>> shCount b) f s

/-- R86. -/
def execSra (f : SReg) (s : State) : Host.Outcome State Fault Refusal := regOpLow (fun a b => a.sshiftRight (shCount b)) f s

/-- R86. -/
def execRotl (f : SReg) (s : State) : Host.Outcome State Fault Refusal := regOpLow (fun a b => a.rotateLeft (shCount b)) f s

/-- R86. -/
def execMin (f : SReg) (s : State) : Host.Outcome State Fault Refusal := regOp latAlu (fun a b => if a.slt b then a else b) f s

/-- R86. -/
def execMax (f : SReg) (s : State) : Host.Outcome State Fault Refusal := regOp latAlu (fun a b => if a.slt b then b else a) f s

/-- R86. -/
def execMinu (f : SReg) (s : State) : Host.Outcome State Fault Refusal := regOp latAlu (fun a b => if a.ult b then a else b) f s

/-- R86. -/
def execMaxu (f : SReg) (s : State) : Host.Outcome State Fault Refusal := regOp latAlu (fun a b => if a.ult b then b else a) f s

/-- R86. -/
def execClz (f : SUn) (s : State) : Host.Outcome State Fault Refusal := unOp clzWord f s

/-- R86. -/
def execPopc (f : SUn) (s : State) : Host.Outcome State Fault Refusal := unOp popcWord f s

/-- R88. -/
def execBfx (f : SReg) (s : State) : Host.Outcome State Fault Refusal := regOpLow bfxWord f s

/-- R88: sD is a source too, and its validity counts. -/
def execBfi (f : SReg) (s : State) : Host.Outcome State Fault Refusal :=
  slotRun f.g s fun s =>
    match s.me.r.src f.a, s.me.r.src f.b with
    | some a, some b =>
      let d := s.me.r.readS f.d
      scalarResult latAlu f.nw f.d (SVal.whole (bfiWord d.bits a.bits b.bits) (d.ok && a.ok && b.ok0)) s
    | _, _ => s.illegalSlot

/-- R89. -/
def execAddi (f : SReg) (s : State) : Host.Outcome State Fault Refusal := immOp (fun a b => a + b) f s

/-- R89. -/
def execAndi (f : SReg) (s : State) : Host.Outcome State Fault Refusal := immOp (fun a b => a &&& b) f s

/-- R89. -/
def execShli (f : SSh) (s : State) : Host.Outcome State Fault Refusal := shiftImm (fun a b => a <<< shCount b) f s

/-- R89. -/
def execShri (f : SSh) (s : State) : Host.Outcome State Fault Refusal := shiftImm (fun a b => a >>> shCount b) f s

/-- R89. -/
def execSrai (f : SSh) (s : State) : Host.Outcome State Fault Refusal := shiftImm (fun a b => a.sshiftRight (shCount b)) f s

/-- R90: always valid. -/
def execMovi (f : SImm) (s : State) : Host.Outcome State Fault Refusal :=
  slotRun f.g s fun s => scalarResult latAlu f.nw f.d (SVal.mkOk (f.imm.signExtend 64)) s

/-- R90: sD is a source too. -/
def execSli (f : SImm) (s : State) : Host.Outcome State Fault Refusal :=
  slotRun f.g s fun s =>
    let d := s.me.r.readS f.d
    scalarResult latAlu f.nw f.d (SVal.whole ((d.bits <<< 14) ||| f.imm.setWidth 64) d.ok) s

/-- R91. -/
def execCmpEq (f : SCmp) (s : State) : Host.Outcome State Fault Refusal := cmpOp (fun a b => a == b) f s

/-- R91. -/
def execCmpNe (f : SCmp) (s : State) : Host.Outcome State Fault Refusal := cmpOp (fun a b => a != b) f s

/-- R91. -/
def execCmpLt (f : SCmp) (s : State) : Host.Outcome State Fault Refusal := cmpOp (fun a b => a.slt b) f s

/-- R91. -/
def execCmpLtu (f : SCmp) (s : State) : Host.Outcome State Fault Refusal := cmpOp (fun a b => a.ult b) f s

/-- R91. -/
def execCmpLe (f : SCmp) (s : State) : Host.Outcome State Fault Refusal := cmpOp (fun a b => a.sle b) f s

/-- R91. -/
def execCmpLeu (f : SCmp) (s : State) : Host.Outcome State Fault Refusal := cmpOp (fun a b => a.ule b) f s

/-- R91. -/
def execCmpiEq (f : SCmp) (s : State) : Host.Outcome State Fault Refusal := cmpImm (fun a b => a == b) f s

/-- R91. -/
def execCmpiLt (f : SCmp) (s : State) : Host.Outcome State Fault Refusal := cmpImm (fun a b => a.slt b) f s

/-- R92. -/
def execPand (f : SPred) (s : State) : Host.Outcome State Fault Refusal := predOp (fun a b => a && b) f s

/-- R92. -/
def execPor (f : SPred) (s : State) : Host.Outcome State Fault Refusal := predOp (fun a b => a || b) f s

/-- R92. -/
def execPxor (f : SPred) (s : State) : Host.Outcome State Fault Refusal := predOp (fun a b => a != b) f s

/-- R92. -/
def execPandn (f : SPred) (s : State) : Host.Outcome State Fault Refusal := predOp (fun a b => a && !b) f s

end Sys2Proof.Machine
end

