-- ==== Sys2Proof/Machine/Dispatch.lean ====
section
/-! DEFINITION. The meaning of every instruction and event, one arm each. -/

namespace Sys2Proof.Machine

def exec (i : Instr) (s : State) : Host.Outcome State Fault Refusal :=
  match i with
  | .nop g => Sys2Proof.Machine.execNop g s
  | .add f => Sys2Proof.Machine.execAdd f s
  | .sub f => Sys2Proof.Machine.execSub f s
  | .mul f => Sys2Proof.Machine.execMul f s
  | .mulh f => Sys2Proof.Machine.execMulh f s
  | .mulhu f => Sys2Proof.Machine.execMulhu f s
  | .div f => Sys2Proof.Machine.execDiv f s
  | .divu f => Sys2Proof.Machine.execDivu f s
  | .rem f => Sys2Proof.Machine.execRem f s
  | .remu f => Sys2Proof.Machine.execRemu f s
  | .and f => Sys2Proof.Machine.execAnd f s
  | .or f => Sys2Proof.Machine.execOr f s
  | .xor f => Sys2Proof.Machine.execXor f s
  | .andn f => Sys2Proof.Machine.execAndn f s
  | .shl f => Sys2Proof.Machine.execShl f s
  | .shr f => Sys2Proof.Machine.execShr f s
  | .sra f => Sys2Proof.Machine.execSra f s
  | .rotl f => Sys2Proof.Machine.execRotl f s
  | .min f => Sys2Proof.Machine.execMin f s
  | .max f => Sys2Proof.Machine.execMax f s
  | .minu f => Sys2Proof.Machine.execMinu f s
  | .maxu f => Sys2Proof.Machine.execMaxu f s
  | .clz f => Sys2Proof.Machine.execClz f s
  | .popc f => Sys2Proof.Machine.execPopc f s
  | .bfx f => Sys2Proof.Machine.execBfx f s
  | .bfi f => Sys2Proof.Machine.execBfi f s
  | .addi f => Sys2Proof.Machine.execAddi f s
  | .andi f => Sys2Proof.Machine.execAndi f s
  | .shli f => Sys2Proof.Machine.execShli f s
  | .shri f => Sys2Proof.Machine.execShri f s
  | .srai f => Sys2Proof.Machine.execSrai f s
  | .movi f => Sys2Proof.Machine.execMovi f s
  | .sli f => Sys2Proof.Machine.execSli f s
  | .cmpEq f => Sys2Proof.Machine.execCmpEq f s
  | .cmpNe f => Sys2Proof.Machine.execCmpNe f s
  | .cmpLt f => Sys2Proof.Machine.execCmpLt f s
  | .cmpLtu f => Sys2Proof.Machine.execCmpLtu f s
  | .cmpLe f => Sys2Proof.Machine.execCmpLe f s
  | .cmpLeu f => Sys2Proof.Machine.execCmpLeu f s
  | .cmpiEq f => Sys2Proof.Machine.execCmpiEq f s
  | .cmpiLt f => Sys2Proof.Machine.execCmpiLt f s
  | .pand f => Sys2Proof.Machine.execPand f s
  | .por f => Sys2Proof.Machine.execPor f s
  | .pxor f => Sys2Proof.Machine.execPxor f s
  | .pandn f => Sys2Proof.Machine.execPandn f s
  | .br f => Sys2Proof.Machine.execBr f s
  | .call f => Sys2Proof.Machine.execCall f s
  | .jr f => Sys2Proof.Machine.execJr f s
  | .loop f => Sys2Proof.Machine.execLoop f s
  | .loopRearm f => Sys2Proof.Machine.execLoopRearm f s
  | .loopExit g => Sys2Proof.Machine.execLoopExit g s
  | .dictLd f => Sys2Proof.Machine.execDictLd f s
  | .dictSw g => Sys2Proof.Machine.execDictSw g s
  | .trap f => Sys2Proof.Machine.execTrap f s
  | .eret g => Sys2Proof.Machine.execEret g s
  | .crd f => Sys2Proof.Machine.execCrd f s
  | .cwr f => Sys2Proof.Machine.execCwr f s
  | .cwrXflags f => Sys2Proof.Machine.execCwrXflags f s
  | .cwrRmode f => Sys2Proof.Machine.execCwrRmode f s
  | .cwrBankfmt f => Sys2Proof.Machine.execCwrBankfmt f s
  | .cwrDeadline f => Sys2Proof.Machine.execCwrDeadline f s
  | .wait f => Sys2Proof.Machine.execWait f s
  | .endTask g => Sys2Proof.Machine.execEndTask g s
  | .brk f => Sys2Proof.Machine.execBrk f s
  | .yield g => Sys2Proof.Machine.execYield g s
  | .vnop g => Sys2Proof.Machine.execVnop g s
  | .vfadd t f => Sys2Proof.Machine.execVfadd t f s
  | .vfsub t f => Sys2Proof.Machine.execVfsub t f s
  | .vfmul t f => Sys2Proof.Machine.execVfmul t f s
  | .vfma t f => Sys2Proof.Machine.execVfma t f s
  | .vfmin t f => Sys2Proof.Machine.execVfmin t f s
  | .vfmax t f => Sys2Proof.Machine.execVfmax t f s
  | .vfcmp t f => Sys2Proof.Machine.execVfcmp t f s
  | .vfsgn t f => Sys2Proof.Machine.execVfsgn t f s
  | .vfrnd t f => Sys2Proof.Machine.execVfrnd t f s
  | .vfclass t f => Sys2Proof.Machine.execVfclass t f s
  | .vfsum t f => Sys2Proof.Machine.execVfsum t f s
  | .vcvt f => Sys2Proof.Machine.execVcvt f s
  | .vbpk f => Sys2Proof.Machine.execVbpk f s
  | .vbupk f => Sys2Proof.Machine.execVbupk f s
  | .vfdivF32 f => Sys2Proof.Machine.execVfdivF32 f s
  | .vfdivF64 f => Sys2Proof.Machine.execVfdivF64 f s
  | .vadd f => Sys2Proof.Machine.execVadd f s
  | .vsub f => Sys2Proof.Machine.execVsub f s
  | .vmul f => Sys2Proof.Machine.execVmul f s
  | .vmulh f => Sys2Proof.Machine.execVmulh f s
  | .vmin f => Sys2Proof.Machine.execVmin f s
  | .vmax f => Sys2Proof.Machine.execVmax f s
  | .vminu f => Sys2Proof.Machine.execVminu f s
  | .vmaxu f => Sys2Proof.Machine.execVmaxu f s
  | .vand f => Sys2Proof.Machine.execVand f s
  | .vor f => Sys2Proof.Machine.execVor f s
  | .vxor f => Sys2Proof.Machine.execVxor f s
  | .vshl f => Sys2Proof.Machine.execVshl f s
  | .vshr f => Sys2Proof.Machine.execVshr f s
  | .vsra f => Sys2Proof.Machine.execVsra f s
  | .vaddD f => Sys2Proof.Machine.execVaddD f s
  | .vsubD f => Sys2Proof.Machine.execVsubD f s
  | .vcmpEq f => Sys2Proof.Machine.execVcmpEq f s
  | .vcmpLt f => Sys2Proof.Machine.execVcmpLt f s
  | .vcmpLtu f => Sys2Proof.Machine.execVcmpLtu f s
  | .vsel f => Sys2Proof.Machine.execVsel f s
  | .vvalid f => Sys2Proof.Machine.execVvalid f s
  | .vvmask f => Sys2Proof.Machine.execVvmask f s
  | .vmaskv f => Sys2Proof.Machine.execVmaskv f s
  | .vsplat f => Sys2Proof.Machine.execVsplat f s
  | .viota f => Sys2Proof.Machine.execViota f s
  | .vext f => Sys2Proof.Machine.execVext f s
  | .vins f => Sys2Proof.Machine.execVins f s
  | .vredAdd f => Sys2Proof.Machine.execVredAdd f s
  | .vredMax f => Sys2Proof.Machine.execVredMax f s
  | .vscanAdd f => Sys2Proof.Machine.execVscanAdd f s
  | .vsort f => Sys2Proof.Machine.execVsort f s
  | .vsegsum f => Sys2Proof.Machine.execVsegsum f s
  | .fnop g => Sys2Proof.Machine.execFnop g s
  | .fexpF32 f => Sys2Proof.Machine.execFexpF32 f s
  | .fexpF64 f => Sys2Proof.Machine.execFexpF64 f s
  | .flogF32 f => Sys2Proof.Machine.execFlogF32 f s
  | .flogF64 f => Sys2Proof.Machine.execFlogF64 f s
  | .ferfF32 f => Sys2Proof.Machine.execFerfF32 f s
  | .ferfF64 f => Sys2Proof.Machine.execFerfF64 f s
  | .ferfcF32 f => Sys2Proof.Machine.execFerfcF32 f s
  | .ferfcF64 f => Sys2Proof.Machine.execFerfcF64 f s
  | .frcpF32 f => Sys2Proof.Machine.execFrcpF32 f s
  | .frcpF64 f => Sys2Proof.Machine.execFrcpF64 f s
  | .fsqrtF32 f => Sys2Proof.Machine.execFsqrtF32 f s
  | .fsqrtF64 f => Sys2Proof.Machine.execFsqrtF64 f s
  | .frsqrtF32 f => Sys2Proof.Machine.execFrsqrtF32 f s
  | .frsqrtF64 f => Sys2Proof.Machine.execFrsqrtF64 f s
  | .fexp2F32 f => Sys2Proof.Machine.execFexp2F32 f s
  | .flog2F32 f => Sys2Proof.Machine.execFlog2F32 f s
  | .ftanhF32 f => Sys2Proof.Machine.execFtanhF32 f s
  | .fsigmF32 f => Sys2Proof.Machine.execFsigmF32 f s
  | .fangcsA32 f => Sys2Proof.Machine.execFangcsA32 f s
  | .fangcsA64 f => Sys2Proof.Machine.execFangcsA64 f s
  | .fangofA32 f => Sys2Proof.Machine.execFangofA32 f s
  | .fangofA64 f => Sys2Proof.Machine.execFangofA64 f s
  | .xnop g => Sys2Proof.Machine.execXnop g s
  | .xperm f => Sys2Proof.Machine.execXperm f s
  | .xcfg f => Sys2Proof.Machine.execXcfg f s
  | .xbcast f => Sys2Proof.Machine.execXbcast f s
  | .xrotl f => Sys2Proof.Machine.execXrotl f s
  | .xdeal f => Sys2Proof.Machine.execXdeal f s
  | .xweave f => Sys2Proof.Machine.execXweave f s
  | .mnop g => Sys2Proof.Machine.execMnop g s
  | .ldB f => Sys2Proof.Machine.execLdB f s
  | .ldBu f => Sys2Proof.Machine.execLdBu f s
  | .ldH f => Sys2Proof.Machine.execLdH f s
  | .ldHu f => Sys2Proof.Machine.execLdHu f s
  | .ldW f => Sys2Proof.Machine.execLdW f s
  | .ldWu f => Sys2Proof.Machine.execLdWu f s
  | .ldD f => Sys2Proof.Machine.execLdD f s
  | .stB f => Sys2Proof.Machine.execStB f s
  | .stH f => Sys2Proof.Machine.execStH f s
  | .stW f => Sys2Proof.Machine.execStW f s
  | .stD f => Sys2Proof.Machine.execStD f s
  | .ldvW256 f => Sys2Proof.Machine.execLdvW256 f s
  | .ldvW512 f => Sys2Proof.Machine.execLdvW512 f s
  | .ldvW1024 f => Sys2Proof.Machine.execLdvW1024 f s
  | .stvW256 f => Sys2Proof.Machine.execStvW256 f s
  | .stvW512 f => Sys2Proof.Machine.execStvW512 f s
  | .stvW1024 f => Sys2Proof.Machine.execStvW1024 f s
  | .ldvs f => Sys2Proof.Machine.execLdvs f s
  | .ldvx f => Sys2Proof.Machine.execLdvx f s
  | .stvx f => Sys2Proof.Machine.execStvx f s
  | .ldAcq f => Sys2Proof.Machine.execLdAcq f s
  | .stRel f => Sys2Proof.Machine.execStRel f s
  | .ldAcqW f => Sys2Proof.Machine.execLdAcqW f s
  | .stRelW f => Sys2Proof.Machine.execStRelW f s
  | .fence f => Sys2Proof.Machine.execFence f s
  | .xfence f => Sys2Proof.Machine.execXfence f s
  | .accLd f => Sys2Proof.Machine.execAccLd f s
  | .accSt f => Sys2Proof.Machine.execAccSt f s
  | .accAddI f => Sys2Proof.Machine.execAccAddI f s
  | .accAddF f => Sys2Proof.Machine.execAccAddF f s
  | .accFaddI f => Sys2Proof.Machine.execAccFaddI f s
  | .accXchg f => Sys2Proof.Machine.execAccXchg f s
  | .accAddvF f => Sys2Proof.Machine.execAccAddvF f s
  | .qrd f => Sys2Proof.Machine.execQrd f s
  | .qwr f => Sys2Proof.Machine.execQwr f s
  | .tnop g => Sys2Proof.Machine.execTnop g s
  | .rotLd f => Sys2Proof.Machine.execRotLd f s
  | .rotApp f => Sys2Proof.Machine.execRotApp f s
  | .rotAppt f => Sys2Proof.Machine.execRotAppt f s
  | .rotDrv f => Sys2Proof.Machine.execRotDrv f s
  | .rotLin f => Sys2Proof.Machine.execRotLin f s
  | .rotGrad f => Sys2Proof.Machine.execRotGrad f s
  | .rotSlv f => Sys2Proof.Machine.execRotSlv f s
  | .rotSav f => Sys2Proof.Machine.execRotSav f s
  | .rotRst f => Sys2Proof.Machine.execRotRst f s
  | .rotNrm f => Sys2Proof.Machine.execRotNrm f s
  | .accSwap f => Sys2Proof.Machine.execAccSwap f s
  | .accClr f => Sys2Proof.Machine.execAccClr f s
  | .seqLd f => Sys2Proof.Machine.execSeqLd f s
  | .seqRun f => Sys2Proof.Machine.execSeqRun f s
  | .cpGo f => Sys2Proof.Machine.execCpGo f s
  | .cpTr f => Sys2Proof.Machine.execCpTr f s
  | .cpFill f => Sys2Proof.Machine.execCpFill f s
  | .cpBind f => Sys2Proof.Machine.execCpBind f s
  | .cpWait f => Sys2Proof.Machine.execCpWait f s
  | .cbar f => Sys2Proof.Machine.execCbar f s
  | .fuse f => Sys2Proof.Machine.execFuse f s
  | .dcpl f => Sys2Proof.Machine.execDcpl f s
  | .rejoin f => Sys2Proof.Machine.execRejoin f s
  | .eqInit f => Sys2Proof.Machine.execEqInit f s
  | .eqUnite f => Sys2Proof.Machine.execEqUnite f s
  | .eqFind f => Sys2Proof.Machine.execEqFind f s
  | .eqSame f => Sys2Proof.Machine.execEqSame f s
  | .eqSize f => Sys2Proof.Machine.execEqSize f s
  | .eqRelabel f => Sys2Proof.Machine.execEqRelabel f s
  | .eqSnap f => Sys2Proof.Machine.execEqSnap f s
  | .eqUndo f => Sys2Proof.Machine.execEqUndo f s
  | .eqFence f => Sys2Proof.Machine.execEqFence f s
  | .pkCfg f => Sys2Proof.Machine.execPkCfg f s
  | .pkLook f => Sys2Proof.Machine.execPkLook f s
  | .pkBack f => Sys2Proof.Machine.execPkBack f s
  | .pkWait f => Sys2Proof.Machine.execPkWait f s
  | .nmAdd f => Sys2Proof.Machine.execNmAdd f s
  | .nmFai f => Sys2Proof.Machine.execNmFai f s
  | .nmOpt f => Sys2Proof.Machine.execNmOpt f s
  | .nmFence f => Sys2Proof.Machine.execNmFence f s
  | .asLd f => Sys2Proof.Machine.execAsLd f s
  | .asWait f => Sys2Proof.Machine.execAsWait f s
  | .graphGo f => Sys2Proof.Machine.execGraphGo f s
  | .taskSig f => Sys2Proof.Machine.execTaskSig f s
  | .rngSeed f => Sys2Proof.Machine.execRngSeed f s
  | .bundleIssue core => Sys2Proof.Machine.execBundleIssue core s
  | .settleWindowEnd core => Sys2Proof.Machine.execSettleWindowEnd core s
  | .emptyBundle cid => Sys2Proof.Machine.execEmptyBundle cid s
  | .dictLoadEnd cid => Sys2Proof.Machine.execDictLoadEnd cid s
  | .waitExpiry cid => Sys2Proof.Machine.execWaitExpiry cid s
  | .resultLanding cid => Sys2Proof.Machine.execResultLanding cid s
  | .mDataArrival cid req => Sys2Proof.Machine.execMDataArrival cid req s
  | .mLandingDue cid => Sys2Proof.Machine.execMLandingDue cid s
  | .storeLeaveQueue cid pos => Sys2Proof.Machine.execStoreLeaveQueue cid pos s
  | .writeMoveOutward level unit pos => Sys2Proof.Machine.execWriteMoveOutward level unit pos s
  | .writeToMemory pos => Sys2Proof.Machine.execWriteToMemory pos s
  | .remoteAcknowledge pos => Sys2Proof.Machine.execRemoteAcknowledge pos s
  | .loadPerform cid pos => Sys2Proof.Machine.execLoadPerform cid pos s
  | .acquirePerform cid pos => Sys2Proof.Machine.execAcquirePerform cid pos s
  | .atomicPerform cid pos => Sys2Proof.Machine.execAtomicPerform cid pos s
  | .keyedPerform cid pos => Sys2Proof.Machine.execKeyedPerform cid pos s
  | .engineAccessPerform cid cls pos => Sys2Proof.Machine.execEngineAccessPerform cid cls pos s
  | .seqTransition core => Sys2Proof.Machine.execSeqTransition core s
  | .engineOpStart core => Sys2Proof.Machine.execEngineOpStart core s
  | .engineInterruptibleStep core => Sys2Proof.Machine.execEngineInterruptibleStep core s
  | .engineOpEnd core => Sys2Proof.Machine.execEngineOpEnd core s
  | .resultWordDue cid => Sys2Proof.Machine.execResultWordDue cid s
  | .copyComplete cid pos => Sys2Proof.Machine.execCopyComplete cid pos s
  | .streamElementDeliver cid q => Sys2Proof.Machine.execStreamElementDeliver cid q s
  | .cbarArrival cid => Sys2Proof.Machine.execCbarArrival cid s
  | .cbarRelease cid => Sys2Proof.Machine.execCbarRelease cid s
  | .gangFusion leader => Sys2Proof.Machine.execGangFusion leader s
  | .gangRejoin leader => Sys2Proof.Machine.execGangRejoin leader s
  | .eqRequestProcess cluster => Sys2Proof.Machine.execEqRequestProcess cluster s
  | .pkCommandProcess die => Sys2Proof.Machine.execPkCommandProcess die s
  | .pkCommandEnd die => Sys2Proof.Machine.execPkCommandEnd die s
  | .nmRowPerform cid pos => Sys2Proof.Machine.execNmRowPerform cid pos s
  | .nmAcknowledge cid pos => Sys2Proof.Machine.execNmAcknowledge cid pos s
  | .asLdComplete cid pos => Sys2Proof.Machine.execAsLdComplete cid pos s
  | .rngPush cid => Sys2Proof.Machine.execRngPush cid s
  | .trapAtBoundary cid => Sys2Proof.Machine.execTrapAtBoundary cid s
  | .deadlineEvent cid => Sys2Proof.Machine.execDeadlineEvent cid s
  | .detStampIssue cid => Sys2Proof.Machine.execDetStampIssue cid s
  | .preemptionStop cid => Sys2Proof.Machine.execPreemptionStop cid s
  | .contextResume save cid => Sys2Proof.Machine.execContextResume save cid s
  | .checkpointTake cid => Sys2Proof.Machine.execCheckpointTake cid s
  | .intervalUnprotected cid => Sys2Proof.Machine.execIntervalUnprotected cid s
  | .tlbWalkComplete die pos => Sys2Proof.Machine.execTlbWalkComplete die pos s
  | .invalidationDone part pos => Sys2Proof.Machine.execInvalidationDone part pos s
  | .graphStart part queue => Sys2Proof.Machine.execGraphStart part queue s
  | .nodeRelease part queue node => Sys2Proof.Machine.execNodeRelease part queue node s
  | .reservationGrant part cid => Sys2Proof.Machine.execReservationGrant part cid s
  | .taskBind part queue node cid => Sys2Proof.Machine.execTaskBind part queue node cid s
  | .taskStart cid => Sys2Proof.Machine.execTaskStart cid s
  | .agePromotion part queue node => Sys2Proof.Machine.execAgePromotion part queue node s
  | .taskEndComplete cid => Sys2Proof.Machine.execTaskEndComplete cid s
  | .pushConsumed cid q => Sys2Proof.Machine.execPushConsumed cid q s
  | .preemptionRequest part => Sys2Proof.Machine.execPreemptionRequest part s
  | .detectedError w cid => Sys2Proof.Machine.execDetectedError w cid s
  | .faultReply part msg => Sys2Proof.Machine.execFaultReply part msg s
  | .invalidation part msg => Sys2Proof.Machine.execInvalidation part msg s
  | .hostLaunch part msg => Sys2Proof.Machine.execHostLaunch part msg s
  | .unknownLaunchMessage part msg => Sys2Proof.Machine.execUnknownLaunchMessage part msg s
  | .inboundRmaRead from_ addr len => Sys2Proof.Machine.execInboundRmaRead from_ addr len s
  | .inboundRmaWrite from_ addr data => Sys2Proof.Machine.execInboundRmaWrite from_ addr data s
  | .inboundAtomic from_ addr op size operand compare => Sys2Proof.Machine.execInboundAtomic from_ addr op size operand compare s
  | .remoteErrorResponse cid pos => Sys2Proof.Machine.execRemoteErrorResponse cid pos s
  | .attestationRequest nonce => Sys2Proof.Machine.execAttestationRequest nonce s
  | .debugChallengeRequest domain => Sys2Proof.Machine.execDebugChallengeRequest domain s
  | .debugUnlockAnswer domain sig => Sys2Proof.Machine.execDebugUnlockAnswer domain sig s
  | .debugRelock domain => Sys2Proof.Machine.execDebugRelock domain s
  | .ownerKeyInstall key sig => Sys2Proof.Machine.execOwnerKeyInstall key sig s
  | .launchPolicyChange part require keys sig => Sys2Proof.Machine.execLaunchPolicyChange part require keys sig s
  | .peerTableChange part slot valid addr sig => Sys2Proof.Machine.execPeerTableChange part slot valid addr sig s
  | .retirementTableClear sig => Sys2Proof.Machine.execRetirementTableClear sig s
  | .partitionForm part dieMask root sig => Sys2Proof.Machine.execPartitionForm part dieMask root sig s
  | .firmwareImage image version sig => Sys2Proof.Machine.execFirmwareImage image version sig s
  | .dumpClear die => Sys2Proof.Machine.execDumpClear die s
  | .moduleReset => Sys2Proof.Machine.execModuleReset s
  | .droopDetect cluster core => Sys2Proof.Machine.execDroopDetect cluster core s
  | .currentLimitFall cluster => Sys2Proof.Machine.execCurrentLimitFall cluster s
  | .ballastPeriod cluster busy => Sys2Proof.Machine.execBallastPeriod cluster busy s
  | .thermalReading die temps => Sys2Proof.Machine.execThermalReading die temps s
  | .watchdogExpiry => Sys2Proof.Machine.execWatchdogExpiry s
  | .fatalError cause => Sys2Proof.Machine.execFatalError cause s
  | .correctedError core kind => Sys2Proof.Machine.execCorrectedError core kind s
  | .unsupportedPacket part answered => Sys2Proof.Machine.execUnsupportedPacket part answered s
  | .breakpointComparatorSet cid n addr mask => Sys2Proof.Machine.execBreakpointComparatorSet cid n addr mask s
  | .debugSessionResume cid => Sys2Proof.Machine.execDebugSessionResume cid s
  | .heldContextImageWrite cid reg value => Sys2Proof.Machine.execHeldContextImageWrite cid reg value s
  | .debugKeyInstall domain key sig => Sys2Proof.Machine.execDebugKeyInstall domain key sig s
  | .partitionDissolution part sig => Sys2Proof.Machine.execPartitionDissolution part sig s
  | .powerOff => Sys2Proof.Machine.execPowerOff s

end Sys2Proof.Machine
end

