-- ==== Sys2Proof/Machine/Run.lean ====
section
/-! DEFINITION. Running a slot of the bundles in issue (R63, R69, R83, R234, R254), and the order in which the events of the
other agents happen where nothing else fixes it (log entry 3). -/

namespace Sys2Proof.Machine

/-! ### One slot -/

/-- The comparator that stops a slot (R234): none for a slot that its guard disables, for the slot that a session has just
resumed, and in a handler that no session holds (R227). -/
def breakAt (s : State) (w : SlotWord) : Option Nat :=
  let c := s.ctx w.cid
  if c.bun.pass == some w.slot || (c.r.inHandler && !c.held) || !guardOn c.r (slotGuard (kindOfSlot w.slot) w.bits) then none
  else c.matching c.bun.pc w.slot

/-- A comparator's break in the executing slot: the session that holds the context gets it, and else the handler (R104,
R227, R234). -/
def breakStop (s : State) (n : Nat) : State :=
  let c := s.me
  let w := s.cur
  let code : BitVec 14 := BitVec.ofNat 14 (0x3FFC + n)
  if c.held then
    (s.gangOf w.cid).foldl (fun s i => (s.pause i (c.doneBefore w.slot)).modCtx i fun d =>
      { d with dbgStop := some (c.bun.pc, w.slot, code) }) s
  else s.issueTrap w.cid ⟨12, w.slot, 0, code, 0⟩ (c.doneBefore w.slot)

/-- The V slot that traps for the whole bundle (R83). -/
def laneStop (s : State) (w : SlotWord) : Option Nat :=
  if 2 ≤ w.slot ∧ w.slot ≤ 4 then (s.ctx w.cid).bun.laneTrap else none

/-- One slot of a context executes. A word that is no instruction's is illegal in its slot (R69). -/
def runSlot (s : State) (w : SlotWord) : Host.Outcome State Fault Refusal :=
  let s := { s with cur := w }
  match breakAt s w, laneStop s w with
  | some n, _ => .next (breakStop s n)
  | none, some n => .next ({ s with cur := { w with slot := n } } : State).laneTrap
  | none, none =>
    match decodeSlot (kindOfSlot w.slot) w.bits with
    | none => .next s.illegalSlot
    | some i => exec i s

/-! ### Fused gangs (R254) -/

/-- The instructions that take their guards and operands from the leader. -/
def leaderGoverns : Instr → Bool
  | .br _ => true
  | .call _ => true
  | .jr _ => true
  | .loop _ => true
  | .loopRearm _ => true
  | .loopExit _ => true
  | .wait _ => true
  | .yield _ => true
  | .endTask _ => true
  | .eret _ => true
  | .dictLd _ => true
  | .dictSw _ => true
  | _ => false

/-- A member's registers with the leader's operands. -/
def Regs.borrow (r l : Regs) : Regs :=
  { r with sreg := l.sreg, pred := l.pred, neither := l.neither, latch := l.latch, lcnt := l.lcnt, lstart := l.lstart, lend := l.lend }

/-- A member's own operands come back; `dict.sw` has voided its latches (R101). -/
def Regs.giveBack (r old : Regs) : Regs :=
  { r with sreg := old.sreg, pred := old.pred, neither := old.neither, lcnt := old.lcnt, lstart := old.lstart, lend := old.lend,
           latch := if r.curBank == old.curBank then old.latch else r.latch }

/-- One slot of a fused gang's member. -/
def runMember (s : State) (w : SlotWord) : Host.Outcome State Fault Refusal :=
  let c := s.ctx w.cid
  if (decodeSlot (kindOfSlot w.slot) w.bits).any leaderGoverns && c.bind.leader != w.cid then
    match runSlot (s.modRegs w.cid fun r => r.borrow (s.ctx c.bind.leader).r) w with
    | .next t => .next (t.modRegs w.cid fun r => r.giveBack c.r)
    | o => o
  else runSlot s w

/-- Whether a member's slot stops its bundle. -/
def memberStops (s : State) (w : SlotWord) : Bool :=
  match runMember s w with
  | .next t => !t.issuing.contains w.cid
  | _ => true

/-- The member of lower index (R252). -/
def lowerMember (s : State) (a b : SlotWord) : SlotWord :=
  if (s.ctx b.cid).bind.member < (s.ctx a.cid).bind.member then b else a

/-- The slots of the members run one after another. -/
def runAll (s : State) : List SlotWord → Host.Outcome State Fault Refusal
  | [] => .next s
  | w :: t =>
    match runMember s w with
    | .next s => runAll s t
    | o => o

/-- The same slot of all members of a fused gang: when it stops in several of them, every member stops as the one of lowest
index does, and none has executed it (R254). -/
def runGang (s : State) (ws : List SlotWord) : Host.Outcome State Fault Refusal :=
  match ws.filter (memberStops s) with
  | [] => runAll s ws
  | b :: bs => runMember s (bs.foldl (lowerMember s) b)

/-- A step of the issue in progress: its next slot executes, in a fused gang in every member. After the last one the bundles
complete. -/
def runIssue (s : State) (w : SlotWord) (rest : List SlotWord) : Host.Outcome State Fault Refusal :=
  let gang := s.gangOf w.cid
  let mates := rest.takeWhile fun x => x.slot == w.slot && x.cid != w.cid && gang.contains x.cid
  let s := { s with issue := rest.drop mates.length }
  match (if mates.isEmpty then runSlot s w else runGang s (w :: mates)) with
  | .next t => .next t.finishIssue
  | o => o

/-! ### The order of the events (log entry 3) -/

/-- An event as the step tries it. -/
abbrev Event := State → Host.Outcome State Fault Refusal

/-- The first event of a list that changes anything. -/
def firstEvent (s : State) : List Event → Host.Outcome State Fault Refusal
  | [] => .next s
  | e :: t =>
    match e s with
    | .next s' => if s' = s then firstEvent s t else .next s'
    | o => o

/-- An event for every position below n. -/
def positions (n : Nat) (f : Nat → Event) : List Event := (List.range n).map f

/-- The events of a context's own paths that take no time. -/
def pathEvents (s : State) (cid : Nat) : List Event :=
  let c := s.ctx cid
  let n := c.mq.length
  positions n (execLoadPerform cid) ++ positions n (execAcquirePerform cid) ++ positions n (execAtomicPerform cid)
    ++ positions (s.flyingAtomics cid).length (fun i => execAtomicPerform cid (1000 + i))
    ++ positions n (execKeyedPerform cid)
    ++ positions (s.flyingAtomics cid).length (fun i => execKeyedPerform cid (1000 + i))
    ++ positions n (execStoreLeaveQueue cid)
    ++ positions c.copies.length (execEngineAccessPerform cid 1)
    ++ positions c.copies.length (fun i => execKeyedPerform cid (2000 + i))
    ++ positions 8 (execPushConsumed cid) ++ positions 8 (execStreamElementDeliver cid)
    ++ positions c.copies.length (execCopyComplete cid)
    ++ positions c.ncmds.length (execNmRowPerform cid) ++ positions c.ncmds.length (execNmAcknowledge cid)
    ++ positions c.asLds.length (execEngineAccessPerform cid 7)
    ++ positions c.asLds.length (fun i => execKeyedPerform cid (3000 + i))
    ++ positions c.asLds.length (execAsLdComplete cid)
    ++ [execEngineAccessPerform cid 2 0, execEngineAccessPerform cid 8 0]
    ++ c.r.land.map (fun q => execMDataArrival cid q.id)

/-- The events of a context at its bundle boundaries that take no time. -/
def boundaryEvents (cid : Nat) : List Event :=
  [execRngPush cid, execResultLanding cid, execWaitExpiry cid, execDictLoadEnd cid, execCbarArrival cid, execCbarRelease cid,
   execGangFusion cid, execGangRejoin cid, execDeadlineEvent cid, execPreemptionStop cid, execCheckpointTake cid,
   execIntervalUnprotected cid, execTaskEndComplete cid, execTaskStart cid]

/-- Moves of the writes in the buffers of a unit. -/
def bufferEvents (s : State) : List Event :=
  s.cores.flatMap (fun k => positions k.2.buf.length (execWriteMoveOutward 0 k.1))
    ++ s.clus.flatMap (fun k => positions k.2.buf.length (execWriteMoveOutward 1 k.1))
    ++ s.dies.flatMap (fun k => positions k.2.buf.length (execWriteMoveOutward 2 k.1))
    ++ positions s.hub.pkgBuf.length execWriteToMemory ++ positions s.hub.bridge.length execRemoteAcknowledge

/-- The events of the engines. -/
def engineEvents (s : State) : List Event :=
  s.cores.flatMap (fun k => [execEngineOpStart k.1, execEngineInterruptibleStep k.1, execSeqTransition k.1, execEngineOpEnd k.1])
    ++ s.clus.map (fun k => execEqRequestProcess k.1)
    ++ s.dies.flatMap (fun d => [execPkCommandProcess d.1, execPkCommandEnd d.1]
      ++ positions d.2.walks.length (execTlbWalkComplete d.1))

/-- The events of the scheduler of a partition. -/
def schedEvents (s : State) (p : Nat × Part) : List Event :=
  let at_ (q : Nat) : List Event :=
    let nodes := match p.2.queue q with
      | l :: _ => l.nodes.length
      | [] => 0
    (execGraphStart p.1 q :: positions nodes (execNodeRelease p.1 q))
      ++ positions nodes (fun i => execAgePromotion p.1 q i)
  let hs := holders s p.1
  let ids := (p.2.dies.flatMap fun d => (List.range 1024).map fun i => d * 1024 + i) ++ hs.flatMap fun h => h.resv.need
  let binds (q : Nat) : List Event :=
    let nodes := match p.2.queue q with
      | l :: _ => (List.range l.nodes.length).filter fun i => (l.nodes[i]?).any fun (n : Node) => !n.unbound.isEmpty
      | [] => []
    nodes.flatMap fun i => ids.map fun c => execTaskBind p.1 q i c
  positions p.2.invals.length (execInvalidationDone p.1) ++ (List.range 16).flatMap at_
    ++ (List.range p.2.saved.length).flatMap (fun i => ids.map fun c => execContextResume i c)
    ++ (if hs.isEmpty then [] else ids.map fun c => execReservationGrant p.1 c)
    ++ (List.range 16).flatMap binds ++ [execPreemptionRequest p.1]

/-- The cores from the one whose time is least. -/
def coresByTime (l : List (Nat × Core)) : List Nat :=
  let insert (x : Nat × Core) (acc : List (Nat × Core)) : List (Nat × Core) :=
    acc.takeWhile (fun y => decide (y.2.time < x.2.time)) ++ x :: acc.dropWhile fun y => decide (y.2.time < x.2.time)
  (l.foldr insert []).map (·.1)

/-- The events that take time: a due landing or result word that freezes its core, a trap, a bundle. -/
def timedEvents (s : State) : List Event :=
  (coresByTime (s.cores.filter fun k => !(clockedCtxs s k.1).isEmpty)).flatMap fun l =>
    [2 * l, 2 * l + 1].flatMap (fun c => [execMLandingDue c, execResultWordDue c, execTrapAtBoundary c])
      ++ [execSettleWindowEnd l, execBundleIssue l, execDetStampIssue (2 * l), execDetStampIssue (2 * l + 1)]

/-- The events in the order in which the step tries them. -/
def eventsOf (s : State) : List Event :=
  s.ctxs.flatMap (fun c => if c.2.status == .free then [] else boundaryEvents c.1 ++ pathEvents s c.1)
    ++ engineEvents s ++ bufferEvents s ++ s.clus.map (fun k => execCurrentLimitFall k.1)
    ++ s.hub.parts.flatMap (schedEvents s) ++ timedEvents s

/-- Whether an input reaches a module that is off or halted: a reset, the loss of power, the collection of a dump (R361,
R362, R376). -/
def reachesHalted : Instr → Bool
  | .moduleReset => true
  | .powerOff => true
  | .dumpClear _ => true
  | _ => false

/-- Whether an input reaches a module that a fatal error has halted: the ballast's ramp-down, and another fatal error while
the dump is written (R361, R362). -/
def reachesDump : Instr → Bool
  | .ballastPeriod _ _ => true
  | .fatalError _ => true
  | .watchdogExpiry => true
  | _ => false

/-- A step of a module that runs: the next slot of the issue in progress, else the next event of the agenda, else the first
event that changes anything. -/
def stepRunning (s : State) : Host.Outcome State Fault Refusal :=
  match s.issue, s.agenda with
  | w :: rest, _ => runIssue s w rest
  | [], e :: rest => exec e { s with agenda := rest }
  | [], [] => firstEvent s (eventsOf s)

/-- A step of a module that is off or halted: only some inputs reach it, and a dump that none interrupts is finished (R362). -/
def stepStopped (s : State) (f : Fault) : Host.Outcome State Fault Refusal :=
  match s.agenda with
  | e :: rest =>
    if reachesHalted e || (s.halted && reachesDump e) then exec e { s with agenda := rest } else .next { s with agenda := rest }
  | [] => if s.hub.dumping then .next (finishDump s) else .fault f

/-- A slot word stands as the whole issue in progress of the context 0. -/
def placeSlot (s : State) (nbits w : Nat) : State :=
  { s with issue := [⟨0, if nbits = 32 then 0 else if nbits ≤ 24 then 5 else 2, w⟩], issuing := [0], issueCores := [0] }

end Sys2Proof.Machine
end

