-- ==== Sys2Proof/Machine/Step.lean ====
section
/-! DEFINITION. The step of the machine: which slot or event happens next. -/

namespace Sys2Proof.Machine

/-- One step: an event of an agent, or one slot of a bundle in issue. -/
def step (s : State) : Host.Outcome State Fault Refusal :=
  if s.halted then stepStopped s .halted
  else if s.on then stepRunning s
  else stepStopped s .poweredOff

/-- The state with a slot word as the next to issue: 32 bits in S0, 24 bits in F, any other width in V0 (log entry 3). -/
def State.withFetchWord (s : State) (nbits w : Nat) : State := placeSlot s nbits w

end Sys2Proof.Machine
end

