-- ==== Sys2Proof/Safety.lean ====
section
/-! DEFINITION. The terms in which claims about runs are stated. -/

namespace Sys2Proof.Machine

/-- The machine goes on from `s`: its step answers a next state. -/
def Goes (s : State) : Prop := ∃ t, step s = .next t

/-- Memory is in its canonical form. -/
abbrev MemOk (s : State) : Prop := Memory.wf s.mem = true

/-- Every byte of memory reads as before. -/
def SameMem (s t : State) : Prop := ∀ a, memGet t.mem a = memGet s.mem a

/-- Every byte of memory outside some keys reads as before. -/
def SameMemBut (ks : Nat → Prop) (s t : State) : Prop := ∀ a, ¬ ks a → memGet t.mem a = memGet s.mem a

/-- Every context but one is as before. -/
def SameCtxBut (cid : Nat) (s t : State) : Prop := ∀ i, i ≠ cid → t.ctx i = s.ctx i

end Sys2Proof.Machine
end

