-- ==== Sys2Proof/Certificates/Slice0/Obligations.lean ====
section
/-! DEFINITION. The statements for the provers, and the terms they are stated in. -/

namespace Sys2Proof.Claims

open Sys2Proof.Machine

/-! ### Terms about slots -/

/-- The guard of a slot enables it (R69). -/
abbrev Enabled (g : BitVec 5) (s : State) : Prop := guardOn s.me.r g = true

/-- The state with one more result in flight: it lands `lat` cc from now with its writes, its latch value and its flags,
and nothing else changes (R81). -/
def inFlight (s : State) (lat : Nat) (ws : List RWrite) (l : Option Latch) (fl : BitVec 8) : State :=
  s.modRegs s.cur.cid fun r =>
    { r with flight := r.flight ++ [⟨(s.core (coreOf s.cur.cid)).cc + lat, s.cur.slot, ws, l, fl⟩] }

/-- No other result of the context lands in one of these registers in the same cc (R83). -/
abbrev Free (s : State) (lat : Nat) (ws : List RWrite) : Prop := s.collides lat ws = false

/-- The register write of a scalar result: none with nw (R72). -/
def toS (nw : BitVec 1) (d : BitVec 6) (v : SVal) : List RWrite := if nw = 1 then [] else [.sreg d v]

/-- The register write of a vector result of width w: none with nw (R72, R74). -/
def toV (f : VFld) (v : VVal) : List RWrite := if f.nw = 1 then [] else [.vreg f.d (vWords f.w) v]

/-- The register writes of a vector pair: none with nw (R72, R74). -/
def toVV (f : VFld) (v v' : VVal) : List RWrite :=
  if f.nw = 1 then [] else [.vreg f.d (vWords f.w) v, .vreg (f.d + 1) (vWords f.w) v']

/-- The latch value of a vector result; the words beyond the width are the model's choice (log entry 7). -/
def latchV (f : VFld) (v : VVal) : Option Latch := some (.vector (v.narrow (vWords f.w)))

/-- A count of one bits, bit by bit. -/
def oneBits (x : Word) : Nat := ((List.range 64).filter fun i => x.getLsbD i).length

/-- A count of leading zero bits, bit by bit. -/
def leadingZeros (x : Word) : Nat := ((List.range 64).takeWhile fun i => !x.getLsbD (63 - i)).length

/-- The opcode field of a slot word (R73 to R76). -/
def opField (k : SlotKind) (w : Nat) : Nat :=
  match k with
  | .s => fieldN w 21 6
  | .v | .t => fieldN w 28 7
  | .f => fieldN w 14 5
  | .x => fieldN w 15 4
  | .m => fieldN w 29 6

/-- Every word of a slot kind and opcode, !p0 guards apart, whose fields are `bad` decodes to no instruction, so its slot
raises the illegal-slot trap (R69, R77). -/
def Refuses (k : SlotKind) (op : Nat) (bad : Nat → Prop) : Prop :=
  ∀ w, w < 2 ^ slotBits k → opField k w = op → slotGuard k w ≠ 16 → bad w → decodeSlot k w = none

/-- R86, R87: each register-form operation of two whole sources, with its latency (R82) and its value. -/
def regForms : List ((SReg → Instr) × Nat × (Word → Word → Word)) :=
  [(.add, 1, fun a b => BitVec.ofNat 64 (a.toNat + b.toNat)),
   (.sub, 1, fun a b => BitVec.ofInt 64 (a.toInt - b.toInt)),
   (.mul, 3, fun a b => BitVec.ofNat 64 (a.toNat * b.toNat)),
   (.mulh, 3, fun a b => BitVec.ofInt 64 (a.toInt * b.toInt / 2 ^ 64)),
   (.mulhu, 3, fun a b => BitVec.ofNat 64 (a.toNat * b.toNat / 2 ^ 64)),
   (.div, 18, fun a b => if b = 0 then BitVec.ofInt 64 (-1) else BitVec.ofInt 64 (Int.tdiv a.toInt b.toInt)),
   (.divu, 18, fun a b => if b = 0 then BitVec.ofNat 64 (2 ^ 64 - 1) else BitVec.ofNat 64 (a.toNat / b.toNat)),
   (.rem, 18, fun a b => if b = 0 then a else BitVec.ofInt 64 (Int.tmod a.toInt b.toInt)),
   (.remu, 18, fun a b => if b = 0 then a else BitVec.ofNat 64 (a.toNat % b.toNat)),
   (.and, 1, fun a b => a &&& b),
   (.or, 1, fun a b => a ||| b),
   (.xor, 1, fun a b => a ^^^ b),
   (.andn, 1, fun a b => a &&& ~~~b),
   (.min, 1, fun a b => BitVec.ofInt 64 (min a.toInt b.toInt)),
   (.max, 1, fun a b => BitVec.ofInt 64 (max a.toInt b.toInt)),
   (.minu, 1, fun a b => BitVec.ofNat 64 (min a.toNat b.toNat)),
   (.maxu, 1, fun a b => BitVec.ofNat 64 (max a.toNat b.toNat))]

/-- R86, R88: each register-form operation whose second source is a count or a descriptor in its word 0. -/
def lowForms : List ((SReg → Instr) × (Word → Word → Word)) :=
  [(.shl, fun a b => BitVec.ofNat 64 (a.toNat * 2 ^ (b.toNat % 64))),
   (.shr, fun a b => BitVec.ofNat 64 (a.toNat / 2 ^ (b.toNat % 64))),
   (.sra, fun a b => BitVec.ofInt 64 (a.toInt / 2 ^ (b.toNat % 64))),
   (.rotl, fun a b => BitVec.ofNat 64 (a.toNat * 2 ^ (b.toNat % 64) + a.toNat / 2 ^ (64 - b.toNat % 64))),
   (.bfx, fun a b => BitVec.ofNat 64 (a.toNat / 2 ^ (b.toNat % 64) % 2 ^ min (b.toNat / 2 ^ 8 % 2 ^ 7) 64))]

/-- R86: each operation of one source. -/
def oneForms : List ((SUn → Instr) × (Word → Word)) :=
  [(.clz, fun a => BitVec.ofNat 64 (leadingZeros a)), (.popc, fun a => BitVec.ofNat 64 (oneBits a))]

/-- R89: the two operations with a signed 7-bit immediate. -/
def immForms : List ((SReg → Instr) × (Word → Word → Word)) :=
  [(.addi, fun a b => BitVec.ofInt 64 (a.toInt + b.toInt)), (.andi, fun a b => a &&& b)]

/-- R89: the shifts by an immediate count. -/
def shiftForms : List ((SSh → Instr) × (Word → Nat → Word)) :=
  [(.shli, fun a n => BitVec.ofNat 64 (a.toNat * 2 ^ n)), (.shri, fun a n => BitVec.ofNat 64 (a.toNat / 2 ^ n)),
   (.srai, fun a n => BitVec.ofInt 64 (a.toInt / 2 ^ n))]

/-- The bits of a field insertion (R88). -/
def inserted (d a b : Word) (i : Nat) : Bool :=
  let lo := b.toNat % 64
  if lo ≤ i ∧ i < lo + min (b.toNat / 2 ^ 8 % 2 ^ 7) 64 then a.getLsbD (i - lo) else d.getLsbD i

/-- R91: the compares of two sources. -/
def cmpForms : List ((SCmp → Instr) × (Word → Word → Bool)) :=
  [(.cmpEq, fun a b => decide (a = b)), (.cmpNe, fun a b => decide (a ≠ b)),
   (.cmpLt, fun a b => decide (a.toInt < b.toInt)), (.cmpLtu, fun a b => decide (a.toNat < b.toNat)),
   (.cmpLe, fun a b => decide (a.toInt ≤ b.toInt)), (.cmpLeu, fun a b => decide (a.toNat ≤ b.toNat))]

/-- R91: the compares with an immediate. -/
def cmpImmForms : List ((SCmp → Instr) × (Word → Word → Bool)) :=
  [(.cmpiEq, fun a b => decide (a = b)), (.cmpiLt, fun a b => decide (a.toInt < b.toInt))]

/-- R92: the predicate operations. -/
def predForms : List ((SPred → Instr) × (Bool → Bool → Bool)) :=
  [(.pand, fun a b => a && b), (.por, fun a b => a || b), (.pxor, fun a b => xor a b), (.pandn, fun a b => a && !b)]

/-- The predicate pair of a compare: even pD and pD + 1, or the neither state where an operand is invalid (R78, R91). -/
def pair (p : BitVec 3) (ok c : Bool) : List RWrite :=
  if ok then [.pred (BitVec.ofNat 4 (2 * p.toNat)) c, .pred (BitVec.ofNat 4 (2 * p.toNat + 1)) !c]
  else [.neither (BitVec.ofNat 4 (2 * p.toNat))]

/-! ### Terms about vectors -/

/-- R118: the operations on 32-bit words. -/
def wordForms : List ((VFld → Instr) × (BitVec 32 → BitVec 32 → BitVec 32)) :=
  [(.vadd, fun a b => BitVec.ofNat 32 (a.toNat + b.toNat)),
   (.vsub, fun a b => BitVec.ofInt 32 (a.toInt - b.toInt)),
   (.vmul, fun a b => BitVec.ofNat 32 (a.toNat * b.toNat)),
   (.vmulh, fun a b => BitVec.ofInt 32 (a.toInt * b.toInt / 2 ^ 32)),
   (.vmin, fun a b => BitVec.ofInt 32 (min a.toInt b.toInt)),
   (.vmax, fun a b => BitVec.ofInt 32 (max a.toInt b.toInt)),
   (.vminu, fun a b => BitVec.ofNat 32 (min a.toNat b.toNat)),
   (.vmaxu, fun a b => BitVec.ofNat 32 (max a.toNat b.toNat)),
   (.vand, fun a b => a &&& b), (.vor, fun a b => a ||| b), (.vxor, fun a b => a ^^^ b),
   (.vshl, fun a b => BitVec.ofNat 32 (a.toNat * 2 ^ (b.toNat % 32))),
   (.vshr, fun a b => BitVec.ofNat 32 (a.toNat / 2 ^ (b.toNat % 32))),
   (.vsra, fun a b => BitVec.ofInt 32 (a.toInt / 2 ^ (b.toNat % 32)))]

/-- R118: the operations on 64-bit elements. -/
def dwordForms : List ((VFld → Instr) × (Nat → Nat → Nat)) :=
  [(.vaddD, fun a b => (a + b) % 2 ^ 64), (.vsubD, fun a b => (a + 2 ^ 64 - b) % 2 ^ 64)]

/-- R119: the word compares. -/
def wordCmps : List ((VFld → Instr) × (BitVec 32 → BitVec 32 → Bool)) :=
  [(.vcmpEq, fun a b => decide (a = b)), (.vcmpLt, fun a b => decide (a.toInt < b.toInt)),
   (.vcmpLtu, fun a b => decide (a.toNat < b.toNat))]

/-- A vector value word by word. -/
def words (f : Nat → VWord) : VVal := VVal.ofWords f

/-- R120, R121, R125, R126: what each word of the result is for the operations that move, select, count or scan words. -/
def moveForms : List ((VFld → Instr) × Nat × (VFld → VVal → VVal → Nat → VWord)) :=
  [(.vsel, 2, fun _ a b i => if (a.word i).ok then a.word i else b.word i),
   (.vvalid, 2, fun _ a _ i => ⟨if (a.word i).ok then 0xFFFFFFFF else 0, true⟩),
   (.vvmask, 2, fun f a _ i => ⟨if i = 0 then
      BitVec.ofNat 32 ((List.range (vWords f.w)).map fun j => if (a.word j).ok then 2 ^ j else 0).sum else 0, true⟩),
   (.vmaskv, 2, fun _ a b i => ⟨(a.word i).bits, (a.word i).ok && (b.word 0).ok && (b.word 0).bits.getLsbD i⟩),
   (.vins, 2, fun f a b i => if i = f.c.toNat then b.word 0 else a.word i),
   (.vredAdd, 5, fun f a _ i => if i = 0 then
      ⟨BitVec.ofNat 32 ((List.range (vWords f.w)).map fun j => (a.word j).bits.toNat).sum,
        decide (∀ j < vWords f.w, (a.word j).ok = true)⟩ else ⟨0, true⟩),
   (.vscanAdd, 5, fun _ a _ i => ⟨BitVec.ofNat 32 ((List.range (i + 1)).map fun j => (a.word j).bits.toNat).sum,
      decide (∀ j < i + 1, (a.word j).ok = true)⟩)]

/-! ### Terms about floating point and conversions -/

/-- R31, R112: the FP operations of two sources, by their function on two encodings. -/
def fpForms : List ((BitVec 2 → VFld → Instr) × (Fmt → RMode → Nat → Nat → FRes)) :=
  [(.vfadd, fun m rm x y => fAdd m rm (decodeF m x) (decodeF m y)),
   (.vfsub, fun m rm x y => fSub m rm (decodeF m x) (decodeF m y)),
   (.vfmul, fun m rm x y => fMul m rm (decodeF m x) (decodeF m y)),
   (.vfmin, fun m _ x y => fMinMax m false x y), (.vfmax, fun m _ x y => fMinMax m true x y)]

/-- R112: the divisions, with their element type and latency (R82). -/
def divForms : List ((VFld → Instr) × BitVec 2 × Nat) := [(.vfdivF32, 2, 16), (.vfdivF64, 3, 30)]

/-- The results of the elements: for each, the function of the elements of the sources where all are valid (R61, R111). -/
def lanes (wb n : Nat) (ok : Nat → Bool) (g : Nat → FRes) : VVal × BitVec 8 :=
  vecOf wb ((List.range n).map fun i => if ok i then some (g i) else none)

/-- The elements of a result of width w. -/
def count (t : BitVec 2) (w : BitVec 2) : Nat := vWords w * 32 / (fmtOfT t).width

/-- The latency of an FP family (R82). -/
def fpLat (t : BitVec 2) : Nat := if t = 3 then 8 else 4

/-- R113 to R116: the FP operations of one source. -/
def fpOneForms : List ((BitVec 2 → VFld → Instr) × (VFld → Fmt → RMode → Nat → FRes)) :=
  [(.vfrnd, fun f m rm x => fRint m rm (f.c == 1) x), (.vfclass, fun _ m _ x => ⟨fClass m x, 0⟩)]

/-- The V slot's operations that write a vector register or a pair of them, `vsplat` and `viota` apart: latency (R82), whether
the result is a pair, and whether source B is read. -/
def vForms (t : BitVec 2) : List ((VFld → Instr) × Nat × Bool × (VFld → Bool)) :=
  fpForms.map (fun e => (e.1 t, fpLat t, false, fun _ => true)) ++
  fpOneForms.map (fun e => (e.1 t, fpLat t, false, fun _ => false)) ++
  divForms.map (fun e => (e.1, e.2.2, false, fun _ => true)) ++
  [(.vfma t, fpLat t, false, fun _ => true), (.vfcmp t, fpLat t, true, fun _ => true),
   (.vfsgn t, fpLat t, false, fun f => f.c == 2), (.vfsum t, 5, false, fun _ => true),
   (.vcvt, 3, false, fun _ => true), (.vbpk, 3, false, fun _ => true), (.vbupk, 3, false, fun _ => true),
   (.vredMax, 5, false, fun _ => true), (.vsort, 6, true, fun _ => true), (.vsegsum, 6, true, fun _ => true)] ++
  wordForms.map (fun e => (e.1, 2, false, fun _ => true)) ++ dwordForms.map (fun e => (e.1, 2, false, fun _ => true)) ++
  wordCmps.map (fun e => (e.1, 2, true, fun _ => true)) ++ moveForms.map (fun e => (e.1, e.2.1, false, fun _ => true))

/-- The F slot's functions on FP32 and FP64 elements and its angle forms, with width and latency (R82, R136 to R138). -/
def fForms : List ((FFld → Instr) × Nat × Nat) :=
  [(.fexpF32, 32, 14), (.fexpF64, 64, 28), (.flogF32, 32, 14), (.flogF64, 64, 28), (.ferfF32, 32, 14), (.ferfF64, 64, 28),
   (.ferfcF32, 32, 14), (.ferfcF64, 64, 28), (.frcpF32, 32, 14), (.frcpF64, 64, 28), (.fsqrtF32, 32, 14),
   (.fsqrtF64, 64, 28), (.frsqrtF32, 32, 14), (.frsqrtF64, 64, 28), (.fexp2F32, 32, 14), (.flog2F32, 32, 14),
   (.ftanhF32, 32, 14), (.fsigmF32, 32, 14)]

/-- The F slot's angle forms (R137, R138): width, latency, and whether two registers are read. -/
def fPairs : List ((FFld → Instr) × Nat × Nat × Bool) :=
  [(.fangcsA32, 32, 14, false), (.fangcsA64, 64, 28, false), (.fangofA32, 32, 14, true), (.fangofA64, 64, 28, true)]

/-- The F unit taken by the executing context for the issue cycle and 3 more (R83, R135). -/
def takesF (s : State) : State :=
  s.modRegs s.cur.cid fun r => { r with fUntil := (s.core (coreOf s.cur.cid)).cc + 4 }

/-- The F unit is not in use by an earlier F operation of the executing context (R83). -/
abbrev FUnitFree (s : State) : Prop := s.me.r.fUntil ≤ (s.core (coreOf s.cur.cid)).cc

/-- The registers that an F result writes: one, or a pair; none with nw (R135). -/
def toF (f : FFld) (two : Bool) (v v' : VVal) : List RWrite :=
  if f.nw = 1 then [] else .vreg f.d 32 v :: if two then [.vreg (f.d + 1) 32 v'] else []

/-- R142: the fixed movements of the X slot: which source word goes to word i. -/
def xForms : List ((XFld → Instr) × (Nat → Nat → Nat)) :=
  [(.xbcast, fun p _ => p), (.xrotl, fun p i => (i + 32 - p) % 32),
   (.xdeal, fun p i => let g := i / 2 ^ p; let m := 32 / 2 ^ p
      (if g < m / 2 then 2 * g else 2 * (g - m / 2) + 1) * 2 ^ p + i % 2 ^ p),
   (.xweave, fun p i => let g := i / 2 ^ p; let m := 32 / 2 ^ p
      (if g % 2 = 0 then g / 2 else m / 2 + g / 2) * 2 ^ p + i % 2 ^ p)]

/-! ### Terms about control slots -/

/-- The guard of an instruction of a slot. -/
def guardField : Instr → Option (BitVec 5)
  | .nop g | .vnop g | .fnop g | .xnop g | .mnop g | .tnop g | .loopExit g | .dictSw g | .eret g | .endTask g | .yield g =>
    some g
  | .add f | .sub f | .mul f | .mulh f | .mulhu f | .div f | .divu f | .rem f | .remu f | .and f | .or f | .xor f | .andn f
  | .shl f | .shr f | .sra f | .rotl f | .min f | .max f | .minu f | .maxu f | .bfx f | .bfi f | .addi f | .andi f =>
    some f.g
  | .clz f | .popc f => some f.g
  | .shli f | .shri f | .srai f => some f.g
  | .movi f | .sli f => some f.g
  | .cmpEq f | .cmpNe f | .cmpLt f | .cmpLtu f | .cmpLe f | .cmpLeu f | .cmpiEq f | .cmpiLt f => some f.g
  | .pand f | .por f | .pxor f | .pandn f => some f.g
  | .br f | .call f => some f.g
  | .jr f | .dictLd f => some f.g
  | .loop f => some f.g
  | .loopRearm f => some f.g
  | .trap f | .wait f => some f.g
  | .brk f => some f.g
  | .crd f | .cwr f => some f.g
  | .cwrXflags f | .cwrRmode f | .cwrDeadline f => some f.g
  | .cwrBankfmt f => some f.g
  | .vfadd _ f | .vfsub _ f | .vfmul _ f | .vfma _ f | .vfmin _ f | .vfmax _ f | .vfcmp _ f | .vfsgn _ f | .vfrnd _ f
  | .vfclass _ f | .vfsum _ f => some f.g
  | .vcvt f | .vbpk f | .vbupk f | .vfdivF32 f | .vfdivF64 f | .vadd f | .vsub f | .vmul f | .vmulh f | .vmin f | .vmax f
  | .vminu f | .vmaxu f | .vand f | .vor f | .vxor f | .vshl f | .vshr f | .vsra f | .vaddD f | .vsubD f | .vcmpEq f
  | .vcmpLt f | .vcmpLtu f | .vsel f | .vvalid f | .vvmask f | .vmaskv f | .vsplat f | .viota f | .vext f | .vins f
  | .vredAdd f | .vredMax f | .vscanAdd f | .vsort f | .vsegsum f => some f.g
  | .fexpF32 f | .fexpF64 f | .flogF32 f | .flogF64 f | .ferfF32 f | .ferfF64 f | .ferfcF32 f | .ferfcF64 f | .frcpF32 f
  | .frcpF64 f | .fsqrtF32 f | .fsqrtF64 f | .frsqrtF32 f | .frsqrtF64 f | .fexp2F32 f | .flog2F32 f | .ftanhF32 f
  | .fsigmF32 f | .fangcsA32 f | .fangcsA64 f | .fangofA32 f | .fangofA64 f => some f.g
  | .xperm f | .xcfg f | .xbcast f | .xrotl f | .xdeal f | .xweave f => some f.g
  | .ldB f | .ldBu f | .ldH f | .ldHu f | .ldW f | .ldWu f | .ldD f | .stB f | .stH f | .stW f | .stD f | .ldvW256 f
  | .ldvW512 f | .ldvW1024 f | .stvW256 f | .stvW512 f | .stvW1024 f | .ldvs f | .ldvx f | .stvx f | .ldAcq f | .stRel f
  | .ldAcqW f | .stRelW f | .fence f | .xfence f | .accLd f | .accSt f | .accAddI f | .accAddF f | .accFaddI f
  | .accXchg f | .accAddvF f | .qrd f | .qwr f => some f.g
  | .rotLd f | .rotApp f | .rotAppt f | .rotDrv f | .rotLin f | .rotGrad f | .rotSlv f | .rotSav f | .rotRst f | .rotNrm f
  | .accSwap f | .accClr f | .seqLd f | .seqRun f | .cpGo f | .cpTr f | .cpFill f | .cpBind f | .cpWait f | .cbar f
  | .fuse f | .dcpl f | .rejoin f | .eqInit f | .eqUnite f | .eqFind f | .eqSame f | .eqSize f | .eqRelabel f | .eqSnap f
  | .eqUndo f | .eqFence f | .pkCfg f | .pkLook f | .pkBack f | .pkWait f | .nmAdd f | .nmFai f | .nmOpt f | .nmFence f
  | .asLd f | .asWait f | .graphGo f | .taskSig f | .rngSeed f => some f.g
  | _ => none

/-- The control and system instructions, opcodes 0x30 to 0x3E (R78). -/
def isControl : Instr → Bool
  | .br _ | .call _ | .jr _ | .loop _ | .loopRearm _ | .loopExit _ | .dictLd _ | .dictSw _ | .trap _ | .eret _ | .crd _
  | .cwr _ | .cwrXflags _ | .cwrRmode _ | .cwrBankfmt _ | .cwrDeadline _ | .wait _ | .endTask _ | .brk _ | .yield _ => true
  | _ => false

/-- The occupied F slots: the F functions, and an `fnop` with bits that are not all 0 and a guard other than `!p0`
(R80, R83). -/
def isFFun : Instr → Bool
  | .fnop g => g != 0 && g != 16
  | .fexpF32 _ | .fexpF64 _ | .flogF32 _ | .flogF64 _ | .ferfF32 _ | .ferfF64 _ | .ferfcF32 _ | .ferfcF64 _ | .frcpF32 _
  | .frcpF64 _ | .fsqrtF32 _ | .fsqrtF64 _ | .frsqrtF32 _ | .frsqrtF64 _ | .fexp2F32 _ | .flog2F32 _ | .ftanhF32 _
  | .fsigmF32 _ | .fangcsA32 _ | .fangcsA64 _ | .fangofA32 _ | .fangofA64 _ => true
  | _ => false

/-- A control instruction that executes: it stands in S0 and its guard enables it. -/
abbrev InS0 (g : BitVec 5) (s : State) : Prop := s.cur.slot = 0 ∧ Enabled g s

/-- The state with something left to the completion of the executing bundle. -/
def left (s : State) (f : After → After) : State :=
  s.modCtx s.cur.cid fun c => { c with bun := { c.bun with aft := f c.bun.aft } }

/-- The state with a pending redirect to a target (R94). -/
def redirected (s : State) (target : Word) : State :=
  s.modRegs s.cur.cid fun r => { r with transfers := r.transfers ++ [⟨3, target⟩] }

/-- The control registers that a `cwr` names through a form of its own (R44, R48, R147, R344). -/
def cwrForms : List ((BitVec 5 → BitVec 6 → Instr) × BitVec 14) :=
  [(fun g r => .cwrXflags ⟨g, r⟩, 0x21), (fun g r => .cwrRmode ⟨g, r⟩, 0x20), (fun g r => .cwrDeadline ⟨g, r⟩, 0x32)]

/-! ### Terms about memory slots -/

/-- The encoded delay of a landing field (R76). -/
def delayOf (lat : BitVec 8) : Nat := (lat.toNat % 64 + 1) * 4 ^ (lat.toNat / 64)

/-- The address of an M slot's access of a size (R152). -/
def addrOf (s : State) (f : MFld) (size : Nat) : Nat :=
  (BitVec.ofInt 64 ((s.me.r.readS f.base).bits.toInt + f.off.toInt * size)).toNat

/-- The bytes of the first n words of a vector (R154). -/
def vecBytes (v : VVal) (n : Nat) : List Byte := (List.range n).flatMap fun i => leBytes 4 (v.word i).bits.toNat

/-- The scalar loads and acquires: kind, size and sign extension (R153, R157). -/
def loadForms : List ((MFld → Instr) × MKind × Nat × Bool) :=
  [(.ldB, .load, 1, true), (.ldBu, .load, 1, false), (.ldH, .load, 2, true), (.ldHu, .load, 2, false),
   (.ldW, .load, 4, true), (.ldWu, .load, 4, false), (.ldD, .load, 8, false), (.ldAcq, .acquire, 8, false),
   (.ldAcqW, .acquire, 4, false)]

/-- The vector loads and `acc.ld`: reach, alignment and words (R154, R160). -/
def vloadForms : List ((MFld → Instr) × Reach × Nat × Nat) :=
  [(.ldvW256, .plain, 4, 8), (.ldvW512, .plain, 4, 16), (.ldvW1024, .plain, 4, 32), (.accLd, .visible, 128, 32)]

/-- The scalar stores and releases: kind and size (R153, R157). -/
def storeForms : List ((MFld → Instr) × MKind × Nat) :=
  [(.stB, .store, 1), (.stH, .store, 2), (.stW, .store, 4), (.stD, .store, 8), (.stRel, .release, 8), (.stRelW, .release, 4)]

/-- The vector stores and `acc.st`: reach, alignment and words (R154, R160). -/
def vstoreForms : List ((MFld → Instr) × Reach × Nat × Nat) :=
  [(.stvW256, .plain, 4, 8), (.stvW512, .plain, 4, 16), (.stvW1024, .plain, 4, 32), (.accSt, .visible, 128, 32)]

/-- What the issue of a memory access leaves: memory, every register of its context, every other context, the cores but
for their micro-TLBs and the misses that the walker has no room for, the clusters, the hub, and its bundle but for CK. -/
def IssueFrame (s t : State) : Prop :=
  t.mem = s.mem ∧ SameCtxBut s.cur.cid s t ∧ t.me.r = { s.me.r with land := t.me.r.land } ∧
    (∀ l, t.core l = { s.core l with tlb := (t.core l).tlb, misses := (t.core l).misses }) ∧ t.clus = s.clus ∧ t.hub = s.hub ∧
    t.me.bun = { s.me.bun with ck := t.me.bun.ck } ∧ t.issue = s.issue

/-- A load has issued: a request of the landing buffer waits for the bytes of `ls`, which accesses of the M queue of the
kind will read. -/
def LoadIssued (s t : State) (kind : MKind) (lat : BitVec 8) (dest : LandDest) (oks : List Bool) (total : Nat)
    (ls : List (Nat × Loc)) : Prop :=
  IssueFrame s t ∧
  t.me.r.land = s.me.r.land ++ [⟨s.me.nextId, s.cur.slot, (s.core (coreOf s.cur.cid)).cc + delayOf lat, dest, oks,
    (List.range total).map (fun i => if ls.any (fun x => x.1 == i) then none else some (0 : Byte)), ls.isEmpty, false, none,
    s.earliest (ls.map (·.2.key)), s.me.seq⟩] ∧
  ∃ accs, t.me.mq = s.me.mq ++ accs ∧ accs.flatMap (·.locs) = ls.map (fun x => (x.1, x.2.key)) ∧
    ∀ a ∈ accs, a.kind = kind ∧ a.cells = [] ∧ a.req = s.me.nextId ∧ a.cid = s.cur.cid

/-- A store has issued: accesses of the M queue of the kind hold exactly the bytes that `keep` allows, each at the key of
its place. -/
def StoreIssued (s t : State) (kind : MKind) (data : List Byte) (keep : Nat → Bool) (ls : List (Nat × Loc)) : Prop :=
  IssueFrame s t ∧ t.me.r.land = s.me.r.land ∧
  ∃ accs, t.me.mq = s.me.mq ++ accs ∧
    accs.flatMap (·.cells) = ls.filterMap (fun x => if keep x.1 then some (x.2.key, data.getD x.1 0) else none) ∧
    ∀ a ∈ accs, a.kind = kind ∧ a.locs = [] ∧ a.cid = s.cur.cid

/-- A load of the M slot: what it asks for. -/
structure LoadShape where
  instr : Instr
  kind : MKind
  reach : Reach
  dest : LandDest
  oks : List Bool
  align : Nat
  cs : List Chunk

/-- The bytes of a landing. -/
def destBytes : LandDest → Nat
  | .sreg _ n _ => n
  | .vreg _ n => 4 * n

/-- The stretch of `n` bytes at the slot's address; none where its base is invalid (R62). -/
def stretchOf (s : State) (f : MFld) (n : Nat) : List Chunk :=
  if (s.me.r.readS f.base).ok = true then [⟨0, addrOf s f n, n⟩] else []

/-- The address of word i of a gather or scatter: B + (zero-extended index i) × 2^size (R156). -/
def gatherAddr (s : State) (f : MFld) (i : Nat) : Nat :=
  ((s.me.r.readS f.base).bits.toNat +
    ((s.me.r.readV (BitVec.ofNat 5 (f.off.toNat / 16))).word i).bits.toNat * 2 ^ (f.off.toNat % 16)) % 2 ^ 64

/-- Whether the base and the index of word i of a gather or scatter are valid (R62, R156). -/
def gatherOk (s : State) (f : MFld) (i : Nat) : Bool :=
  (s.me.r.readS f.base).ok && ((s.me.r.readV (BitVec.ofNat 5 (f.off.toNat / 16))).word i).ok

/-- Every load of the M slot with the fields f (R153 to R157, R160): with an invalid base or index it accesses nothing there
and its words land invalid (R62). -/
def loads (f : MFld) (s : State) : List LoadShape :=
  let ok := (s.me.r.readS f.base).ok
  let d := f.data.setWidth 5
  loadForms.map (fun e => ⟨e.1 f, e.2.1, .plain, .sreg f.data e.2.2.1 e.2.2.2, [ok], e.2.2.1, stretchOf s f e.2.2.1⟩) ++
  vloadForms.map (fun e =>
    ⟨e.1 f, .load, e.2.1, .vreg d e.2.2.2, List.replicate e.2.2.2 ok, e.2.2.1, stretchOf s f (4 * e.2.2.2)⟩) ++
  [⟨.ldvs f, .load, .plain, .vreg d 32, List.replicate 32 ok, 4,
      if ok = true then (List.range 32).map fun i => ⟨4 * i, addrOf s f (4 * i), 4⟩ else []⟩,
    ⟨.ldvx f, .load, .plain, .vreg d 32, (List.range 32).map (gatherOk s f), 4,
      (List.range 32).filterMap fun i => if gatherOk s f i = true then some ⟨4 * i, gatherAddr s f i, 4⟩ else none⟩]

/-- A store of the M slot: what it asks for. -/
structure StoreShape where
  instr : Instr
  kind : MKind
  reach : Reach
  align : Nat
  data : List Byte
  keep : Nat → Bool
  cs : List Chunk

/-- Every scalar store and release with the fields f (R153, R157). -/
def stores (f : MFld) (s : State) : List StoreShape :=
  let a := s.me.r.readS f.data
  storeForms.map fun e => ⟨e.1 f, e.2.1, .plain, e.2.2, leBytes e.2.2 a.bits.toNat,
    fun i => if i < 4 then a.ok0 else a.ok1, stretchOf s f e.2.2⟩

/-- Every vector store with the fields f, of the value v (R154, R156, R160). -/
def vstores (f : MFld) (s : State) (v : VVal) : List StoreShape :=
  vstoreForms.map (fun e => ⟨e.1 f, .store, e.2.1, e.2.2.1, vecBytes v e.2.2.2, fun i => (v.word (i / 4)).ok,
    stretchOf s f (4 * e.2.2.2)⟩) ++
  [⟨.stvx f, .store, .plain, 4, vecBytes v 32, fun _ => true, (List.range 32).filterMap fun i =>
    if gatherOk s f i = true ∧ (v.word i).ok = true then some ⟨4 * i, gatherAddr s f i, 4⟩ else none⟩]

/-- Every stretch of an access is aligned (R152). -/
abbrev Aligned (align : Nat) (cs : List Chunk) : Prop := ∀ c ∈ cs, c.va % align = 0

/-- No stretch of an access needs a walk that the die's walker has no room for (R284). -/
abbrev WalkerRoom (s : State) (cs : List Chunk) : Prop := ∀ c ∈ cs, s.walkerFull s.cur.cid c.va = false

/-- The place of the byte at a position of an access. -/
def placeAt (ls : List (Nat × Loc)) (i : Nat) : Nat := (ls[i]?.map (·.2.key)).getD 0

/-- The accumulator atomics of one word without fetch (R161). -/
def addForms : List ((MFld → Instr) × Nat × Bool) := [(.accAddI, 0x22, false), (.accAddF, 0x23, true)]

/-- The fetching atomics (R161). -/
def fetchForms : List ((MFld → Instr) × Nat) := [(.accFaddI, 0x24), (.accXchg, 0x25)]

/-! ### Terms about T commands -/

/-- A T command that its slot may send: enabled, with valid parameters, room for its result word, and no collision (R62,
R83, R194). -/
abbrev MaySend (s : State) (f : TFld) (op : Nat) (four : Bool) : Prop :=
  Enabled f.g s ∧ paramsOk s op f four = true ∧ s.wordTrouble (if four then { f with d := 0 } else f) = none

/-- The pending result words after a command: one more where sD asks for it (R194). -/
def wordsAfter (s : State) (f : TFld) (four : Bool) (val : Option SVal) (wait : TWait) (b6 : Bool) : List TWord :=
  s.me.r.words ++ (if four = true ∨ f.d = 0 then [] else
    [⟨s.me.nextId, (s.core (coreOf s.cur.cid)).cc + 16 * (f.m.toNat + 1), f.d, val, wait, false, b6⟩])

/-- What the sending of a command leaves: memory, every register of its context but its pending words and its streams,
every other context, and the hub. -/
def SendFrame (s t : State) : Prop :=
  t.mem = s.mem ∧ SameCtxBut s.cur.cid s t ∧ t.me.r = { s.me.r with words := t.me.r.words, streams := t.me.r.streams } ∧
    t.hub = s.hub

/-- The commands of the engine queue: opcode and whether sD is a parameter (R199 to R215). -/
def engineForms : List ((TFld → Instr) × Nat × Bool) :=
  [(.rotLd, 0x01, false), (.rotApp, 0x02, false), (.rotAppt, 0x03, false), (.rotDrv, 0x04, false), (.rotLin, 0x05, false),
   (.rotGrad, 0x06, true), (.rotSlv, 0x07, false), (.rotRst, 0x09, false), (.rotNrm, 0x0A, false),
   (.accSwap, 0x0B, false), (.accClr, 0x0C, false), (.seqLd, 0x0D, false), (.seqRun, 0x0E, false)]

/-- The copies (R241). -/
def copyForms : List ((TFld → Instr) × Nat) := [(.cpGo, 0x10), (.cpTr, 0x11), (.cpFill, 0x14)]

/-- The requests to the Asterism (R272). -/
def eqForms : List ((TFld → Instr) × Nat) :=
  [(.eqInit, 0x20), (.eqUnite, 0x21), (.eqFind, 0x22), (.eqSame, 0x23), (.eqSize, 0x24), (.eqRelabel, 0x25),
   (.eqSnap, 0x26), (.eqUndo, 0x27)]

/-- The commands of the Catalogue (R297). -/
def pkForms : List ((TFld → Instr) × Nat) := [(.pkCfg, 0x30), (.pkLook, 0x31), (.pkBack, 0x32)]

/-- The commands of the near-memory units (R311): opcode and whether sD is a parameter. -/
def nmForms : List ((TFld → Instr) × Nat × Bool) := [(.nmAdd, 0x38, true), (.nmFai, 0x39, false), (.nmOpt, 0x3A, true)]

/-- Every command of the T slot: its opcode, and whether sD is a parameter (R80, R194). -/
def sendForms : List ((TFld → Instr) × Nat × Bool) :=
  engineForms ++ copyForms.map (fun e => (e.1, e.2, true)) ++ eqForms.map (fun e => (e.1, e.2, false)) ++
    pkForms.map (fun e => (e.1, e.2, false)) ++ nmForms ++
    [(.rotSav, 0x08, false), (.cpBind, 0x12, true), (.cpWait, 0x13, false), (.fuse, 0x18, false), (.dcpl, 0x19, false),
     (.rejoin, 0x1A, false), (.cbar, 0x1B, false), (.eqFence, 0x28, false), (.pkWait, 0x33, false), (.nmFence, 0x3B, false),
     (.asLd, 0x40, false), (.asWait, 0x41, false), (.graphGo, 0x48, false), (.taskSig, 0x49, false), (.rngSeed, 0x4A, true)]

/-- A command of the T slot as its slot sends it: the instruction, its opcode, whether sD is a parameter, its checks (R195), the
address that makes it an access fault at issue, and whether its unit has no room (R75). -/
structure SendShape where
  instr : TFld → Instr
  op : Nat
  four : Bool
  ok : State → Cmd → Bool
  bad : State → Cmd → Option Nat
  full : State → Cmd → Bool

/-- Every command with its checks (R195, R242, R245, R247, R249, R272, R289, R298, R311, R334, R345) and the room it needs: 4
commands of the array in a core (R193), 8 copies (R240), 64 requests at an Asterism (R268), 16 commands of a context and 64 of
a die at a Catalogue (R302), 32 near-memory commands of a context (R310). -/
def sendShapes : List SendShape :=
  let no : State → Cmd → Option Nat := fun _ _ => none
  let room : State → Cmd → Bool := fun _ _ => false
  let nmFull : State → Cmd → Bool := fun s c => decide (32 ≤ ((s.ctx c.cid).ncmds.filter fun n => !n.over).length)
  engineForms.map (fun e => ⟨e.1, e.2.1, e.2.2, fun _ c => engOk c, no,
    fun s c => decide (4 ≤ (s.core (coreOf c.cid)).engQ.length)⟩) ++
  copyForms.map (fun e => ⟨e.1, e.2, true, copyOk, no, fun s c => decide (8 ≤ copiesOf s (coreOf c.cid))⟩) ++
  eqForms.map (fun e => ⟨e.1, e.2, false, fun _ c => eqOk c, eqBad, fun s c => decide (64 ≤ (s.clu c.eqClu).eqQ.length)⟩) ++
  pkForms.map (fun e => ⟨e.1, e.2, false, pkOk, no, fun s c => decide (16 ≤ (s.ctx c.cid).pkOut.length) ||
    decide (64 ≤ (s.die (dieOf (coreOf c.cid))).pkQ.length)⟩) ++
  [⟨.nmAdd, 0x38, true, fun s c => nmOk c && !((s.ctx c.cid).bind.det && c.nmFmt != 4), no, nmFull⟩,
   ⟨.nmFai, 0x39, false, fun _ c => nmOk c, no, nmFull⟩, ⟨.nmOpt, 0x3A, true, fun _ c => nmOk c, no, nmFull⟩,
   ⟨.rotSav, 0x08, false, fun _ _ => true, no, room⟩, ⟨.cpBind, 0x12, true, bindOk, no, room⟩,
   ⟨.cpWait, 0x13, false, fun _ c => decide (0 < c.a.toNat) && decide (c.a.toNat < 2 ^ 16), no, room⟩,
   ⟨.fuse, 0x18, false, fun _ _ => true, no, room⟩, ⟨.dcpl, 0x19, false, fun _ _ => true, no, room⟩,
   ⟨.rejoin, 0x1A, false, fun _ _ => true, no, room⟩,
   ⟨.cbar, 0x1B, false, fun _ c => decide (c.a.toNat < 16) && decide (1 ≤ c.b.toNat) && decide (c.b.toNat ≤ 32), no, room⟩,
   ⟨.eqFence, 0x28, false, fun _ _ => true, no, room⟩, ⟨.pkWait, 0x33, false, fun _ _ => true, no, room⟩,
   ⟨.nmFence, 0x3B, false, fun _ _ => true, no, room⟩, ⟨.asLd, 0x40, false, fun _ c => asOk c, no, room⟩,
   ⟨.asWait, 0x41, false, fun _ _ => true, no, room⟩,
   ⟨.graphGo, 0x48, false, fun _ c => decide (c.a.toNat % 64 = 0) && decide (c.b.toNat < 128) && decide (c.c.toNat % 32 = 0),
     no, room⟩,
   ⟨.taskSig, 0x49, false, fun _ _ => true, no, room⟩, ⟨.rngSeed, 0x4A, true, fun _ _ => true, no, room⟩]

/-- A command was sent: the frame, and the result word it asks for, which waits for `wait`. -/
def Sent (s t : State) (f : TFld) (four : Bool) (wait : TWait) (b6 : Bool) : Prop :=
  SendFrame s t ∧ t.me.r.words = wordsAfter s f four none wait b6

/-! ### Terms about the machine's own steps -/

/-- A slot's instruction as the step runs it: in the executing slot, with the slots behind it left. -/
def atSlot (s : State) (w : SlotWord) (rest : List SlotWord) : State := { s with issue := rest, cur := w }

/-- The slots that the bundle `f` issues in a context whose done slots are `done`: those with bits, in slot order (R63,
R224). -/
def slotsOf (cid : Nat) (f : Fetch) (done : BitVec 10) : List SlotWord :=
  (List.range 10).filterMap fun n =>
    if done.getLsbD n = false ∧ f.slot n ≠ 0 then some ⟨cid, n, f.slot n⟩ else none

/-- The bundle of a context begins: it is at the context's pc, the link of a `call` whose second delay bundle it is is made
good (R95), and the registers are as before. -/
def Starts (s t : State) (cid : Nat) (f : Fetch) : Prop :=
  (t.ctx cid).bun.pc = (s.ctx cid).r.pc ∧ (t.ctx cid).bun.len = f.len ∧
    (t.ctx cid).r = ((s.ctx cid).fixLinks ((s.ctx cid).r.pc + BitVec.ofNat 64 f.len)).r

/-- A bundle begins to issue in one context alone: its slots wait, and memory is as before. -/
def Begins (s t : State) (cid : Nat) (f : Fetch) : Prop :=
  t.issue = slotsOf cid f (s.ctx cid).bun.nextSkip ∧ t.issuing = [cid] ∧ t.mem = s.mem ∧ Starts s t cid f

/-- A context of no fused gang. -/
abbrev Single (s : State) (cid : Nat) : Prop := (s.ctx cid).fused = false ∨ (s.ctx cid).bind.gangW * (s.ctx cid).bind.gangH ≤ 1

/-- A context that issues alone, has issued since it was bound or resumed, and has no comparator set. -/
abbrev Alone (s : State) (cid : Nat) : Prop :=
  Single s cid ∧ (s.ctx cid).resumed = false ∧ (s.ctx cid).brk = Vector.replicate 4 none

/-- What a trap saves and where it goes (R224 to R226). -/
def trapped (c : Ctx) (cause slot : Nat) (done : BitVec 10) : Regs :=
  { c.r with trappc := c.bun.pc, trapslot := BitVec.ofNat 4 slot, trapcause := BitVec.ofNat 64 cause, donemask := done,
             save := ⟨c.r.transfers, c.r.loops, c.bun.aft, c.links⟩, transfers := [], loops := [], inHandler := true,
             pc := c.r.trapvec, waitTo := 0, waited := 0 }

/-- A result word has its value. -/
def WordReady (s : State) (cid id : Nat) : Prop := ∀ w ∈ (s.ctx cid).r.words, w.id = id → w.val.isSome = true

/-- A result word has the value v. -/
def WordIs (s : State) (cid id : Nat) (v : SVal) : Prop := ∀ w ∈ (s.ctx cid).r.words, w.id = id → w.val = some v

/-- The value of an invalid result word (R62, R195). -/
def noValue : SVal := ⟨0, false, false⟩

/-- A write, with what memory holds afterwards. -/
def Wrote (s t : State) (cells : List Host.Cell) : Prop := t.mem = memPutAll s.mem cells

/-- The bytes that a message to the owner key's holder starts with: done, or the signature fails (R369). -/
def Answered (s t : State) (b : Byte) : Prop := t.hub.out = s.hub.out ++ [⟨.sender, [b]⟩]

end Sys2Proof.Claims

open Sys2Proof Sys2Proof.Machine Sys2Proof.Claims

/-! ### Scalar slots -/

/-- R82, R85 to R87: the register-form operations of two whole sources. R69 to R71, R83: a source field that names a latch of
vector kind is an illegal slot, and a result that would land together with another one in its register is an illegal schedule,
in the register-form operations. -/
def Obligations.ScalarRegisterForms : Prop :=
  (∀ e ∈ regForms, ∀ (f : SReg) (s : State) (a b : SVal),
    Enabled f.g s → s.me.r.src f.a = some a → s.me.r.src f.b = some b →
    let v := SVal.whole (e.2.2 a.bits b.bits) (a.ok && b.ok)
    Free s e.2.1 (toS f.nw f.d v) →
    exec (e.1 f) s = .next (inFlight s e.2.1 (toS f.nw f.d v) (some (.scalar v)) 0)) ∧
  (∀ e ∈ regForms, ∀ (f : SReg) (s : State), Enabled f.g s →
    ((s.me.r.src f.a = none ∨ s.me.r.src f.b = none) → exec (e.1 f) s = .next s.illegalSlot) ∧
    (∀ a b, s.me.r.src f.a = some a → s.me.r.src f.b = some b →
      s.collides e.2.1 (toS f.nw f.d (SVal.whole (e.2.2 a.bits b.bits) (a.ok && b.ok))) = true →
      exec (e.1 f) s = .next s.illegalSchedule))

/-- R85, R86, R88: shifts, the rotation and the field extraction, and the field insertion, which reads sD too. -/
def Obligations.ScalarShiftsAndFields : Prop :=
  (∀ e ∈ lowForms, ∀ (f : SReg) (s : State) (a b : SVal),
    Enabled f.g s → s.me.r.src f.a = some a → s.me.r.src f.b = some b →
    let v := SVal.whole (e.2 a.bits b.bits) (a.ok && b.ok0)
    Free s 1 (toS f.nw f.d v) →
    exec (e.1 f) s = .next (inFlight s 1 (toS f.nw f.d v) (some (.scalar v)) 0)) ∧
  ∀ (f : SReg) (s : State) (a b : SVal),
    Enabled f.g s → s.me.r.src f.a = some a → s.me.r.src f.b = some b → s.collides 1 (toS f.nw f.d a) = false →
    ∃ x : Word, (∀ i < 64, x.getLsbD i = inserted (s.me.r.readS f.d).bits a.bits b.bits i) ∧
      let v := SVal.whole x ((s.me.r.readS f.d).ok && a.ok && b.ok0)
      exec (.bfi f) s = .next (inFlight s 1 (toS f.nw f.d v) (some (.scalar v)) 0)

/-- R86, R89, R90: the operations of one source, the immediates and the constant builders, with the places of their fields;
a shift by an encoded count of 64 or more is illegal. -/
def Obligations.ScalarImmediateForms : Prop :=
  ((∀ op ∈ [0x1C, 0x1D, 0x1E], Refuses .s op fun w => 64 ≤ fieldN w 0 7) ∧
    (∀ e ∈ immForms.zip [0x1A, 0x1B], ∀ f : SReg, f.g ≠ 16 → f.a.toNat < 72 → decodeSlot .s (f.g.toNat * 2 ^ 27 +
      e.2 * 2 ^ 21 + f.nw.toNat * 2 ^ 20 + f.d.toNat * 2 ^ 14 + f.a.toNat * 2 ^ 7 + f.b.toNat) = some (e.1.1 f)) ∧
    (∀ e ∈ shiftForms.zip [0x1C, 0x1D, 0x1E], ∀ f : SSh, f.g ≠ 16 → f.a.toNat < 72 → decodeSlot .s (f.g.toNat * 2 ^ 27 +
      e.2 * 2 ^ 21 + f.nw.toNat * 2 ^ 20 + f.d.toNat * 2 ^ 14 + f.a.toNat * 2 ^ 7 + f.sh.toNat) = some (e.1.1 f)) ∧
    (∀ e ∈ [(Instr.movi, 0x1F), (Instr.sli, 0x20)], ∀ f : SImm, f.g ≠ 16 → decodeSlot .s (f.g.toNat * 2 ^ 27 +
      e.2 * 2 ^ 21 + f.nw.toNat * 2 ^ 20 + f.d.toNat * 2 ^ 14 + f.imm.toNat) = some (e.1 f))) ∧
  (∀ e ∈ oneForms, ∀ (f : SUn) (s : State) (a : SVal), Enabled f.g s → s.me.r.src f.a = some a →
    let v := SVal.whole (e.2 a.bits) a.ok
    Free s 1 (toS f.nw f.d v) → exec (e.1 f) s = .next (inFlight s 1 (toS f.nw f.d v) (some (.scalar v)) 0)) ∧
  (∀ e ∈ immForms, ∀ (f : SReg) (s : State) (a : SVal), Enabled f.g s → s.me.r.src f.a = some a →
    let v := SVal.whole (e.2 a.bits (BitVec.ofInt 64 f.b.toInt)) a.ok
    Free s 1 (toS f.nw f.d v) → exec (e.1 f) s = .next (inFlight s 1 (toS f.nw f.d v) (some (.scalar v)) 0)) ∧
  (∀ e ∈ shiftForms, ∀ (f : SSh) (s : State) (a : SVal), Enabled f.g s → s.me.r.src f.a = some a →
    let v := SVal.whole (e.2 a.bits f.sh.toNat) a.ok
    Free s 1 (toS f.nw f.d v) → exec (e.1 f) s = .next (inFlight s 1 (toS f.nw f.d v) (some (.scalar v)) 0)) ∧
  (∀ (f : SImm) (s : State), Enabled f.g s →
    let v := SVal.mkOk (BitVec.ofInt 64 f.imm.toInt)
    Free s 1 (toS f.nw f.d v) → exec (.movi f) s = .next (inFlight s 1 (toS f.nw f.d v) (some (.scalar v)) 0)) ∧
  (∀ (f : SImm) (s : State), Enabled f.g s →
    let d := s.me.r.readS f.d
    let v := SVal.whole (BitVec.ofNat 64 (d.bits.toNat * 2 ^ 14 + f.imm.toNat)) d.ok
    Free s 1 (toS f.nw f.d v) → exec (.sli f) s = .next (inFlight s 1 (toS f.nw f.d v) (some (.scalar v)) 0))

/-- R91: the compares write a predicate and its complement, and the neither state for an invalid operand; they write no
latch. A predicate of a pair in the neither state reads 0, and disables the slots it guards, negated or not. -/
def Obligations.ScalarCompares : Prop :=
  (∀ e ∈ cmpForms, ∀ (f : SCmp) (s : State) (a b : SVal),
    Enabled f.g s → s.me.r.src f.a = some a → s.me.r.src f.b = some b →
    let ws := pair f.pd (a.ok && b.ok) (e.2 a.bits b.bits)
    Free s 1 ws → exec (e.1 f) s = .next (inFlight s 1 ws none 0)) ∧
  (∀ e ∈ cmpImmForms, ∀ (f : SCmp) (s : State) (a : SVal),
    Enabled f.g s → s.me.r.src f.a = some a →
    let ws := pair f.pd a.ok (e.2 a.bits (BitVec.ofInt 64 f.b.toInt))
    Free s 1 ws → exec (e.1 f) s = .next (inFlight s 1 ws none 0)) ∧
  (∀ (r : Regs) (p : BitVec 3) (q : BitVec 4), p ≠ 0 → q.toNat / 2 = p.toNat →
    let t := r.writeNeither (BitVec.ofNat 4 (2 * p.toNat))
    t.readPred q = false ∧ ∀ g : BitVec 5, g.setWidth 4 = q → guardOn t g = false)

/-- R92: the predicate operations, which write no latch, and the forms they refuse. A pair in the neither state is read as
two zeros; a guard of the same bundle acts on the predicates before the result lands; two results that would land in one
predicate, a compare's second one too, are an illegal schedule. -/
def Obligations.PredicateOperations : Prop :=
  (∀ e ∈ predForms, ∀ (f : SPred) (s : State), Enabled f.g s →
    let ws : List RWrite := [.pred f.pd (e.2 (s.me.r.readPred f.pa) (s.me.r.readPred f.pb))]
    (Free s 1 ws → exec (e.1 f) s = .next (inFlight s 1 ws none 0)) ∧
    (s.collides 1 ws = true → exec (e.1 f) s = .next s.illegalSchedule)) ∧
  (∀ e ∈ cmpForms, ∀ (f : SCmp) (s : State) (a b : SVal),
    Enabled f.g s → s.me.r.src f.a = some a → s.me.r.src f.b = some b →
    s.collides 1 (pair f.pd (a.ok && b.ok) (e.2 a.bits b.bits)) = true → exec (e.1 f) s = .next s.illegalSchedule) ∧
  (∀ op ∈ [0x29, 0x2A, 0x2B, 0x2C], Refuses .s op fun w =>
    fieldN w 20 1 ≠ 0 ∨ fieldN w 18 2 ≠ 0 ∨ fieldN w 11 3 ≠ 0 ∨ fieldN w 4 3 ≠ 0) ∧
  (∀ (r : Regs) (p : BitVec 3) (q : BitVec 4), p ≠ 0 → q.toNat / 2 = p.toNat →
    (r.writeNeither (BitVec.ofNat 4 (2 * p.toNat))).readPred q = false) ∧
  (∀ (s : State) (ws : List RWrite) (g : BitVec 5), guardOn (inFlight s 1 ws none 0).me.r g = guardOn s.me.r g)

/-! ### Vector slots -/

/-- R118: the integer and logic operations on words and on 64-bit elements. R119: the word compares give A's bits to both
results, valid where the condition holds and where it does not. The words of a latch beyond the width are invalid: the model's
choice (log entry 7). -/
def Obligations.VectorWordOperations : Prop :=
  ((∀ e ∈ wordForms, ∀ (f : VFld) (s : State) (a b : VVal),
    Enabled f.g s → s.me.r.vsrc f.a = some a → s.me.r.vsrc f.b = some b →
    let v := words fun i => ⟨e.2 (a.word i).bits (b.word i).bits, (a.word i).ok && (b.word i).ok⟩
    Free s 2 (toV f v) → exec (e.1 f) s = .next (inFlight s 2 (toV f v) (latchV f v) 0)) ∧
  (∀ e ∈ dwordForms, ∀ (f : VFld) (s : State) (a b : VVal),
    Enabled f.g s → s.me.r.vsrc f.a = some a → s.me.r.vsrc f.b = some b →
    let v := VVal.ofElems 64 fun i => (e.2 (a.elem 64 i).1 (b.elem 64 i).1, (a.elem 64 i).2 && (b.elem 64 i).2)
    Free s 2 (toV f v) → exec (e.1 f) s = .next (inFlight s 2 (toV f v) (latchV f v) 0))) ∧
  ((∀ e ∈ wordCmps, ∀ (f : VFld) (s : State) (a b : VVal),
    Enabled f.g s → s.me.r.vsrc f.a = some a → s.me.r.vsrc f.b = some b →
    let ok (i : Nat) : Bool := (a.word i).ok && (b.word i).ok
    let c (i : Nat) : Bool := e.2 (a.word i).bits (b.word i).bits
    let v := words fun i => ⟨(a.word i).bits, ok i && c i⟩
    let v' := words fun i => ⟨(a.word i).bits, ok i && !c i⟩
    Free s 2 (toVV f v v') → exec (e.1 f) s = .next (inFlight s 2 (toVV f v v') (latchV f v) 0)) ∧
  (∀ op ∈ [0x50, 0x51, 0x52], Refuses .v op fun w => fieldN w 20 5 % 2 ≠ 0))

/-- R120, R121, R125, R126: selection, validity, insertion, the integer sum and the scan; a `vsel` with a srcC that is not
0 and a `vins` of a word beyond the width are illegal.
The words of a latch beyond the width are invalid: the model's choice (log entry 7). -/
def Obligations.VectorSelectsAndSums : Prop :=
  (∀ e ∈ moveForms, ∀ (f : VFld) (s : State) (a b : VVal),
    Enabled f.g s → s.me.r.vsrc f.a = some a → s.me.r.vsrc f.b = some b →
    let v := words (e.2.2 f a b)
    Free s e.2.1 (toV f v) → exec (e.1 f) s = .next (inFlight s e.2.1 (toV f v) (latchV f v) 0)) ∧
  (Refuses .v 0x58 fun w => fieldN w 3 5 ≠ 0) ∧
  (Refuses .v 0x63 fun w => vWords (BitVec.ofNat 2 (fieldN w 26 2)) ≤ fieldN w 3 5)

/-- R122 to R124, R126: splats, the index vector, the extraction of a word and the signed maximum; a splat of another
element size, an index vector with a source field, and an extraction of a word beyond the width or with nw are illegal.
The words of a latch beyond the width are invalid: the model's choice (log entry 7). -/
def Obligations.VectorMoves : Prop :=
  ((Refuses .v 0x60 fun w => 1 < fieldN w 3 5) ∧ (Refuses .v 0x61 fun w => fieldN w 3 17 ≠ 0) ∧
    (Refuses .v 0x62 fun w => vWords (BitVec.ofNat 2 (fieldN w 26 2)) ≤ fieldN w 3 5 ∨ fieldN w 25 1 ≠ 0)) ∧
  (∀ (f : VFld) (s : State), Enabled f.g s →
    let x := s.me.r.readS f.a
    let v := words fun i => if f.c = 1 ∧ i % 2 = 1 then ⟨x.bits.hi, x.ok1⟩ else ⟨x.bits.lo, x.ok0⟩
    Free s 2 (toV f v) → exec (.vsplat f) s = .next (inFlight s 2 (toV f v) (latchV f v) 0)) ∧
  (∀ (f : VFld) (s : State), Enabled f.g s →
    let v := words fun i => ⟨BitVec.ofNat 32 i, true⟩
    Free s 2 (toV f v) → exec (.viota f) s = .next (inFlight s 2 (toV f v) (latchV f v) 0)) ∧
  (∀ (f : VFld) (s : State) (a b : VVal), Enabled f.g s → s.me.r.vsrc f.a = some a → s.me.r.vsrc f.b = some b →
    let w := a.word f.c.toNat
    let ws : List RWrite := [.sreg (BitVec.ofNat 6 f.d.toNat) ⟨BitVec.ofNat 64 w.bits.toNat, w.ok, true⟩]
    Free s 2 ws → exec (.vext f) s = .next (inFlight s 2 ws none 0)) ∧
  (∀ (f : VFld) (s : State) (a b : VVal), Enabled f.g s → s.me.r.vsrc f.a = some a → s.me.r.vsrc f.b = some b →
    Free s 5 (toV f a) →
    ∃ m : BitVec 32, (∃ i < vWords f.w, (a.word i).bits = m) ∧ (∀ i < vWords f.w, (a.word i).bits.toInt ≤ m.toInt) ∧
      let v := words fun i => if i = 0 then ⟨m, decide (∀ j < vWords f.w, (a.word j).ok = true)⟩ else ⟨0, true⟩
      exec (.vredMax f) s = .next (inFlight s 5 (toV f v) (latchV f v) 0))

/-- R127: `vsort` delivers its word pairs in a stable order by key: the pairs with a valid key first, by unsigned or by
signed key, and among equal keys in source order, then the others in source order.
The words of a latch beyond the width are invalid: the model's choice (log entry 7). -/
def Obligations.VectorSortSorts : Prop :=
  ∀ (f : VFld) (s : State) (a b : VVal), Enabled f.g s → s.me.r.vsrc f.a = some a → s.me.r.vsrc f.b = some b →
    Free s 6 (toVV f a b) →
    ∃ r : List Nat, r.Perm (List.range (vWords f.w)) ∧
      r.Pairwise (fun i j => (a.word j).ok = true → (a.word i).ok = true ∧
        let lt (x y : Nat) : Prop := if f.c = 0 then (a.word x).bits.toNat < (a.word y).bits.toNat
          else (a.word x).bits.toInt < (a.word y).bits.toInt
        (lt i j ∨ (¬ lt j i ∧ i < j))) ∧
      r.Pairwise (fun i j => (a.word i).ok = false → (a.word j).ok = false → i < j) ∧
      let v := VVal.ofList (r.map a.word)
      let v' := VVal.ofList (r.map b.word)
      exec (.vsort f) s = .next (inFlight s 6 (toVV f v v') (latchV f v) 0)

/-- R111, R112: the FP arithmetic, the fused multiply-add and the division, element by element.
The words of a latch beyond the width are invalid: the model's choice (log entry 7). -/
def Obligations.VectorFpArithmetic : Prop :=
  (∀ e ∈ fpForms, ∀ (t : BitVec 2) (f : VFld) (s : State) (a b : VVal),
    Enabled f.g s → s.me.r.vsrc f.a = some a → s.me.r.vsrc f.b = some b →
    let m := fmtOfT t
    let r := lanes m.width (count t f.w) (fun i => (a.elem m.width i).2 && (b.elem m.width i).2)
      fun i => e.2 m (s.me.r.modeOf f.rm) (a.elem m.width i).1 (b.elem m.width i).1
    Free s (fpLat t) (toV f r.1) → exec (e.1 t f) s = .next (inFlight s (fpLat t) (toV f r.1) (latchV f r.1) r.2)) ∧
  (∀ e ∈ divForms, ∀ (f : VFld) (s : State) (a b : VVal),
    Enabled f.g s → s.me.r.vsrc f.a = some a → s.me.r.vsrc f.b = some b →
    let m := fmtOfT e.2.1
    let r := lanes m.width (count e.2.1 f.w) (fun i => (a.elem m.width i).2 && (b.elem m.width i).2)
      fun i => fDiv m (s.me.r.modeOf f.rm) (decodeF m (a.elem m.width i).1) (decodeF m (b.elem m.width i).1)
    Free s e.2.2 (toV f r.1) → exec (e.1 f) s = .next (inFlight s e.2.2 (toV f r.1) (latchV f r.1) r.2)) ∧
  (∀ (t : BitVec 2) (f : VFld) (s : State) (a b : VVal),
    Enabled f.g s → s.me.r.vsrc f.a = some a → s.me.r.vsrc f.b = some b →
    let m := fmtOfT t
    let c := s.me.r.readV f.c
    let r := lanes m.width (count t f.w)
      (fun i => (a.elem m.width i).2 && (b.elem m.width i).2 && (c.elem m.width i).2)
      fun i => fFma m (s.me.r.modeOf f.rm) (decodeF m (a.elem m.width i).1) (decodeF m (b.elem m.width i).1)
        (decodeF m (c.elem m.width i).1)
    Free s (fpLat t) (toV f r.1) → exec (.vfma t f) s = .next (inFlight s (fpLat t) (toV f r.1) (latchV f r.1) r.2)) ∧
  (∀ e ∈ fpOneForms, ∀ (t : BitVec 2) (f : VFld) (s : State) (a : VVal),
    Enabled f.g s → s.me.r.vsrc f.a = some a →
    let m := fmtOfT t
    let r := lanes m.width (count t f.w) (fun i => (a.elem m.width i).2)
      fun i => e.2 f m (s.me.r.modeOf f.rm) (a.elem m.width i).1
    Free s (fpLat t) (toV f r.1) → exec (e.1 t f) s = .next (inFlight s (fpLat t) (toV f r.1) (latchV f r.1) r.2))

/-- R114: abs, neg and copysign change sign bits only and raise no flag; other modes, and a source B beside abs and neg, are
illegal.
The words of a latch beyond the width are invalid: the model's choice (log entry 7). -/
def Obligations.SignOperationsKeepMagnitudes : Prop :=
  (∀ (t : BitVec 2) (f : VFld) (s : State) (a b : VVal), f.c.toNat < 3 →
    Enabled f.g s → s.me.r.vsrc f.a = some a → s.me.r.vsrc f.b = some b → Free s (fpLat t) (toV f a) →
    let n := (fmtOfT t).width
    let sign (x : VVal) (i : Nat) : Nat := (x.elem n i).1 / 2 ^ (n - 1)
    ∃ v : VVal, (∀ i < count t f.w,
        (v.elem n i).2 = ((a.elem n i).2 && (f.c != 2 || (b.elem n i).2)) ∧
        ((v.elem n i).2 = true → (v.elem n i).1 % 2 ^ (n - 1) = (a.elem n i).1 % 2 ^ (n - 1) ∧
          sign v i = (if f.c = 0 then 0 else if f.c = 1 then 1 - sign a i else sign b i))) ∧
      exec (.vfsgn t f) s = .next (inFlight s (fpLat t) (toV f v) (latchV f v) 0)) ∧
  (∀ op ∈ [0x20, 0x21, 0x22, 0x23], Refuses .v op fun w => 2 < fieldN w 3 5 ∨ (fieldN w 3 5 < 2 ∧ fieldN w 8 6 ≠ 0))

/-- R113, R117, R128 to R134: the other FP operations, the segmented sums, the conversions and the packed planes complete
with a result of their latency; of `vsegsum`, `vcvt`, `vbpk` and `vbupk` this says that they complete, not with what values.
R53, R54, R129: a conversion under rm = 5 pops one random word, and waits for one while the queue is empty.
The words of a latch beyond the width are invalid: the model's choice (log entry 7). -/
def Obligations.VectorConversions : Prop :=
  ((∀ (t : BitVec 2) (f : VFld) (s : State) (a b : VVal),
    Enabled f.g s → s.me.r.vsrc f.a = some a → s.me.r.vsrc f.b = some b → Free s (fpLat t) (toVV f a b) →
    ∃ v v' fl, (∀ i < 32, (v.word i).bits = (a.word i).bits ∧ (v'.word i).bits = (a.word i).bits ∧
        ((v.word i).ok && (v'.word i).ok) = false) ∧
      exec (.vfcmp t f) s = .next (inFlight s (fpLat t) (toVV f v v') (latchV f v) fl)) ∧
  (∀ (t : BitVec 2) (f : VFld) (s : State) (a b : VVal),
    Enabled f.g s → s.me.r.vsrc f.a = some a → s.me.r.vsrc f.b = some b → Free s 5 (toV f a) →
    ∃ v fl, (a.allOk (vWords f.w) = false → fl = 0) ∧
      exec (.vfsum t f) s = .next (inFlight s 5 (toV f v) (latchV f v) fl)) ∧
  (∀ (f : VFld) (s : State) (a b : VVal),
    Enabled f.g s → s.me.r.vsrc f.a = some a → s.me.r.vsrc f.b = some b → Free s 6 (toVV f a b) →
    ∃ v v' fl, exec (.vsegsum f) s = .next (inFlight s 6 (toVV f v v') (latchV f v) fl)) ∧
  (∀ (f : VFld) (s : State) (a b : VVal), f.rm ≠ 5 →
    Enabled f.g s → s.me.r.vsrc f.a = some a → s.me.r.vsrc f.b = some b → Free s 3 (toV f a) →
    ∃ v fl, exec (.vcvt f) s = .next (inFlight s 3 (toV f v) (latchV f v) fl)) ∧
  (∀ i ∈ ([.vbpk, .vbupk] : List (VFld → Instr)), ∀ (f : VFld) (s : State) (a b : VVal),
    Enabled f.g s → s.me.r.vsrc f.a = some a → s.me.r.vsrc f.b = some b → Free s 3 (toV f a) →
    ∃ v fl, exec (i f) s = .next (inFlight s 3 (toV f v) (latchV f v) fl))) ∧
  (∀ (f : VFld) (s : State) (a b : VVal), f.rm = 5 →
    Enabled f.g s → s.me.r.vsrc f.a = some a → s.me.r.vsrc f.b = some b → Free s 3 (toV f a) →
    (∀ w t, s.me.r.rng = w :: t →
      ∃ v fl, exec (.vcvt f) s =
        .next (inFlight (s.modRegs s.cur.cid fun r => { r with rng := t }) 3 (toV f v) (latchV f v) fl)) ∧
    (s.me.r.rng = [] → exec (.vcvt f) s = .next (s.hold none)))

/-! ### The F and X slots -/

/-- R83, R135 to R138: an F function takes the F unit, and lands after its latency; a word of its result, and of both results
of a pair, is valid where its source words are. R83: an F operation that meets the F unit in use by an earlier one of its own
context, or whose result would land together with another, is an illegal schedule, and takes nothing. -/
def Obligations.SpecialFunctions : Prop :=
  ((∀ e ∈ fForms, ∀ (f : FFld) (s : State), Enabled f.g s → FUnitFree s →
    Free s e.2.2 (toF f false VVal.zero VVal.zero) →
    ∃ v fl, (∀ i < 1024 / e.2.1, (v.elem e.2.1 i).2 = ((s.me.r.readV f.s).elem e.2.1 i).2) ∧
      exec (e.1 f) s = .next (inFlight (takesF s) e.2.2 (toF f false v v) (some (.vector v)) fl)) ∧
  (∀ e ∈ fPairs, ∀ (f : FFld) (s : State), Enabled f.g s → FUnitFree s →
    Free s e.2.2.1 (toF f true VVal.zero VVal.zero) →
    ∃ v v' fl, (∀ i < 1024 / e.2.1,
        let ok := ((s.me.r.readV f.s).elem e.2.1 i).2 && (!e.2.2.2 || ((s.me.r.readV (f.s + 1)).elem e.2.1 i).2)
        (v.elem e.2.1 i).2 = ok ∧ (v'.elem e.2.1 i).2 = ok) ∧
      exec (e.1 f) s = .next (inFlight (takesF s) e.2.2.1 (toF f true v v') (some (.vector v)) fl))) ∧
  (∀ e ∈ fForms.map (fun e => (e.1, e.2.2, false)) ++ fPairs.map (fun e => (e.1, e.2.2.1, true)), ∀ (f : FFld) (s : State),
    ¬ FUnitFree s ∨ (Enabled f.g s ∧ s.collides e.2.1 (toF f e.2.2 VVal.zero VVal.zero) = true) →
    exec (e.1 f) s = .next s.illegalSchedule)

/-- R139 to R142: the crossbar moves. -/
def Obligations.CrossbarMoves : Prop :=
  (∀ e ∈ xForms, ∀ (f : XFld) (s : State), Enabled f.g s →
    let v := words fun i => (s.me.r.readV f.s).word (e.2 f.p.toNat i)
    Free s 2 [.vreg f.d 32 v] → exec (e.1 f) s = .next (inFlight s 2 [.vreg f.d 32 v] none 0)) ∧
  (∀ (f : XFld) (s : State), Enabled f.g s → (∀ v, Free s 2 [.vreg f.d 32 v]) →
    let p := s.me.r.pattern f.p
    p.length = 32 → (p.filterMap id).Nodup →
    ∃ v : VVal, (∀ i < 32, (∀ j < 32, p.getD j none = some i → v.word i = (s.me.r.readV f.s).word j) ∧
        ((∀ j < 32, p.getD j none ≠ some i) → v.word i = (s.me.r.readV f.d).word i)) ∧
      exec (.xperm f) s = .next (inFlight s 2 [.vreg f.d 32 v] none 0)) ∧
  (∀ (f : XFld) (s : State), Enabled f.g s → (∀ i < 32, ((s.me.r.readV f.s).word i).ok = true) →
    (∀ p, Free s 2 [.pat f.d p]) →
    ∃ p : List (Option Nat), (∀ i < 32, p.getD i none =
        (let w := ((s.me.r.readV f.s).word i).bits.toNat; if w / 32 % 2 = 0 then some (w % 32) else none)) ∧
      exec (.xcfg f) s = .next (inFlight s 2 [.pat f.d p] none 0))

/-! ### Control and system slots -/

/-- R69: a disabled slot does nothing, and neither does a `nop`; a disabled F operation still takes the F unit, and so does
an `fnop` with a guard, which makes its slot occupied (R83). R78, R93: a control or system instruction in S1 is an illegal slot.
R70, R71, R83: in the V slot a source field that names a latch of scalar kind is an illegal slot, and a result that would land
together with another in one register an illegal schedule, which pops no random word. -/
def Obligations.DisabledAndRefusedSlots : Prop :=
  ((∀ (i : Instr) (g : BitVec 5) (s : State), guardField i = some g → guardOn s.me.r g = false → isFFun i = false →
    (isControl i = true → s.cur.slot = 0) → exec i s = .next s) ∧
  (∀ i ∈ ([.nop, .vnop, .xnop, .mnop, .tnop] : List (BitVec 5 → Instr)), ∀ g s, exec (i g) s = .next s) ∧
  (∀ (g : BitVec 5) (s : State), (g = 0 ∨ g = 16 → exec (.fnop g) s = .next s) ∧
    (g ≠ 0 → g ≠ 16 → FUnitFree s → exec (.fnop g) s = .next (takesF s)) ∧
    (g ≠ 0 → g ≠ 16 → ¬ FUnitFree s → exec (.fnop g) s = .next s.illegalSchedule)) ∧
  (∀ (i : Instr) (g : BitVec 5) (s : State), guardField i = some g → guardOn s.me.r g = false → isFFun i = true →
    FUnitFree s → exec i s = .next (takesF s))) ∧
  (∀ (i : Instr) (s : State), isControl i = true → s.cur.slot ≠ 0 → exec i s = .next s.illegalSlot) ∧
  (∀ (t : BitVec 2), ∀ e ∈ vForms t, ∀ (f : VFld) (s : State), Enabled f.g s →
    (s.me.r.vsrc f.a = none ∨ (e.2.2.2 f = true ∧ s.me.r.vsrc f.b = none) → exec (e.1 f) s = .next s.illegalSlot) ∧
    ((s.me.r.vsrc f.a).isSome = true → (e.2.2.2 f = true → (s.me.r.vsrc f.b).isSome = true) →
      (e.1 f = .vcvt f → f.rm = 5 → s.me.r.rng ≠ []) →
      s.collides e.2.1 (if e.2.2.1 = true then toVV f VVal.zero VVal.zero else toV f VVal.zero) = true →
      exec (e.1 f) s = .next s.illegalSchedule)) ∧
  (∀ (f : VFld) (s : State), Enabled f.g s →
    (s.me.r.vsrc f.a = none → exec (.vext f) s = .next s.illegalSlot) ∧
    ((s.me.r.vsrc f.a).isSome = true → (s.me.r.vsrc f.b).isSome = true →
      s.collides 2 [.sreg (BitVec.ofNat 6 f.d.toNat) (SVal.mkOk 0)] = true → exec (.vext f) s = .next s.illegalSchedule) ∧
    (s.collides 2 (toV f VVal.zero) = true →
      exec (.vsplat f) s = .next s.illegalSchedule ∧ exec (.viota f) s = .next s.illegalSchedule))

/-- R94, R95: `br`, `call` and `jr` leave a redirect behind that is three bundles away; a `call` also links: s63 takes the
predicted straight-line successor of its second delay bundle, made good when that bundle begins (log entry 27). -/
def Obligations.TransfersLeaveARedirect : Prop :=
  (∀ (f : SBr) (s : State), InS0 f.g s →
    exec (.br f) s = .next (redirected s (BitVec.ofInt 64 (s.me.bun.pc.toInt + f.off.toInt)))) ∧
  (∀ (f : SSrc) (s : State) (a : SVal), InS0 f.g s → s.me.r.src f.a = some a →
    exec (.jr f) s = .next (if a.ok = true then redirected s a.bits else s.illegalSlot)) ∧
  (∀ (f : SBr) (s : State), InS0 f.g s → (∀ v, Free s 1 [.sreg 63 v]) →
    ∃ l : Word, exec (.call f) s = .next (inFlight ((redirected s (BitVec.ofInt 64 (s.me.bun.pc.toInt + f.off.toInt))).modCtx
      s.cur.cid fun c => { c with links := ⟨2, l⟩ :: c.links }) 1 [.sreg 63 (SVal.mkOk l)] (some (.scalar (SVal.mkOk l))) 0)) ∧
  (∀ (c : Ctx) (g v : Word), c.links = [⟨0, g⟩] →
    (c.r.readS 63 = SVal.mkOk g → ((c.fixLinks v).r).readS 63 = SVal.mkOk v) ∧
    (c.r.readS 63 ≠ SVal.mkOk g → ((c.fixLinks v).r).readS 63 = c.r.readS 63) ∧ (c.fixLinks v).links = [])

/-- R94: with no loop level active, the third bundle after a transfer is its target's, whatever the lengths of the bundles
between, and those run on straight but for the redirects of earlier transfers, each of which takes effect at its own third
bundle: after this one where one bundle is left of it, after the next where two are. -/
def Obligations.RedirectTakesEffectAtTheThirdBundle : Prop :=
  ∀ (pc target : Word) (n0 n1 n2 : Nat) (ts : List Transfer),
    (∀ t ∈ ts, t.left ≠ 0 ∧ t.left ≠ 3) →
    let f0 := flowOut pc n0 After.none (ts ++ [⟨3, target⟩]) []
    let f1 := flowOut f0.pc n1 After.none f0.transfers f0.loops
    let f2 := flowOut f1.pc n2 After.none f1.transfers f1.loops
    let at_ (k : Nat) : Option Transfer := ts.find? fun t => t.left == k
    (∀ t, at_ 1 = some t → f0.pc = t.target) ∧ (at_ 1 = none → f0.pc = pc + BitVec.ofNat 64 n0) ∧
      (∀ t, at_ 2 = some t → f1.pc = t.target) ∧ (at_ 2 = none → f1.pc = f0.pc + BitVec.ofNat 64 n1) ∧
      f2.pc = target ∧
      f2.transfers = (ts.filter fun t => decide (3 < t.left)).map fun t => { t with left := t.left - 3 }

/-- R96, R97, R99: `loop` makes its level the innermost, or skips the body where the count is 0, to the straight-line
successor of its end index, whose fault is one of a fetch (R66; log entry 27: the model's reading); `loop.rearm` arms a level
from its registers; `loop.exit` sets the innermost count to 1, so that the level ends at its next end test. -/
def Obligations.LoopInstructions : Prop :=
  (∀ (f : SLoop) (s : State), InS0 f.g s → (s.me.r.readS f.c).ok = true → (s.me.r.readS f.c).bits ≠ 0 →
    let n := (s.me.r.readS f.c).bits
    let start := s.me.bun.pc + BitVec.ofNat 64 s.me.bun.len
    let last := s.me.bun.pc + f.e.setWidth 64
    exec (.loop f) s = .next (inFlight (s.modRegs s.cur.cid fun r =>
      { r with loops := ⟨f.lvl.toNat, n, start, last⟩ :: r.loops.filter fun l => l.lvl != f.lvl.toNat })
      1 [.loopRegs f.lvl n start last] none 0)) ∧
  (∀ (f : SLoop) (s : State), InS0 f.g s → (s.me.r.readS f.c).ok = true → (s.me.r.readS f.c).bits = 0 →
    let last := s.me.bun.pc + f.e.setWidth 64
    (∀ n, indexLen s s.cur.cid last = .ok n →
      exec (.loop f) s = .next (left s fun a => { a with redirect := some (last + BitVec.ofNat 64 n) })) ∧
    (∀ e, indexLen s s.cur.cid last = .error e →
      exec (.loop f) s = .next (s.slotFault .fetch e))) ∧
  (∀ (f : SLoop) (s : State), InS0 f.g s → (s.me.r.readS f.c).ok = false → exec (.loop f) s = .next s.illegalSlot) ∧
  (∀ (f : SRearm) (s : State), InS0 f.g s →
    let n := s.me.r.lcnt[f.lvl.toNat]'f.lvl.isLt
    let rest (r : Regs) : List LoopSh := r.loops.filter fun l => l.lvl != f.lvl.toNat
    exec (.loopRearm f) s = .next (if n = 0 then s.modRegs s.cur.cid fun r => { r with loops := rest r }
      else left (s.modRegs s.cur.cid fun r => { r with loops :=
        ⟨f.lvl.toNat, n, s.me.r.lstart[f.lvl.toNat]'f.lvl.isLt, s.me.r.lend[f.lvl.toNat]'f.lvl.isLt⟩ :: rest r })
        fun a => { a with armed := some f.lvl.toNat })) ∧
  (∀ (g : BitVec 5) (s : State) (l : LoopSh) (ls : List LoopSh), InS0 g s → s.me.r.loops = l :: ls →
    exec (.loopExit g) s = .next (s.modRegs s.cur.cid fun r => { r with loops := { l with cnt := 1 } :: ls })) ∧
  (∀ (g : BitVec 5) (s : State), InS0 g s → s.me.r.loops = [] →
    ∃ t, exec (.loopExit g) s = .next t ∧ ∀ c, t.ctx c = s.ctx c) ∧
  (∀ (pc : Word) (l : LoopSh) (ls : List LoopSh) (n : Nat), l.last = pc →
    flowOut pc n After.none [] ({ l with cnt := 1 } :: ls) = flowOut pc n After.none [] ls) ∧
  (Refuses .s 0x34 fun w => fieldN w 0 21 ≠ 0)

/-- R98: at the last bundle of a level whose count is above 1, control goes to its start and the count falls by 1; a level
whose count is 1 is left, and the test goes on with the next outer level. Levels that end elsewhere, inside a level that ends
here, stay as they are. -/
def Obligations.EndTestCountsLevels : Prop :=
  (∀ (pc : Word) (l : LoopSh) (ls : List LoopSh) (n : Nat), l.last = pc → l.cnt ≠ 1 →
    flowOut pc n After.none [] (l :: ls) = ⟨l.start, [], { l with cnt := l.cnt - 1 } :: ls⟩) ∧
  (∀ (pc : Word) (l : LoopSh) (ls : List LoopSh) (n : Nat), l.last = pc → l.cnt = 1 →
    flowOut pc n After.none [] (l :: ls) = flowOut pc n After.none [] ls) ∧
  (∀ (pc : Word) (is : List LoopSh) (l : LoopSh) (ls : List LoopSh) (n : Nat), (∀ x ∈ is, x.last ≠ pc) → l.last = pc →
    (l.cnt ≠ 1 → flowOut pc n After.none [] (is ++ l :: ls) =
      ⟨l.start, [], is ++ { l with cnt := l.cnt - 1 } :: ls⟩) ∧
    (l.cnt = 1 → (∀ x ∈ ls, x.last ≠ pc) →
      flowOut pc n After.none [] (is ++ l :: ls) = ⟨pc + BitVec.ofNat 64 n, [], is ++ ls⟩)) ∧
  (∀ (pc : Word) (ls : List LoopSh) (n : Nat), (∀ l ∈ ls, l.last ≠ pc) →
    flowOut pc n After.none [] ls = ⟨pc + BitVec.ofNat 64 n, [], ls⟩)

/-- R100, R101: `dict.ld` starts a load of the bank that is not current, and reports the fault of an earlier load that no
`dict.sw` has met; `dict.sw` makes a loaded bank current, voids the latches, waits for a load that runs, traps on a bad group
or on a faulted load, and one that an `eret` reissues after that trap starts the load again. -/
def Obligations.DictionaryInstructions : Prop :=
  (∀ (f : SSrc) (s : State) (a : SVal), InS0 f.g s → s.me.r.src f.a = some a →
    exec (.dictLd f) s = .next (if a.ok = false ∨ a.bits.toNat % 64 ≠ 0 then s.illegalSlot
      else if s.me.r.dictLoad = .running then s.hold none
      else s.modCtx s.cur.cid fun c =>
        { c.dictUnmet with r := { c.r with dictLoad := .running, dictAddr := a.bits } })) ∧
  (∀ c : Ctx, (c.dictUnmet).r = c.r ∧ (∀ k va, c.r.dictLoad = .faulted k va false → c.firstFail = none →
    (c.dictUnmet).firstFail = some ⟨2, k, 0, c.r.inHandler, va, c.r.pc⟩)) ∧
  (∀ (g : BitVec 5) (s : State), InS0 g s →
    let switched := s.modRegs s.cur.cid fun r => { r with curBank := !r.curBank, latch := Vector.replicate 8 .voided }
    (s.me.r.dictLoad = .none → exec (.dictSw g) s = .next switched) ∧
    (∀ n, s.me.r.dictLoad = .loaded n → 1 ≤ n → n ≤ 1023 → exec (.dictSw g) s = .next switched) ∧
    (∀ n, s.me.r.dictLoad = .loaded n → n = 0 ∨ 1023 < n → exec (.dictSw g) s = .next (s.slotTrap 1 0)) ∧
    (s.me.r.dictLoad = .running → exec (.dictSw g) s = .next (s.hold none)) ∧
    (∀ k va met, s.me.r.dictLoad = .faulted k va met → met = false ∨ s.me.bun.re = false → exec (.dictSw g) s =
      .next ((s.modRegs s.cur.cid fun r => { r with dictLoad := .faulted k va true }).slotTrap (BitVec.ofNat 5 k) va)) ∧
    (∀ k va, s.me.r.dictLoad = .faulted k va true → s.me.bun.re = true → exec (.dictSw g) s =
      .next ((s.hold none).modRegs s.cur.cid fun r => { r with dictLoad := .running })))

/-- R103 to R108: what `trap`, `brk`, `eret`, `wait`, `yield` and `end` leave to the completion of their bundle. -/
def Obligations.SystemInstructions : Prop :=
  (∀ (f : Sys2Proof.SNum) (s : State), InS0 f.g s → (s.me.r.readS f.n).ok = true →
    exec (.trap f) s = .next (if (s.me.r.readS f.n).bits = 0 then left s fun a => { a with trap := some (11, f.imm) } else s)) ∧
  (∀ (f : SCode) (s : State), InS0 f.g s → (s.me.r.inHandler = false ∨ s.me.held = true) →
    exec (.brk f) s = .next (left s fun a => { a with trap := some (12, f.code) })) ∧
  (∀ (g : BitVec 5) (s : State), InS0 g s →
    exec (.eret g) s = .next (if s.me.r.inHandler = true then left s fun a => { a with eret := true } else s.illegalSlot)) ∧
  (∀ (f : Sys2Proof.SNum) (s : State), InS0 f.g s → (s.me.r.readS f.n).ok = true →
    exec (.wait f) s = .next (left s fun a => { a with wait := (s.me.r.readS f.n).bits + f.imm.setWidth 64 })) ∧
  (∀ (g : BitVec 5) (s : State), InS0 g s → exec (.yield g) s = .next (left s fun a => { a with yields := true })) ∧
  (∀ (g : BitVec 5) (s : State), InS0 g s → exec (.endTask g) s = .next (left s fun a => { a with ends := true })) ∧
  (∀ (f : Sys2Proof.SNum) (s : State), InS0 f.g s → (s.me.r.readS f.n).ok = false →
    exec (.trap f) s = .next s.illegalSlot ∧ exec (.wait f) s = .next s.illegalSlot)

/-- R59, R102: `crd` delivers a control register with latency 1; a `cwr` lands its value 1 cc later, and its write leaves
every other control register's field as it was. -/
def Obligations.ControlRegisterAccess : Prop :=
  (∀ (f : SCtl) (s : State), InS0 f.g s → (∀ v, Free s 1 [.sreg f.r v]) →
    let v := SVal.mkOk (readCtl s s.cur.cid f.num.toNat)
    exec (.crd f) s = .next (inFlight s 1 [.sreg f.r v] (some (.scalar v)) 0)) ∧
  (∀ (f : SCtl) (s : State), InS0 f.g s →
    let a := s.me.r.readS f.r
    exec (.cwr f) s = .next (if a.ok = true then inFlight s 1 [.ctl f.num a.bits] none 0 else s.illegalSlot)) ∧
  (∀ e ∈ cwrForms, ∀ (g : BitVec 5) (r : BitVec 6) (s : State), InS0 g s →
    let a := s.me.r.readS r
    exec (e.1 g r) s = .next (if a.ok = true then inFlight s 1 [.ctl e.2 a.bits] none 0 else s.illegalSlot)) ∧
  (∀ (f : SCtlBank) (s : State), InS0 f.g s →
    let a := s.me.r.readS f.r
    exec (.cwrBankfmt f) s =
      .next (if a.ok = true then inFlight s 1 [.ctl (BitVec.ofNat 14 (16 + f.n.toNat)) a.bits] none 0 else s.illegalSlot)) ∧
  (∀ (r : Regs) (v : Word), (v.toNat % 8 ≤ 4 → (r.writeCtl 0x20 v).rmode = v.setWidth 3) ∧
    (4 < v.toNat % 8 → r.writeCtl 0x20 v = r) ∧ r.writeCtl 0x21 v = { r with xflags := v.setWidth 8 } ∧
    r.writeCtl 0x22 v = { r with xtrapen := v.setWidth 8 } ∧ r.writeCtl 0x40 v = { r with trapvec := v } ∧
    r.writeCtl 0x41 v = { r with trappc := v } ∧ r.writeCtl 0x42 v = r ∧ r.writeCtl 0x43 v = r ∧
    (v ≠ 0 → r.writeCtl 0x32 v = { r with deadline := v, dlPend := false }))

/-- R81, R46, R47: a result that raises no enabled flag lands in its registers and its latch and its flags go to XFLAGS: a
scalar, a vector or a pair of vectors (R74), a predicate, a compare's predicate pair or its neither mark (R91), a pattern
(R140), the registers of a loop level (R96); a control register takes its value (R102, R147); one that raises an enabled flag
writes nothing but XFLAGS, and its trap, cause 9, waits for the boundary, in a handler for a fatal one (R227), and at the end
of a task as a failed item (R108). -/
def Obligations.ResultsLand : Prop :=
  ∀ (cid : Nat) (s : State) (p : Pending) (rest : List Pending), s.dueResult cid = some (p, rest) →
    let c := s.ctx cid
    let on := p.flags &&& c.r.xtrapen
    ∃ t, exec (.resultLanding cid) s = .next t ∧ t.mem = s.mem ∧ SameCtxBut cid s t ∧
      let d := t.ctx cid
      (p.isCtl = false → d.r.flight = rest ∧ d.r.xflags = c.r.xflags ||| p.flags) ∧
      (on = 0 → d.traps = c.traps ∧ d.hTraps = c.hTraps ∧ d.firstFail = c.firstFail ∧
        (∀ n v, p.writes = [.sreg n v] → d.r.readS n = if n = 0 then SVal.mkOk 0 else v) ∧
        (∀ n k v, p.writes = [.vreg n k v] → ∀ i < 32,
          (d.r.readV n).word i = if i < k then v.word i else (c.r.readV n).word i) ∧
        (∀ n n' k v v', p.writes = [.vreg n k v, .vreg n' k v'] → n ≠ n' → ∀ i < 32,
          (d.r.readV n).word i = (if i < k then v.word i else (c.r.readV n).word i) ∧
          (d.r.readV n').word i = (if i < k then v'.word i else (c.r.readV n').word i)) ∧
        (∀ n b, p.writes = [.pred n b] → 2 ≤ n.toNat → d.r.readPred n = b) ∧
        (∀ (q : BitVec 3) b b', q ≠ 0 →
          p.writes = [.pred (BitVec.ofNat 4 (2 * q.toNat)) b, .pred (BitVec.ofNat 4 (2 * q.toNat + 1)) b'] →
          d.r.readPred (BitVec.ofNat 4 (2 * q.toNat)) = b ∧ d.r.readPred (BitVec.ofNat 4 (2 * q.toNat + 1)) = b' ∧
          d.r.neither.getLsbD q.toNat = false) ∧
        (∀ q : BitVec 3, q ≠ 0 → p.writes = [.neither (BitVec.ofNat 4 (2 * q.toNat))] →
          d.r.readPred (BitVec.ofNat 4 (2 * q.toNat)) = false ∧ d.r.readPred (BitVec.ofNat 4 (2 * q.toNat + 1)) = false ∧
          d.r.neither.getLsbD q.toNat = true) ∧
        (∀ n q, p.writes = [.pat n q] → d.r.pattern n = q ∧ ∀ m, m ≠ n → d.r.pattern m = c.r.pattern m) ∧
        (∀ l k a e, p.writes = [.loopRegs l k a e] →
          d.r.lcnt = c.r.lcnt.set l.toNat k l.isLt ∧ d.r.lstart = c.r.lstart.set l.toNat a l.isLt ∧
          d.r.lend = c.r.lend.set l.toNat e l.isLt) ∧
        (p.isCtl = false → (∀ n, (∀ v, RWrite.sreg n v ∉ p.writes) → d.r.readS n = c.r.readS n) ∧
          (∀ n, (∀ k v, RWrite.vreg n k v ∉ p.writes) → d.r.readV n = c.r.readV n)) ∧
        (∀ n v, p.writes = [.ctl n v] → p.flags = 0 → p.latch = none →
          d.r = ({ c.r with flight := rest }).writeCtl n.toNat v ∧
          (0x10 ≤ n.toNat → n.toNat ≤ 0x1F → t.bankFmt cid (n.setWidth 4) =
            if c.bind.used.getLsbD (n.toNat % 16) = true ∧ fmtListed (v.toNat % 256) = true then v.setWidth 8
            else s.bankFmt cid (n.setWidth 4))) ∧
        (∀ l a, p.latch = some l → a.toNat = p.slot → d.r.latchAt a = l)) ∧
      (on ≠ 0 → p.isCtl = false →
        d.r = { c.r with flight := rest, xflags := c.r.xflags ||| p.flags } ∧
        (c.status ≠ .ending → c.r.inHandler = false → d.traps = c.traps ++ [⟨9, p.slot, on, 0, 0⟩] ∧ d.hTraps = c.hTraps) ∧
        (c.status ≠ .ending → c.r.inHandler = true → d.hTraps = c.hTraps ++ [⟨9, p.slot, on, 0, 0⟩] ∧ d.traps = c.traps) ∧
        (c.status = .ending → d.firstFail = some (c.firstFail.getD ⟨2, 9, p.slot, c.r.inHandler, 0, c.r.pc⟩)))

/-! ### Memory slots -/

/-- R150 to R157, R160: every load of the M slot that is enabled, aligned and allowed, with a free entry in its landing
buffer and room in the walker, issues: its entry waits for its bytes, its accesses stand in the M queue, and memory and the
registers are as before. With an invalid base or index it accesses nothing there and lands invalid (R62). -/
def Obligations.LoadsIssue : Prop :=
  ∀ (f : MFld) (s : State) (ls : List (Nat × Loc)), ∀ x ∈ loads f s,
    Enabled f.g s → Free s (delayOf f.lat) x.dest.writes → Aligned x.align x.cs → landHeld s < 32 → WalkerRoom s x.cs →
    locateChunks s s.cur.cid .read x.reach x.cs = .ok ls →
    ∃ t, exec x.instr s = .next t ∧ LoadIssued s t x.kind f.lat x.dest x.oks (destBytes x.dest) ls

/-- R153 to R157, R160: every store of the M slot that is enabled, aligned and allowed, with room in the walker, issues: the
bytes of its valid words stand in the M queue with their places, and memory and the registers are as before. With an invalid
base it stores nothing (R62). -/
def Obligations.StoresIssue : Prop :=
  ∀ (f : MFld) (s : State) (ls : List (Nat × Loc)), Enabled f.g s →
    (∀ x ∈ stores f s, Aligned x.align x.cs → WalkerRoom s x.cs →
      locateChunks s s.cur.cid .write x.reach x.cs = .ok ls →
      ∃ t, exec x.instr s = .next t ∧ StoreIssued s t x.kind x.data x.keep ls) ∧
    (∀ v, s.me.r.vsrc f.data = some v → ∀ x ∈ vstores f s v, Aligned x.align x.cs → WalkerRoom s x.cs →
      locateChunks s s.cur.cid .write x.reach x.cs = .ok ls →
      ∃ t, exec x.instr s = .next t ∧ StoreIssued s t x.kind x.data x.keep ls)

/-- R62, R152 to R157, R225, R284, R285: a misaligned access is an access fault of its slot; an access that no translation
allows goes to the fault service or is an access fault; a collision is an illegal schedule; a full landing buffer and a walker
without room hold the slot, and while the buffer is full the landings of the core go on (log entry 55: the model's reading); a
store with an invalid base does nothing, and a vector store of a scalar latch is illegal. That a misaligned word is reported
before a translation fault of any other word is the model's choice (log entry 72). -/
def Obligations.AccessesThatDoNotGoOut : Prop :=
  (∀ (f : MFld) (s : State), ∀ x ∈ loads f s, Enabled f.g s →
    (s.collides (delayOf f.lat) x.dest.writes = true → exec x.instr s = .next s.illegalSchedule) ∧
    (Free s (delayOf f.lat) x.dest.writes →
      (∀ c, x.cs.find? (fun c => c.va % x.align != 0) = some c → exec x.instr s = .next (s.slotTrap 6 c.va)) ∧
      (Aligned x.align x.cs →
        (∀ e, locateChunks s s.cur.cid .read x.reach x.cs = .error e → exec x.instr s = .next (s.slotFault .read e)) ∧
        (∀ ls, locateChunks s s.cur.cid .read x.reach x.cs = .ok ls →
          (32 ≤ landHeld s → exec x.instr s = .next s.holdForLanding) ∧
          (landHeld s < 32 → ¬ WalkerRoom s x.cs → exec x.instr s = .next (s.hold none)))))) ∧
  (∀ (f : MFld) (s : State), Enabled f.g s →
    let stops (x : StoreShape) : Prop :=
      (∀ c, x.cs.find? (fun c => c.va % x.align != 0) = some c → exec x.instr s = .next (s.slotTrap 6 c.va)) ∧
      (Aligned x.align x.cs →
        (∀ e, locateChunks s s.cur.cid .write x.reach x.cs = .error e → exec x.instr s = .next (s.slotFault .write e)) ∧
        (∀ ls, locateChunks s s.cur.cid .write x.reach x.cs = .ok ls → ¬ WalkerRoom s x.cs →
          exec x.instr s = .next (s.hold none)))
    (∀ x ∈ stores f s, stops x) ∧ (∀ v, s.me.r.vsrc f.data = some v → ∀ x ∈ vstores f s v, stops x)) ∧
  (∀ (f : MFld) (s : State), Enabled f.g s → (s.me.r.readS f.base).ok = false →
    (∀ e ∈ storeForms, exec (e.1 f) s = .next s) ∧
    (∀ e ∈ vstoreForms, ∀ v, s.me.r.vsrc f.data = some v → exec (e.1 f) s = .next s)) ∧
  (∀ (f : MFld) (s : State), Enabled f.g s → s.me.r.vsrc f.data = none →
    (∀ e ∈ vstoreForms, exec (e.1 f) s = .next s.illegalSlot) ∧ exec (.stvx f) s = .next s.illegalSlot)

/-- R158, R159: `fence` and `xfence` enter the M queue at their place in the context's order, with the bundle's scope. -/
def Obligations.FencesEnterTheQueue : Prop :=
  ∀ (i : Instr) (k : MKind) (f : MFld) (s : State),
    ((i = .fence f ∧ k = .fence) ∨ (i = .xfence f ∧
      k = .xfence (f.data.toNat / 4) (f.data.toNat % 4 * 4 + f.base.toNat / 16))) → Enabled f.g s →
    ∃ t a, exec i s = .next t ∧ IssueFrame s t ∧ t.me.r.land = s.me.r.land ∧ t.me.mq = s.me.mq ++ [a] ∧
      t.me.seq = s.me.seq + 1 ∧ a.kind = k ∧ a.seq = s.me.seq ∧ a.scope = s.me.bun.scope ∧ a.cells = [] ∧ a.locs = []

/-- R161: the accumulator atomics: the words they add, each at its place, wait in the M queue; the fetching ones also take
an entry of the landing buffer. With an invalid base an add does nothing and a fetch lands invalid; a misaligned one, and in
deterministic operation an FP add to another core's area, is an access fault (R62, R152). That a fetch, also one with an invalid
base, which finds the landing buffer full holds the slot while the landings of the core go on is the model's reading (log entry
55). -/
def Obligations.AccumulatorAtomicsIssue : Prop :=
  (∀ e ∈ addForms, ∀ (f : MFld) (s : State), Enabled f.g s →
    let va := addrOf s f 4
    let a := s.me.r.readS f.data
    ((s.me.r.readS f.base).ok = false → exec (e.1 f) s = .next s) ∧
    ((s.me.r.readS f.base).ok = true → va % 4 ≠ 0 → exec (e.1 f) s = .next (s.slotTrap 6 va)) ∧
    ((s.me.r.readS f.base).ok = true → va % 4 = 0 →
      (∀ x, locateChunks s s.cur.cid .readWrite .atomic [⟨0, va, 4⟩] = .error x →
        exec (e.1 f) s = .next (s.slotFault .atomic x)) ∧
      ∀ ls, locateChunks s s.cur.cid .readWrite .atomic [⟨0, va, 4⟩] = .ok ls →
        (e.2.2 = true ∧ s.me.bind.det = true ∧ (∃ x ∈ ls, x.2.region = 5) → exec (e.1 f) s = .next (s.slotTrap 6 va)) ∧
        (¬ (e.2.2 = true ∧ s.me.bind.det = true ∧ (∃ x ∈ ls, x.2.region = 5)) →
          ∃ t m, exec (e.1 f) s = .next t ∧ IssueFrame s t ∧ t.me.r.land = s.me.r.land ∧ t.me.mq = s.me.mq ++ [m] ∧
            m.kind = .atomic e.2.1 ∧ m.seq = s.me.seq ∧ m.cid = s.cur.cid ∧ m.locs = [] ∧
            m.operands = (if a.ok0 = true then [(placeAt ls 0, a.bits.lo)] else [])))) ∧
  (∀ e ∈ fetchForms, ∀ (f : MFld) (s : State), Enabled f.g s → Free s (delayOf f.lat) [.sreg f.data (SVal.mkOk 0)] →
    let va := addrOf s f 4
    let d := s.me.r.readS f.data
    let entry (oks : List Bool) (bs : List (Option Byte)) (arrived : Bool) (keys : List Nat) : MReq :=
      ⟨s.me.nextId, s.cur.slot, (s.core (coreOf s.cur.cid)).cc + delayOf f.lat, .sreg f.data 4 true, oks, bs, arrived,
        false, none, s.earliest keys, s.me.seq⟩
    ((s.me.r.readS f.base).ok = false → landHeld s < 32 →
      ∃ t, exec (e.1 f) s = .next t ∧ IssueFrame s t ∧ t.me.mq = s.me.mq ∧
        t.me.r.land = s.me.r.land ++ [entry [false] [] true []]) ∧
    ((s.me.r.readS f.base).ok = true → va % 4 ≠ 0 → exec (e.1 f) s = .next (s.slotTrap 6 va)) ∧
    ((s.me.r.readS f.base).ok = true → va % 4 = 0 →
      (∀ x, locateChunks s s.cur.cid .readWrite .atomic [⟨0, va, 4⟩] = .error x →
        exec (e.1 f) s = .next (s.slotFault .atomic x)) ∧
      (∀ ls, locateChunks s s.cur.cid .readWrite .atomic [⟨0, va, 4⟩] = .ok ls → 32 ≤ landHeld s →
        exec (e.1 f) s = .next s.holdForLanding) ∧
      ∀ ls, locateChunks s s.cur.cid .readWrite .atomic [⟨0, va, 4⟩] = .ok ls → landHeld s < 32 →
        ∃ t m, exec (e.1 f) s = .next t ∧ IssueFrame s t ∧
          t.me.r.land = s.me.r.land ++ [entry [true] (List.replicate 4 none) false (ls.map (·.2.key))] ∧
          t.me.mq = s.me.mq ++ [m] ∧ m.kind = .atomic e.2 ∧ m.req = s.me.nextId ∧ m.seq = s.me.seq ∧ m.cid = s.cur.cid ∧
          m.locs = ls.map (fun x => (x.1, x.2.key)) ∧
          m.operands = (if d.ok0 = true then [(placeAt ls 0, d.bits.lo)] else [])) ∧
    (32 ≤ landHeld s → (s.me.r.readS f.base).ok = false → exec (e.1 f) s = .next s.holdForLanding)) ∧
  (∀ (f : MFld) (s : State) (v : VVal), Enabled f.g s → s.me.r.vsrc f.data = some v →
    let va := addrOf s f 128
    ((s.me.r.readS f.base).ok = false → exec (.accAddvF f) s = .next s) ∧
    ((s.me.r.readS f.base).ok = true → va % 128 ≠ 0 → exec (.accAddvF f) s = .next (s.slotTrap 6 va)) ∧
    ((s.me.r.readS f.base).ok = true → va % 128 = 0 →
      (∀ x, locateChunks s s.cur.cid .readWrite .atomic [⟨0, va, 128⟩] = .error x →
        exec (.accAddvF f) s = .next (s.slotFault .atomic x)) ∧
      ∀ ls, locateChunks s s.cur.cid .readWrite .atomic [⟨0, va, 128⟩] = .ok ls →
        (s.me.bind.det = true ∧ (∃ x ∈ ls, x.2.region = 5) → exec (.accAddvF f) s = .next (s.slotTrap 6 va)) ∧
        (¬ (s.me.bind.det = true ∧ (∃ x ∈ ls, x.2.region = 5)) →
          ∃ t m, exec (.accAddvF f) s = .next t ∧ IssueFrame s t ∧ t.me.r.land = s.me.r.land ∧
            t.me.mq = s.me.mq ++ [m] ∧ m.kind = .atomic 0x26 ∧ m.seq = s.me.seq ∧ m.cid = s.cur.cid ∧ m.locs = [] ∧
            m.operands = (List.range 32).filterMap fun i =>
              if (v.word i).ok = true then some (placeAt ls (4 * i), (v.word i).bits) else none)))

/-- R162: a `qrd` takes its place on path C and in its landing buffer, and is served at once where an element waits for it;
a request is served in issue order, with the oldest element, and not before the older accesses that hold path C; `qwr` adds
its value as the newest. -/
def Obligations.StreamsPopAndPush : Prop :=
  (∀ (f : MFld) (s : State) (q : Stream),
    let n := f.base.toNat % 8
    Enabled f.g s → s.me.r.stream n = some q → q.output = false →
    (q.closed = true → (s.me.r.pops n).length < q.elems.length) → landHeld s < 32 →
    Free s (delayOf f.lat) [.vreg (f.data.setWidth 5) 32 VVal.zero] →
    ∃ u : State, exec (.qrd f) s = .next (u.servePop s.cur.cid n) ∧ IssueFrame s u ∧ u.me.seq = s.me.seq + 1 ∧
      u.me.mq = s.me.mq ∧ u.me.r.land = s.me.r.land ++
        [⟨s.me.nextId, s.cur.slot, (s.core (coreOf s.cur.cid)).cc + delayOf f.lat, .vreg (f.data.setWidth 5) 32,
          List.replicate 32 true, List.replicate 128 none, false, false, some n, s.earliest [], s.me.seq⟩]) ∧
  (∀ (f : MFld) (s : State), Enabled f.g s →
    let n := f.base.toNat % 8
    (s.me.r.stream n = none → exec (.qrd f) s = .next s.illegalSlot) ∧
    (∀ q, s.me.r.stream n = some q → q.output = true ∨ (q.closed = true ∧ q.elems.length ≤ (s.me.r.pops n).length) →
      exec (.qrd f) s = .next s.illegalSlot)) ∧
  (∀ (cid n : Nat) (s : State) (q : Stream) (x : MReq) (xs : List MReq) (e : List VWord) (es : List (List VWord)), n < 8 →
    (s.ctx cid).r.stream n = some q → (s.ctx cid).r.pops n = x :: xs → q.elems = e :: es →
    let t := s.servePop cid n
    (s.blockedAt cid 1 x.seq false = true → t = s) ∧
    (s.blockedAt cid 1 x.seq false = false → t.mem = s.mem ∧ SameCtxBut cid s t ∧
      (t.ctx cid).r.land = (s.ctx cid).r.land.map (fun y => if y.id = x.id then
        { y with bytes := e.flatMap fun w => (leBytes 4 w.bits.toNat).map some, arrived := true, qn := none } else y) ∧
      (t.ctx cid).r.stream n = (if q.closed = true ∧ es = [] then none else some { q with elems := es }) ∧
      ∀ i, i ≠ n → (t.ctx cid).r.stream i = (s.ctx cid).r.stream i)) ∧
  (∀ (cid n : Nat) (s : State), (s.ctx cid).r.pops n = [] → s.servePop cid n = s) ∧
  (∀ (f : MFld) (s : State) (v : VVal) (q : Stream),
    let n := f.base.toNat % 8
    Enabled f.g s → s.me.r.vsrc f.data = some v → s.me.r.stream n = some q →
    (q.output = false → exec (.qwr f) s = .next s.illegalSlot) ∧
    (q.output = true → 8 ≤ q.elems.length → exec (.qwr f) s = .next (s.hold (some 12))) ∧
    (q.output = true → q.elems.length < 8 →
      ∃ t, exec (.qwr f) s = .next t ∧ SendFrame s t ∧ t.me.r.words = s.me.r.words ∧ t.me.seq = s.me.seq + 1 ∧
        t.me.r.stream n = some { q with elems := q.elems ++ [v.toList], seqs := q.seqs ++ [s.me.seq] } ∧
        ∀ i, i ≠ n → t.me.r.stream i = s.me.r.stream i))

/-! ### Commands of the T slot -/

/-- R194, R199 to R215: a command of the array that passes its checks enters its core's engine queue. R210, R324: `rot.sav`
acts at issue: it takes the held operation of its own context away, and no other, and its record, which writes nothing but the
64 bytes at its address, is written with the end of its issue, unless an older acquire, fence or record of its context holds
it (R366). -/
def Obligations.EngineCommands : Prop :=
  (∀ e ∈ engineForms, ∀ (f : TFld) (s : State),
    let c := mkCmd s e.2.1 f e.2.2
    let l := coreOf s.cur.cid
    MaySend s f e.2.1 e.2.2 → engOk c = true → (s.core l).engQ.length < 4 →
    ∃ t, exec (e.1 f) s = .next t ∧ Sent s t f e.2.2 .command false ∧ (t.core l).engQ = (s.core l).engQ ++ [c]) ∧
  (∀ (f : TFld) (s : State) (ls : List Loc),
    let c := mkCmd s 0x08 f false
    MemOk s → MaySend s f 0x08 false → c.a.toNat % 64 = 0 → Config.windowL ≤ c.a.toNat →
    locateAll s s.cur.cid .write c.a.toNat 64 = .ok ls → (∀ l ∈ ls, l.region ≠ 2 ∧ l.q = 0) →
    ∃ t, exec (.rotSav f) s = .next t ∧
      (t.core (coreOf s.cur.cid)).heldOps = (if (s.heldOp s.cur.cid).isSome = true then
        (s.core (coreOf s.cur.cid)).heldOps.filter fun o => o.cmd.cid != s.cur.cid else (s.core (coreOf s.cur.cid)).heldOps) ∧
      t.mem = s.mem ∧ ∃ w, t.me.savs = s.me.savs ++ [w] ∧ w.seq = s.me.seq ∧ w.req = c.req ∧
        w.off = c.a.toNat - Config.windowL ∧ w.bytes.length = 64 ∧ (s.heldOp s.cur.cid = none → w.bytes = leBytes 64 0)) ∧
  (∀ (cid pos : Nat) (w : SavWrite) (rest : List SavWrite) (ls : List Loc) (s : State), MemOk s →
    (s.ctx cid).savs = w :: rest →
    s.issueSav cid = savPerform s cid ∧ exec (.engineAccessPerform cid 2 pos) s = .next (savPerform s cid) ∧
    let t := savPerform s cid
    ((s.dropFences cid).blockedAt cid 2 w.seq false = true → t = s.dropFences cid) ∧
    ((s.dropFences cid).blockedAt cid 2 w.seq false = false → w.bytes.length = 64 → w.off % 64 = 0 →
      locateAll s cid .write (Config.windowL + w.off) 64 = .ok ls → (∀ l ∈ ls, l.region ≠ 2 ∧ l.q = 0) →
      (t.ctx cid).savs = rest ∧ SameMemBut (fun k => ∃ l ∈ ls, l.key = k) s t ∧
        (w.bytes = leBytes 64 0 → ∀ l ∈ ls, memGet t.mem l.key = 0)))

/-- R240, R241, R247: a copy that passes its checks starts, with RMODE in place of a rounding field of 7; `cp.bind` binds
a stream to a tag. -/
def Obligations.CopiesStart : Prop :=
  (∀ e ∈ copyForms, ∀ (f : TFld) (s : State),
    let c := mkCmd s e.2 f true
    MaySend s f e.2 true → copyOk s c = true → copiesOf s (coreOf s.cur.cid) < 8 →
    ∃ t k, exec (e.1 f) s = .next t ∧ Sent s t f true .command false ∧ t.me.copies = s.me.copies ++ [k] ∧
      k.cmd = c ∧ k.pos = 0 ∧ k.bytes = [] ∧ k.pushed = [] ∧ k.flags = 0 ∧ k.streams = (s.bindsFor c).map (·.2) ∧
      k.rm = (if c.c.toNat / 2 ^ 13 % 8 = 7 then s.me.r.rmode.toNat else c.c.toNat / 2 ^ 13 % 8)) ∧
  (∀ (f : TFld) (s : State),
    let c := mkCmd s 0x12 f true
    let n := c.a.toNat % 8
    MaySend s f 0x12 true → bindOk s c = true →
    ∃ t q, exec (.cpBind f) s = .next t ∧ Sent s t f true .command false ∧
      t.me.binds = s.me.binds ++ [(f.m.toNat, c.a.toNat)] ∧ t.me.r.stream n = some q ∧
      q.output = decide (8 ≤ c.a.toNat) ∧ q.tag = f.m.toNat ∧ q.closed = false ∧
      ∀ i, i ≠ n → t.me.r.stream i = s.me.r.stream i)

/-- R245, R275, R290, R301, R317: each wait for a unit asks for a result word, and a count it reports starts again. -/
def Obligations.WaitsForUnits : Prop :=
  (∀ (f : TFld) (s : State),
    let c := mkCmd s 0x13 f false
    MaySend s f 0x13 false → 0 < c.a.toNat → c.a.toNat < 2 ^ 16 →
    ∃ t, exec (.cpWait f) s = .next t ∧ Sent s t f false (.copies c.a.toNat s.me.seq) false) ∧
  (∀ (f : TFld) (s : State), MaySend s f 0x28 false →
    ∃ t, exec (.eqFence f) s = .next t ∧ Sent s t f false (.eqFence s.me.seq) false) ∧
  (∀ (f : TFld) (s : State), MaySend s f 0x33 false →
    ∃ t, exec (.pkWait f) s = .next t ∧ Sent s t f false (.pkWait s.me.pkFrom s.me.seq s.me.pkCount) false ∧
      t.me.pkCount = 0 ∧ t.me.pkFrom = s.me.seq) ∧
  (∀ (f : TFld) (s : State), MaySend s f 0x3B false →
    ∃ t, exec (.nmFence f) s = .next t ∧ Sent s t f false (.nmFence s.me.seq s.me.nmCount) false ∧ t.me.nmCount = 0) ∧
  (∀ (f : TFld) (s : State), MaySend s f 0x41 false →
    ∃ t, exec (.asWait f) s = .next t ∧ Sent s t f false (.asWait s.me.seq s.me.asCount) false ∧ t.me.asCount = 0)

/-- R272, R298, R302, R310, R311, R289: a request to the Asterism, the Catalogue, a near-memory unit or the angle store
that passes its checks and finds room enters the queue of its unit. -/
def Obligations.UnitCommandsQueue : Prop :=
  (∀ e ∈ eqForms, ∀ (f : TFld) (s : State),
    let c := mkCmd s e.2 f false
    MaySend s f e.2 false → eqOk c = true → eqBad s c = none → (s.clu c.eqClu).eqQ.length < 64 →
    ∃ t, exec (e.1 f) s = .next t ∧ Sent s t f false .command false ∧
      (t.clu c.eqClu).eqQ = (s.clu c.eqClu).eqQ ++ [c] ∧ t.me.eqOut = s.me.eqOut ++ [(s.me.seq, c.eqClu)]) ∧
  (∀ e ∈ pkForms, ∀ (f : TFld) (s : State),
    let c := mkCmd s e.2 f false
    let d := dieOf (coreOf s.cur.cid)
    MaySend s f e.2 false → pkOk s c = true → s.me.pkOut.length < 16 → (s.die d).pkQ.length < 64 →
    ∃ t, exec (e.1 f) s = .next t ∧ Sent s t f false .command false ∧ (t.die d).pkQ = (s.die d).pkQ ++ [c] ∧
      t.me.pkOut = s.me.pkOut ++ [s.me.seq] ∧ t.me.pkCount = s.me.pkCount + 1) ∧
  (∀ e ∈ nmForms, ∀ (f : TFld) (s : State),
    let c := mkCmd s e.2.1 f e.2.2
    MaySend s f e.2.1 e.2.2 → nmOk c = true → (e.2.1 = 0x38 → s.me.bind.det = true → c.nmFmt = 4) →
    (s.me.ncmds.filter fun n => !n.over).length < 32 →
    ∃ t n, exec (e.1 f) s = .next t ∧ Sent s t f e.2.2 .command (decide (e.2.1 = 0x39)) ∧
      t.me.ncmds = s.me.ncmds ++ [n] ∧ n.cmd = c ∧ n.row = 0 ∧ n.acked = 0) ∧
  (∀ (f : TFld) (s : State),
    let c := mkCmd s 0x40 f false
    MaySend s f 0x40 false → asOk c = true →
    ∃ t a, exec (.asLd f) s = .next t ∧ Sent s t f false .command false ∧ t.me.asLds = s.me.asLds ++ [a] ∧ a.cmd = c ∧
      a.granules = 0 ∧ t.me.asCount = s.me.asCount + 1)

/-- R248 to R255: `cbar` sends an arrival, to the Cluster Barrier of its gang's leader where it stands in one (log entry 22: the
model's reading), and waits; `fuse` of a lone member fuses at once and that of another raises its
line and stops its bundle; `dcpl` acts when its bundle completes; `rejoin` waits in a gang. -/
def Obligations.GangAndBarrierCommands : Prop :=
  (∀ (f : TFld) (s : State),
    let c := mkCmd s 0x1B f false
    let k := s.me.bind.barClu
    MaySend s f 0x1B false → c.a.toNat < 16 → 1 ≤ c.b.toNat → c.b.toNat ≤ 32 →
    ∃ t, exec (.cbar f) s = .next t ∧ Sent s t f false .command false ∧ t.me.barrier = some (c.a.toNat, none) ∧
      (t.clu k).cbarQ = (s.clu k).cbarQ ++ [{ c with c := BitVec.ofNat 64 s.me.r.frameTime }]) ∧
  (∀ (f : TFld) (s : State), MaySend s f 0x18 false → s.me.bind.gang = false ∨ s.me.fused = true →
    ∃ t, exec (.fuse f) s = .next t ∧ SendFrame s t ∧ t.me.fused = true ∧ t.me.lineFuse = s.me.lineFuse) ∧
  (∀ (f : TFld) (s : State), MaySend s f 0x18 false → s.me.bind.gang = true → s.me.fused = false →
    ∃ t, exec (.fuse f) s = .next t ∧ Sent s t f false .gang false ∧ t.me.lineFuse = some s.me.bun.pc ∧
      s.cur.cid ∉ t.issuing) ∧
  (∀ (f : TFld) (s : State), MaySend s f 0x19 false →
    ∃ t, exec (.dcpl f) s = .next t ∧ Sent s t f false .command false ∧ t.me.bun.aft = { s.me.bun.aft with dcpl := true } ∧
      t.me.fused = s.me.fused) ∧
  (∀ (f : TFld) (s : State), MaySend s f 0x1A false →
    ∃ t, exec (.rejoin f) s = .next t ∧ Sent s t f false .command false ∧ t.me.lineRejoin = s.me.bind.gang)

/-- R345 to R347: `graph.go` and `task.sig` wait in the context for its older accesses; `rng.seed` sets the generator's
state, with 1 in place of the last word where all four are 0, and empties its queue. -/
def Obligations.SchedulerAndGeneratorCommands : Prop :=
  (∀ (f : TFld) (s : State),
    let c := mkCmd s 0x48 f false
    MaySend s f 0x48 false → c.a.toNat % 64 = 0 → c.b.toNat < 128 → c.c.toNat % 32 = 0 →
    ∃ t, exec (.graphGo f) s = .next t ∧ Sent s t f false .command false ∧ t.me.hCmds = s.me.hCmds ++ [c]) ∧
  (∀ (f : TFld) (s : State), MaySend s f 0x49 false →
    ∃ t, exec (.taskSig f) s = .next t ∧ Sent s t f false .command false ∧
      t.me.hCmds = s.me.hCmds ++ [mkCmd s 0x49 f false]) ∧
  (∀ (f : TFld) (s : State),
    let c := mkCmd s 0x4A f true
    MaySend s f 0x4A true →
    let last := if c.a = 0 ∧ c.b = 0 ∧ c.c = 0 ∧ c.d = 0 then 1 else c.d
    ∃ t, exec (.rngSeed f) s = .next t ∧ t.mem = s.mem ∧ SameCtxBut s.cur.cid s t ∧
      t.me.r = { s.me.r with g0 := c.a, g1 := c.b, g2 := c.c, g3 := last, rng := [], rngDue := 0 })

/-- R62, R194: a command with an invalid parameter does nothing but ready an invalid result word. R75, R83, R194, R195: a
command whose checks fail is an illegal slot, one whose arrays lie wrong is an access fault (R267), one whose result word would
land together with another result is an illegal schedule, a ninth pending result word holds the slot until one has landed, and
a unit without room holds it. -/
def Obligations.CommandsThatDoNotGoOut : Prop :=
  (∀ x ∈ sendShapes, ∀ (f : TFld) (s : State), Enabled f.g s →
    let c := mkCmd s x.op f x.four
    let words : Prop := x.four = false ∧ f.d ≠ 0
    let meets : Bool := s.collides (16 * (f.m.toNat + 1)) [.sreg f.d (SVal.mkOk 0)]
    let goes : Prop := paramsOk s x.op f x.four = false ∨ (x.ok s c = true ∧ x.bad s c = none)
    (paramsOk s x.op f x.four = true → x.ok s c = false → exec (x.instr f) s = .next s.illegalSlot) ∧
    (∀ va, paramsOk s x.op f x.four = true → x.ok s c = true → x.bad s c = some va →
      exec (x.instr f) s = .next (s.slotTrap 6 va)) ∧
    (goes → words → meets = true → exec (x.instr f) s = .next s.illegalSchedule) ∧
    (goes → words → meets = false → 8 ≤ s.me.r.words.length → exec (x.instr f) s = .next s.holdForLanding) ∧
    (paramsOk s x.op f x.four = true → x.ok s c = true → x.bad s c = none →
      (words → meets = false ∧ s.me.r.words.length < 8) → x.full s c = true →
      exec (x.instr f) s = .next (s.hold (if x.op < 0x10 then some 15 else none)))) ∧
  ∀ e ∈ sendForms, ∀ (f : TFld) (s : State), Enabled f.g s → paramsOk s e.2.1 f e.2.2 = false →
    s.wordTrouble (if e.2.2 then { f with d := 0 } else f) = none →
    ∃ t, exec (e.1 f) s = .next t ∧ SendFrame s t ∧
      t.me.r.words = wordsAfter s f e.2.2 (some ⟨0, false, false⟩) .command false ∧
      t.me.copies = s.me.copies ∧ t.me.ncmds = s.me.ncmds ∧ t.me.asLds = s.me.asLds ∧ t.me.hCmds = s.me.hCmds ∧
      t.cores = s.cores ∧ t.clus = s.clus ∧ t.dies = s.dies ∧ t.hub = s.hub

/-! ### Traps -/

/-- R224 to R226, R254: a trap in a slot: every member of the fused gang of its context, or the context alone, that has a
handler saves its bundle's address, the slot, the cause and the done slots, moves the transfers, loop shadows and links to the
save area, and goes on at TRAPVEC; the other registers, memory and every other context are as before, and no slot of these
bundles issues any more. What S0 left to its bundle and the link of a `call` are saved too, each member of a gang has its own
TRAPVEC and its own fatal case, and the slots that a resumed bundle had done stay done: the model's readings (log entries 5,
27, 18 and 41). R227: without a handler, or inside one, the trap is fatal: the task ends, and the fault is recorded. A debug
break, cause 12, is not fatal in a handler and is no trap of a slot here. -/
def Obligations.TakingATrap : Prop :=
  ∀ (s : State) (cause : BitVec 5) (va : Nat), cause ≠ 12 → (s.gangOf s.cur.cid).Nodup →
    let g := s.gangOf s.cur.cid
    let t := s.slotTrap cause va
    t.mem = s.mem ∧ t.cores = s.cores ∧ t.clus = s.clus ∧ t.hub = s.hub ∧ (∀ i ∉ g, t.ctx i = s.ctx i) ∧
      (∀ w ∈ t.issue, w.cid ∉ g) ∧ (∀ i ∈ g, i ∉ t.issuing) ∧
      (∀ i ∈ g, (s.ctx i).r.trapvec ≠ 0 → (s.ctx i).r.inHandler = false →
        (t.ctx i).r = trapped (s.ctx i) cause.toNat s.cur.slot (BitVec.ofNat 10 (2 ^ s.cur.slot - 1) ||| s.me.bun.skip) ∧
          (t.ctx i).status = (s.ctx i).status) ∧
      (∀ i ∈ g, ((s.ctx i).r.trapvec = 0 ∨ (s.ctx i).r.inHandler = true) → (t.ctx i).r = (s.ctx i).r ∧
        (t.ctx i).status = .ending ∧ (t.ctx i).endInfo = some ((s.ctx i).firstFail.getD
          ⟨2, cause.toNat, s.cur.slot, (s.ctx i).r.inHandler, va, (s.ctx i).bun.pc⟩))

/-- R105, R224: the bundle of an `eret` hands control to TRAPPC, with the trapped code's transfers and loop shadows, and
the slots that DONEMASK marks do not issue again; a return right after a trap resumes where the trap was taken.
That what S0 left comes back with the return is the model's reading (log entry 5). -/
def Obligations.ReturnFromAHandler : Prop :=
  (∀ (s : State) (cid : Nat), (s.ctx cid).bun.aft.eret = true → (s.ctx cid).bun.aft.ends = false →
    let c := s.ctx cid
    let d := (s.completeBundle cid).ctx cid
    d.r.pc = c.r.trappc ∧ d.r.transfers = c.r.save.transfers ∧ d.r.loops = c.r.save.loops ∧ d.r.inHandler = false ∧
      d.links = c.r.save.links ∧ d.bun.nextSkip = c.r.donemask ∧ d.bun.nextAft = c.r.save.aft ∧ d.r.sreg = c.r.sreg ∧
      d.r.vreg = c.r.vreg ∧ d.r.pred = c.r.pred ∧ d.r.latch = c.r.latch ∧
      (s.completeBundle cid).mem = s.mem ∧ SameCtxBut cid s (s.completeBundle cid)) ∧
  (∀ (c : Ctx) (t : TrapInfo) (pc : Word) (done : BitVec 10) (aft : After), c.r.trapvec ≠ 0 → c.r.inHandler = false →
    let d := (c.takeTrap t pc done aft).doEret
    d.r.pc = pc ∧ d.r.transfers = c.r.transfers ∧ d.r.loops = c.r.loops ∧ d.bun.nextSkip = done ∧ d.r.inHandler = false ∧
      d.bun.nextAft = aft ∧ d.links = c.links ∧
      d.r.sreg = c.r.sreg ∧ d.r.vreg = c.r.vreg ∧ d.r.pred = c.r.pred ∧ d.r.xflags = c.r.xflags)

/-! ### Decoding and the step -/

/-- R63, R69: where a slot is next to issue in a context that issues alone, no comparator stops it and no lane budget
breach traps it, the step runs the instruction that its word decodes to, and then ends the issue if it was the last slot;
a word that decodes to no instruction is an illegal slot. The next event of the agenda runs as exec says.
That slots and events run one by one is the model's choice (log entry 3). -/
def Obligations.StepRunsTheDecodedInstruction : Prop :=
  (∀ (s : State) (w : SlotWord) (rest : List SlotWord), s.on = true → s.halted = false → s.issue = w :: rest →
    s.gangOf w.cid = [w.cid] → breakAt (atSlot s w rest) w = none → laneStop (atSlot s w rest) w = none →
    (∀ i, decodeSlot (kindOfSlot w.slot) w.bits = some i → ∀ t, exec i (atSlot s w rest) = .next t →
      step s = .next t.finishIssue) ∧
    (decodeSlot (kindOfSlot w.slot) w.bits = none → step s = .next (atSlot s w rest).illegalSlot.finishIssue)) ∧
  (∀ (s : State) (e : Instr) (rest : List Instr), s.on = true → s.halted = false → s.issue = [] → s.agenda = e :: rest →
    step s = exec e { s with agenda := rest })

/-- R69 to R80: every well-formed instruction of a slot decodes, from its encoding, to itself: no bit of an operand is
dropped, and no two instructions of a slot kind share a word. -/
def Obligations.DecodingInvertsEncoding : Prop :=
  ∀ (i : Instr) (k : SlotKind) (w : Nat), i.wf = true → encodeSlot i = some (k, w) → decodeSlot k w = some i

/-- Words written out from the encoding tables of the spec decode to the instructions they stand for (R72 to R80), and
reserved ones to none. -/
def Obligations.WrittenOutWordsDecode : Prop :=
  decodeSlot .s 0x0021C082 = some (.add ⟨0, 0, 7, 1, 2⟩) ∧
  decodeSlot .s 0x1E000004 = some (.br ⟨3, 4⟩) ∧
  decodeSlot .f 0x008A5A = some (.fexpF64 ⟨0, 0, 10, 11, 2⟩) ∧
  decodeSlot .s 0x07E00000 = none

/-- The canonical form of memory is an invariant of the step: from every state whose memory has it, the step answers a
state whose memory has it.
The form is the model's own (log entry 2). -/
def Obligations.StepKeepsMemoryCanonical : Prop := ∀ s t : State, MemOk s → step s = .next t → MemOk t

/-- R60, R376: the state after reset: powered, every context free, memory with nothing listed and in its canonical form,
and the registers that R60 names at the values it gives.
That a free context holds these values from reset on is the model's choice (log entry 1). -/
def Obligations.ResetState : Prop :=
  MemOk State.reset ∧ State.reset.mem = [] ∧ State.reset.on = true ∧ State.reset.halted = false ∧
  (∀ cid, (State.reset.ctx cid).status = .free ∧
    let r := (State.reset.ctx cid).r
    (∀ n, r.readS n = SVal.mkOk 0) ∧ (∀ n, r.readV n = VVal.zero) ∧ (∀ p, r.readPred p = decide (p = 0)) ∧
      r.xflags = 0 ∧ r.xtrapen = 0 ∧ r.rmode = 0 ∧ r.trapvec = 0 ∧ r.deadline = BitVec.ofNat 64 (2 ^ 64 - 1))

/-- R58: s0 reads as a valid 0 whatever was written, and every other register reads what was written last; a write leaves
every other register alone. -/
def Obligations.ZeroRegister : Prop :=
  ∀ (r : Regs) (n m : BitVec 6) (v : SVal), (r.writeS n v).readS 0 = SVal.mkOk 0 ∧ r.writeS 0 v = r ∧
    (n ≠ 0 → (r.writeS n v).readS n = v) ∧ (m ≠ n → (r.writeS n v).readS m = r.readS m)

/-- R81, R163: no slot's instruction writes memory when it executes: stores and the records of `rot.sav` wait in their queues. -/
def Obligations.SlotsWriteNoMemory : Prop :=
  ∀ (i : Instr) (g : BitVec 5) (s t : State), guardField i = some g → exec i s = .next t → t.mem = s.mem

/-! ### Events of a context -/

/-- R63, R219, R349, R65: a ready context's bundle begins to issue: alone in its core from either slot, merged with that of
slot A, at its stamp, or as an empty one. A context that resumes begins to count its landings then (R223). A bundle whose
stamp has passed raises the overrun fault. R348: a deterministic task that has no turn on its physical core, or is a frame ahead
of another task of its node, does not issue; which of several tasks has the turn is the model's choice (log entry 30).
That the slots then issue one by one is the model's choice (log entry 3), and that the link of a `call` is made good when its
second delay bundle begins is the model's reading of R95 (log entry 27). -/
def Obligations.BundlesBeginToIssue : Prop :=
  (∀ (core cid : Nat) (f : Fetch) (s : State), s.mayIssue core = true → Alone s cid → s.turnOf cid = .issue f →
    (cid = 2 * core ∧ s.turnOf (2 * core + 1) = .idle) ∨ (cid = 2 * core + 1 ∧ s.turnOf (2 * core) = .idle) →
    ∃ t, exec (.bundleIssue core) s = .next t.finishIssue ∧ Begins s t cid f) ∧
  (∀ (core : Nat) (fa fb : Fetch) (s : State), s.mayIssue core = true → Alone s (2 * core) → Alone s (2 * core + 1) →
    s.turnOf (2 * core) = .issue fa → s.turnOf (2 * core + 1) = .issue fb → (s.core core).forced = false →
    s.conflict (2 * core) (2 * core + 1) fa fb = false →
    ∃ t, exec (.bundleIssue core) s = .next t.finishIssue ∧
      t.issue = slotsOf (2 * core) fa (s.ctx (2 * core)).bun.nextSkip ++
        slotsOf (2 * core + 1) fb (s.ctx (2 * core + 1)).bun.nextSkip ∧
      t.issuing = [2 * core, 2 * core + 1] ∧ t.mem = s.mem ∧ Starts s t (2 * core) fa ∧ Starts s t (2 * core + 1) fb) ∧
  (∀ (core : Nat) (f : Fetch) (s : State), s.mayIssue core = true → Single s (2 * core) →
    (s.ctx (2 * core)).resumed = true → s.turnOf (2 * core) = .issue f → s.turnOf (2 * core + 1) = .idle →
    exec (.bundleIssue core) s = .next (s.modCtx (2 * core) fun c =>
      { c with resumed := false, r := c.r.fromOffsets (s.core core).cc, bun := { c.bun with after := (s.core core).cc } })) ∧
  (∀ (cid : Nat) (f : Fetch) (s : State), s.mayIssue (coreOf cid) = true → Alone s cid → s.turnOf cid = .stamped f →
    ∃ t, exec (.detStampIssue cid) s = .next t.finishIssue ∧ Begins s t cid f) ∧
  (∀ (cid : Nat) (x : Nat × Ctx) (s : State), Single s (2 * coreOf cid) → s.missCycle (coreOf cid) = none →
    (s.ctx cid).status = .running → (s.ctx cid).bind.det = true →
    s.hasTurn cid = false ∨ ((s.ctx cid).preempt = false ∧ x ∈ s.detRunning cid ∧
      x.2.r.frameTime / (s.ctx cid).bind.frame < (s.ctx cid).r.frameTime / (s.ctx cid).bind.frame) →
    exec (.bundleIssue (coreOf cid)) s = .next s ∧ exec (.detStampIssue cid) s = .next s) ∧
  (∀ (cid : Nat) (s : State), s.mayIssue (coreOf cid) = true → s.turnOf cid = .late →
    exec (.detStampIssue cid) s = .next (s.placeTrap cid ⟨7, 0, 0, 0, 0⟩)) ∧
  (∀ (core : Nat) (f : Fetch) (s : State), s.mayIssue core = true → Alone s (2 * core) → f.word % 2 ^ 352 = 0 →
    s.turnOf (2 * core) = .issue f → s.turnOf (2 * core + 1) = .idle →
    ∃ t : State, exec (.emptyBundle (2 * core)) s = .next t.finishIssue ∧ t.issue = [] ∧ t.issuing = [2 * core] ∧
      t.mem = s.mem ∧ Starts s t (2 * core) f)

/-- R52, R53, R100, R106, R228, R229, R232: windows, waits, the generator, dictionary loads and checkpoints come to their
end. -/
def Obligations.ContextEventsHappen : Prop :=
  (∀ (core : Nat) (s : State), (s.core core).settle = 1 →
    ∃ t, exec (.settleWindowEnd core) s = .next t ∧ (t.core core).settle = 0 ∧ t.ctxs = s.ctxs ∧ t.mem = s.mem) ∧
  (∀ (cid : Nat) (s : State), (s.ctx cid).status = .running → (s.ctx cid).r.waitTo ≠ 0 →
    (s.ctx cid).r.waitTo ≤ (s.core (coreOf cid)).cc →
    exec (.waitExpiry cid) s = .next (s.modRegs cid fun r => { r with waitTo := 0, waited := r.waitTo })) ∧
  (∀ (cid : Nat) (s : State), 0 < (s.ctx cid).r.rngDue → 64 ≤ (s.ctx cid).r.rng.length →
    exec (.rngPush cid) s = .next (s.modRegs cid fun r => { r with rngDue := r.rngDue - 1 })) ∧
  (∀ (cid : Nat) (s : State), 0 < (s.ctx cid).r.rngDue → (s.ctx cid).r.rng.length < 64 →
    let r := (s.ctx cid).r
    let x := (r.g1 * 5).rotateLeft 7 * 9
    ∃ t, exec (.rngPush cid) s = .next t ∧ (t.ctx cid).r.rng = r.rng ++ [x.extractLsb' 32 32] ∧
      (t.ctx cid).r.rngDue = r.rngDue - 1 ∧ (t.ctx cid).r.g0 = r.g0 ^^^ (r.g3 ^^^ r.g1) ∧
      (t.ctx cid).r.g1 = r.g1 ^^^ (r.g2 ^^^ r.g0) ∧ (t.ctx cid).r.g2 = (r.g2 ^^^ r.g0) ^^^ (r.g1 <<< 17) ∧
      (t.ctx cid).r.g3 = (r.g3 ^^^ r.g1).rotateLeft 45) ∧
  (∀ (cid n : Nat) (es : List (BitVec 384)) (s : State), (s.ctx cid).r.dictLoad = .running → s.svcWaits cid 6 = false →
    dictRead s cid (s.ctx cid).r.dictAddr.toNat = .ok (n, es) →
    ∃ t, exec (.dictLoadEnd cid) s = .next t ∧ (t.ctx cid).r.dictLoad = .loaded n ∧
      (t.ctx cid).r.curBank = (s.ctx cid).r.curBank ∧ t.mem = s.mem ∧
      (if (s.ctx cid).r.curBank = true then
        (t.ctx cid).r.bank0 = ⟨(s.ctx cid).r.dictAddr, es⟩ ∧ (t.ctx cid).r.bank1 = (s.ctx cid).r.bank1
      else (t.ctx cid).r.bank1 = ⟨(s.ctx cid).r.dictAddr, es⟩ ∧ (t.ctx cid).r.bank0 = (s.ctx cid).r.bank0)) ∧
  (∀ (cid : Nat) (e : AFault) (s : State), (s.ctx cid).r.dictLoad = .running → s.svcWaits cid 6 = false →
    dictRead s cid (s.ctx cid).r.dictAddr.toNat = .error e →
    (e.trans = true → exec (.dictLoadEnd cid) s = .next ((s.noteMiss 0 cid e.va).postFault cid 6 .read 0 e)) ∧
    (e.trans = false → ∃ t, exec (.dictLoadEnd cid) s = .next t ∧ (t.ctx cid).r.dictLoad = .faulted 6 e.va false ∧
      t.mem = s.mem)) ∧
  (∀ (cid : Nat) (s : State), s.ckptDue cid = true → s.issueCores = [] →
    ∃ t, exec (.checkpointTake cid) s = .next t ∧
      (t.ctx cid).ckpt = some ⟨(s.ctx cid).r, s.bankFmts cid, (s.ctx cid).links, (s.core (coreOf cid)).cc⟩ ∧
      (t.ctx cid).r = (s.ctx cid).r ∧ (t.ctx cid).ival.undoRows = [] ∧ (t.ctx cid).ival.loads = [] ∧
      (t.ctx cid).ival.startSeq = (s.ctx cid).seq ∧ (t.ctx cid).ival.unprotected = false ∧ (t.ctx cid).ckWant = false ∧
      t.mem = s.mem) ∧
  (∀ (cid : Nat) (s : State), s.unprotDue cid = true →
    ∃ t, exec (.intervalUnprotected cid) s = .next t ∧ (t.ctx cid).ival.unprotected = true ∧
      (t.ctx cid).ival.undoRows = [] ∧ (t.ctx cid).r.sreg = (s.ctx cid).r.sreg ∧ t.mem = s.mem)

/-- R150, R194, R224, R344: due landings and result words land, in their registers and latches, late ones freeze the core or
raise the overrun fault, boundary traps are taken, and a deadline traps or abandons its task, also one that is bound and has
not started, each context of it at its own boundary; a stopped context keeps the event for its resumption. That the oldest of
several boundary traps is taken and the others wait, that a narrow load leaves the words of its latch beyond its width invalid,
and where the contexts of a gang and a bound or stopped context are abandoned are the model's readings (log entries 40, 7, 18 and
92). -/
def Obligations.BoundaryEventsHappen : Prop :=
  (∀ (cid : Nat) (q : MReq) (rest : List MReq) (s : State), s.dueReq cid = some (q, rest) →
    (q.arrived = true → ∃ t, exec (.mLandingDue cid) s = .next t ∧ (t.ctx cid).r.land = rest ∧ t.mem = s.mem ∧
      SameCtxBut cid s t ∧
      (∀ d size sext, q.dest = .sreg d size sext →
        let v := SVal.whole (extendLoad size sext (q.bytes.map fun b => b.getD 0)) (q.okWords.all fun b => b)
        (d ≠ 0 → (t.ctx cid).r.readS d = v) ∧ (∀ a, a.toNat = q.port → (t.ctx cid).r.latchAt a = .scalar v) ∧
        (∀ m, m ≠ d → (t.ctx cid).r.readS m = (s.ctx cid).r.readS m) ∧ (t.ctx cid).r.vreg = (s.ctx cid).r.vreg) ∧
      (∀ d n, q.dest = .vreg d n →
        let v := VVal.ofList ((wordsOfBytes (q.bytes.map fun b => b.getD 0)).zipWith (fun w ok => ⟨w, ok⟩) q.okWords)
        (∀ i < 32, ((t.ctx cid).r.readV d).word i = if i < n then v.word i else ((s.ctx cid).r.readV d).word i) ∧
        (∀ a, a.toNat = q.port → (t.ctx cid).r.latchAt a = .vector (v.narrow n)) ∧
        (∀ m, m ≠ d → (t.ctx cid).r.readV m = (s.ctx cid).r.readV m) ∧ (t.ctx cid).r.sreg = (s.ctx cid).r.sreg)) ∧
    (q.arrived = false → (s.ctx cid).bind.det = false →
      exec (.mLandingDue cid) s = .next (s.freezeCores cid (some (if q.qn.isSome = true then 12 else 11)))) ∧
    (q.arrived = false → (s.ctx cid).bind.det = true → (s.ctx cid).status ≠ .ending → (s.ctx cid).r.inHandler = false →
      ∃ t, exec (.mLandingDue cid) s = .next t ∧ t.mem = s.mem ∧
        (t.ctx cid).traps = (s.ctx cid).traps ++ [⟨7, q.port, 0, 0, 0⟩] ∧
        ∀ x ∈ (t.ctx cid).r.land, x.id = q.id → x.late = true)) ∧
  (∀ (cid : Nat) (w : TWord) (rest : List TWord) (s : State), s.dueWord cid = some (w, rest) →
    (∀ v, wordValue s cid w = some v → ∃ t, exec (.resultWordDue cid) s = .next t ∧ (t.ctx cid).r.words = rest ∧
      (w.reg ≠ 0 → (t.ctx cid).r.readS w.reg = v) ∧
      (∀ m, m ≠ w.reg → (t.ctx cid).r.readS m = (s.ctx cid).r.readS m) ∧
      (t.ctx cid).r.latch = (if w.b6 = true then (s.ctx cid).r.latch.set 6 (.scalar v) else (s.ctx cid).r.latch) ∧
      t.mem = s.mem ∧ SameCtxBut cid s t) ∧
    (wordValue s cid w = none → (s.ctx cid).bind.det = false →
      exec (.resultWordDue cid) s = .next (s.freezeCores cid (some 11))) ∧
    (wordValue s cid w = none → (s.ctx cid).bind.det = true → (s.ctx cid).status ≠ .ending →
      (s.ctx cid).r.inHandler = false → ∃ t, exec (.resultWordDue cid) s = .next t ∧ t.mem = s.mem ∧
        (t.ctx cid).traps = (s.ctx cid).traps ++ [⟨7, 9, 0, 0, 0⟩])) ∧
  (∀ (cid : Nat) (s : State), s.issueCores = [] → (s.clockCtxs cid).any s.landsNow = false → s.trapDue cid = true →
    Single s cid →
    (∀ b rest, (s.ctx cid).hTraps = [] → (s.ctx cid).traps = b :: rest → (s.ctx cid).r.trapvec ≠ 0 → b.cause < 32 →
      ∃ t, exec (.trapAtBoundary cid) s = .next t ∧ (t.ctx cid).r.pc = (s.ctx cid).r.trapvec ∧
        (t.ctx cid).r.trappc = (s.ctx cid).r.pc ∧ (t.ctx cid).r.inHandler = true ∧ (t.ctx cid).traps = rest ∧
        (t.ctx cid).r.trapcause.toNat % 32 = b.cause ∧ (t.ctx cid).r.trapcause.toNat / 2 ^ 32 % 2 ^ 8 = b.flags.toNat ∧
        (b.cause ≠ 10 → (t.ctx cid).r.trapslot = BitVec.ofNat 4 b.slot) ∧ (t.ctx cid).r.donemask = 0 ∧
        (t.ctx cid).r.save.transfers = (s.ctx cid).r.transfers ∧ (t.ctx cid).r.save.loops = (s.ctx cid).r.loops ∧
        (t.ctx cid).r.sreg = (s.ctx cid).r.sreg ∧ (t.ctx cid).r.vreg = (s.ctx cid).r.vreg ∧ t.mem = s.mem) ∧
    (∀ b rest, (s.ctx cid).hTraps = [] → (s.ctx cid).traps = b :: rest → (s.ctx cid).r.trapvec = 0 →
      ∃ t, exec (.trapAtBoundary cid) s = .next t ∧ (t.ctx cid).status = .ending ∧ t.mem = s.mem) ∧
    (∀ b rest, (s.ctx cid).hTraps = b :: rest → (s.ctx cid).firstFail = none →
      ∃ t, exec (.trapAtBoundary cid) s = .next t ∧ (t.ctx cid).status = .ending ∧
        (t.ctx cid).endInfo.map (·.cause) = some b.cause ∧ t.mem = s.mem)) ∧
  (∀ (cid : Nat) (s : State), (s.ctx cid).r.dlEvent = true → (s.ctx cid).abandoned = false →
    s.atBoundary cid = true →
    ∃ t, exec (.deadlineEvent cid) s = .next t ∧ t.mem = s.mem ∧
      ((s.ctx cid).r.dlTrap = true → (t.ctx cid).r.dlEvent = false ∧
        (t.ctx cid).traps = (s.ctx cid).traps ++ [⟨10, 0, 0, 0, 0⟩]) ∧
      ((s.ctx cid).r.dlTrap = false → ∀ i ∈ s.members cid,
        (s.atBoundary i = true → (t.ctx i).status = .ending ∧
          (t.ctx i).endInfo.map (fun e => (e.status, e.cause, e.inHandler)) = some (4, 10, false)) ∧
        (s.atBoundary i = false → (t.ctx i).abandoned = true ∧ (t.ctx i).status = (s.ctx i).status))) ∧
  (∀ (cid : Nat) (s : State), (s.ctx cid).abandoned = true → s.atBoundary cid = true → cid ∈ s.members cid →
    ∃ t, exec (.deadlineEvent cid) s = .next t ∧ t.mem = s.mem ∧ (t.ctx cid).status = .ending ∧
      (t.ctx cid).endInfo.map (·.status) = some 4) ∧
  (∀ (cid : Nat) (s : State), (s.ctx cid).r.dlEvent = true →
    ((s.ctx cid).status = .stopped → exec (.deadlineEvent cid) s = .next s) ∧
    ((s.ctx cid).status = .running → (s.ctx cid).r.dlTrap = false → s.atBoundary cid = false →
      exec (.deadlineEvent cid) s = .next s) ∧
    ((s.ctx cid).status = .ending → exec (.deadlineEvent cid) s =
      .next (s.modCtx cid fun c => { c with abandoned := false, r := { c.r with dlEvent := false } })))

/-! ### Events of the ordering machine -/

/-- R163, R321 to R326, R374, R375: what the steps of a write's way do: it leaves its queue for its core's buffer, a release
for the buffer of its scope, where level 4 is memory or the remote side, moves outward level by level, and is in memory at its
point of coherence, or with the bridge where that lies on the remote side, which acknowledges it. That the records of one
partition's graphs are acknowledged in their order, and that a completion counter is read and raised in one step, is the
model's choice (log entry 78). -/
def Obligations.WritesMoveOutward : Prop :=
  (∀ (cid pos : Nat) (a : MAcc) (s : State), ((s.dropFences cid).ctx cid).mq[pos]? = some a → a.kind = .store →
    (s.dropFences cid).mayLeave cid a = true →
    ∃ t, exec (.storeLeaveQueue cid pos) s = .next t ∧ (∀ b ∈ (t.ctx cid).mq, b.seq = a.seq → b.kind.isFence = true) ∧
      (a.q = 0 → a.host = false → Wrote s t a.cells) ∧
      (a.q ≠ 0 → t.mem = s.mem ∧ (t.core (coreOf cid)).buf =
        (s.core (coreOf cid)).buf ++ [⟨a.cid, 0, a.seq, a.q, a.ord, a.host, a.cells⟩])) ∧
  (∀ (cid pos : Nat) (a : MAcc) (s : State), ((s.dropFences cid).ctx cid).mq[pos]? = some a → a.kind = .release →
    (s.dropFences cid).mayLeave cid a = true →
    ∃ t, exec (.storeLeaveQueue cid pos) s = .next t ∧ (∀ b ∈ (t.ctx cid).mq, b.seq = a.seq → b.kind.isFence = true) ∧
      let w : BufWrite := ⟨a.cid, 0, a.seq, a.q, a.ord, a.host, a.cells⟩
      (a.q ≤ a.scope → a.host = false → Wrote s t a.cells) ∧
      (a.q ≤ a.scope → a.host = true → 4 ≤ a.q → Wrote s t a.cells ∧ t.hub.bridge = s.hub.bridge) ∧
      (a.q ≤ a.scope → a.host = true → a.q < 4 → t.mem = s.mem ∧ t.hub.bridge = s.hub.bridge ++ [w]) ∧
      (a.scope < a.q → t.mem = s.mem ∧
        (a.scope = 0 → (t.core (coreOf cid)).buf = (s.core (coreOf cid)).buf ++ [w]) ∧
        (a.scope = 1 → (t.clu (clusterOf (coreOf cid))).buf = (s.clu (clusterOf (coreOf cid))).buf ++ [w]) ∧
        (a.scope = 2 → (t.die (dieOf (coreOf cid))).buf = (s.die (dieOf (coreOf cid))).buf ++ [w]) ∧
        (3 ≤ a.scope → t.hub.pkgBuf = s.hub.pkgBuf ++ [w]))) ∧
  (∀ (cid pos op : Nat) (a : MAcc) (s : State), ((s.dropFences cid).ctx cid).mq[pos]? = some a → a.kind = .atomic op →
    a.q ≠ 0 → (s.dropFences cid).mayLeave cid a = true →
    ∃ t, exec (.storeLeaveQueue cid pos) s = .next t ∧ (∀ b ∈ (t.ctx cid).mq, b.seq = a.seq → b.kind.isFence = true) ∧
      t.mem = s.mem ∧ (t.clu (clusterOf (coreOf cid))).atomQ = (s.clu (clusterOf (coreOf cid))).atomQ ++ [a]) ∧
  (∀ (unit pos : Nat) (w : BufWrite) (rest : List BufWrite) (s : State), takeWrite (s.core unit).buf pos = some (w, rest) →
    ∃ t, exec (.writeMoveOutward 0 unit pos) s = .next t ∧ (t.core unit).buf = rest ∧ (w.q ≤ 1 → w.host = false → Wrote s t w.cells) ∧
      (1 < w.q → t.mem = s.mem ∧ (t.clu (clusterOf unit)).buf = (s.clu (clusterOf unit)).buf ++ [w])) ∧
  (∀ (unit pos : Nat) (w : BufWrite) (rest : List BufWrite) (s : State), takeWrite (s.clu unit).buf pos = some (w, rest) →
    ∃ t, exec (.writeMoveOutward 1 unit pos) s = .next t ∧ (t.clu unit).buf = rest ∧ (w.q ≤ 2 → w.host = false → Wrote s t w.cells) ∧
      (2 < w.q → t.mem = s.mem ∧ (t.die (unit / 32)).buf = (s.die (unit / 32)).buf ++ [w])) ∧
  (∀ (unit pos : Nat) (w : BufWrite) (rest : List BufWrite) (s : State), takeWrite (s.die unit).buf pos = some (w, rest) →
    ∃ t, exec (.writeMoveOutward 2 unit pos) s = .next t ∧ (t.die unit).buf = rest ∧ (w.q ≤ 3 → w.host = false → Wrote s t w.cells) ∧
      (3 < w.q → t.mem = s.mem ∧ t.hub.pkgBuf = s.hub.pkgBuf ++ [w])) ∧
  (∀ (pos : Nat) (w : BufWrite) (rest : List BufWrite) (s : State), takeWrite s.hub.pkgBuf pos = some (w, rest) →
    ∃ t, exec (.writeToMemory pos) s = .next t ∧ t.hub.pkgBuf = rest ∧ (w.host = false → Wrote s t w.cells) ∧
      (w.host = true → t.mem = s.mem ∧ t.hub.bridge = s.hub.bridge ++ [w])) ∧
  (∀ (pos : Nat) (w : BufWrite) (rest : List BufWrite) (s : State), takeWrite s.hub.bridge pos = some (w, rest) →
    (w.ofHub = false → ∃ t, exec (.remoteAcknowledge pos) s = .next t ∧ t.hub.bridge = rest ∧
      (w.cls ≠ 9 → Wrote s t w.cells)) ∧
    (w.ofHub = true → (∃ x ∈ s.hub.bridge.take pos, x.cid = w.cid) → exec (.remoteAcknowledge pos) s = .next s) ∧
    (w.ofHub = true → (∀ x ∈ s.hub.bridge.take pos, x.cid ≠ w.cid) → w.cls = 9 → queueOf s (w.cid - 2 ^ 40) (w.seq / 65536) =
      none → ∃ t, exec (.remoteAcknowledge pos) s = .next t ∧ t.hub.bridge = rest ∧
        let ks := w.cells.map (·.1)
        Wrote s t (ks.zip (leBytes 4 (leNat (ks.map (memGet s.mem)) + 1)))))

/-- R161, R162, R163, R289, R323, R324, R326, R345, R346, R351: loads, acquires and atomics perform, data arrives, a pop takes
the oldest element of its stream, and engines' single accesses perform, those of deterministic contexts in key order. -/
def Obligations.AccessesPerform : Prop :=
  (∀ (cid pos : Nat) (a : MAcc) (s : State) (i : Instr), ((s.dropFences cid).ctx cid).mq[pos]? = some a →
    ((i = .loadPerform cid pos ∧ a.kind = .load) ∨ (i = .acquirePerform cid pos ∧ a.kind = .acquire)) →
    (s.dropFences cid).mayPerform cid a = true →
    ∃ t, exec i s = .next t ∧ t.mem = s.mem ∧ (∀ b ∈ (t.ctx cid).mq, b.seq = a.seq → b.kind.isFence = true) ∧
      (t.ctx cid).r.land = (s.ctx cid).r.land.map fun q => if q.id = a.req then
        q.fillAll (a.locs.map fun l => (l.1, (s.dropFences cid).loadByte cid a.seq l.2)) else q) ∧
  (∀ (cid req : Nat) (s : State), (∀ q ∈ (s.ctx cid).r.land, q.id = req → q.qn = none) →
    ∃ t, exec (.mDataArrival cid req) s = .next t ∧ t.mem = s.mem ∧
      (t.ctx cid).r.land = (s.ctx cid).r.land.map fun q =>
        if q.id = req ∧ q.bytes.all Option.isSome = true ∧
            (q.from_ ≤ (s.core (coreOf cid)).beats ∨ (s.ctx cid).status = .stopped) then { q with arrived := true } else q) ∧
  (∀ (cid n req : Nat) (q x : MReq) (rest : List MReq) (st : Stream) (e : List VWord) (es : List (List VWord)) (s : State),
    (s.ctx cid).r.land.find? (fun q => q.id == req) = some q → q.qn = some n → (s.ctx cid).r.pops n = x :: rest →
    s.blockedAt cid 1 x.seq false = false → (s.ctx cid).r.stream n = some st → st.elems = e :: es →
    ∃ t, exec (.mDataArrival cid req) s = .next t ∧ t.mem = s.mem ∧
      (∀ y ∈ (t.ctx cid).r.land, y.id = x.id → y.bytes = elemBytes e ∧ y.arrived = true) ∧
      (t.ctx cid).r.stream n = (if st.closed = true ∧ es = [] then none else some { st with elems := es })) ∧
  (∀ (cid pos op : Nat) (a : MAcc) (s : State) (i : Instr), (s.dropFences cid).atomicAt cid pos = some a →
    a.kind = .atomic op → (a.operands.Pairwise fun x y => x.1 + 4 ≤ y.1 ∨ y.1 + 4 ≤ x.1) → MemOk s →
    (s.dropFences cid).atomicHere cid pos a = true → pos < 2000 →
    ((i = .atomicPerform cid pos ∧ (s.ctx cid).bind.det = false) ∨ (i = .keyedPerform cid pos ∧ (s.ctx cid).bind.det = true ∧
      (s.dropFences cid).frameReached cid ((s.ctx cid).keyTime a.key + 64) = true ∧
      (s.dropFences cid).earlierAtomic cid a = false)) →
    ∃ t, exec i s = .next t ∧
      (∀ o ∈ a.operands, memGetBytes t.mem o.1 4 = leBytes 4 (atomNew op (leNat (memGetBytes s.mem o.1 4)) o.2)) ∧
      SameMemBut (fun y => ∃ o ∈ a.operands, o.1 ≤ y ∧ y < o.1 + 4) s t ∧
      (t.ctx a.cid).r = (s.ctx a.cid).r.fillReq a.req (a.locs.map fun l => (l.1, memGet s.mem l.2))) ∧
  (∀ (cid pos : Nat) (k : Copy) (s : State) (i : Instr), (s.ctx cid).copies[pos]? = some k → copyReady s cid k = true →
    pos < 1000 →
    ((i = .engineAccessPerform cid 1 pos ∧ (s.ctx cid).bind.det = false) ∨ (i = .keyedPerform cid (2000 + pos) ∧
      (s.ctx cid).bind.det = true ∧ s.frameReached cid ((s.ctx cid).keyTime k.cmd.key + 64) = true ∧
      earlierCopy s k = false)) →
    ∃ t, exec i s = .next t ∧ t = copyStep s cid pos k ∧
      let inp : Bool := k.streams.any fun q => decide (q < 8)
      let row : Int := ((turned k.cmd (elemAt k.cmd k.pos)).1 : Int) * k.cmd.dstr
      ∀ sts fl, (k.held = none ∨ (s.ctx cid).status ≠ .ending) → (k.pos = 0 → copyBad k = none) →
        elemStretches s { k with held := none } = .ok (sts, fl) → (s.ctx cid).r.enabled fl = 0 →
        let u := s.noteSpans cid (copySpans { k with held := none } sts)
        (inp = true ∨ ∃ w, copyWrites u 1 cid k.cmd.seq
          (sts.map fun st => stretchPut u cid (addrPlus k.cmd.b (row + st.1)) st) = .ok w) →
        (t.ctx cid).copies[pos]?.map (fun x => (x.pos, x.flags)) = some (k.pos + 1, k.flags ||| fl) ∧
          (inp = true → t.mem = s.mem)) ∧
  (∀ (cid pos : Nat) (a : AsLd) (ls : List Loc) (s : State) (i : Instr), MemOk s → (s.ctx cid).asLds[pos]? = some a →
    ((i = .engineAccessPerform cid 7 pos ∧ (s.ctx cid).bind.det = false) ∨ (i = .keyedPerform cid (3000 + pos) ∧
      (s.ctx cid).bind.det = true ∧ s.frameReached cid ((s.ctx cid).keyTime a.cmd.key + 64) = true ∧
      earlierAs s a = false)) →
    asReady s cid a = true → (a.held = none ∨ (s.ctx cid).status ≠ .ending) →
    let va := (a.cmd.a.toNat + 64 * a.granules) % 2 ^ 64
    let u := s.noteWalk cid va
    let key := kAngle (dieOf (coreOf cid)) (a.cmd.b.toNat - Config.windowK + 64 * a.granules)
    (a.status = none → readPhase u (dieOf (coreOf cid)) = false) →
    locateAll u cid .read va 64 = .ok ls → (∀ l ∈ ls, l.region = 8) →
    ∃ t, exec i s = .next t ∧
      memGetBytes t.mem key 64 = ls.map (fun l => u.readByte (coreOf cid) 3 l.key) ∧
      SameMemBut (fun y => key ≤ y ∧ y < key + 64) s t ∧
      (t.ctx cid).asLds[pos]?.map (·.granules) = some (a.granules + 1)) ∧
  (∀ (cid pos : Nat) (c : Cmd) (rest : List Cmd) (s : State), (s.ctx cid).hCmds = c :: rest →
    (∀ k < 8, (s.dropFences cid).classDone cid k c.seq 3 = true) →
    ∃ t, exec (.engineAccessPerform cid 8 pos) s = .next t ∧ (t.ctx cid).hCmds = rest ∧ WordReady t cid c.req)

/-! ### Events of the engines -/

/-- R185, R189, R193, R195 to R197, R214, R215: the array starts its next command, discards it with an invalid result word or
holds it for the fault service, does a step of it, holds it on an enabled flag, a solve with its best iterate and norm in the
x buffer, continues it, and ends it with its flags and its result word; an operation that an FP trap holds at the end of its
task is dropped and reported (R108; log entry 71: the model's reading); the sequencer transitions, ends its running command,
and ends at a NOP entry that is its own successor. -/
def Obligations.ArrayEventsHappen : Prop :=
  (∀ (core : Nat) (c : Cmd) (rest : List Cmd) (s : State), (s.core core).run = none →
    (s.core core).heldOps = [] → (s.core core).engQ = c :: rest → engOver s c.cid = false →
    s.blockedAt c.cid c.engClass c.seq false = false → s.accWaits c = false → s.savWaits c = false → gangHolds s c.cid = false →
    s.engPaused c.cid = false →
    let d := c.atStart s
    let begun := if d.op = 9 then rstStart s d else engStart s d
    (∀ o, begun = .ok o →
      ∃ t, exec (.engineOpStart core) s = .next t ∧ (t.core core).run = some o ∧ (t.core core).engQ = rest) ∧
    (∀ e, begun = .error e → e.trans = false →
      ∃ t, exec (.engineOpStart core) s = .next t ∧ (t.core core).run = none ∧ (t.core core).engQ = rest ∧
        WordIs t d.cid d.req noValue ∧ t.mem = s.mem) ∧
    (∀ e, begun = .error e → e.trans = true →
      ∃ t, exec (.engineOpStart core) s = .next t ∧ (t.core core).run = none ∧ (t.core core).engQ = rest ∧
        (t.core core).heldOps.map (·.heldWhy) = [3] ∧ (gangRuns s d = [] → t.mem = s.mem))) ∧
  (∀ (core : Nat) (o : EngOp) (ps : List EngOp) (s : State), (s.core core).run = none → (s.core core).heldOps = o :: ps →
    engOver s o.cmd.cid = false → heldReady s o = true → ((s.ctx o.cmd.cid).status = .ending → o.heldWhy ≠ 2) →
    (o.heldWhy ≠ 3 → ∃ t, exec (.engineOpStart core) s = .next t ∧
      (t.core core).run = some { o with heldWhy := 0, entered := false } ∧ (t.core core).heldOps = ps ∧ t.mem = s.mem) ∧
    (∀ p, let u := s.modCore core fun k => { k with heldOps := ps }
      let d := o.cmd.atStart u
      o.heldWhy = 3 → (if d.op = 9 then rstStart u d else engStart u d) = .ok p →
      ∃ t, exec (.engineOpStart core) s = .next t ∧ (t.core core).run = some p ∧ (t.core core).heldOps = ps)) ∧
  (∀ (core : Nat) (o : EngOp) (ps : List EngOp) (s : State), (s.core core).run = none → (s.core core).heldOps = o :: ps →
    engOver s o.cmd.cid = false → (s.ctx o.cmd.cid).status = .ending → o.heldWhy = 2 → (s.ctx o.cmd.cid).firstFail = none →
    ∃ t, exec (.engineOpStart core) s = .next t ∧ (t.core core).run = none ∧ (t.core core).heldOps = ps ∧
      WordIs t o.cmd.cid o.cmd.req noValue ∧ t.mem = s.mem ∧
      (t.ctx o.cmd.cid).firstFail.map (fun e => (e.status, e.cause, e.slot)) = some (2, 9, 9)) ∧
  (∀ (core : Nat) (o p : EngOp) (s u : State), (s.core core).run = some o → o.cmd.op ≠ 0x0E → o.finished = false →
    gangWaits s o 0 = false → engWork s o = .ok (u, p) → p.heldWhy = 0 →
    let v := if o.cmd.op = 5 then u.recordFetches o.cmd.cid (linFetches o.cmd o.col) else u
    engOver v p.cmd.cid = false →
    (p.flags &&& (v.ctx p.cmd.cid).r.xtrapen = 0 → (v.ctx p.cmd.cid).r.dlPend = false →
      (v.engPaused p.cmd.cid = false ∨ p.finished = true) →
      ∃ t, exec (.engineInterruptibleStep core) s = .next t ∧ (t.core core).run = some p ∧ t.mem = u.mem) ∧
    (p.flags &&& (v.ctx p.cmd.cid).r.xtrapen ≠ 0 → (v.ctx p.cmd.cid).status = .running →
      (v.ctx p.cmd.cid).r.inHandler = false → core = coreOf p.cmd.cid →
      ∃ t, exec (.engineInterruptibleStep core) s = .next t ∧ (t.core core).run = none ∧
        (t.ctx p.cmd.cid).r.xflags = (v.ctx p.cmd.cid).r.xflags ||| p.flags ∧
        (t.ctx p.cmd.cid).traps = (v.ctx p.cmd.cid).traps ++
          [⟨9, 9, p.flags &&& (v.ctx p.cmd.cid).r.xtrapen, 0, 0⟩])) ∧
  (∀ (o : EngOp) (why b : Nat) (entered : Bool) (v : Solve) (s : State), o.finished = false →
    (slvIn (EngOp.orFlags s o) o.cmd).isSome = true → o.solve = some v → v.bestNorm = some b →
    ((engHold s o why entered).core (coreOf o.cmd.cid)).xbuf = some ⟨v.best, b⟩) ∧
  (∀ (core : Nat) (o : EngOp) (e : AFault) (s : State), (s.core core).run = some o → o.cmd.op ≠ 0x0E → o.finished = false →
    gangWaits s o 0 = false → engWork s o = .error e →
    ∃ t, exec (.engineInterruptibleStep core) s = .next t ∧ (t.core core).run = none ∧
      (e.trans = true → (t.core core).heldOps.head?.map (·.heldWhy) = some 4) ∧
      (e.trans = false → WordIs t o.cmd.cid o.cmd.req noValue)) ∧
  (∀ (core : Nat) (o i j : EngOp) (s u : State), (s.core core).run = some o → o.cmd.op = 0x0E →
    (s.ctx o.cmd.cid).seqr.inner = some i → i.finished = false → s.svcWaits o.cmd.cid 1 = false →
    s.deliveredNow o.cmd.cid = false → gangWaits s i (s.ctx o.cmd.cid).seqr.issued = false → engWork s i = .ok (u, j) →
    ∃ t, exec (.engineInterruptibleStep core) s = .next t ∧ (t.ctx o.cmd.cid).seqr.inner = some j ∧ t.mem = u.mem) ∧
  (∀ (core : Nat) (o : EngOp) (s : State), (s.core core).run = some o → o.finished = true → o.endsLater s = false →
    gangEndWaits s o 0 = false →
    ∃ t, exec (.engineOpEnd core) s = .next t ∧ (t.core core).run = none ∧ WordReady t o.cmd.cid o.cmd.req ∧
      (t.ctx o.cmd.cid).r.xflags = (s.ctx o.cmd.cid).r.xflags ||| o.flags) ∧
  (∀ (core : Nat) (o : EngOp) (e : Nat) (s : State),
    let q := (s.ctx o.cmd.cid).seqr
    (s.core core).run = some o → o.cmd.op = 0x0E → o.finished = false → q.inner = none → q.prev = some q.at_ →
    q.table[q.at_]? = some e →
    (e / 2 ^ 121 % 2 ^ 7 = 0 → e / 2 ^ 71 % 2 ^ 6 = q.at_ →
      ∃ t p, exec (.seqTransition core) s = .next t ∧ (t.core core).run = some p ∧ p.finished = true ∧
        p.info = q.issued % 2 ^ 16 + q.at_ * 2 ^ 16 ∧ t.mem = s.mem) ∧
    (e / 2 ^ 121 % 2 ^ 7 ≠ 0 ∨ e / 2 ^ 71 % 2 ^ 6 ≠ q.at_ →
      ∃ t, exec (.seqTransition core) s = .next t ∧ (t.ctx o.cmd.cid).seqr.prev = some q.at_ ∧
        (t.ctx o.cmd.cid).seqr.at_ =
          (if seqCond (s.ctx o.cmd.cid) e = true then e / 2 ^ 71 % 2 ^ 6 else e / 2 ^ 65 % 2 ^ 6))) ∧
  (∀ (core : Nat) (o i : EngOp) (s : State), (s.core core).run = some o → o.cmd.op = 0x0E → o.finished = false →
    (s.ctx o.cmd.cid).seqr.inner = some i → i.finished = true → i.endsLater s = false → i.cmd.cid = o.cmd.cid →
    ∃ t, exec (.seqTransition core) s = .next t ∧ (t.ctx o.cmd.cid).seqr.inner = none ∧
      (t.core core).run.map (·.flags) = some (o.flags ||| i.flags) ∧
      (t.ctx o.cmd.cid).r.xflags = (s.ctx o.cmd.cid).r.xflags ||| i.flags)

/-- R162, R245, R247, R306: a copy completes, a stream takes its next element from its copy or its lookup while fewer than 8
wait, or in a stopped context, whose image takes every element (log entry 48: the model's reading), and the oldest push of an
output stream is consumed. -/
def Obligations.CopyEventsHappen : Prop :=
  (∀ (cid pos : Nat) (k : Copy) (s : State), (s.ctx cid).copies[pos]? = some k → workTotal k.cmd ≤ k.pos →
    (k.bytes = [] ∨ k.fills = none) →
    ∃ t, exec (.copyComplete cid pos) s = .next t ∧ (t.ctx cid).copies = (s.ctx cid).copies.eraseIdx pos ∧
      (t.ctx cid).r.xflags = (s.ctx cid).r.xflags ||| k.flags ∧
      (t.ctx cid).copyFlags = (s.ctx cid).copyFlags ++ [(k.cmd.m, k.cmd.seq, k.flags)] ∧ t.mem = s.mem) ∧
  (∀ (cid q i : Nat) (k : Copy) (st : Stream) (s : State), (s.ctx cid).r.stream q = some st → st.output = false →
    st.tag < pkTag → (s.ctx cid).copies.findIdx? (fun k => k.streams.contains q) = some i →
    (s.ctx cid).copies[i]? = some k → k.bytes ≠ [] → (128 ≤ finalBytes k ∨ workTotal k.cmd ≤ k.pos) →
    (st.elems.length < 8 ∨ (s.ctx cid).status = .stopped) →
    ∃ u : State, exec (.streamElementDeliver cid q) s = .next (u.servePop cid q) ∧ u.mem = s.mem ∧
      (u.ctx cid).copies[i]?.map (·.bytes) = some (k.bytes.drop 128) ∧
      (u.ctx cid).r.stream q = some { st with
        elems := st.elems ++ [firstElem (k.bytes.map fun b => b.getD 0)]
        closed := st.closed || decide (workTotal k.cmd ≤ k.pos ∧ k.bytes.length ≤ 128) }) ∧
  (∀ (cid q : Nat) (r : PkRun) (st : Stream) (s : State), (s.ctx cid).r.stream q = some st → st.output = false →
    pkTag ≤ st.tag → (s.die (dieOf (coreOf cid))).pkRun = some r → r.cmd.cid = cid → r.cmd.pkStrm = true →
    r.cmd.pkQn = q → r.out ≠ [] → (128 ≤ r.out.length ∨ r.finished = true) →
    (st.elems.length < 8 ∨ (s.ctx cid).status = .stopped) →
    ∃ u : State, exec (.streamElementDeliver cid q) s = .next (u.servePop cid q) ∧ u.mem = s.mem ∧
      (u.die (dieOf (coreOf cid))).pkRun = some { r with out := r.out.drop 128 } ∧
      (u.ctx cid).r.stream q = some { st with elems := st.elems ++ [firstElem r.out] }) ∧
  (∀ (cid q : Nat) (st : Stream) (s : State), (s.ctx cid).r.stream q = some st → st.output = false →
    8 ≤ st.elems.length → (s.ctx cid).status ≠ .stopped →
    exec (.streamElementDeliver cid q) s = .next (s.servePop cid q)) ∧
  (∀ (cid q i : Nat) (k : Copy) (st : Stream) (e : List VWord) (es : List (List VWord)) (s : State),
    (s.ctx cid).copies.findIdx? (fun k => k.streams.contains (q + 8)) = some i → (s.ctx cid).copies[i]? = some k →
    (s.ctx cid).r.stream q = some st → st.elems = e :: es → pushesReady k = false → k.held = none →
    s.svcWaits cid (copyCls k.cmd) = false → s.blockedAt cid 1 k.cmd.seq false = false →
    s.blockedAt cid 1 (st.seqs.headD 0) false = false →
    let bs := k.pushed ++ e.flatMap fun w => (leBytes 4 w.bits.toNat).map fun b => if w.ok = true then some b else none
    ∃ t, exec (.pushConsumed cid q) s = .next t ∧ t.mem = s.mem ∧ (t.ctx cid).copies[i]? = some { k with pushed := bs } ∧
      (t.ctx cid).r.stream q =
        (if srcTotal k.cmd ≤ bs.length then none else some { st with elems := es, seqs := st.seqs.drop 1 })) ∧
  (∀ (cid q i : Nat) (k : Copy) (st : Stream) (s : State),
    (s.ctx cid).copies.findIdx? (fun k => k.streams.contains (q + 8)) = some i → (s.ctx cid).copies[i]? = some k →
    (s.ctx cid).r.stream q = some st → st.elems = [] → srcTotal k.cmd = 0 →
    ∃ t, exec (.pushConsumed cid q) s = .next t ∧ t.mem = s.mem ∧ (t.ctx cid).r.stream q = none)

/-- R268, R273, R289, R302, R303, R309, R310, R319: the Asterism, the Catalogue, the near-memory units and the angle store
process their next command or row, and end it with its result word.
Which of several contexts' requests comes next is a free choice (log entry 14). The old value of an `nm.fai` is not there
before 640 cycles of its core have passed (R313). -/
def Obligations.UnitEventsHappen : Prop :=
  (∀ (cluster : Nat) (c : Cmd) (s : State), pickFree (s.tick * 4096) (eqNextCands s cluster) = some c →
    ∃ t, exec (.eqRequestProcess cluster) s = .next t ∧ WordReady t c.cid c.req ∧
      (∀ x ∈ (t.clu c.eqClu).eqQ, x.cid = c.cid → x.seq ≠ c.seq) ∧ ∀ x ∈ (t.ctx c.cid).eqOut, x.1 ≠ c.seq) ∧
  (∀ (die : Nat) (c : Cmd) (s : State), (s.die die).pkRun = none →
    pickFree (s.tick * 4096) (pkNextCands s die) = some c →
    ∃ t r, exec (.pkCommandProcess die) s = .next t ∧ (t.die die).pkRun = some r ∧ r.cmd = c ∧
      ∀ x ∈ (t.die die).pkQ, x.cid = c.cid → x.seq ≠ c.seq) ∧
  (∀ (die : Nat) (r : PkRun) (s : State), (s.die die).pkRun = some r → r.finished = false →
    s.svcWaits r.cmd.cid 4 = false → pkPaused s r = false →
    ∃ t, exec (.pkCommandProcess die) s = .next t ∧
      (t.die die).pkRun = some (if r.blk = [] then (pkStart s r).2 else (pkAdvance s r).2)) ∧
  (∀ (die : Nat) (r : PkRun) (s : State), (s.die die).pkRun = some r → r.finished = true → r.out = [] →
    ∃ t, exec (.pkCommandEnd die) s = .next t ∧ (t.die die).pkRun = none ∧ WordReady t r.cmd.cid r.cmd.req ∧
      (t.ctx r.cmd.cid).r.xflags = (s.ctx r.cmd.cid).r.xflags ||| r.flags ∧ t.mem = s.mem) ∧
  (∀ (cid pos : Nat) (n : NCmd) (d : NmDone) (s : State), (s.ctx cid).ncmds[pos]? = some n → n.over = false →
    n.held = none → s.blockedAt cid 5 n.cmd.seq false = false → nmOlder s ((s.ctx cid).ncmds.take pos) n = false →
    nmTry s n = .done d →
    ∃ t, exec (.nmRowPerform cid pos) s = .next t ∧ Wrote s t d.cells ∧
      (t.ctx cid).ncmds[pos]?.map (·.row) = some (n.row + 1) ∧
      (∀ va, d.poisoned = some va → (s.ctx cid).status = .running → (s.ctx cid).r.inHandler = false →
        (t.ctx cid).traps = (s.ctx cid).traps ++ [⟨13, 9, 0, 0, va⟩])) ∧
  (∀ (cid pos : Nat) (n : NCmd) (s : State), (s.ctx cid).ncmds[pos]? = some n →
    ∃ t, exec (.nmAcknowledge cid pos) s = .next t ∧ t.mem = s.mem ∧
      (n.over = true → n.row ≤ n.acked + 1 → n.wordFree s cid = true →
        (t.ctx cid).ncmds = (s.ctx cid).ncmds.eraseIdx pos) ∧
      (n.over = false ∨ n.acked + 1 < n.row ∨ n.wordFree s cid = false →
        (t.ctx cid).ncmds[pos]? = some { n with acked := if n.acked < n.row then n.acked + 1 else n.acked })) ∧
  (∀ (cid pos : Nat) (a : AsLd) (s : State), (s.ctx cid).asLds[pos]? = some a → a.total ≤ a.granules ∨ a.status = some 1 →
    ∃ t, exec (.asLdComplete cid pos) s = .next t ∧ (t.ctx cid).asLds = (s.ctx cid).asLds.eraseIdx pos ∧
      WordReady t cid a.cmd.req ∧ t.mem = s.mem)

/-! ### Gangs, barriers, pre-emption -/

/-- R221 to R223, R249, R253, R255: an arrival at a barrier is counted, and the last of a generation completes it; one whose
participants disagree traps; a context departs; a gang fuses, or traps where the addresses differ, and decouples; a victim
stops, is saved, takes its group's ticket, and resumes.
Whose counters a gang member uses, and that a group of saved tasks takes its ticket when it is the item served, are the
model's readings (log entries 22 and 31). -/
def Obligations.GangAndPreemptionEventsHappen : Prop :=
  (∀ (cid : Nat) (c : Cmd) (rest : List Cmd) (s : State),
    let k := (s.ctx cid).bind.barClu
    let n := c.a.toNat % 16
    let old := (s.clu k).barriers[n]'(Nat.mod_lt _ (by decide))
    takeFirst (fun c => c.cid == cid) (s.clu k).cbarQ = some (c, rest) → cbarReady s c = true →
    (∀ b, old.arrive c.b.toNat c.c.toNat = some b →
      ∃ t, exec (.cbarArrival cid) s = .next t ∧ (t.ctx cid).barrier = some (n, some old.gen) ∧
        (t.clu k).barriers[n]'(Nat.mod_lt _ (by decide)) = b ∧
        (old.arrivals + 1 = b.expected → b.gen = old.gen + 1 ∧ b.arrivals = 0) ∧
        (old.arrivals + 1 ≠ b.expected → b.gen = old.gen ∧ b.arrivals = old.arrivals + 1)) ∧
    (old.arrive c.b.toNat c.c.toNat = none → (s.ctx cid).status = .running →
      (s.ctx cid).r.inHandler = false →
      ∃ t, exec (.cbarArrival cid) s = .next t ∧ (t.ctx cid).barrier = none ∧
        (t.ctx cid).traps = (s.ctx cid).traps ++ [⟨3, 9, 0, 0, 0⟩])) ∧
  (∀ (cid n g : Nat) (s : State),
    let b := (s.clu (s.ctx cid).bind.barClu).barriers[n % 16]'(Nat.mod_lt _ (by decide))
    (s.ctx cid).barrier = some (n, some g) → b.gen ≠ g → ((s.ctx cid).bind.det = true → b.doneAt ≤ (s.ctx cid).r.frameTime) →
    exec (.cbarRelease cid) s = .next (s.modCtx cid fun x => { x with barrier := none })) ∧
  (∀ (leader : Nat) (s : State),
    let l := s.ctx leader
    let ms := s.members leader
    l.bind.gang = true → ms.length = l.bind.gangW * l.bind.gangH →
    (∀ i ∈ ms, (s.ctx i).lineFuse.isSome = true ∧ (s.ctx i).status = .running) →
    ∃ t, exec (.gangFusion leader) s = .next t ∧ t.mem = s.mem ∧ (∀ i ∈ ms, (t.ctx i).lineFuse = none) ∧
      ((∀ i ∈ ms, (s.ctx i).lineFuse = l.lineFuse) → ∀ i ∈ ms, (t.ctx i).fused = true)) ∧
  (∀ (leader : Nat) (s : State),
    let l := s.ctx leader
    let ms := s.members leader
    l.bind.gang = true → ms.length = l.bind.gangW * l.bind.gangH →
    (∀ i ∈ ms, (s.ctx i).lineRejoin = true ∧ (s.ctx i).status = .running) →
    ∃ t, exec (.gangRejoin leader) s = .next t ∧ t.mem = s.mem ∧
      ∀ i ∈ ms, (t.ctx i).fused = false ∧ (t.ctx i).lineRejoin = false) ∧
  (∀ (cid : Nat) (s : State), (s.ctx cid).status = .running → s.issueCores = [] →
    (∀ i ∈ s.gangOf cid, s.stopsHere i = true ∧ (s.ctx i).r.rngDue = 0) →
    ∃ t, exec (.preemptionStop cid) s = .next t ∧ t.mem = s.mem ∧ ∀ i ∈ s.gangOf cid, (t.ctx i).status = .stopped) ∧
  (∀ (cid : Nat) (s : State), (s.ctx cid).status = .stopped → s.imageReady cid = true →
    let p := (s.ctx cid).bind.part
    ∃ t x, exec (.preemptionStop cid) s = .next t ∧ (t.ctx cid).status = .free ∧ t.mem = s.mem ∧
      (t.part p).saved = (s.part p).saved ++ [x] ∧ x.ctx = s.ctx cid) ∧
  (∀ (save cid part : Nat) (p : Part) (ms : List Nat) (s : State),
    s.hub.partOfDie (dieOf (coreOf cid)) = some (part, p) →
    resumePlace s part save = some ms → ms.head? = some cid → ms.Nodup →
    served s part (fun a => a.saved == some save) = true →
    ∃ t, exec (.contextResume save cid) s = .next t ∧
      ∀ e ∈ (groupOf p save).zip ms, ∀ x, p.saved[e.1]? = some x →
        (t.ctx e.2).status = (if x.ctx.status = .ending then .ending else .running) ∧ (t.ctx e.2).r.pc = x.ctx.r.pc ∧ (t.ctx e.2).r.sreg = x.ctx.r.sreg ∧
          (t.ctx e.2).r.vreg = x.ctx.r.vreg ∧ (t.ctx e.2).r.pred = x.ctx.r.pred) ∧
  (∀ (save cid part : Nat) (p : Part) (s : State),
    s.hub.partOfDie (dieOf (coreOf cid)) = some (part, p) →
    resumePlace s part save = none → served s part (fun a => a.saved == some save) = true →
    ∃ t, exec (.contextResume save cid) s = .next t ∧ t.ctxs = s.ctxs ∧ t.mem = s.mem ∧
      (t.part part).nextTicket = (s.part part).nextTicket + 1 ∧
      ∀ x, (t.part part).saved[save]? = some x → x.resv.map (·.ticket) = some (groupResv s part save).ticket)

/-! ### The scheduler -/

/-- R334 to R339: a graph starts or is refused whole; a chosen node is released with all its tiles unbound, and takes its
ticket; contexts are granted, of several that one ticket lacks the lowest core first, classes rise with age, and the victim of
a pre-emption is named. That a deterministic node's z extent is GZ is the model's reading of R350 (log entry 70). -/
def Obligations.GraphEventsHappen : Prop :=
  (∀ (part queue : Nat) (l : Launch) (ns : List Node) (s : State), queue < 16 → s.graph part queue = some l →
    l.started = false → checkGraph s part queue l = .ok ns →
    ∃ t, exec (.graphStart part queue) s = .next t ∧ t.mem = s.mem ∧ t.graph part queue = some { l with started := true, nodes := ns }) ∧
  (∀ (part queue cause first : Nat) (l : Launch) (s : State), queue < 16 → s.graph part queue = some l →
    l.started = false → checkGraph s part queue l = .error (cause, first) →
    ∃ t, exec (.graphStart part queue) s = .next t ∧
      (t.part part).queue queue = ((s.part part).queue queue).drop 1) ∧
  (∀ (part queue node : Nat) (l : Launch) (s : State),
    let n := s.node part queue node
    queue < 16 → s.graph part queue = some l → node < l.nodes.length → n.state = .ready →
    served s part (fun a => a.saved.isNone && a.queue == queue && a.node == node) = true →
    ∃ t, exec (.nodeRelease part queue node) s = .next t ∧ (t.node part queue node).state = .released ∧
      (t.node part queue node).unbound = List.range (n.ent.gx * n.ent.gy * (t.node part queue node).zext) ∧
      (n.ent.flag 4 = false ∨ n.ent.det = true → (t.node part queue node).zext = n.ent.gz) ∧
      (n.ent.flag 4 = true → n.ent.det = false → 0 < n.ent.gz →
        1 ≤ (t.node part queue node).zext ∧ (t.node part queue node).zext ≤ n.ent.gz) ∧
      (n.ent.reserves = true →
        (t.node part queue node).resv.map (·.ticket) = some (s.part part).nextTicket ∧
        (t.part part).nextTicket = (s.part part).nextTicket + 1)) ∧
  (∀ (part cid : Nat) (h : Holder) (s : State),
    let hs := holders s part
    (heldBy hs cid).isSome = false → wantedBy s hs cid = some h → h.queue < 16 →
    (∀ c ∈ slotOrder (partCores (s.part part)), c < cid → h.resv.cls c = h.resv.cls cid → (heldBy hs c).isNone = true →
      wantedBy s hs c ≠ some h) →
    ∃ t, exec (.reservationGrant part cid) s = .next t ∧ t.mem = s.mem ∧ t.ctxs = s.ctxs ∧
      (h.saved = none → (s.node part h.queue h.idx).resv = some h.resv →
        (∃ l, s.graph part h.queue = some l ∧ h.idx < l.nodes.length) →
        (t.node part h.queue h.idx).resv.map (·.granted) = some (h.resv.granted ++ [cid])) ∧
      (∀ i x, h.saved = some i → (s.part part).saved[i]? = some x → x.resv = some h.resv →
        (t.part part).saved[i]?.map (fun x => x.resv.map (·.granted)) = some (some (h.resv.granted ++ [cid])))) ∧
  (∀ (part queue node : Nat) (l : Launch) (s : State),
    let n := s.node part queue node
    queue < 16 → s.graph part queue = some l → node < l.nodes.length →
    ∃ t, exec (.agePromotion part queue node) s = .next t ∧ t.mem = s.mem ∧
      ((n.state = .ready ∨ (n.state = .released ∧ n.unbound ≠ [])) → 2 ≤ n.cls →
        n.since + (s.part part).age ≤ s.hub.ptb →
        (t.node part queue node).cls = n.cls - 1 ∧ (t.node part queue node).since = s.hub.ptb) ∧
      (∀ (i : Nat) (x : Saved), (s.part part).saved[i]? = some x → x.ctx.bind.node = node →
        queueOf s part x.ctx.bind.launch = some queue → 2 + x.boost ≤ n.cls → x.aged + (s.part part).age ≤ s.hub.ptb →
        (t.part part).saved[i]?.map (fun x => (x.boost, x.aged)) = some (x.boost + 1, s.hub.ptb))) ∧
  (∀ (part v : Nat) (s : State),
    let items := (readyItems s part).filter fun a => !a.able && decide (0 < a.lacks)
    let going := (s.ctxs.filter fun x => x.2.bind.part == part && x.2.preempt).length
    let lacks (c : Nat) : Nat := ((items.filter fun a => mayPreempt a.cls c).map (·.lacks)).sum
    let cands := (s.ctxs.filter fun x => x.2.bind.part == part && x.2.status == .running && !x.2.preempt
      && decide (going < lacks (s.nodeOf x.2.bind).cls)).map (·.1)
    cands.find? (fun a => cands.all fun b => a == b || victimBefore s a b) = some v →
    ∃ t, exec (.preemptionRequest part) s = .next t ∧ t.mem = s.mem ∧
      ∀ x ∈ t.ctxs, x.2.status = .running → sameGroup x.2.bind (s.ctx v).bind = true → x.2.preempt = true)

/-- R60, R108, R336, R338, R344, R349: a tile task binds to its contexts with the presets of R60, or is abandoned where its
deadline leaves no count; it starts, those of a co-resident or deterministic node once all are bound; and it ends with its
contexts free. -/
def Obligations.TasksBindStartAndEnd : Prop :=
  (∀ (part queue node cid tile : Nat) (rest ms : List Nat) (l : Launch) (s : State),
    let n := s.node part queue node
    s.graph part queue = some l → n.unbound = tile :: rest → nextPlace s part l.seq node n tile = some ms →
    ms.head? = some cid → ms.Nodup → l.stopped = false → n.state = .released →
    (n.ent.reserves = false → served s part (fun a => a.saved.isNone && a.queue == queue && a.node == node) = true) →
    (deadlinesOk s n.ent ms = true → ∃ t, exec (.taskBind part queue node cid) s = .next t ∧ ∀ c ∈ ms,
      (t.ctx c).status = .bound ∧ (t.ctx c).r.pc = BitVec.ofNat 64 n.ent.kern.code ∧
      bindDeadline s n.ent (s.core (coreOf c)).op = some (t.ctx c).r.deadline ∧
      (t.ctx c).r.readS 1 = SVal.mkOk (BitVec.ofNat 64 (tile % n.ent.gx)) ∧
      (t.ctx c).r.readS 2 = SVal.mkOk (BitVec.ofNat 64 (tile / n.ent.gx % n.ent.gy)) ∧
      (t.ctx c).r.readS 3 = SVal.mkOk (BitVec.ofNat 64 (tile / n.ent.gx / n.ent.gy)) ∧
      (t.ctx c).r.readS 4 = SVal.mkOk (BitVec.ofNat 64 n.ent.args) ∧
      (t.ctx c).r.readS 5 = SVal.mkOk (BitVec.ofNat 64 (n.ent.gx + n.ent.gy * 2 ^ 16 + n.zext * 2 ^ 32)) ∧
      (t.ctx c).r.readS 6 = SVal.mkOk (BitVec.ofNat 64 n.ent.crec) ∧ (t.ctx c).r.readS 7 = SVal.mkOk 0 ∧
      (t.ctx c).r.readV 0 = VVal.zero) ∧
    (deadlinesOk s n.ent ms = false → ∃ t, exec (.taskBind part queue node cid) s = .next t ∧ t.ctxs = s.ctxs)) ∧
  (∀ (cid : Nat) (s : State), (s.ctx cid).status = .bound →
    ((s.ctx cid).bind.coRes = true ∨ (s.ctx cid).bind.det = true → (s.nodeOf (s.ctx cid).bind).unbound = [] ∧
      ∀ x ∈ (s.part (s.ctx cid).bind.part).saved, sameGroup x.ctx.bind (s.ctx cid).bind = false) →
    ∃ t, exec (.taskStart cid) s = .next t ∧ t.mem = s.mem ∧
      ∀ i ∈ startSet s cid, (t.ctx i).status = .running ∧ (t.ctx i).r = (s.ctx i).r) ∧
  (∀ (cid : Nat) (s : State),
    let ms := if (s.ctx cid).bind.gang = true then s.members cid else [cid]
    (s.ctx cid).status = .ending → ms.length = (s.ctx cid).bind.gangW * (s.ctx cid).bind.gangH → (∀ i ∈ ms, (s.ctx i).status = .ending ∧ s.drained i = true) →
    ∃ t, exec (.taskEndComplete cid) s = .next t ∧ ∀ i ∈ ms, (t.ctx i).status = .free)

/-! ### The host, peers and the management of the module -/

/-- R282 to R286, R318, R333, R368, R370 to R372, R374: walks are cached, fault replies resume or deliver and free their
record, invalidations begin and complete, launches enter their queue or are refused, inbound accesses read and write or are
refused, and packets are answered or dropped.
The status bytes and operation codes are the model's (log entry 44), and so is that an access of a peer that the table does not
list, or without the security that the policy asks for, is dropped and logged (log entry 76). -/
def Obligations.HostEventsHappen : Prop :=
  (∀ (die pos : Nat) (w : WalkReq) (s : State), (s.die die).walks[pos]? = some w →
    (∀ k ∈ s.cores, dieOf k.1 = die → k.2.misses = []) →
    let u := s.modDie die fun d => { d with
      walks := d.walks.eraseIdx pos ++ d.walkQ.take 1, walkQ := d.walkQ.drop 1,
      wcache := (walkTables s w.part w.page 3 0 (s.part w.part).root).foldl (pushCap 256) d.wcache }
    ∃ t, exec (.tlbWalkComplete die pos) s = .next t ∧ t.mem = s.mem ∧ t.ctxs = s.ctxs ∧
      (t.die die).walks = (s.die die).walks.eraseIdx pos ++ (s.die die).walkQ.take 1 ∧
      (t.die die).walkQ = (s.die die).walkQ.drop 1 ∧
      (∀ p e, walk u w.part w.page = .page p e → ∀ l ∈ w.cores, ⟨w.part, p.base, p.size, e, p.key⟩ ∈ (t.core l).tlb)) ∧
  (∀ (part : Nat) (msg : List Byte) (f : FaultRec) (s : State),
    (s.part part).faults.find? (fun f => f.num == slice msg 8 8) = some f → slice msg 0 2 = 2 → slice msg 2 1 ≤ 1 →
    ∃ t, exec (.faultReply part msg) s = .next t ∧ t.mem = s.mem ∧
      ((s.part part).faultWaiting = [] →
        (t.part part).faults = (s.part part).faults.filter fun x => x.num != f.num) ∧
      (slice msg 2 1 = 0 → ∀ w ∈ f.waiters, w.2 = 0 → (t.ctx w.1).svcWait = none) ∧
      (slice msg 2 1 = 1 → ∀ c, f.waiters = [(c, 1)] → (s.ctx c).status = .running → (s.ctx c).r.inHandler = false →
        (t.ctx c).traps = (s.ctx c).traps ++ [⟨5, 9, 0, 0, f.va⟩])) ∧
  (∀ (part : Nat) (msg : List Byte) (s : State), (s.part part).dies ≠ [] → slice msg 0 2 = 3 →
    ∃ t, exec (.invalidation part msg) s = .next t ∧ t.mem = s.mem ∧ (t.part part).invals =
      (s.part part).invals ++ [(slice msg 8 8, slice msg 16 8, slice msg 2 1 % 2 == 1)]) ∧
  (∀ (part pos : Nat) (v : Nat × Nat × Bool) (s : State), (s.part part).invals[pos]? = some v →
    translatedPending s part = false →
    ∃ t, exec (.invalidationDone part pos) s = .next t ∧ (t.part part).invals = (s.part part).invals.eraseIdx pos ∧
      t.mem = s.mem ∧ t.ctxs = s.ctxs ∧ (∀ k ∈ t.cores, ∀ e ∈ k.2.tlb, invalHits part v e = false) ∧
      (∀ k ∈ t.clus, ∀ e ∈ k.2.tlb, invalHits part v e = false)) ∧
  (∀ (part : Nat) (msg : List Byte) (s : State), (s.part part).dies ≠ [] → slice msg 0 2 = 1 →
    (launchBad s part msg = true →
      exec (.hostLaunch part msg) s = .next (s.send (launchReply 2 0 (slice msg 24 8)))) ∧
    (launchBad s part msg = false → 64 ≤ ((s.part part).queue (slice msg 2 1)).length →
      exec (.hostLaunch part msg) s = .next (s.send (launchReply 1 0 (slice msg 24 8)))) ∧
    (launchBad s part msg = false → ((s.part part).queue (slice msg 2 1)).length < 64 →
      ∃ t l, exec (.hostLaunch part msg) s = .next t ∧ t.mem = s.mem ∧
        (t.part part).queue (slice msg 2 1) = (s.part part).queue (slice msg 2 1) ++ [l] ∧ l.graph = slice msg 8 8 ∧
        l.scope = 4 ∧
        l.seq = (s.part part).nextSeq ∧ (t.part part).nextSeq = (s.part part).nextSeq + 1 ∧
        t.hub.out = s.hub.out ++ [⟨.sender, launchReply 0 (s.part part).nextSeq (slice msg 24 8)⟩])) ∧
  (∀ (part : Nat) (msg : List Byte) (s : State), slice msg 0 2 ∉ [1, 2, 3] → (s.part part).dies ≠ [] →
    ∃ t, exec (.unknownLaunchMessage part msg) s = .next t ∧ t.mem = s.mem ∧
      t.hub.out = s.hub.out ++ [⟨.sender, leBytes 2 0x80FF ++ List.replicate 62 0⟩]) ∧
  (∀ (part : Nat) (src : Option Nat) (secured : Bool) (addr len : Nat) (s : State), (s.part part).dies ≠ [] →
    (s.part part).takes src secured = true →
    ∃ t, exec (.inboundRmaRead ⟨part, src, secured⟩ addr len) s = .next t ∧ t.mem = s.mem ∧ t.ctxs = s.ctxs ∧
      (2 ^ 32 < len → Answered s t answerUnsupported) ∧
      (len ≤ 2 ^ 32 → t.hub.out = s.hub.out ++ [⟨.sender, match inKeys s part true false addr len with
        | some ks => answerOk :: ks.map (memGet s.mem)
        | none => [answerAccess]⟩])) ∧
  (∀ (part : Nat) (src : Option Nat) (secured : Bool) (addr : Nat) (data : List Byte) (s : State), (s.part part).dies ≠ [] →
    (s.part part).takes src secured = true →
    ∃ t, exec (.inboundRmaWrite ⟨part, src, secured⟩ addr data) s = .next t ∧ t.ctxs = s.ctxs ∧
      (2 ^ 32 < data.length → t.mem = s.mem ∧ Answered s t answerUnsupported) ∧
      (∀ ks, data.length ≤ 2 ^ 32 → inKeys s part false true addr data.length = some ks →
        Wrote s t (ks.zip data) ∧ Answered s t answerOk) ∧
      (data.length ≤ 2 ^ 32 → inKeys s part false true addr data.length = none → t.mem = s.mem ∧ Answered s t answerAccess)) ∧
  (∀ (part : Nat) (src : Option Nat) (secured : Bool) (addr op size operand compare : Nat) (s : State),
    (s.part part).dies ≠ [] → (s.part part).takes src secured = true →
    let ok := src = none ∧ op ≤ 4 ∧ (size = 4 ∨ size = 8) ∧ (op = 4 → size = 4) ∧ addr % size = 0
    ∃ t, exec (.inboundAtomic ⟨part, src, secured⟩ addr op size operand compare) s = .next t ∧ t.ctxs = s.ctxs ∧
      (¬ ok → t.mem = s.mem ∧ Answered s t answerUnsupported) ∧
      (ok → inKeys s part true true addr size = none → t.mem = s.mem ∧ Answered s t answerAccess) ∧
      (∀ ks, ok → inKeys s part true true addr size = some ks →
        let old := leNat (ks.map (memGet s.mem))
        let x := operand % 2 ^ (8 * size)
        Wrote s t (ks.zip (leBytes size (if op < 2 then (old + operand) % 2 ^ (8 * size)
          else if op = 4 then (fAdd fmtF32 .rne (decodeF fmtF32 old) (decodeF fmtF32 x)).bits
          else if op = 2 ∨ old = compare % 2 ^ (8 * size) then x else old))) ∧
        t.hub.out = s.hub.out ++ [⟨.sender, answerOk :: (if op = 1 ∨ op = 4 then [] else leBytes size old)⟩])) ∧
  (∀ (i : Instr) (part : Nat) (src : Option Nat) (secured : Bool) (s : State),
    ((∃ a n, i = .inboundRmaRead ⟨part, src, secured⟩ a n) ∨ (∃ a d, i = .inboundRmaWrite ⟨part, src, secured⟩ a d) ∨
     (∃ a o z x c, i = .inboundAtomic ⟨part, src, secured⟩ a o z x c)) →
    ((s.part part).dies = [] → exec i s = .next s) ∧
    ((s.part part).dies ≠ [] → (secured = false ∧ (s.part part).memSecure = true) ∨
        (∃ a, src = some a ∧ some a ∉ (s.part part).peers.toList) →
      ∃ t, exec i s = .next t ∧ t.mem = s.mem ∧ t.ctxs = s.ctxs ∧ t.hub.out = s.hub.out)) ∧
  (∀ (i : Instr) (part : Nat) (s : State), (s.part part).dies = [] →
    (∃ m, i = .hostLaunch part m ∨ i = .invalidation part m ∨ i = .unknownLaunchMessage part m) → exec i s = .next s) ∧
  (∀ (cid pos : Nat) (a : MAcc) (s : State), pos < 1000 → (s.ctx cid).mq[pos]? = some a → a.host = true →
    a.kind.isLoad = true →
    (s.mayPerform cid a = true → (s.ctx cid).status = .running → (s.ctx cid).r.inHandler = false →
      ∃ t b, exec (.remoteErrorResponse cid pos) s = .next t ∧ t.mem = s.mem ∧
        (t.ctx cid).traps = (s.ctx cid).traps ++ [b] ∧ b.cause = 6 ∧ b.addr = a.va) ∧
    (s.mayPerform cid a = false → exec (.remoteErrorResponse cid pos) s = .next s)) ∧
  (∀ (cid pos : Nat) (a : MAcc) (s : State), pos < 1000 → (s.ctx cid).mq[pos]? = some a → a.host = true →
    a.kind = .release → 4 ≤ a.scope → s.mayLeave cid a = true → (s.ctx cid).status ≠ .ending →
    ∃ t, exec (.remoteErrorResponse cid pos) s = .next t ∧ t.mem = s.mem ∧
      (t.ctx cid).hTraps = (s.ctx cid).hTraps ++ [⟨6, 9, 0, 0, 0⟩]) ∧
  (∀ (cid va i : Nat) (k : Copy) (s : State), va < 2 ^ 64 → i < 2 ^ 60 → remoteVa s cid va = true → (s.ctx cid).copies[i]? = some k →
    k.held = none → (s.ctx cid).status = .running → (s.ctx cid).r.inHandler = false →
    ∃ t, exec (.remoteErrorResponse cid ((3 + 3 * i) * 2 ^ 64 + va)) s = .next t ∧ t.mem = s.mem ∧
      (t.ctx cid).traps = (s.ctx cid).traps ++ [⟨6, 9, 0, 0, va⟩] ∧
      (t.ctx cid).copies[i]? = some { k with held := some (6, va) }) ∧
  (∀ (cid pos : Nat) (s : State), 1000 ≤ pos → pos < 2 ^ 64 → takeWrite s.hub.bridge (pos - 1000) = none →
    exec (.remoteErrorResponse cid pos) s = .next s) ∧
  (∀ (cid pos : Nat) (w : BufWrite) (rest : List BufWrite) (s : State), 1000 ≤ pos → pos < 2 ^ 64 →
    takeWrite s.hub.bridge (pos - 1000) = some (w, rest) → w.cid = cid → w.ofHub = false →
    ∃ t, exec (.remoteErrorResponse cid pos) s = .next t ∧ t.mem = s.mem ∧ t.hub.bridge = rest ∧
      ((s.ctx cid).status ≠ .ending → (t.ctx cid).hTraps = (s.ctx cid).hTraps ++ [⟨6, 9, 0, 0, 0⟩]) ∧
      ((s.ctx cid).status = .ending → (s.ctx cid).firstFail = none →
        (t.ctx cid).firstFail.map (fun e => (e.status, e.cause)) = some (2, 6))) ∧
  (∀ (part answered : Nat) (s : State), s.hub.recovery = true → exec (.unsupportedPacket part answered) s = .next s) ∧
  (∀ (part answered : Nat) (s : State), s.hub.recovery = false →
    ∃ t, exec (.unsupportedPacket part answered) s = .next t ∧ t.mem = s.mem ∧ t.ctxs = s.ctxs ∧
      (answered = 1 → Answered s t answerUnsupported) ∧ (answered ≠ 1 → t.hub.out = s.hub.out))

/-- R360, R369, R376 to R379: attestation, and the messages that the owner key signs, with what each changes once its
signature verifies; one whose signature fails changes nothing and is answered so, and in recovery mode only a firmware image
is heard, one that passes and that the next reset boots.
The signed bytes and status bytes are the model's (log entries 11 and 44), and so is the place of the bit by which a policy asks
for transport security (log entry 76). -/
def Obligations.ManagementMessagesAct : Prop :=
  (∀ (nonce : List Byte) (s : State),
    ∃ t, exec (.attestationRequest nonce) s = .next t ∧ t.mem = s.mem ∧ t.ctxs = s.ctxs ∧ t.hub.out = s.hub.out ++
      [⟨.sender, report s.hub nonce ++ leBytes 4627 (Config.identitySign (Config.sha3 (report s.hub nonce)))⟩]) ∧
  (∀ (key sig : Nat) (s : State), s.hub.recovery = false → s.hub.ownerKey = none →
    ∃ t, exec (.ownerKeyInstall key sig) s = .next t ∧ t.hub.ownerKey = some key ∧ Answered s t answerOk) ∧
  (∀ (key sig : Nat) (s : State), s.hub.recovery = false → s.hub.ownerKey.isSome = true →
    s.hub.signed 1 [key] sig = true →
    ∃ t, exec (.ownerKeyInstall key sig) s = .next t ∧ t.hub.ownerKey = some key ∧ Answered s t answerOk) ∧
  (∀ (part require sig : Nat) (keys : List Nat) (s : State), s.hub.recovery = false →
    s.hub.signed 2 (part :: require :: keys) sig = true →
    ∃ t, exec (.launchPolicyChange part require keys sig) s = .next t ∧ (t.part part).require = require.testBit 0 ∧
      (t.part part).memSecure = require.testBit 1 ∧
      (t.part part).keys = keys.take 8 ∧ Answered s t answerOk) ∧
  (∀ (part slot valid addr sig : Nat) (s : State), s.hub.recovery = false →
    s.hub.signed 3 [part, slot, valid, addr] sig = true →
    ∃ t, exec (.peerTableChange part slot valid addr sig) s = .next t ∧ Answered s t answerOk ∧
      (slot < 16 → (t.part part).peers.toList[slot]? = some (if valid = 1 then some addr else none)) ∧
      (16 ≤ slot → (t.part part).peers = (s.part part).peers)) ∧
  (∀ (sig : Nat) (s : State), s.hub.recovery = false → s.hub.signed 4 [] sig = true →
    ∃ t, exec (.retirementTableClear sig) s = .next t ∧ t.hub.retireTable = [] ∧ t.hub.coreMap = [] ∧
      Answered s t answerOk) ∧
  (∀ (part mask root sig : Nat) (s : State), s.hub.recovery = false → part < 8 → maskDies mask ≠ [] →
    (∀ p ∈ s.hub.parts, p.2.dies = [] ∨ (p.1 ≠ part ∧ ∀ d ∈ p.2.dies, d ∉ maskDies mask)) →
    s.hub.signed 5 [part, mask, root % 2 ^ 64, root / 2 ^ 64] sig = true →
    ∃ t, exec (.partitionForm part mask root sig) s = .next t ∧ (t.part part).dies = maskDies mask ∧
      (s.hub.retireTable = [] → (t.part part).hosts = maskDies mask) ∧
      (t.part part).root = root % 2 ^ 64 ∧ Answered s t answerOk) ∧
  (∀ (part mask root sig : Nat) (s : State), s.hub.recovery = false →
    s.hub.signed 5 [part, mask, root % 2 ^ 64, root / 2 ^ 64] sig = false →
    exec (.partitionForm part mask root sig) s = .next (s.send [answerSignature])) ∧
  (∀ (part sig : Nat) (s : State), s.hub.recovery = false → s.hub.signed 6 [part] sig = true →
    ∃ t, exec (.partitionDissolution part sig) s = .next t ∧ (∀ p ∈ t.hub.parts, p.1 ≠ part) ∧
      (∀ c ∈ t.ctxs, c.2.bind.part = part → c.2.status = .free) ∧ Answered s t answerOk) ∧
  (∀ (domain key sig : Nat) (s : State), s.hub.recovery = false → s.hub.signed 7 [domain, key] sig = true →
    ∃ t, exec (.debugKeyInstall domain key sig) s = .next t ∧
      (t.hub.domain domain).keys = (s.hub.domain domain).keys ++ [key] ∧ Answered s t answerOk) ∧
  (∀ (i : Instr) (k sig : Nat) (ws : List Nat) (s : State), s.hub.recovery = false →
    ((∃ key, i = .ownerKeyInstall key sig ∧ k = 1 ∧ ws = [key] ∧ s.hub.ownerKey.isSome = true) ∨
     (∃ part require keys, i = .launchPolicyChange part require keys sig ∧ k = 2 ∧ ws = part :: require :: keys) ∨
     (∃ part slot valid addr, i = .peerTableChange part slot valid addr sig ∧ k = 3 ∧ ws = [part, slot, valid, addr]) ∨
     (i = .retirementTableClear sig ∧ k = 4 ∧ ws = []) ∨
     (∃ part, i = .partitionDissolution part sig ∧ k = 6 ∧ ws = [part]) ∨
     (∃ domain key, i = .debugKeyInstall domain key sig ∧ k = 7 ∧ ws = [domain, key])) →
    s.hub.signed k ws sig = false → exec i s = .next (s.send [answerSignature])) ∧
  (∀ (which : Nat) (image : List Byte) (version sig : Nat) (s : State), s.hub.recovery = true → which < 3 →
    (s.hub.rollback ≤ version % 2 ^ 16 → Config.sigVerifies Config.rootKey (Config.sha3 image) sig = true →
      ∃ t, exec (.firmwareImage ⟨which, image⟩ version sig) s = .next t ∧
        t.hub.images.toList[which]? = some (some ⟨Config.sha3 image, version % 2 ^ 16, sig⟩) ∧
        t.hub.digests = s.hub.digests ∧ t.hub.versions = s.hub.versions ∧ Answered s t answerOk) ∧
    (version % 2 ^ 16 < s.hub.rollback ∨ Config.sigVerifies Config.rootKey (Config.sha3 image) sig = false →
      exec (.firmwareImage ⟨which, image⟩ version sig) s = .next (s.send [answerSignature]))) ∧
  (∀ (i : Instr) (sig : Nat) (s : State), s.hub.recovery = true →
    ((∃ key, i = .ownerKeyInstall key sig) ∨ (∃ part require keys, i = .launchPolicyChange part require keys sig) ∨
     (∃ part slot valid addr, i = .peerTableChange part slot valid addr sig) ∨ i = .retirementTableClear sig ∨
     (∃ part mask root, i = .partitionForm part mask root sig) ∨ (∃ part, i = .partitionDissolution part sig) ∨
     (∃ domain key, i = .debugKeyInstall domain key sig)) → exec i s = .next s)

/-- R227, R234, R379: challenges, unlocking, locking, and what a session of an unlocked domain does to a context.
That a comparator begins the hold, that a resumed slot passes its comparator once, the register numbers with their validity
bits, and the status byte that answers a refused challenge are the model's (log entries 32, 23, 33 and 44). -/
def Obligations.DebugEventsAct : Prop :=
  (∀ (d : Nat) (s : State), s.hub.recovery = false →
    ((s.hub.domain d).fails < 8 →
      ∃ t, exec (.debugChallengeRequest d) s = .next t ∧ (t.hub.domain d).challenge = some s.hub.nChallenge ∧
        t.hub.nChallenge = s.hub.nChallenge + 1 ∧ t.mem = s.mem) ∧
    (8 ≤ (s.hub.domain d).fails → exec (.debugChallengeRequest d) s = .next (s.send [answerAccess]))) ∧
  (∀ (d sig n k : Nat) (s : State), s.hub.recovery = false → (s.hub.domain d).challenge = some n →
    k ∈ (s.hub.domain d).keys → Config.sigVerifies k (unlockDigest d n) sig = true →
    ∃ t, exec (.debugUnlockAnswer d sig) s = .next t ∧ (t.hub.domain d).unlocked = true ∧ (t.hub.domain d).fails = 0 ∧
      (t.hub.domain d).challenge = none) ∧
  (∀ (d sig : Nat) (s : State), s.hub.recovery = false →
    (∀ n, (s.hub.domain d).challenge = some n → ∀ k ∈ (s.hub.domain d).keys,
      Config.sigVerifies k (unlockDigest d n) sig = false) →
    ∃ t, exec (.debugUnlockAnswer d sig) s = .next t ∧ (t.hub.domain d).unlocked = (s.hub.domain d).unlocked ∧
      (t.hub.domain d).fails = (s.hub.domain d).fails + 1 ∧ (t.hub.domain d).challenge = none) ∧
  (∀ (d : Nat) (s : State),
    ∃ t, exec (.debugRelock d) s = .next t ∧ (t.hub.domain d).unlocked = false ∧
      (∀ c ∈ t.ctxs, d ≠ 0 → c.2.bind.part + 1 = d → c.2.held = false ∧ c.2.dbgStop = none) ∧ t.mem = s.mem) ∧
  (∀ (cid n addr mask : Nat) (s : State), debugOpen s cid = true → n < 4 → (s.ctx cid).status ≠ .free →
    ∃ t, exec (.breakpointComparatorSet cid n addr mask) s = .next t ∧ (t.ctx cid).held = true ∧
      (t.ctx cid).brk.toList[n]? =
        some (if mask % 1024 = 0 then none else some (BitVec.ofNat 64 addr, BitVec.ofNat 10 mask)) ∧
      (t.ctx cid).r = (s.ctx cid).r ∧ t.mem = s.mem) ∧
  (∀ (cid slot : Nat) (pc : Word) (code : BitVec 14) (s : State), (s.ctx cid).dbgStop = some (pc, slot, code) →
    debugOpen s cid = true →
    ∃ t, exec (.debugSessionResume cid) s = .next t ∧ (t.ctx cid).dbgStop = none ∧ (t.ctx cid).r = (s.ctx cid).r ∧
      (t.ctx cid).bun.nextPass = (if 0x3FFC ≤ code.toNat then some slot else (s.ctx cid).bun.nextPass)) ∧
  (∀ (cid reg value : Nat) (s : State), debugOpen s cid = true → (s.ctx cid).dbgStop.isSome = true → reg < 2 ^ 32 →
    let w := BitVec.ofNat 64 value
    let r := (s.ctx cid).r
    ∃ t, exec (.heldContextImageWrite cid reg value) s = .next t ∧ t.mem = s.mem ∧
      (t.ctx cid).r.pc = (if reg = 80 then w else r.pc) ∧
      (t.ctx cid).bun.nextSkip = (if reg = 80 then 0 else (s.ctx cid).bun.nextSkip) ∧
      (t.ctx cid).bun.nextPass = (if reg = 80 then none else (s.ctx cid).bun.nextPass) ∧
      (∀ m : BitVec 6, (t.ctx cid).r.readS m = (if reg < 64 ∧ m = BitVec.ofNat 6 reg ∧ m ≠ 0 then
        ⟨w, !value.testBit 64, !value.testBit 65⟩ else r.readS m)) ∧
      (64 ≤ reg → reg < 80 → (t.ctx cid).r = r.writeP (BitVec.ofNat 4 reg) (w.getLsbD 0)) ∧
      (256 ≤ reg → reg < 65536 → (t.ctx cid).r = r.writeCtl (reg - 256) w) ∧
      (65536 ≤ reg → reg < 65536 + 1024 → ∀ (m : BitVec 5), ∀ i < 32, ((t.ctx cid).r.readV m).word i =
        (if m = BitVec.ofNat 5 ((reg - 65536) / 32) ∧ i = reg % 32 then ⟨BitVec.ofNat 32 value, !value.testBit 32⟩
          else (r.readV m).word i))) ∧
  (∀ (cid i value : Nat) (x : Transfer) (s : State), debugOpen s cid = true → (s.ctx cid).dbgStop.isSome = true → i < 2 ^ 12 →
    (s.ctx cid).r.transfers[i]? = some x →
    ∃ t, exec (.heldContextImageWrite cid (2 ^ 24 + i * 2 ^ 12 + 1) value) s = .next t ∧ t.mem = s.mem ∧
      (t.ctx cid).r = { (s.ctx cid).r with
        transfers := (s.ctx cid).r.transfers.set i { x with target := BitVec.ofNat 64 value } }) ∧
  (∀ (cid e value x : Nat) (s : State), debugOpen s cid = true → (s.ctx cid).dbgStop.isSome = true → e < 2 ^ 12 →
    (s.ctx cid).seqr.table[e]? = some x →
    ∃ t, exec (.heldContextImageWrite cid (14 * 2 ^ 24 + e * 2 ^ 12) value) s = .next t ∧ t.mem = s.mem ∧
      (t.ctx cid).r = (s.ctx cid).r ∧
      (t.ctx cid).seqr.table = (s.ctx cid).seqr.table.set e (x / 2 ^ 64 * 2 ^ 64 + value % 2 ^ 64)) ∧
  (∀ (cid o value k : Nat) (s : State), debugOpen s cid = true → (s.ctx cid).dbgStop.isSome = true →
    imageKey s cid o = some k →
    ∃ t, exec (.heldContextImageWrite cid (2 ^ 32 + o) value) s = .next t ∧ Wrote s t [(k, BitVec.ofNat 8 value)] ∧
      (t.ctx cid).r = (s.ctx cid).r)

/-- R230, R231, R256, R257, R277, R288, R352 to R362, R376: droop, current limit, ballast, temperature, errors, fatal errors,
the dump, reset and the loss of power. What survives, and the arguments of errors, are the model's reading (log entries 10,
34, 46 and 47). R361, R362, R288: a halted module completes its dump, unless another fatal error comes first, and ramps its
ballast down; a module that is halted or off accepts a reset, the loss of power and the collection of a dump, and stops by its
own name where nothing is left to happen. -/
def Obligations.PowerAndErrorEventsAct : Prop :=
  ((∀ (k core : Nat) (s : State), core < 16 →
    let old := (s.clu k).boosts.filter fun t => decide (s.hub.ptb < t + 1024)
    let win := if old.contains s.hub.ptb = true ∨ 64 ≤ old.length ∨ (s.clu k).raised = some s.hub.ptb then old
      else old ++ [s.hub.ptb]
    ∃ t, exec (.droopDetect k core) s = .next t ∧ t.mem = s.mem ∧
      (win.length < 64 ∨ 3 ≤ (s.clu k).lim → (t.clu k).boosts = win ∧ (t.clu k).lim = (s.clu k).lim ∧
        (16 < win.length → ∀ b, win.reverse[16]? = some b → b + 1024 ≤ (t.clu k).quietFrom)) ∧
      (64 ≤ win.length → (s.clu k).lim < 3 → (t.clu k).boosts = [] ∧ (t.clu k).lim = (s.clu k).lim + 1 ∧
        (t.clu k).raised = some s.hub.ptb)) ∧
  (∀ (k : Nat) (s : State), (s.clu k).thr < (s.clu k).lim → (s.clu k).quietFrom + 4096 ≤ s.hub.ptb →
    ∃ t, exec (.currentLimitFall k) s = .next t ∧ (t.clu k).lim = (s.clu k).lim - 1 ∧ (t.clu k).quietFrom = s.hub.ptb) ∧
  (∀ (k busy : Nat) (s : State),
    ∃ t, exec (.ballastPeriod k busy) s = .next t ∧
      (s.clu k).activity + (s.clu k).ballast ≤ (t.clu k).activity + (t.clu k).ballast + 1 ∧
      (s.halted = true → (t.clu k).activity = 0)) ∧
  (∀ (d : Nat) (temps : List Nat) (s : State), (∃ x ∈ temps, 110 ≤ x ∧ x < 256) →
    ∃ t, exec (.thermalReading d temps) s = .next t ∧ t.halted = true) ∧
  (∀ (d : Nat) (temps : List Nat) (s : State), (∀ x ∈ temps, x < 110 ∨ 256 ≤ x) →
    ∃ t, exec (.thermalReading d temps) s = .next t ∧ t.halted = s.halted ∧ t.mem = s.mem ∧
      ∀ i < 32, t.clu (d * 32 + i) = (s.clu (d * 32 + i)).reading (temps.getD i 256)) ∧
  (∀ (i : Instr) (s : State), (i = .watchdogExpiry ∨ ∃ c, i = .fatalError c) →
    ∃ t, exec i s = .next t ∧ t.halted = true ∧ t.mem = s.mem ∧
      (s.halted = false → t.hub.dumping = true ∧ ∀ d < 8, (t.die d).dump.map (·.complete) = some false) ∧
      (s.halted = true → t.hub.dumping = false ∧ t.dies = s.dies)) ∧
  (∀ (s : State), s.halted = true → s.agenda = [] → s.hub.dumping = true →
    ∃ t, step s = .next t ∧ t.halted = true ∧ t.hub.dumping = false ∧ t.mem = s.mem ∧
      ∀ d, (t.die d).dump = (s.die d).dump.map fun x => { x with complete := true }) ∧
  (∀ (d : Nat) (s : State), s.hub.recovery = false →
    ∃ t, exec (.dumpClear d) s = .next t ∧ t.mem = s.mem ∧
      (t.die d).dump = (s.die d).dump.map fun x => { x with complete := false }) ∧
  (∀ (d : Nat) (s : State), s.hub.recovery = true → exec (.dumpClear d) s = .next s) ∧
  (∀ (core kind : Nat) (s : State),
    ∃ t, exec (.correctedError core kind) s = .next t ∧ t.mem = s.mem ∧ t.ctxs = s.ctxs ∧
      (t.core core).corr.toNat = min 65535 ((s.core core).corr.toNat + 1) ∧
      (t.core core).tlb = (if kind = 1 then (s.core core).tlb.drop 1 else (s.core core).tlb) ∧
      (t.clu (clusterOf core)).tlb =
        (if kind = 2 then (s.clu (clusterOf core)).tlb.drop 1 else (s.clu (clusterOf core)).tlb)) ∧
  (∀ (cid : Nat) (s : State), (s.ctx cid).status = .running → (s.ctx cid).ival.unprotected = true →
    (s.ctx cid).firstFail = none →
    ∃ t, exec (.detectedError 0 cid) s = .next t ∧ (t.ctx cid).status = .ending ∧
      (t.ctx cid).endInfo.map (·.cause) = some 15) ∧
  (∀ (cid : Nat) (s : State), (s.ctx cid).status = .running → (s.ctx cid).ival.unprotected = false →
    ∃ t, exec (.detectedError 0 cid) s = .next t ∧ (t.ctx cid).status = .running ∧
      (t.ctx cid).r.pc = (s.ctx cid).r.pc ∧ (t.ctx cid).r.sreg = (s.ctx cid).r.sreg ∧
      (t.ctx cid).rerun.toNat = min 65535 ((s.ctx cid).rerun.toNat + 2)) ∧
  (∀ (w g cid : Nat) (s : State), w = 16 + g → w < 2 ^ 80 → cluGranule g = false →
    ∃ t, exec (.detectedError w cid) s = .next t ∧ g ∈ t.hub.poison ∧ t.mem = s.mem ∧ t.ctxs = s.ctxs) ∧
  (∀ (e cid : Nat) (s : State),
    ∃ t, exec (.detectedError (2 ^ 80 + e) cid) s = .next t ∧ e ∈ (t.clu (clusterOf (coreOf cid))).bad ∧ t.mem = s.mem ∧
      t.ctxs = s.ctxs) ∧
  (∀ (w cid : Nat) (c : Nat) (s : State), (w = 2 ∨ w = 3) → clusterOf (coreOf c) = clusterOf (coreOf cid) →
    (c, s.ctx c) ∈ s.ctxs → (s.ctx c).status ≠ .free → (s.ctx c).firstFail = none →
    ∃ t, exec (.detectedError w cid) s = .next t ∧ (t.ctx c).status = .ending ∧
      (t.ctx c).endInfo.map (·.cause) = some 15) ∧
  (∀ (s : State),
    ∃ t, exec .moduleReset s = .next t ∧ t.on = true ∧ t.halted = false ∧ t.ctxs = [] ∧
      t.hub.retireTable = s.hub.retireTable ∧ t.hub.ownerKey = s.hub.ownerKey ∧
      (t.hub.recovery = false ↔ ∀ i : Fin 3, s.hub.rollback ≤ (s.hub.image i).version ∧
        Config.sigVerifies Config.rootKey (s.hub.image i).digest (s.hub.image i).sig = true) ∧
      ∀ a, memGet t.mem a = (if keptByReset a = true then memGet s.mem a else memDefault a)) ∧
  (∀ (s : State),
    ∃ t, exec .powerOff s = .next t ∧ t.on = false ∧ t.ctxs = [] ∧ t.hub.ownerKey = s.hub.ownerKey ∧
      ∀ a, memGet t.mem a = (if remoteKey a = true then memGet s.mem a else memDefault a))) ∧
  ((∀ (s : State), s.halted = true → s.agenda = [] → s.hub.dumping = false → step s = .fault .halted) ∧
  (∀ (s : State), s.halted = false → s.on = false → s.agenda = [] → s.hub.dumping = false → step s = .fault .poweredOff) ∧
  (∀ (s : State) (e : Instr) (rest : List Instr), s.halted = true → s.agenda = e :: rest → reachesHalted e = false →
    reachesDump e = false → step s = .next { s with agenda := rest }))
end

