-- ==== Sys2Proof/Laws/State.lean ====
section
/-! SUPPORT. What every update of the state does to every field and unit, and sparse maps under a write. -/

namespace Sys2Proof

@[simp] theorem Sparse.getD_set {α : Type} (m : Sparse α) (k j : Nat) (v d : α) :
    (m.set k v).getD j d = if j = k then v else m.getD j d := by
  induction m with
  | nil => by_cases h : j = k <;> simp [Sparse.set, Sparse.getD, h, eq_comm (a := k)]
  | cons c t ih =>
    obtain ⟨a, w⟩ := c
    by_cases ha : a = k
    · subst ha
      by_cases h : j = a <;> simp [Sparse.set, Sparse.getD, h, eq_comm (a := a)]
    · by_cases h : a = j
      · subst h; simp [Sparse.set, Sparse.getD, ha]
      · simp [Sparse.set, Sparse.getD, ha, h, ih]

namespace Machine

/-! ### Reading what was written -/

@[simp] theorem ctx_setCtx (s : State) (i j : Nat) (c : Ctx) :
    (s.setCtx i c).ctx j = if j = i then c else s.ctx j := by simp [State.ctx, State.setCtx]

@[simp] theorem ctx_modCtx (s : State) (i j : Nat) (f : Ctx → Ctx) :
    (s.modCtx i f).ctx j = if j = i then f (s.ctx i) else s.ctx j := by simp [State.modCtx]

@[simp] theorem ctx_modRegs (s : State) (i j : Nat) (f : Regs → Regs) :
    (s.modRegs i f).ctx j = if j = i then { s.ctx i with r := f (s.ctx i).r } else s.ctx j := by simp [State.modRegs]

@[simp] theorem core_modCore (s : State) (l j : Nat) (f : Core → Core) :
    (s.modCore l f).core j = if j = l then f (s.core l) else s.core j := by
  by_cases h : j = l <;> simp [State.core, State.modCore, h]

@[simp] theorem clu_modClu (s : State) (k j : Nat) (f : Cluster → Cluster) :
    (s.modClu k f).clu j = if j = k then f (s.clu k) else s.clu j := by
  by_cases h : j = k <;> simp [State.clu, State.modClu, h]

@[simp] theorem die_modDie (s : State) (d j : Nat) (f : Die → Die) :
    (s.modDie d f).die j = if j = d then f (s.die d) else s.die j := by
  by_cases h : j = d <;> simp [State.die, State.modDie, h]

@[simp] theorem part_modPart (s : State) (p j : Nat) (f : Part → Part) :
    (s.modPart p f).part j = if j = p then f (s.part p) else s.part j := by
  by_cases h : j = p <;> simp [State.part, State.modPart, State.modHub, h]

@[simp] theorem hub_modHub (s : State) (f : Hub → Hub) : (s.modHub f).hub = f s.hub := rfl

@[simp] theorem mem_setMem (s : State) (m : List Host.Cell) : (s.setMem m).mem = m := rfl

/-! ### What an update leaves -/

@[simp] theorem setCtx_on (s : State) (i : Nat) (c : Ctx) : (s.setCtx i c).on = s.on := rfl
@[simp] theorem setCtx_halted (s : State) (i : Nat) (c : Ctx) : (s.setCtx i c).halted = s.halted := rfl
@[simp] theorem setCtx_cores (s : State) (i : Nat) (c : Ctx) : (s.setCtx i c).cores = s.cores := rfl
@[simp] theorem setCtx_clus (s : State) (i : Nat) (c : Ctx) : (s.setCtx i c).clus = s.clus := rfl
@[simp] theorem setCtx_dies (s : State) (i : Nat) (c : Ctx) : (s.setCtx i c).dies = s.dies := rfl
@[simp] theorem setCtx_hub (s : State) (i : Nat) (c : Ctx) : (s.setCtx i c).hub = s.hub := rfl
@[simp] theorem setCtx_mem (s : State) (i : Nat) (c : Ctx) : (s.setCtx i c).mem = s.mem := rfl
@[simp] theorem setCtx_issue (s : State) (i : Nat) (c : Ctx) : (s.setCtx i c).issue = s.issue := rfl
@[simp] theorem setCtx_cur (s : State) (i : Nat) (c : Ctx) : (s.setCtx i c).cur = s.cur := rfl
@[simp] theorem setCtx_issuing (s : State) (i : Nat) (c : Ctx) : (s.setCtx i c).issuing = s.issuing := rfl
@[simp] theorem setCtx_issueCores (s : State) (i : Nat) (c : Ctx) : (s.setCtx i c).issueCores = s.issueCores := rfl
@[simp] theorem setCtx_before (s : State) (i : Nat) (c : Ctx) : (s.setCtx i c).before = s.before := rfl
@[simp] theorem setCtx_agenda (s : State) (i : Nat) (c : Ctx) : (s.setCtx i c).agenda = s.agenda := rfl
@[simp] theorem setCtx_tick (s : State) (i : Nat) (c : Ctx) : (s.setCtx i c).tick = s.tick := rfl
@[simp] theorem core_of_setCtx (s : State) (i : Nat) (c : Ctx) (n : Nat) : (s.setCtx i c).core n = s.core n := rfl
@[simp] theorem clu_of_setCtx (s : State) (i : Nat) (c : Ctx) (n : Nat) : (s.setCtx i c).clu n = s.clu n := rfl
@[simp] theorem die_of_setCtx (s : State) (i : Nat) (c : Ctx) (n : Nat) : (s.setCtx i c).die n = s.die n := rfl
@[simp] theorem part_of_setCtx (s : State) (i : Nat) (c : Ctx) (n : Nat) : (s.setCtx i c).part n = s.part n := rfl

@[simp] theorem modCtx_on (s : State) (i : Nat) (f : Ctx → Ctx) : (s.modCtx i f).on = s.on := rfl
@[simp] theorem modCtx_halted (s : State) (i : Nat) (f : Ctx → Ctx) : (s.modCtx i f).halted = s.halted := rfl
@[simp] theorem modCtx_cores (s : State) (i : Nat) (f : Ctx → Ctx) : (s.modCtx i f).cores = s.cores := rfl
@[simp] theorem modCtx_clus (s : State) (i : Nat) (f : Ctx → Ctx) : (s.modCtx i f).clus = s.clus := rfl
@[simp] theorem modCtx_dies (s : State) (i : Nat) (f : Ctx → Ctx) : (s.modCtx i f).dies = s.dies := rfl
@[simp] theorem modCtx_hub (s : State) (i : Nat) (f : Ctx → Ctx) : (s.modCtx i f).hub = s.hub := rfl
@[simp] theorem modCtx_mem (s : State) (i : Nat) (f : Ctx → Ctx) : (s.modCtx i f).mem = s.mem := rfl
@[simp] theorem modCtx_issue (s : State) (i : Nat) (f : Ctx → Ctx) : (s.modCtx i f).issue = s.issue := rfl
@[simp] theorem modCtx_cur (s : State) (i : Nat) (f : Ctx → Ctx) : (s.modCtx i f).cur = s.cur := rfl
@[simp] theorem modCtx_issuing (s : State) (i : Nat) (f : Ctx → Ctx) : (s.modCtx i f).issuing = s.issuing := rfl
@[simp] theorem modCtx_issueCores (s : State) (i : Nat) (f : Ctx → Ctx) : (s.modCtx i f).issueCores = s.issueCores := rfl
@[simp] theorem modCtx_before (s : State) (i : Nat) (f : Ctx → Ctx) : (s.modCtx i f).before = s.before := rfl
@[simp] theorem modCtx_agenda (s : State) (i : Nat) (f : Ctx → Ctx) : (s.modCtx i f).agenda = s.agenda := rfl
@[simp] theorem modCtx_tick (s : State) (i : Nat) (f : Ctx → Ctx) : (s.modCtx i f).tick = s.tick := rfl
@[simp] theorem core_of_modCtx (s : State) (i : Nat) (f : Ctx → Ctx) (n : Nat) : (s.modCtx i f).core n = s.core n := rfl
@[simp] theorem clu_of_modCtx (s : State) (i : Nat) (f : Ctx → Ctx) (n : Nat) : (s.modCtx i f).clu n = s.clu n := rfl
@[simp] theorem die_of_modCtx (s : State) (i : Nat) (f : Ctx → Ctx) (n : Nat) : (s.modCtx i f).die n = s.die n := rfl
@[simp] theorem part_of_modCtx (s : State) (i : Nat) (f : Ctx → Ctx) (n : Nat) : (s.modCtx i f).part n = s.part n := rfl

@[simp] theorem modRegs_on (s : State) (i : Nat) (f : Regs → Regs) : (s.modRegs i f).on = s.on := rfl
@[simp] theorem modRegs_halted (s : State) (i : Nat) (f : Regs → Regs) : (s.modRegs i f).halted = s.halted := rfl
@[simp] theorem modRegs_cores (s : State) (i : Nat) (f : Regs → Regs) : (s.modRegs i f).cores = s.cores := rfl
@[simp] theorem modRegs_clus (s : State) (i : Nat) (f : Regs → Regs) : (s.modRegs i f).clus = s.clus := rfl
@[simp] theorem modRegs_dies (s : State) (i : Nat) (f : Regs → Regs) : (s.modRegs i f).dies = s.dies := rfl
@[simp] theorem modRegs_hub (s : State) (i : Nat) (f : Regs → Regs) : (s.modRegs i f).hub = s.hub := rfl
@[simp] theorem modRegs_mem (s : State) (i : Nat) (f : Regs → Regs) : (s.modRegs i f).mem = s.mem := rfl
@[simp] theorem modRegs_issue (s : State) (i : Nat) (f : Regs → Regs) : (s.modRegs i f).issue = s.issue := rfl
@[simp] theorem modRegs_cur (s : State) (i : Nat) (f : Regs → Regs) : (s.modRegs i f).cur = s.cur := rfl
@[simp] theorem modRegs_issuing (s : State) (i : Nat) (f : Regs → Regs) : (s.modRegs i f).issuing = s.issuing := rfl
@[simp] theorem modRegs_issueCores (s : State) (i : Nat) (f : Regs → Regs) : (s.modRegs i f).issueCores = s.issueCores := rfl
@[simp] theorem modRegs_before (s : State) (i : Nat) (f : Regs → Regs) : (s.modRegs i f).before = s.before := rfl
@[simp] theorem modRegs_agenda (s : State) (i : Nat) (f : Regs → Regs) : (s.modRegs i f).agenda = s.agenda := rfl
@[simp] theorem modRegs_tick (s : State) (i : Nat) (f : Regs → Regs) : (s.modRegs i f).tick = s.tick := rfl
@[simp] theorem core_of_modRegs (s : State) (i : Nat) (f : Regs → Regs) (n : Nat) : (s.modRegs i f).core n = s.core n := rfl
@[simp] theorem clu_of_modRegs (s : State) (i : Nat) (f : Regs → Regs) (n : Nat) : (s.modRegs i f).clu n = s.clu n := rfl
@[simp] theorem die_of_modRegs (s : State) (i : Nat) (f : Regs → Regs) (n : Nat) : (s.modRegs i f).die n = s.die n := rfl
@[simp] theorem part_of_modRegs (s : State) (i : Nat) (f : Regs → Regs) (n : Nat) : (s.modRegs i f).part n = s.part n := rfl

@[simp] theorem modCore_on (s : State) (l : Nat) (f : Core → Core) : (s.modCore l f).on = s.on := rfl
@[simp] theorem modCore_halted (s : State) (l : Nat) (f : Core → Core) : (s.modCore l f).halted = s.halted := rfl
@[simp] theorem modCore_ctxs (s : State) (l : Nat) (f : Core → Core) : (s.modCore l f).ctxs = s.ctxs := rfl
@[simp] theorem modCore_clus (s : State) (l : Nat) (f : Core → Core) : (s.modCore l f).clus = s.clus := rfl
@[simp] theorem modCore_dies (s : State) (l : Nat) (f : Core → Core) : (s.modCore l f).dies = s.dies := rfl
@[simp] theorem modCore_hub (s : State) (l : Nat) (f : Core → Core) : (s.modCore l f).hub = s.hub := rfl
@[simp] theorem modCore_mem (s : State) (l : Nat) (f : Core → Core) : (s.modCore l f).mem = s.mem := rfl
@[simp] theorem modCore_issue (s : State) (l : Nat) (f : Core → Core) : (s.modCore l f).issue = s.issue := rfl
@[simp] theorem modCore_cur (s : State) (l : Nat) (f : Core → Core) : (s.modCore l f).cur = s.cur := rfl
@[simp] theorem modCore_issuing (s : State) (l : Nat) (f : Core → Core) : (s.modCore l f).issuing = s.issuing := rfl
@[simp] theorem modCore_issueCores (s : State) (l : Nat) (f : Core → Core) : (s.modCore l f).issueCores = s.issueCores := rfl
@[simp] theorem modCore_before (s : State) (l : Nat) (f : Core → Core) : (s.modCore l f).before = s.before := rfl
@[simp] theorem modCore_agenda (s : State) (l : Nat) (f : Core → Core) : (s.modCore l f).agenda = s.agenda := rfl
@[simp] theorem modCore_tick (s : State) (l : Nat) (f : Core → Core) : (s.modCore l f).tick = s.tick := rfl
@[simp] theorem ctx_of_modCore (s : State) (l : Nat) (f : Core → Core) (n : Nat) : (s.modCore l f).ctx n = s.ctx n := rfl
@[simp] theorem clu_of_modCore (s : State) (l : Nat) (f : Core → Core) (n : Nat) : (s.modCore l f).clu n = s.clu n := rfl
@[simp] theorem die_of_modCore (s : State) (l : Nat) (f : Core → Core) (n : Nat) : (s.modCore l f).die n = s.die n := rfl
@[simp] theorem part_of_modCore (s : State) (l : Nat) (f : Core → Core) (n : Nat) : (s.modCore l f).part n = s.part n := rfl

@[simp] theorem modClu_on (s : State) (k : Nat) (f : Cluster → Cluster) : (s.modClu k f).on = s.on := rfl
@[simp] theorem modClu_halted (s : State) (k : Nat) (f : Cluster → Cluster) : (s.modClu k f).halted = s.halted := rfl
@[simp] theorem modClu_ctxs (s : State) (k : Nat) (f : Cluster → Cluster) : (s.modClu k f).ctxs = s.ctxs := rfl
@[simp] theorem modClu_cores (s : State) (k : Nat) (f : Cluster → Cluster) : (s.modClu k f).cores = s.cores := rfl
@[simp] theorem modClu_dies (s : State) (k : Nat) (f : Cluster → Cluster) : (s.modClu k f).dies = s.dies := rfl
@[simp] theorem modClu_hub (s : State) (k : Nat) (f : Cluster → Cluster) : (s.modClu k f).hub = s.hub := rfl
@[simp] theorem modClu_mem (s : State) (k : Nat) (f : Cluster → Cluster) : (s.modClu k f).mem = s.mem := rfl
@[simp] theorem modClu_issue (s : State) (k : Nat) (f : Cluster → Cluster) : (s.modClu k f).issue = s.issue := rfl
@[simp] theorem modClu_cur (s : State) (k : Nat) (f : Cluster → Cluster) : (s.modClu k f).cur = s.cur := rfl
@[simp] theorem modClu_issuing (s : State) (k : Nat) (f : Cluster → Cluster) : (s.modClu k f).issuing = s.issuing := rfl
@[simp] theorem modClu_issueCores (s : State) (k : Nat) (f : Cluster → Cluster) : (s.modClu k f).issueCores = s.issueCores := rfl
@[simp] theorem modClu_before (s : State) (k : Nat) (f : Cluster → Cluster) : (s.modClu k f).before = s.before := rfl
@[simp] theorem modClu_agenda (s : State) (k : Nat) (f : Cluster → Cluster) : (s.modClu k f).agenda = s.agenda := rfl
@[simp] theorem modClu_tick (s : State) (k : Nat) (f : Cluster → Cluster) : (s.modClu k f).tick = s.tick := rfl
@[simp] theorem ctx_of_modClu (s : State) (k : Nat) (f : Cluster → Cluster) (n : Nat) : (s.modClu k f).ctx n = s.ctx n := rfl
@[simp] theorem core_of_modClu (s : State) (k : Nat) (f : Cluster → Cluster) (n : Nat) : (s.modClu k f).core n = s.core n := rfl
@[simp] theorem die_of_modClu (s : State) (k : Nat) (f : Cluster → Cluster) (n : Nat) : (s.modClu k f).die n = s.die n := rfl
@[simp] theorem part_of_modClu (s : State) (k : Nat) (f : Cluster → Cluster) (n : Nat) : (s.modClu k f).part n = s.part n := rfl

@[simp] theorem modDie_on (s : State) (d : Nat) (f : Die → Die) : (s.modDie d f).on = s.on := rfl
@[simp] theorem modDie_halted (s : State) (d : Nat) (f : Die → Die) : (s.modDie d f).halted = s.halted := rfl
@[simp] theorem modDie_ctxs (s : State) (d : Nat) (f : Die → Die) : (s.modDie d f).ctxs = s.ctxs := rfl
@[simp] theorem modDie_cores (s : State) (d : Nat) (f : Die → Die) : (s.modDie d f).cores = s.cores := rfl
@[simp] theorem modDie_clus (s : State) (d : Nat) (f : Die → Die) : (s.modDie d f).clus = s.clus := rfl
@[simp] theorem modDie_hub (s : State) (d : Nat) (f : Die → Die) : (s.modDie d f).hub = s.hub := rfl
@[simp] theorem modDie_mem (s : State) (d : Nat) (f : Die → Die) : (s.modDie d f).mem = s.mem := rfl
@[simp] theorem modDie_issue (s : State) (d : Nat) (f : Die → Die) : (s.modDie d f).issue = s.issue := rfl
@[simp] theorem modDie_cur (s : State) (d : Nat) (f : Die → Die) : (s.modDie d f).cur = s.cur := rfl
@[simp] theorem modDie_issuing (s : State) (d : Nat) (f : Die → Die) : (s.modDie d f).issuing = s.issuing := rfl
@[simp] theorem modDie_issueCores (s : State) (d : Nat) (f : Die → Die) : (s.modDie d f).issueCores = s.issueCores := rfl
@[simp] theorem modDie_before (s : State) (d : Nat) (f : Die → Die) : (s.modDie d f).before = s.before := rfl
@[simp] theorem modDie_agenda (s : State) (d : Nat) (f : Die → Die) : (s.modDie d f).agenda = s.agenda := rfl
@[simp] theorem modDie_tick (s : State) (d : Nat) (f : Die → Die) : (s.modDie d f).tick = s.tick := rfl
@[simp] theorem ctx_of_modDie (s : State) (d : Nat) (f : Die → Die) (n : Nat) : (s.modDie d f).ctx n = s.ctx n := rfl
@[simp] theorem core_of_modDie (s : State) (d : Nat) (f : Die → Die) (n : Nat) : (s.modDie d f).core n = s.core n := rfl
@[simp] theorem clu_of_modDie (s : State) (d : Nat) (f : Die → Die) (n : Nat) : (s.modDie d f).clu n = s.clu n := rfl
@[simp] theorem part_of_modDie (s : State) (d : Nat) (f : Die → Die) (n : Nat) : (s.modDie d f).part n = s.part n := rfl

@[simp] theorem modHub_on (s : State) (f : Hub → Hub) : (s.modHub f).on = s.on := rfl
@[simp] theorem modHub_halted (s : State) (f : Hub → Hub) : (s.modHub f).halted = s.halted := rfl
@[simp] theorem modHub_ctxs (s : State) (f : Hub → Hub) : (s.modHub f).ctxs = s.ctxs := rfl
@[simp] theorem modHub_cores (s : State) (f : Hub → Hub) : (s.modHub f).cores = s.cores := rfl
@[simp] theorem modHub_clus (s : State) (f : Hub → Hub) : (s.modHub f).clus = s.clus := rfl
@[simp] theorem modHub_dies (s : State) (f : Hub → Hub) : (s.modHub f).dies = s.dies := rfl
@[simp] theorem modHub_mem (s : State) (f : Hub → Hub) : (s.modHub f).mem = s.mem := rfl
@[simp] theorem modHub_issue (s : State) (f : Hub → Hub) : (s.modHub f).issue = s.issue := rfl
@[simp] theorem modHub_cur (s : State) (f : Hub → Hub) : (s.modHub f).cur = s.cur := rfl
@[simp] theorem modHub_issuing (s : State) (f : Hub → Hub) : (s.modHub f).issuing = s.issuing := rfl
@[simp] theorem modHub_issueCores (s : State) (f : Hub → Hub) : (s.modHub f).issueCores = s.issueCores := rfl
@[simp] theorem modHub_before (s : State) (f : Hub → Hub) : (s.modHub f).before = s.before := rfl
@[simp] theorem modHub_agenda (s : State) (f : Hub → Hub) : (s.modHub f).agenda = s.agenda := rfl
@[simp] theorem modHub_tick (s : State) (f : Hub → Hub) : (s.modHub f).tick = s.tick := rfl
@[simp] theorem ctx_of_modHub (s : State) (f : Hub → Hub) (n : Nat) : (s.modHub f).ctx n = s.ctx n := rfl
@[simp] theorem core_of_modHub (s : State) (f : Hub → Hub) (n : Nat) : (s.modHub f).core n = s.core n := rfl
@[simp] theorem clu_of_modHub (s : State) (f : Hub → Hub) (n : Nat) : (s.modHub f).clu n = s.clu n := rfl
@[simp] theorem die_of_modHub (s : State) (f : Hub → Hub) (n : Nat) : (s.modHub f).die n = s.die n := rfl

@[simp] theorem modPart_on (s : State) (p : Nat) (f : Part → Part) : (s.modPart p f).on = s.on := rfl
@[simp] theorem modPart_halted (s : State) (p : Nat) (f : Part → Part) : (s.modPart p f).halted = s.halted := rfl
@[simp] theorem modPart_ctxs (s : State) (p : Nat) (f : Part → Part) : (s.modPart p f).ctxs = s.ctxs := rfl
@[simp] theorem modPart_cores (s : State) (p : Nat) (f : Part → Part) : (s.modPart p f).cores = s.cores := rfl
@[simp] theorem modPart_clus (s : State) (p : Nat) (f : Part → Part) : (s.modPart p f).clus = s.clus := rfl
@[simp] theorem modPart_dies (s : State) (p : Nat) (f : Part → Part) : (s.modPart p f).dies = s.dies := rfl
@[simp] theorem modPart_mem (s : State) (p : Nat) (f : Part → Part) : (s.modPart p f).mem = s.mem := rfl
@[simp] theorem modPart_issue (s : State) (p : Nat) (f : Part → Part) : (s.modPart p f).issue = s.issue := rfl
@[simp] theorem modPart_cur (s : State) (p : Nat) (f : Part → Part) : (s.modPart p f).cur = s.cur := rfl
@[simp] theorem modPart_issuing (s : State) (p : Nat) (f : Part → Part) : (s.modPart p f).issuing = s.issuing := rfl
@[simp] theorem modPart_issueCores (s : State) (p : Nat) (f : Part → Part) : (s.modPart p f).issueCores = s.issueCores := rfl
@[simp] theorem modPart_before (s : State) (p : Nat) (f : Part → Part) : (s.modPart p f).before = s.before := rfl
@[simp] theorem modPart_agenda (s : State) (p : Nat) (f : Part → Part) : (s.modPart p f).agenda = s.agenda := rfl
@[simp] theorem modPart_tick (s : State) (p : Nat) (f : Part → Part) : (s.modPart p f).tick = s.tick := rfl
@[simp] theorem ctx_of_modPart (s : State) (p : Nat) (f : Part → Part) (n : Nat) : (s.modPart p f).ctx n = s.ctx n := rfl
@[simp] theorem core_of_modPart (s : State) (p : Nat) (f : Part → Part) (n : Nat) : (s.modPart p f).core n = s.core n := rfl
@[simp] theorem clu_of_modPart (s : State) (p : Nat) (f : Part → Part) (n : Nat) : (s.modPart p f).clu n = s.clu n := rfl
@[simp] theorem die_of_modPart (s : State) (p : Nat) (f : Part → Part) (n : Nat) : (s.modPart p f).die n = s.die n := rfl

@[simp] theorem setMem_on (s : State) (m : List Host.Cell) : (s.setMem m).on = s.on := rfl
@[simp] theorem setMem_halted (s : State) (m : List Host.Cell) : (s.setMem m).halted = s.halted := rfl
@[simp] theorem setMem_ctxs (s : State) (m : List Host.Cell) : (s.setMem m).ctxs = s.ctxs := rfl
@[simp] theorem setMem_cores (s : State) (m : List Host.Cell) : (s.setMem m).cores = s.cores := rfl
@[simp] theorem setMem_clus (s : State) (m : List Host.Cell) : (s.setMem m).clus = s.clus := rfl
@[simp] theorem setMem_dies (s : State) (m : List Host.Cell) : (s.setMem m).dies = s.dies := rfl
@[simp] theorem setMem_hub (s : State) (m : List Host.Cell) : (s.setMem m).hub = s.hub := rfl
@[simp] theorem setMem_issue (s : State) (m : List Host.Cell) : (s.setMem m).issue = s.issue := rfl
@[simp] theorem setMem_cur (s : State) (m : List Host.Cell) : (s.setMem m).cur = s.cur := rfl
@[simp] theorem setMem_issuing (s : State) (m : List Host.Cell) : (s.setMem m).issuing = s.issuing := rfl
@[simp] theorem setMem_issueCores (s : State) (m : List Host.Cell) : (s.setMem m).issueCores = s.issueCores := rfl
@[simp] theorem setMem_before (s : State) (m : List Host.Cell) : (s.setMem m).before = s.before := rfl
@[simp] theorem setMem_agenda (s : State) (m : List Host.Cell) : (s.setMem m).agenda = s.agenda := rfl
@[simp] theorem setMem_tick (s : State) (m : List Host.Cell) : (s.setMem m).tick = s.tick := rfl
@[simp] theorem ctx_of_setMem (s : State) (m : List Host.Cell) (n : Nat) : (s.setMem m).ctx n = s.ctx n := rfl
@[simp] theorem core_of_setMem (s : State) (m : List Host.Cell) (n : Nat) : (s.setMem m).core n = s.core n := rfl
@[simp] theorem clu_of_setMem (s : State) (m : List Host.Cell) (n : Nat) : (s.setMem m).clu n = s.clu n := rfl
@[simp] theorem die_of_setMem (s : State) (m : List Host.Cell) (n : Nat) : (s.setMem m).die n = s.die n := rfl
@[simp] theorem part_of_setMem (s : State) (m : List Host.Cell) (n : Nat) : (s.setMem m).part n = s.part n := rfl

@[simp] theorem ctx_with_issue (s : State) (x : List SlotWord) (n : Nat) : ({ s with issue := x } : State).ctx n = s.ctx n := rfl
@[simp] theorem core_with_issue (s : State) (x : List SlotWord) (n : Nat) : ({ s with issue := x } : State).core n = s.core n := rfl
@[simp] theorem clu_with_issue (s : State) (x : List SlotWord) (n : Nat) : ({ s with issue := x } : State).clu n = s.clu n := rfl
@[simp] theorem die_with_issue (s : State) (x : List SlotWord) (n : Nat) : ({ s with issue := x } : State).die n = s.die n := rfl
@[simp] theorem part_with_issue (s : State) (x : List SlotWord) (n : Nat) : ({ s with issue := x } : State).part n = s.part n := rfl

@[simp] theorem ctx_with_cur (s : State) (x : SlotWord) (n : Nat) : ({ s with cur := x } : State).ctx n = s.ctx n := rfl
@[simp] theorem core_with_cur (s : State) (x : SlotWord) (n : Nat) : ({ s with cur := x } : State).core n = s.core n := rfl
@[simp] theorem clu_with_cur (s : State) (x : SlotWord) (n : Nat) : ({ s with cur := x } : State).clu n = s.clu n := rfl
@[simp] theorem die_with_cur (s : State) (x : SlotWord) (n : Nat) : ({ s with cur := x } : State).die n = s.die n := rfl
@[simp] theorem part_with_cur (s : State) (x : SlotWord) (n : Nat) : ({ s with cur := x } : State).part n = s.part n := rfl

@[simp] theorem ctx_with_issuing (s : State) (x : List Nat) (n : Nat) : ({ s with issuing := x } : State).ctx n = s.ctx n := rfl
@[simp] theorem core_with_issuing (s : State) (x : List Nat) (n : Nat) : ({ s with issuing := x } : State).core n = s.core n := rfl
@[simp] theorem clu_with_issuing (s : State) (x : List Nat) (n : Nat) : ({ s with issuing := x } : State).clu n = s.clu n := rfl
@[simp] theorem die_with_issuing (s : State) (x : List Nat) (n : Nat) : ({ s with issuing := x } : State).die n = s.die n := rfl
@[simp] theorem part_with_issuing (s : State) (x : List Nat) (n : Nat) : ({ s with issuing := x } : State).part n = s.part n := rfl

@[simp] theorem ctx_with_issueCores (s : State) (x : List Nat) (n : Nat) : ({ s with issueCores := x } : State).ctx n = s.ctx n := rfl
@[simp] theorem core_with_issueCores (s : State) (x : List Nat) (n : Nat) : ({ s with issueCores := x } : State).core n = s.core n := rfl
@[simp] theorem clu_with_issueCores (s : State) (x : List Nat) (n : Nat) : ({ s with issueCores := x } : State).clu n = s.clu n := rfl
@[simp] theorem die_with_issueCores (s : State) (x : List Nat) (n : Nat) : ({ s with issueCores := x } : State).die n = s.die n := rfl
@[simp] theorem part_with_issueCores (s : State) (x : List Nat) (n : Nat) : ({ s with issueCores := x } : State).part n = s.part n := rfl

@[simp] theorem ctx_with_before (s : State) (x : Option Before) (n : Nat) : ({ s with before := x } : State).ctx n = s.ctx n := rfl
@[simp] theorem core_with_before (s : State) (x : Option Before) (n : Nat) : ({ s with before := x } : State).core n = s.core n := rfl
@[simp] theorem clu_with_before (s : State) (x : Option Before) (n : Nat) : ({ s with before := x } : State).clu n = s.clu n := rfl
@[simp] theorem die_with_before (s : State) (x : Option Before) (n : Nat) : ({ s with before := x } : State).die n = s.die n := rfl
@[simp] theorem part_with_before (s : State) (x : Option Before) (n : Nat) : ({ s with before := x } : State).part n = s.part n := rfl

@[simp] theorem ctx_with_agenda (s : State) (x : List Instr) (n : Nat) : ({ s with agenda := x } : State).ctx n = s.ctx n := rfl
@[simp] theorem core_with_agenda (s : State) (x : List Instr) (n : Nat) : ({ s with agenda := x } : State).core n = s.core n := rfl
@[simp] theorem clu_with_agenda (s : State) (x : List Instr) (n : Nat) : ({ s with agenda := x } : State).clu n = s.clu n := rfl
@[simp] theorem die_with_agenda (s : State) (x : List Instr) (n : Nat) : ({ s with agenda := x } : State).die n = s.die n := rfl
@[simp] theorem part_with_agenda (s : State) (x : List Instr) (n : Nat) : ({ s with agenda := x } : State).part n = s.part n := rfl

@[simp] theorem ctx_with_tick (s : State) (x : Nat) (n : Nat) : ({ s with tick := x } : State).ctx n = s.ctx n := rfl
@[simp] theorem core_with_tick (s : State) (x : Nat) (n : Nat) : ({ s with tick := x } : State).core n = s.core n := rfl
@[simp] theorem clu_with_tick (s : State) (x : Nat) (n : Nat) : ({ s with tick := x } : State).clu n = s.clu n := rfl
@[simp] theorem die_with_tick (s : State) (x : Nat) (n : Nat) : ({ s with tick := x } : State).die n = s.die n := rfl
@[simp] theorem part_with_tick (s : State) (x : Nat) (n : Nat) : ({ s with tick := x } : State).part n = s.part n := rfl

@[simp] theorem ctx_with_mem (s : State) (x : List Host.Cell) (n : Nat) : ({ s with mem := x } : State).ctx n = s.ctx n := rfl
@[simp] theorem core_with_mem (s : State) (x : List Host.Cell) (n : Nat) : ({ s with mem := x } : State).core n = s.core n := rfl
@[simp] theorem clu_with_mem (s : State) (x : List Host.Cell) (n : Nat) : ({ s with mem := x } : State).clu n = s.clu n := rfl
@[simp] theorem die_with_mem (s : State) (x : List Host.Cell) (n : Nat) : ({ s with mem := x } : State).die n = s.die n := rfl
@[simp] theorem part_with_mem (s : State) (x : List Host.Cell) (n : Nat) : ({ s with mem := x } : State).part n = s.part n := rfl

end Machine

end Sys2Proof
end

