-- ==== Sys2Proof/Laws/Ops.lean ====
section
/-! SUPPORT. What each shared operation of a slot or an event can do, said once. -/

namespace Sys2Proof.Machine

/-! ### Running a slot or an event -/

/-- A slot whose guard enables it does its work. -/
theorem slotRun_on {g : BitVec 5} {s : State} (k : State → State) (h : guardOn s.me.r g = true) :
    slotRun g s k = .next (k s) := by simp [slotRun, h]

/-- A slot whose guard disables it does nothing. -/
theorem slotRun_off {g : BitVec 5} {s : State} (k : State → State) (h : guardOn s.me.r g = false) :
    slotRun g s k = .next s := by simp [slotRun, h]

/-- A slot goes on with its work or with the state as it was, and with nothing else. -/
theorem slotRun_cases {g : BitVec 5} {s t : State} {k : State → State} (h : slotRun g s k = .next t) :
    t = k s ∨ t = s := by
  unfold slotRun at h
  split at h <;> cases h
  · exact .inl rfl
  · exact .inr rfl

/-- A control slot in S0 runs as any slot. -/
theorem ctlRun_s0 {g : BitVec 5} {s : State} (k : State → State) (h : s.cur.slot = 0) :
    ctlRun g s k = slotRun g s k := by simp [ctlRun, h]

/-- A control slot elsewhere is illegal. -/
theorem ctlRun_s1 {g : BitVec 5} {s : State} (k : State → State) (h : s.cur.slot ≠ 0) :
    ctlRun g s k = .next s.illegalSlot := by simp [ctlRun, h]

/-- A control slot works, does nothing, or is illegal. -/
theorem ctlRun_cases {g : BitVec 5} {s t : State} {k : State → State} (h : ctlRun g s k = .next t) :
    t = k s ∨ t = s ∨ t = s.illegalSlot := by
  unfold ctlRun at h
  split at h
  · exact (slotRun_cases h).imp_right .inl
  · cases h; exact .inr (.inr rfl)

/-- An event whose condition holds happens. -/
theorem eventRun_on {ok : Bool} {s t : State} (h : ok = true) : eventRun ok s t = .next t := by simp [eventRun, h]

/-- An event happens or changes nothing. -/
theorem eventRun_cases {ok : Bool} {s t u : State} (h : eventRun ok s t = .next u) : u = t ∨ u = s := by
  unfold eventRun at h
  split at h <;> cases h
  · exact .inl rfl
  · exact .inr rfl

/-! ### Queueing a result -/

/-- A result that collides with no other goes into flight. -/
theorem launch_free {s : State} {lat : Nat} {ws : List RWrite} (l : Option Latch) (fl : BitVec 8)
    (h : s.collides lat ws = false) :
    s.launch lat ws l fl = s.modRegs s.cur.cid fun r =>
      { r with flight := r.flight ++ [⟨(s.core (coreOf s.cur.cid)).cc + lat, s.cur.slot, ws, l, fl⟩] } := by
  simp [State.launch, h]

/-- A result that collides is an illegal schedule. -/
theorem launch_collides {s : State} {lat : Nat} {ws : List RWrite} (l : Option Latch) (fl : BitVec 8)
    (h : s.collides lat ws = true) : s.launch lat ws l fl = s.illegalSchedule := by simp [State.launch, h]

/-! ### What traps and freezes leave -/

@[simp] theorem mem_pause (s : State) (i : Nat) (d : BitVec 10) : (s.pause i d).mem = s.mem := rfl

/-- A list of updates that each leave memory leaves memory. -/
theorem mem_foldl {α : Type} (f : State → α → State) (h : ∀ s a, (f s a).mem = s.mem) (l : List α) (s : State) :
    (l.foldl f s).mem = s.mem := by
  induction l generalizing s with
  | nil => rfl
  | cons a l ih => rw [List.foldl_cons, ih, h]

@[simp] theorem mem_issueTrap (s : State) (i : Nat) (t : TrapInfo) (d : BitVec 10) : (s.issueTrap i t d).mem = s.mem := by
  unfold State.issueTrap
  rw [mem_foldl]
  exact fun _ _ => rfl

@[simp] theorem mem_slotTrap (s : State) (c : BitVec 5) (a : Nat) : (s.slotTrap c a).mem = s.mem := mem_issueTrap ..

@[simp] theorem mem_illegalSlot (s : State) : s.illegalSlot.mem = s.mem := mem_slotTrap ..

@[simp] theorem mem_illegalSchedule (s : State) : s.illegalSchedule.mem = s.mem := mem_slotTrap ..

@[simp] theorem mem_syncPtb (s : State) (l : Nat) : (s.syncPtb l).mem = s.mem := rfl

@[simp] theorem mem_tickBound (s : State) (l : Nat) : (s.tickBound l).mem = s.mem := by
  unfold State.tickBound
  rw [mem_foldl]
  exact fun _ _ => rfl

@[simp] theorem mem_frozenCycle (s : State) (n : Option Nat) (l : Nat) : (s.frozenCycle n l).mem = s.mem := by
  unfold State.frozenCycle
  simp only [mem_syncPtb, mem_tickBound]
  rw [mem_foldl]
  · rfl
  · exact fun _ _ => rfl

@[simp] theorem mem_freezeCores (s : State) (i : Nat) (n : Option Nat) : (s.freezeCores i n).mem = s.mem := by
  unfold State.freezeCores
  rw [mem_foldl]
  exact fun _ _ => mem_frozenCycle ..

@[simp] theorem mem_rewind (s : State) : s.rewind.mem = s.mem := by
  unfold State.rewind
  dsimp only
  split <;> rfl

@[simp] theorem mem_markFreeze (s : State) (i : Nat) : (s.markFreeze i).mem = s.mem := by
  unfold State.markFreeze
  rw [mem_foldl]
  exact fun _ _ => rfl

@[simp] theorem mem_placeTrap (s : State) (i : Nat) (t : TrapInfo) : (s.placeTrap i t).mem = s.mem := by
  unfold State.placeTrap
  dsimp only
  rw [mem_foldl]
  exact fun _ _ => rfl

@[simp] theorem mem_freeze (s : State) (n : Option Nat) : (s.freeze n).mem = s.mem := by
  simp [State.freeze]

@[simp] theorem mem_hold (s : State) (n : Option Nat) : (s.hold n).mem = s.mem := by
  unfold State.hold
  split <;> simp

@[simp] theorem mem_launch (s : State) (lat : Nat) (ws : List RWrite) (l : Option Latch) (fl : BitVec 8) :
    (s.launch lat ws l fl).mem = s.mem := by
  unfold State.launch
  split <;> simp

end Sys2Proof.Machine
end

