-- ==== Sys2Proof/Laws/Events.lean ====
section
/-! SUPPORT. What the shared operations of events leave alone, said once: walks, faults, the load log and memory writes. -/

namespace Sys2Proof.Machine

variable (s : State)

/-! ### A walk that an access asks for changes nothing but TLBs, the walker and the misses that wait for it -/

@[simp] theorem mem_noteMiss (k c v : Nat) : (s.noteMiss k c v).mem = s.mem := by
  unfold State.noteMiss; dsimp only; repeat' split
  all_goals simp

@[simp] theorem ctx_noteMiss (k c v i : Nat) : (s.noteMiss k c v).ctx i = s.ctx i := by
  unfold State.noteMiss; dsimp only; repeat' split
  all_goals simp

/-- A core keeps all but its micro-TLB and its misses. -/
theorem core_noteMiss (k c v l : Nat) : (s.noteMiss k c v).core l =
    { s.core l with tlb := ((s.noteMiss k c v).core l).tlb, misses := ((s.noteMiss k c v).core l).misses } := by
  unfold State.noteMiss; dsimp only; repeat' split
  all_goals simp
  all_goals split
  all_goals first | (subst_vars; rfl) | rfl

@[simp] theorem mem_noteSpan (k c v n : Nat) : (s.noteSpan k c v n).mem = s.mem := by
  unfold State.noteSpan
  exact mem_foldl _ (fun _ _ => mem_noteMiss _ _ _ _) _ _

@[simp] theorem mem_noteSpans (c : Nat) (l : List (Nat × Nat)) : (s.noteSpans c l).mem = s.mem := by
  unfold State.noteSpans
  exact mem_foldl _ (fun _ _ => mem_noteSpan _ _ _ _ _) _ _

@[simp] theorem mem_noteWalk (c v : Nat) : (s.noteWalk c v).mem = s.mem := mem_noteMiss s 9 c v

@[simp] theorem ctx_noteWalk (c v i : Nat) : (s.noteWalk c v).ctx i = s.ctx i := ctx_noteMiss s 9 c v i

/-- A core keeps all but its micro-TLB and its misses. -/
theorem core_noteWalk (c v l : Nat) : (s.noteWalk c v).core l =
    { s.core l with tlb := ((s.noteWalk c v).core l).tlb, misses := ((s.noteWalk c v).core l).misses } := core_noteMiss s 9 c v l

/-! ### A fault that the fault service takes changes nothing but the fault records and what the module sends -/

@[simp] theorem mem_postFault (c k : Nat) (a : AccessKind) (b : Nat) (e : AFault) : (s.postFault c k a b e).mem = s.mem := by
  unfold State.postFault State.enqueueFault; dsimp only; repeat' split
  all_goals rfl

@[simp] theorem ctx_postFault (c k : Nat) (a : AccessKind) (b : Nat) (e : AFault) (i : Nat) :
    (s.postFault c k a b e).ctx i = s.ctx i := by
  unfold State.postFault State.enqueueFault; dsimp only; repeat' split
  all_goals rfl

@[simp] theorem core_postFault (c k : Nat) (a : AccessKind) (b : Nat) (e : AFault) (l : Nat) :
    (s.postFault c k a b e).core l = s.core l := by
  unfold State.postFault State.enqueueFault; dsimp only; repeat' split
  all_goals rfl

/-! ### The load log of an interval (R228) -/

@[simp] theorem mem_recordLoad (c : Nat) (r : LoadRec) : (s.recordLoad c r).mem = s.mem := by
  unfold State.recordLoad; dsimp only; repeat' split
  all_goals simp

@[simp] theorem core_recordLoad (c : Nat) (r : LoadRec) (l : Nat) : (s.recordLoad c r).core l = s.core l := by
  unfold State.recordLoad; dsimp only; repeat' split
  all_goals simp

/-- A context whose interval is or becomes unprotected keeps all but its interval and its counters. -/
theorem unprotect_keeps (c : Ctx) : ∃ v p, c.unprotect = { c with ival := v, r := { c.r with perf := p } } := by
  unfold Ctx.unprotect; split <;> exact ⟨_, _, rfl⟩

/-- A context keeps all but its interval and its counters. -/
theorem ctx_recordLoad (c : Nat) (r : LoadRec) (i : Nat) :
    ∃ v p, (s.recordLoad c r).ctx i = { s.ctx i with ival := v, r := { (s.ctx i).r with perf := p } } := by
  obtain ⟨v, p, h⟩ := unprotect_keeps { s.ctx i with ival := (s.ctx i).ival.record r }
  unfold State.recordLoad; dsimp only
  by_cases hi : i = c
  · subst hi
    split
    · exact ⟨v, p, by simpa using h⟩
    · exact ⟨(s.ctx i).ival.record r, (s.ctx i).r.perf, by simp⟩
  · split <;> exact ⟨(s.ctx i).ival, (s.ctx i).r.perf, by simp [hi]⟩

/-- What the walks and the recorded loads keep, the fetches of an engine keep. -/
theorem recordFetches_keeps {P : State → Prop} (c : Nat) (l : List (Nat × Nat)) (h0 : P (s.noteSpans c l))
    (h : ∀ s c r, P s → P (s.recordLoad c r)) : P (s.recordFetches c l) := by
  unfold State.recordFetches
  generalize l.flatMap fetchParts = xs
  generalize s.noteSpans c l = s at h0
  induction xs generalizing s with
  | nil => exact h0
  | cons x xs ih =>
    simp only [List.foldl_cons]
    apply ih
    repeat' split
    all_goals first | exact h0 | exact h _ _ _ h0

@[simp] theorem mem_recordFetches (c : Nat) (l : List (Nat × Nat)) : (s.recordFetches c l).mem = s.mem :=
  recordFetches_keeps s (P := fun t => t.mem = s.mem) c l (mem_noteSpans s c l) (fun _ _ _ h => by rw [mem_recordLoad, h])

/-! ### What the array's operations leave to its cores -/

/-- The array of a core, as against its buffer, its clock and its TLB. -/
def Core.array (k : Core) : Option EngOp × List EngOp × List Cmd := (k.run, k.heldOps, k.engQ)

@[simp] theorem array_noteMiss (k c v i : Nat) : ((s.noteMiss k c v).core i).array = (s.core i).array := by
  rw [core_noteMiss]; rfl

@[simp] theorem array_noteSpan (k c v n i : Nat) : ((s.noteSpan k c v n).core i).array = (s.core i).array := by
  unfold State.noteSpan
  generalize List.range _ = xs
  induction xs generalizing s with
  | nil => rfl
  | cons x xs ih => rw [List.foldl_cons, ih, array_noteMiss]

@[simp] theorem array_noteSpans (c : Nat) (l : List (Nat × Nat)) (i : Nat) :
    ((s.noteSpans c l).core i).array = (s.core i).array := by
  unfold State.noteSpans
  induction l generalizing s with
  | nil => rfl
  | cons x xs ih => rw [List.foldl_cons, ih, array_noteSpan]

@[simp] theorem array_recordFetches (c : Nat) (l : List (Nat × Nat)) (i : Nat) :
    ((s.recordFetches c l).core i).array = (s.core i).array :=
  recordFetches_keeps s (P := fun t => (t.core i).array = (s.core i).array) c l (array_noteSpans s c l i)
    (fun _ _ _ h => by rw [core_recordLoad, h])

@[simp] theorem array_enter (l v : Nat) (w : BufWrite) (i : Nat) : ((s.enter l v w).core i).array = (s.core i).array := by
  unfold State.enter; repeat' split
  all_goals first
    | rfl
    | (simp [Core.array]; split <;> subst_vars <;> simp)
    | simp [Core.array]

@[simp] theorem core_putCells (cells : List Host.Cell) (i : Nat) : (s.putCells cells).core i = s.core i := rfl

@[simp] theorem core_logRows (c : Nat) (cells : List Host.Cell) (i : Nat) : (s.logRows c cells).core i = s.core i := by
  unfold State.logRows; dsimp only; repeat' split
  all_goals rfl

@[simp] theorem core_putOwn (c : Nat) (cells : List Host.Cell) (i : Nat) : (s.putOwn c cells).core i = s.core i := by
  simp [State.putOwn]

/-- A write into the window leaves every array as it was. -/
@[simp] theorem array_wrWin (c q o : Nat) (bs : List Byte) (i : Nat) : ((wrWin s c q o bs).core i).array = (s.core i).array := by
  unfold wrWin; dsimp only; repeat' split
  all_goals simp

/-- What a command's start does at once leaves every array as it was. -/
@[simp] theorem array_engBegin (c : Cmd) (o : EngOp) (i : Nat) : ((engBegin s c o).core i).array = (s.core i).array := by
  unfold engBegin; dsimp only; repeat' split
  all_goals simp

end Sys2Proof.Machine
end

