-- ==== Sys2Proof/Laws/Exec.lean ====
section
/-! SUPPORT. Each instruction's meaning, as `exec` dispatches to it. -/

namespace Sys2Proof.Machine

@[simp] theorem exec_nop g (s : State) : exec (.nop g) s = execNop g s := rfl
@[simp] theorem exec_add f (s : State) : exec (.add f) s = execAdd f s := rfl
@[simp] theorem exec_sub f (s : State) : exec (.sub f) s = execSub f s := rfl
@[simp] theorem exec_mul f (s : State) : exec (.mul f) s = execMul f s := rfl
@[simp] theorem exec_mulh f (s : State) : exec (.mulh f) s = execMulh f s := rfl
@[simp] theorem exec_mulhu f (s : State) : exec (.mulhu f) s = execMulhu f s := rfl
@[simp] theorem exec_div f (s : State) : exec (.div f) s = execDiv f s := rfl
@[simp] theorem exec_divu f (s : State) : exec (.divu f) s = execDivu f s := rfl
@[simp] theorem exec_rem f (s : State) : exec (.rem f) s = execRem f s := rfl
@[simp] theorem exec_remu f (s : State) : exec (.remu f) s = execRemu f s := rfl
@[simp] theorem exec_and f (s : State) : exec (.and f) s = execAnd f s := rfl
@[simp] theorem exec_or f (s : State) : exec (.or f) s = execOr f s := rfl
@[simp] theorem exec_xor f (s : State) : exec (.xor f) s = execXor f s := rfl
@[simp] theorem exec_andn f (s : State) : exec (.andn f) s = execAndn f s := rfl
@[simp] theorem exec_shl f (s : State) : exec (.shl f) s = execShl f s := rfl
@[simp] theorem exec_shr f (s : State) : exec (.shr f) s = execShr f s := rfl
@[simp] theorem exec_sra f (s : State) : exec (.sra f) s = execSra f s := rfl
@[simp] theorem exec_rotl f (s : State) : exec (.rotl f) s = execRotl f s := rfl
@[simp] theorem exec_min f (s : State) : exec (.min f) s = execMin f s := rfl
@[simp] theorem exec_max f (s : State) : exec (.max f) s = execMax f s := rfl
@[simp] theorem exec_minu f (s : State) : exec (.minu f) s = execMinu f s := rfl
@[simp] theorem exec_maxu f (s : State) : exec (.maxu f) s = execMaxu f s := rfl
@[simp] theorem exec_clz f (s : State) : exec (.clz f) s = execClz f s := rfl
@[simp] theorem exec_popc f (s : State) : exec (.popc f) s = execPopc f s := rfl
@[simp] theorem exec_bfx f (s : State) : exec (.bfx f) s = execBfx f s := rfl
@[simp] theorem exec_bfi f (s : State) : exec (.bfi f) s = execBfi f s := rfl
@[simp] theorem exec_addi f (s : State) : exec (.addi f) s = execAddi f s := rfl
@[simp] theorem exec_andi f (s : State) : exec (.andi f) s = execAndi f s := rfl
@[simp] theorem exec_shli f (s : State) : exec (.shli f) s = execShli f s := rfl
@[simp] theorem exec_shri f (s : State) : exec (.shri f) s = execShri f s := rfl
@[simp] theorem exec_srai f (s : State) : exec (.srai f) s = execSrai f s := rfl
@[simp] theorem exec_movi f (s : State) : exec (.movi f) s = execMovi f s := rfl
@[simp] theorem exec_sli f (s : State) : exec (.sli f) s = execSli f s := rfl
@[simp] theorem exec_cmpEq f (s : State) : exec (.cmpEq f) s = execCmpEq f s := rfl
@[simp] theorem exec_cmpNe f (s : State) : exec (.cmpNe f) s = execCmpNe f s := rfl
@[simp] theorem exec_cmpLt f (s : State) : exec (.cmpLt f) s = execCmpLt f s := rfl
@[simp] theorem exec_cmpLtu f (s : State) : exec (.cmpLtu f) s = execCmpLtu f s := rfl
@[simp] theorem exec_cmpLe f (s : State) : exec (.cmpLe f) s = execCmpLe f s := rfl
@[simp] theorem exec_cmpLeu f (s : State) : exec (.cmpLeu f) s = execCmpLeu f s := rfl
@[simp] theorem exec_cmpiEq f (s : State) : exec (.cmpiEq f) s = execCmpiEq f s := rfl
@[simp] theorem exec_cmpiLt f (s : State) : exec (.cmpiLt f) s = execCmpiLt f s := rfl
@[simp] theorem exec_pand f (s : State) : exec (.pand f) s = execPand f s := rfl
@[simp] theorem exec_por f (s : State) : exec (.por f) s = execPor f s := rfl
@[simp] theorem exec_pxor f (s : State) : exec (.pxor f) s = execPxor f s := rfl
@[simp] theorem exec_pandn f (s : State) : exec (.pandn f) s = execPandn f s := rfl
@[simp] theorem exec_br f (s : State) : exec (.br f) s = execBr f s := rfl
@[simp] theorem exec_call f (s : State) : exec (.call f) s = execCall f s := rfl
@[simp] theorem exec_jr f (s : State) : exec (.jr f) s = execJr f s := rfl
@[simp] theorem exec_loop f (s : State) : exec (.loop f) s = execLoop f s := rfl
@[simp] theorem exec_loopRearm f (s : State) : exec (.loopRearm f) s = execLoopRearm f s := rfl
@[simp] theorem exec_loopExit g (s : State) : exec (.loopExit g) s = execLoopExit g s := rfl
@[simp] theorem exec_dictLd f (s : State) : exec (.dictLd f) s = execDictLd f s := rfl
@[simp] theorem exec_dictSw g (s : State) : exec (.dictSw g) s = execDictSw g s := rfl
@[simp] theorem exec_trap f (s : State) : exec (.trap f) s = execTrap f s := rfl
@[simp] theorem exec_eret g (s : State) : exec (.eret g) s = execEret g s := rfl
@[simp] theorem exec_crd f (s : State) : exec (.crd f) s = execCrd f s := rfl
@[simp] theorem exec_cwr f (s : State) : exec (.cwr f) s = execCwr f s := rfl
@[simp] theorem exec_cwrXflags f (s : State) : exec (.cwrXflags f) s = execCwrXflags f s := rfl
@[simp] theorem exec_cwrRmode f (s : State) : exec (.cwrRmode f) s = execCwrRmode f s := rfl
@[simp] theorem exec_cwrBankfmt f (s : State) : exec (.cwrBankfmt f) s = execCwrBankfmt f s := rfl
@[simp] theorem exec_cwrDeadline f (s : State) : exec (.cwrDeadline f) s = execCwrDeadline f s := rfl
@[simp] theorem exec_wait f (s : State) : exec (.wait f) s = execWait f s := rfl
@[simp] theorem exec_endTask g (s : State) : exec (.endTask g) s = execEndTask g s := rfl
@[simp] theorem exec_brk f (s : State) : exec (.brk f) s = execBrk f s := rfl
@[simp] theorem exec_yield g (s : State) : exec (.yield g) s = execYield g s := rfl
@[simp] theorem exec_vnop g (s : State) : exec (.vnop g) s = execVnop g s := rfl
@[simp] theorem exec_vfadd t f (s : State) : exec (.vfadd t f) s = execVfadd t f s := rfl
@[simp] theorem exec_vfsub t f (s : State) : exec (.vfsub t f) s = execVfsub t f s := rfl
@[simp] theorem exec_vfmul t f (s : State) : exec (.vfmul t f) s = execVfmul t f s := rfl
@[simp] theorem exec_vfma t f (s : State) : exec (.vfma t f) s = execVfma t f s := rfl
@[simp] theorem exec_vfmin t f (s : State) : exec (.vfmin t f) s = execVfmin t f s := rfl
@[simp] theorem exec_vfmax t f (s : State) : exec (.vfmax t f) s = execVfmax t f s := rfl
@[simp] theorem exec_vfcmp t f (s : State) : exec (.vfcmp t f) s = execVfcmp t f s := rfl
@[simp] theorem exec_vfsgn t f (s : State) : exec (.vfsgn t f) s = execVfsgn t f s := rfl
@[simp] theorem exec_vfrnd t f (s : State) : exec (.vfrnd t f) s = execVfrnd t f s := rfl
@[simp] theorem exec_vfclass t f (s : State) : exec (.vfclass t f) s = execVfclass t f s := rfl
@[simp] theorem exec_vfsum t f (s : State) : exec (.vfsum t f) s = execVfsum t f s := rfl
@[simp] theorem exec_vcvt f (s : State) : exec (.vcvt f) s = execVcvt f s := rfl
@[simp] theorem exec_vbpk f (s : State) : exec (.vbpk f) s = execVbpk f s := rfl
@[simp] theorem exec_vbupk f (s : State) : exec (.vbupk f) s = execVbupk f s := rfl
@[simp] theorem exec_vfdivF32 f (s : State) : exec (.vfdivF32 f) s = execVfdivF32 f s := rfl
@[simp] theorem exec_vfdivF64 f (s : State) : exec (.vfdivF64 f) s = execVfdivF64 f s := rfl
@[simp] theorem exec_vadd f (s : State) : exec (.vadd f) s = execVadd f s := rfl
@[simp] theorem exec_vsub f (s : State) : exec (.vsub f) s = execVsub f s := rfl
@[simp] theorem exec_vmul f (s : State) : exec (.vmul f) s = execVmul f s := rfl
@[simp] theorem exec_vmulh f (s : State) : exec (.vmulh f) s = execVmulh f s := rfl
@[simp] theorem exec_vmin f (s : State) : exec (.vmin f) s = execVmin f s := rfl
@[simp] theorem exec_vmax f (s : State) : exec (.vmax f) s = execVmax f s := rfl
@[simp] theorem exec_vminu f (s : State) : exec (.vminu f) s = execVminu f s := rfl
@[simp] theorem exec_vmaxu f (s : State) : exec (.vmaxu f) s = execVmaxu f s := rfl
@[simp] theorem exec_vand f (s : State) : exec (.vand f) s = execVand f s := rfl
@[simp] theorem exec_vor f (s : State) : exec (.vor f) s = execVor f s := rfl
@[simp] theorem exec_vxor f (s : State) : exec (.vxor f) s = execVxor f s := rfl
@[simp] theorem exec_vshl f (s : State) : exec (.vshl f) s = execVshl f s := rfl
@[simp] theorem exec_vshr f (s : State) : exec (.vshr f) s = execVshr f s := rfl
@[simp] theorem exec_vsra f (s : State) : exec (.vsra f) s = execVsra f s := rfl
@[simp] theorem exec_vaddD f (s : State) : exec (.vaddD f) s = execVaddD f s := rfl
@[simp] theorem exec_vsubD f (s : State) : exec (.vsubD f) s = execVsubD f s := rfl
@[simp] theorem exec_vcmpEq f (s : State) : exec (.vcmpEq f) s = execVcmpEq f s := rfl
@[simp] theorem exec_vcmpLt f (s : State) : exec (.vcmpLt f) s = execVcmpLt f s := rfl
@[simp] theorem exec_vcmpLtu f (s : State) : exec (.vcmpLtu f) s = execVcmpLtu f s := rfl
@[simp] theorem exec_vsel f (s : State) : exec (.vsel f) s = execVsel f s := rfl
@[simp] theorem exec_vvalid f (s : State) : exec (.vvalid f) s = execVvalid f s := rfl
@[simp] theorem exec_vvmask f (s : State) : exec (.vvmask f) s = execVvmask f s := rfl
@[simp] theorem exec_vmaskv f (s : State) : exec (.vmaskv f) s = execVmaskv f s := rfl
@[simp] theorem exec_vsplat f (s : State) : exec (.vsplat f) s = execVsplat f s := rfl
@[simp] theorem exec_viota f (s : State) : exec (.viota f) s = execViota f s := rfl
@[simp] theorem exec_vext f (s : State) : exec (.vext f) s = execVext f s := rfl
@[simp] theorem exec_vins f (s : State) : exec (.vins f) s = execVins f s := rfl
@[simp] theorem exec_vredAdd f (s : State) : exec (.vredAdd f) s = execVredAdd f s := rfl
@[simp] theorem exec_vredMax f (s : State) : exec (.vredMax f) s = execVredMax f s := rfl
@[simp] theorem exec_vscanAdd f (s : State) : exec (.vscanAdd f) s = execVscanAdd f s := rfl
@[simp] theorem exec_vsort f (s : State) : exec (.vsort f) s = execVsort f s := rfl
@[simp] theorem exec_vsegsum f (s : State) : exec (.vsegsum f) s = execVsegsum f s := rfl
@[simp] theorem exec_fnop g (s : State) : exec (.fnop g) s = execFnop g s := rfl
@[simp] theorem exec_fexpF32 f (s : State) : exec (.fexpF32 f) s = execFexpF32 f s := rfl
@[simp] theorem exec_fexpF64 f (s : State) : exec (.fexpF64 f) s = execFexpF64 f s := rfl
@[simp] theorem exec_flogF32 f (s : State) : exec (.flogF32 f) s = execFlogF32 f s := rfl
@[simp] theorem exec_flogF64 f (s : State) : exec (.flogF64 f) s = execFlogF64 f s := rfl
@[simp] theorem exec_ferfF32 f (s : State) : exec (.ferfF32 f) s = execFerfF32 f s := rfl
@[simp] theorem exec_ferfF64 f (s : State) : exec (.ferfF64 f) s = execFerfF64 f s := rfl
@[simp] theorem exec_ferfcF32 f (s : State) : exec (.ferfcF32 f) s = execFerfcF32 f s := rfl
@[simp] theorem exec_ferfcF64 f (s : State) : exec (.ferfcF64 f) s = execFerfcF64 f s := rfl
@[simp] theorem exec_frcpF32 f (s : State) : exec (.frcpF32 f) s = execFrcpF32 f s := rfl
@[simp] theorem exec_frcpF64 f (s : State) : exec (.frcpF64 f) s = execFrcpF64 f s := rfl
@[simp] theorem exec_fsqrtF32 f (s : State) : exec (.fsqrtF32 f) s = execFsqrtF32 f s := rfl
@[simp] theorem exec_fsqrtF64 f (s : State) : exec (.fsqrtF64 f) s = execFsqrtF64 f s := rfl
@[simp] theorem exec_frsqrtF32 f (s : State) : exec (.frsqrtF32 f) s = execFrsqrtF32 f s := rfl
@[simp] theorem exec_frsqrtF64 f (s : State) : exec (.frsqrtF64 f) s = execFrsqrtF64 f s := rfl
@[simp] theorem exec_fexp2F32 f (s : State) : exec (.fexp2F32 f) s = execFexp2F32 f s := rfl
@[simp] theorem exec_flog2F32 f (s : State) : exec (.flog2F32 f) s = execFlog2F32 f s := rfl
@[simp] theorem exec_ftanhF32 f (s : State) : exec (.ftanhF32 f) s = execFtanhF32 f s := rfl
@[simp] theorem exec_fsigmF32 f (s : State) : exec (.fsigmF32 f) s = execFsigmF32 f s := rfl
@[simp] theorem exec_fangcsA32 f (s : State) : exec (.fangcsA32 f) s = execFangcsA32 f s := rfl
@[simp] theorem exec_fangcsA64 f (s : State) : exec (.fangcsA64 f) s = execFangcsA64 f s := rfl
@[simp] theorem exec_fangofA32 f (s : State) : exec (.fangofA32 f) s = execFangofA32 f s := rfl
@[simp] theorem exec_fangofA64 f (s : State) : exec (.fangofA64 f) s = execFangofA64 f s := rfl
@[simp] theorem exec_xnop g (s : State) : exec (.xnop g) s = execXnop g s := rfl
@[simp] theorem exec_xperm f (s : State) : exec (.xperm f) s = execXperm f s := rfl
@[simp] theorem exec_xcfg f (s : State) : exec (.xcfg f) s = execXcfg f s := rfl
@[simp] theorem exec_xbcast f (s : State) : exec (.xbcast f) s = execXbcast f s := rfl
@[simp] theorem exec_xrotl f (s : State) : exec (.xrotl f) s = execXrotl f s := rfl
@[simp] theorem exec_xdeal f (s : State) : exec (.xdeal f) s = execXdeal f s := rfl
@[simp] theorem exec_xweave f (s : State) : exec (.xweave f) s = execXweave f s := rfl
@[simp] theorem exec_mnop g (s : State) : exec (.mnop g) s = execMnop g s := rfl
@[simp] theorem exec_ldB f (s : State) : exec (.ldB f) s = execLdB f s := rfl
@[simp] theorem exec_ldBu f (s : State) : exec (.ldBu f) s = execLdBu f s := rfl
@[simp] theorem exec_ldH f (s : State) : exec (.ldH f) s = execLdH f s := rfl
@[simp] theorem exec_ldHu f (s : State) : exec (.ldHu f) s = execLdHu f s := rfl
@[simp] theorem exec_ldW f (s : State) : exec (.ldW f) s = execLdW f s := rfl
@[simp] theorem exec_ldWu f (s : State) : exec (.ldWu f) s = execLdWu f s := rfl
@[simp] theorem exec_ldD f (s : State) : exec (.ldD f) s = execLdD f s := rfl
@[simp] theorem exec_stB f (s : State) : exec (.stB f) s = execStB f s := rfl
@[simp] theorem exec_stH f (s : State) : exec (.stH f) s = execStH f s := rfl
@[simp] theorem exec_stW f (s : State) : exec (.stW f) s = execStW f s := rfl
@[simp] theorem exec_stD f (s : State) : exec (.stD f) s = execStD f s := rfl
@[simp] theorem exec_ldvW256 f (s : State) : exec (.ldvW256 f) s = execLdvW256 f s := rfl
@[simp] theorem exec_ldvW512 f (s : State) : exec (.ldvW512 f) s = execLdvW512 f s := rfl
@[simp] theorem exec_ldvW1024 f (s : State) : exec (.ldvW1024 f) s = execLdvW1024 f s := rfl
@[simp] theorem exec_stvW256 f (s : State) : exec (.stvW256 f) s = execStvW256 f s := rfl
@[simp] theorem exec_stvW512 f (s : State) : exec (.stvW512 f) s = execStvW512 f s := rfl
@[simp] theorem exec_stvW1024 f (s : State) : exec (.stvW1024 f) s = execStvW1024 f s := rfl
@[simp] theorem exec_ldvs f (s : State) : exec (.ldvs f) s = execLdvs f s := rfl
@[simp] theorem exec_ldvx f (s : State) : exec (.ldvx f) s = execLdvx f s := rfl
@[simp] theorem exec_stvx f (s : State) : exec (.stvx f) s = execStvx f s := rfl
@[simp] theorem exec_ldAcq f (s : State) : exec (.ldAcq f) s = execLdAcq f s := rfl
@[simp] theorem exec_stRel f (s : State) : exec (.stRel f) s = execStRel f s := rfl
@[simp] theorem exec_ldAcqW f (s : State) : exec (.ldAcqW f) s = execLdAcqW f s := rfl
@[simp] theorem exec_stRelW f (s : State) : exec (.stRelW f) s = execStRelW f s := rfl
@[simp] theorem exec_fence f (s : State) : exec (.fence f) s = execFence f s := rfl
@[simp] theorem exec_xfence f (s : State) : exec (.xfence f) s = execXfence f s := rfl
@[simp] theorem exec_accLd f (s : State) : exec (.accLd f) s = execAccLd f s := rfl
@[simp] theorem exec_accSt f (s : State) : exec (.accSt f) s = execAccSt f s := rfl
@[simp] theorem exec_accAddI f (s : State) : exec (.accAddI f) s = execAccAddI f s := rfl
@[simp] theorem exec_accAddF f (s : State) : exec (.accAddF f) s = execAccAddF f s := rfl
@[simp] theorem exec_accFaddI f (s : State) : exec (.accFaddI f) s = execAccFaddI f s := rfl
@[simp] theorem exec_accXchg f (s : State) : exec (.accXchg f) s = execAccXchg f s := rfl
@[simp] theorem exec_accAddvF f (s : State) : exec (.accAddvF f) s = execAccAddvF f s := rfl
@[simp] theorem exec_qrd f (s : State) : exec (.qrd f) s = execQrd f s := rfl
@[simp] theorem exec_qwr f (s : State) : exec (.qwr f) s = execQwr f s := rfl
@[simp] theorem exec_tnop g (s : State) : exec (.tnop g) s = execTnop g s := rfl
@[simp] theorem exec_rotLd f (s : State) : exec (.rotLd f) s = execRotLd f s := rfl
@[simp] theorem exec_rotApp f (s : State) : exec (.rotApp f) s = execRotApp f s := rfl
@[simp] theorem exec_rotAppt f (s : State) : exec (.rotAppt f) s = execRotAppt f s := rfl
@[simp] theorem exec_rotDrv f (s : State) : exec (.rotDrv f) s = execRotDrv f s := rfl
@[simp] theorem exec_rotLin f (s : State) : exec (.rotLin f) s = execRotLin f s := rfl
@[simp] theorem exec_rotGrad f (s : State) : exec (.rotGrad f) s = execRotGrad f s := rfl
@[simp] theorem exec_rotSlv f (s : State) : exec (.rotSlv f) s = execRotSlv f s := rfl
@[simp] theorem exec_rotSav f (s : State) : exec (.rotSav f) s = execRotSav f s := rfl
@[simp] theorem exec_rotRst f (s : State) : exec (.rotRst f) s = execRotRst f s := rfl
@[simp] theorem exec_rotNrm f (s : State) : exec (.rotNrm f) s = execRotNrm f s := rfl
@[simp] theorem exec_accSwap f (s : State) : exec (.accSwap f) s = execAccSwap f s := rfl
@[simp] theorem exec_accClr f (s : State) : exec (.accClr f) s = execAccClr f s := rfl
@[simp] theorem exec_seqLd f (s : State) : exec (.seqLd f) s = execSeqLd f s := rfl
@[simp] theorem exec_seqRun f (s : State) : exec (.seqRun f) s = execSeqRun f s := rfl
@[simp] theorem exec_cpGo f (s : State) : exec (.cpGo f) s = execCpGo f s := rfl
@[simp] theorem exec_cpTr f (s : State) : exec (.cpTr f) s = execCpTr f s := rfl
@[simp] theorem exec_cpFill f (s : State) : exec (.cpFill f) s = execCpFill f s := rfl
@[simp] theorem exec_cpBind f (s : State) : exec (.cpBind f) s = execCpBind f s := rfl
@[simp] theorem exec_cpWait f (s : State) : exec (.cpWait f) s = execCpWait f s := rfl
@[simp] theorem exec_cbar f (s : State) : exec (.cbar f) s = execCbar f s := rfl
@[simp] theorem exec_fuse f (s : State) : exec (.fuse f) s = execFuse f s := rfl
@[simp] theorem exec_dcpl f (s : State) : exec (.dcpl f) s = execDcpl f s := rfl
@[simp] theorem exec_rejoin f (s : State) : exec (.rejoin f) s = execRejoin f s := rfl
@[simp] theorem exec_eqInit f (s : State) : exec (.eqInit f) s = execEqInit f s := rfl
@[simp] theorem exec_eqUnite f (s : State) : exec (.eqUnite f) s = execEqUnite f s := rfl
@[simp] theorem exec_eqFind f (s : State) : exec (.eqFind f) s = execEqFind f s := rfl
@[simp] theorem exec_eqSame f (s : State) : exec (.eqSame f) s = execEqSame f s := rfl
@[simp] theorem exec_eqSize f (s : State) : exec (.eqSize f) s = execEqSize f s := rfl
@[simp] theorem exec_eqRelabel f (s : State) : exec (.eqRelabel f) s = execEqRelabel f s := rfl
@[simp] theorem exec_eqSnap f (s : State) : exec (.eqSnap f) s = execEqSnap f s := rfl
@[simp] theorem exec_eqUndo f (s : State) : exec (.eqUndo f) s = execEqUndo f s := rfl
@[simp] theorem exec_eqFence f (s : State) : exec (.eqFence f) s = execEqFence f s := rfl
@[simp] theorem exec_pkCfg f (s : State) : exec (.pkCfg f) s = execPkCfg f s := rfl
@[simp] theorem exec_pkLook f (s : State) : exec (.pkLook f) s = execPkLook f s := rfl
@[simp] theorem exec_pkBack f (s : State) : exec (.pkBack f) s = execPkBack f s := rfl
@[simp] theorem exec_pkWait f (s : State) : exec (.pkWait f) s = execPkWait f s := rfl
@[simp] theorem exec_nmAdd f (s : State) : exec (.nmAdd f) s = execNmAdd f s := rfl
@[simp] theorem exec_nmFai f (s : State) : exec (.nmFai f) s = execNmFai f s := rfl
@[simp] theorem exec_nmOpt f (s : State) : exec (.nmOpt f) s = execNmOpt f s := rfl
@[simp] theorem exec_nmFence f (s : State) : exec (.nmFence f) s = execNmFence f s := rfl
@[simp] theorem exec_asLd f (s : State) : exec (.asLd f) s = execAsLd f s := rfl
@[simp] theorem exec_asWait f (s : State) : exec (.asWait f) s = execAsWait f s := rfl
@[simp] theorem exec_graphGo f (s : State) : exec (.graphGo f) s = execGraphGo f s := rfl
@[simp] theorem exec_taskSig f (s : State) : exec (.taskSig f) s = execTaskSig f s := rfl
@[simp] theorem exec_rngSeed f (s : State) : exec (.rngSeed f) s = execRngSeed f s := rfl
@[simp] theorem exec_bundleIssue core (s : State) : exec (.bundleIssue core) s = execBundleIssue core s := rfl
@[simp] theorem exec_settleWindowEnd core (s : State) : exec (.settleWindowEnd core) s = execSettleWindowEnd core s := rfl
@[simp] theorem exec_emptyBundle cid (s : State) : exec (.emptyBundle cid) s = execEmptyBundle cid s := rfl
@[simp] theorem exec_dictLoadEnd cid (s : State) : exec (.dictLoadEnd cid) s = execDictLoadEnd cid s := rfl
@[simp] theorem exec_waitExpiry cid (s : State) : exec (.waitExpiry cid) s = execWaitExpiry cid s := rfl
@[simp] theorem exec_resultLanding cid (s : State) : exec (.resultLanding cid) s = execResultLanding cid s := rfl
@[simp] theorem exec_mDataArrival cid req (s : State) : exec (.mDataArrival cid req) s = execMDataArrival cid req s := rfl
@[simp] theorem exec_mLandingDue cid (s : State) : exec (.mLandingDue cid) s = execMLandingDue cid s := rfl
@[simp] theorem exec_storeLeaveQueue cid pos (s : State) : exec (.storeLeaveQueue cid pos) s = execStoreLeaveQueue cid pos s := rfl
@[simp] theorem exec_writeMoveOutward level unit pos (s : State) : exec (.writeMoveOutward level unit pos) s = execWriteMoveOutward level unit pos s := rfl
@[simp] theorem exec_writeToMemory pos (s : State) : exec (.writeToMemory pos) s = execWriteToMemory pos s := rfl
@[simp] theorem exec_remoteAcknowledge pos (s : State) : exec (.remoteAcknowledge pos) s = execRemoteAcknowledge pos s := rfl
@[simp] theorem exec_loadPerform cid pos (s : State) : exec (.loadPerform cid pos) s = execLoadPerform cid pos s := rfl
@[simp] theorem exec_acquirePerform cid pos (s : State) : exec (.acquirePerform cid pos) s = execAcquirePerform cid pos s := rfl
@[simp] theorem exec_atomicPerform cid pos (s : State) : exec (.atomicPerform cid pos) s = execAtomicPerform cid pos s := rfl
@[simp] theorem exec_keyedPerform cid pos (s : State) : exec (.keyedPerform cid pos) s = execKeyedPerform cid pos s := rfl
@[simp] theorem exec_engineAccessPerform cid cls pos (s : State) : exec (.engineAccessPerform cid cls pos) s = execEngineAccessPerform cid cls pos s := rfl
@[simp] theorem exec_seqTransition core (s : State) : exec (.seqTransition core) s = execSeqTransition core s := rfl
@[simp] theorem exec_engineOpStart core (s : State) : exec (.engineOpStart core) s = execEngineOpStart core s := rfl
@[simp] theorem exec_engineInterruptibleStep core (s : State) : exec (.engineInterruptibleStep core) s = execEngineInterruptibleStep core s := rfl
@[simp] theorem exec_engineOpEnd core (s : State) : exec (.engineOpEnd core) s = execEngineOpEnd core s := rfl
@[simp] theorem exec_resultWordDue cid (s : State) : exec (.resultWordDue cid) s = execResultWordDue cid s := rfl
@[simp] theorem exec_copyComplete cid pos (s : State) : exec (.copyComplete cid pos) s = execCopyComplete cid pos s := rfl
@[simp] theorem exec_streamElementDeliver cid q (s : State) : exec (.streamElementDeliver cid q) s = execStreamElementDeliver cid q s := rfl
@[simp] theorem exec_cbarArrival cid (s : State) : exec (.cbarArrival cid) s = execCbarArrival cid s := rfl
@[simp] theorem exec_cbarRelease cid (s : State) : exec (.cbarRelease cid) s = execCbarRelease cid s := rfl
@[simp] theorem exec_gangFusion leader (s : State) : exec (.gangFusion leader) s = execGangFusion leader s := rfl
@[simp] theorem exec_gangRejoin leader (s : State) : exec (.gangRejoin leader) s = execGangRejoin leader s := rfl
@[simp] theorem exec_eqRequestProcess cluster (s : State) : exec (.eqRequestProcess cluster) s = execEqRequestProcess cluster s := rfl
@[simp] theorem exec_pkCommandProcess die (s : State) : exec (.pkCommandProcess die) s = execPkCommandProcess die s := rfl
@[simp] theorem exec_pkCommandEnd die (s : State) : exec (.pkCommandEnd die) s = execPkCommandEnd die s := rfl
@[simp] theorem exec_nmRowPerform cid pos (s : State) : exec (.nmRowPerform cid pos) s = execNmRowPerform cid pos s := rfl
@[simp] theorem exec_nmAcknowledge cid pos (s : State) : exec (.nmAcknowledge cid pos) s = execNmAcknowledge cid pos s := rfl
@[simp] theorem exec_asLdComplete cid pos (s : State) : exec (.asLdComplete cid pos) s = execAsLdComplete cid pos s := rfl
@[simp] theorem exec_rngPush cid (s : State) : exec (.rngPush cid) s = execRngPush cid s := rfl
@[simp] theorem exec_trapAtBoundary cid (s : State) : exec (.trapAtBoundary cid) s = execTrapAtBoundary cid s := rfl
@[simp] theorem exec_deadlineEvent cid (s : State) : exec (.deadlineEvent cid) s = execDeadlineEvent cid s := rfl
@[simp] theorem exec_detStampIssue cid (s : State) : exec (.detStampIssue cid) s = execDetStampIssue cid s := rfl
@[simp] theorem exec_preemptionStop cid (s : State) : exec (.preemptionStop cid) s = execPreemptionStop cid s := rfl
@[simp] theorem exec_contextResume save cid (s : State) : exec (.contextResume save cid) s = execContextResume save cid s := rfl
@[simp] theorem exec_checkpointTake cid (s : State) : exec (.checkpointTake cid) s = execCheckpointTake cid s := rfl
@[simp] theorem exec_intervalUnprotected cid (s : State) : exec (.intervalUnprotected cid) s = execIntervalUnprotected cid s := rfl
@[simp] theorem exec_tlbWalkComplete die pos (s : State) : exec (.tlbWalkComplete die pos) s = execTlbWalkComplete die pos s := rfl
@[simp] theorem exec_invalidationDone part pos (s : State) : exec (.invalidationDone part pos) s = execInvalidationDone part pos s := rfl
@[simp] theorem exec_graphStart part queue (s : State) : exec (.graphStart part queue) s = execGraphStart part queue s := rfl
@[simp] theorem exec_nodeRelease part queue node (s : State) : exec (.nodeRelease part queue node) s = execNodeRelease part queue node s := rfl
@[simp] theorem exec_reservationGrant part cid (s : State) : exec (.reservationGrant part cid) s = execReservationGrant part cid s := rfl
@[simp] theorem exec_taskBind part queue node cid (s : State) : exec (.taskBind part queue node cid) s = execTaskBind part queue node cid s := rfl
@[simp] theorem exec_taskStart cid (s : State) : exec (.taskStart cid) s = execTaskStart cid s := rfl
@[simp] theorem exec_agePromotion part queue node (s : State) : exec (.agePromotion part queue node) s = execAgePromotion part queue node s := rfl
@[simp] theorem exec_taskEndComplete cid (s : State) : exec (.taskEndComplete cid) s = execTaskEndComplete cid s := rfl
@[simp] theorem exec_pushConsumed cid q (s : State) : exec (.pushConsumed cid q) s = execPushConsumed cid q s := rfl
@[simp] theorem exec_preemptionRequest part (s : State) : exec (.preemptionRequest part) s = execPreemptionRequest part s := rfl
@[simp] theorem exec_detectedError w cid (s : State) : exec (.detectedError w cid) s = execDetectedError w cid s := rfl
@[simp] theorem exec_faultReply part msg (s : State) : exec (.faultReply part msg) s = execFaultReply part msg s := rfl
@[simp] theorem exec_invalidation part msg (s : State) : exec (.invalidation part msg) s = execInvalidation part msg s := rfl
@[simp] theorem exec_hostLaunch part msg (s : State) : exec (.hostLaunch part msg) s = execHostLaunch part msg s := rfl
@[simp] theorem exec_unknownLaunchMessage part msg (s : State) : exec (.unknownLaunchMessage part msg) s = execUnknownLaunchMessage part msg s := rfl
@[simp] theorem exec_inboundRmaRead q addr len (s : State) : exec (.inboundRmaRead q addr len) s = execInboundRmaRead q addr len s := rfl
@[simp] theorem exec_inboundRmaWrite q addr data (s : State) : exec (.inboundRmaWrite q addr data) s = execInboundRmaWrite q addr data s := rfl
@[simp] theorem exec_inboundAtomic q addr op size operand compare (s : State) : exec (.inboundAtomic q addr op size operand compare) s = execInboundAtomic q addr op size operand compare s := rfl
@[simp] theorem exec_remoteErrorResponse cid pos (s : State) : exec (.remoteErrorResponse cid pos) s = execRemoteErrorResponse cid pos s := rfl
@[simp] theorem exec_attestationRequest nonce (s : State) : exec (.attestationRequest nonce) s = execAttestationRequest nonce s := rfl
@[simp] theorem exec_debugChallengeRequest domain (s : State) : exec (.debugChallengeRequest domain) s = execDebugChallengeRequest domain s := rfl
@[simp] theorem exec_debugUnlockAnswer domain sig (s : State) : exec (.debugUnlockAnswer domain sig) s = execDebugUnlockAnswer domain sig s := rfl
@[simp] theorem exec_debugRelock domain (s : State) : exec (.debugRelock domain) s = execDebugRelock domain s := rfl
@[simp] theorem exec_ownerKeyInstall key sig (s : State) : exec (.ownerKeyInstall key sig) s = execOwnerKeyInstall key sig s := rfl
@[simp] theorem exec_launchPolicyChange part require keys sig (s : State) : exec (.launchPolicyChange part require keys sig) s = execLaunchPolicyChange part require keys sig s := rfl
@[simp] theorem exec_peerTableChange part slot valid addr sig (s : State) : exec (.peerTableChange part slot valid addr sig) s = execPeerTableChange part slot valid addr sig s := rfl
@[simp] theorem exec_retirementTableClear sig (s : State) : exec (.retirementTableClear sig) s = execRetirementTableClear sig s := rfl
@[simp] theorem exec_partitionForm part dieMask root sig (s : State) : exec (.partitionForm part dieMask root sig) s = execPartitionForm part dieMask root sig s := rfl
@[simp] theorem exec_firmwareImage image version sig (s : State) : exec (.firmwareImage image version sig) s = execFirmwareImage image version sig s := rfl
@[simp] theorem exec_dumpClear die (s : State) : exec (.dumpClear die) s = execDumpClear die s := rfl
@[simp] theorem exec_moduleReset (s : State) : exec .moduleReset s = execModuleReset s := rfl
@[simp] theorem exec_droopDetect cluster core (s : State) : exec (.droopDetect cluster core) s = execDroopDetect cluster core s := rfl
@[simp] theorem exec_currentLimitFall cluster (s : State) : exec (.currentLimitFall cluster) s = execCurrentLimitFall cluster s := rfl
@[simp] theorem exec_ballastPeriod cluster busy (s : State) : exec (.ballastPeriod cluster busy) s = execBallastPeriod cluster busy s := rfl
@[simp] theorem exec_thermalReading die temps (s : State) : exec (.thermalReading die temps) s = execThermalReading die temps s := rfl
@[simp] theorem exec_watchdogExpiry (s : State) : exec .watchdogExpiry s = execWatchdogExpiry s := rfl
@[simp] theorem exec_fatalError cause (s : State) : exec (.fatalError cause) s = execFatalError cause s := rfl
@[simp] theorem exec_correctedError core kind (s : State) : exec (.correctedError core kind) s = execCorrectedError core kind s := rfl
@[simp] theorem exec_unsupportedPacket part answered (s : State) : exec (.unsupportedPacket part answered) s = execUnsupportedPacket part answered s := rfl
@[simp] theorem exec_breakpointComparatorSet cid n addr mask (s : State) : exec (.breakpointComparatorSet cid n addr mask) s = execBreakpointComparatorSet cid n addr mask s := rfl
@[simp] theorem exec_debugSessionResume cid (s : State) : exec (.debugSessionResume cid) s = execDebugSessionResume cid s := rfl
@[simp] theorem exec_heldContextImageWrite cid reg value (s : State) : exec (.heldContextImageWrite cid reg value) s = execHeldContextImageWrite cid reg value s := rfl
@[simp] theorem exec_debugKeyInstall domain key sig (s : State) : exec (.debugKeyInstall domain key sig) s = execDebugKeyInstall domain key sig s := rfl
@[simp] theorem exec_partitionDissolution part sig (s : State) : exec (.partitionDissolution part sig) s = execPartitionDissolution part sig s := rfl
@[simp] theorem exec_powerOff (s : State) : exec .powerOff s = execPowerOff s := rfl

end Sys2Proof.Machine
end

