-- ==== Sys2Proof/Laws/Memory.lean ====
section
/-! SUPPORT. The laws of memory: a read after a write, and the canonical form under every memory operation. -/

namespace Sys2Proof.Machine

/-! ### Reads after writes -/

theorem memGet_below {m : List Host.Cell} {lo a : Nat} (h : memWfFrom lo m = true) (ha : a < lo) :
    memGet m a = memDefault a := by
  induction m generalizing lo with
  | nil => rfl
  | cons c t ih =>
    obtain ⟨k, v⟩ := c
    simp only [memWfFrom, Bool.and_eq_true, decide_eq_true_eq] at h
    have hk : k ≠ a := by omega
    simpa [memGet, hk] using ih h.2 (by omega)

/-- In canonical memory, a write is read back, and no other byte changes. -/
theorem memGet_memPut_from {m : List Host.Cell} {lo : Nat} (h : memWfFrom lo m = true) (a x : Nat) (b : Byte) :
    memGet (memPut m a b) x = if x = a then b else memGet m x := by
  induction m generalizing lo with
  | nil =>
    by_cases hb : b = memDefault a
    · by_cases hx : x = a
      · subst hx; simp [memPut, memGet, hb]
      · simp [memPut, memGet, hb, hx]
    · simp [memPut, memGet, hb, eq_comm]
  | cons c t ih =>
    obtain ⟨k, v⟩ := c
    simp only [memWfFrom, Bool.and_eq_true, decide_eq_true_eq] at h
    obtain ⟨⟨_, hv⟩, ht⟩ := h
    by_cases h1 : a < k
    · by_cases hb : b = memDefault a
      · by_cases hx : x = a
        · subst hx
          simp [memPut, memGet, h1, hb, show k ≠ x by omega, memGet_below ht (show x < k + 1 by omega)]
        · simp [memPut, memGet, h1, hb, hx]
      · simp [memPut, memGet, h1, hb, eq_comm]
    · by_cases h2 : a = k
      · subst h2
        by_cases hb : b = memDefault a
        · by_cases hx : x = a
          · subst hx
            simp [memPut, hb, memGet_below ht (show x < x + 1 by omega)]
          · simp [memPut, memGet, hb, hx, Ne.symm hx]
        · by_cases hx : x = a
          · subst hx; simp [memPut, memGet, hb]
          · simp [memPut, memGet, hb, hx, Ne.symm hx]
      · have := ih ht
        by_cases hx : x = a
        · subst hx; simp [memPut, memGet, h1, h2, this, Ne.symm h2]
        · simp [memPut, memGet, h1, h2, this, hx]

theorem memGet_memPut {m : List Host.Cell} (h : Memory.wf m = true) (a x : Nat) (b : Byte) :
    memGet (memPut m a b) x = if x = a then b else memGet m x := memGet_memPut_from h a x b

/-! ### The canonical form -/

theorem memWfFrom_weaken {m : List Host.Cell} {lo lo' : Nat} (h : memWfFrom lo m = true) (hl : lo' ≤ lo) :
    memWfFrom lo' m = true := by
  cases m with
  | nil => rfl
  | cons c t =>
    simp only [memWfFrom, Bool.and_eq_true, decide_eq_true_eq] at h ⊢
    exact ⟨⟨by omega, h.1.2⟩, h.2⟩

theorem memWfFrom_memPut {m : List Host.Cell} {lo a : Nat} (h : memWfFrom lo m = true) (ha : lo ≤ a) (b : Byte) :
    memWfFrom lo (memPut m a b) = true := by
  induction m generalizing lo with
  | nil => by_cases hb : b = memDefault a <;> simp [memPut, memWfFrom, hb, ha]
  | cons c t ih =>
    obtain ⟨k, v⟩ := c
    simp only [memWfFrom, Bool.and_eq_true, decide_eq_true_eq] at h
    obtain ⟨⟨hk, hv⟩, ht⟩ := h
    by_cases h1 : a < k
    · by_cases hb : b = memDefault a
      · simp [memPut, h1, hb, memWfFrom, hk, hv, ht]
      · simp [memPut, h1, hb, memWfFrom, ha, hv, ht]
    · by_cases h2 : a = k
      · subst h2
        by_cases hb : b = memDefault a
        · simpa [memPut, hb] using memWfFrom_weaken ht (by omega)
        · simp [memPut, hb, memWfFrom, ha, ht]
      · simp [memPut, h1, h2, memWfFrom, hk, hv, ih ht (by omega)]

theorem memWf_memPut {m : List Host.Cell} (h : Memory.wf m = true) (a : Nat) (b : Byte) :
    Memory.wf (memPut m a b) = true := memWfFrom_memPut h (Nat.zero_le a) b

theorem memWf_memPutAll {m : List Host.Cell} (h : Memory.wf m = true) (cs : List Host.Cell) :
    Memory.wf (memPutAll m cs) = true := by
  induction cs generalizing m with
  | nil => exact h
  | cons c t ih => exact ih (memWf_memPut h c.1 c.2)

theorem memWf_memPutBytes {m : List Host.Cell} (h : Memory.wf m = true) (a : Nat) (bs : List Byte) :
    Memory.wf (memPutBytes m a bs) = true := by
  induction bs generalizing m a with
  | nil => exact h
  | cons b t ih => exact ih (memWf_memPut h a b) (a + 1)

theorem memWfFrom_filter {m : List Host.Cell} {lo : Nat} (h : memWfFrom lo m = true) (f : Host.Cell → Bool) :
    memWfFrom lo (m.filter f) = true := by
  induction m generalizing lo with
  | nil => rfl
  | cons c t ih =>
    obtain ⟨k, v⟩ := c
    simp only [memWfFrom, Bool.and_eq_true, decide_eq_true_eq] at h
    by_cases hf : f (k, v) = true
    · simp [hf, memWfFrom, h.1.1, h.1.2, ih h.2]
    · simpa [List.filter_cons, hf] using memWfFrom_weaken (ih h.2) (by omega)

theorem memWf_filter {m : List Host.Cell} (h : Memory.wf m = true) (f : Host.Cell → Bool) :
    Memory.wf (m.filter f) = true := memWfFrom_filter h f

theorem memWf_memClear {m : List Host.Cell} (h : Memory.wf m = true) (lo hi : Nat) :
    Memory.wf (memClear m lo hi) = true := memWf_filter h _

theorem memWf_reset : Memory.wf State.reset.mem = true := rfl

/-! ### Several bytes -/

theorem memGet_memPutAll_off {m : List Host.Cell} (h : Memory.wf m = true) (cs : List Host.Cell) {x : Nat}
    (hx : ∀ c ∈ cs, c.1 ≠ x) : memGet (memPutAll m cs) x = memGet m x := by
  induction cs generalizing m with
  | nil => rfl
  | cons c t ih =>
    rw [memPutAll, ih (memWf_memPut h c.1 c.2) fun d hd => hx d (List.mem_cons_of_mem _ hd), memGet_memPut h,
      if_neg (Ne.symm (hx c (List.mem_cons_self ..)))]

theorem memGet_memPutBytes_off {m : List Host.Cell} (h : Memory.wf m = true) (a : Nat) (bs : List Byte) {x : Nat}
    (hx : x < a ∨ a + bs.length ≤ x) : memGet (memPutBytes m a bs) x = memGet m x := by
  induction bs generalizing m a with
  | nil => rfl
  | cons b t ih =>
    simp only [List.length_cons] at hx
    rw [memPutBytes, ih (memWf_memPut h a b) (a + 1) (by omega), memGet_memPut h, if_neg (by omega)]

theorem memGet_memPutBytes_on {m : List Host.Cell} (h : Memory.wf m = true) (a : Nat) (bs : List Byte) {i : Nat}
    (hi : i < bs.length) : memGet (memPutBytes m a bs) (a + i) = bs[i] := by
  induction bs generalizing m a i with
  | nil => simp at hi
  | cons b t ih =>
    cases i with
    | zero =>
      rw [memPutBytes, memGet_memPutBytes_off (memWf_memPut h a b) (a + 1) t (by omega), memGet_memPut h]
      simp
    | succ i =>
      have := ih (memWf_memPut h a b) (a + 1) (i := i) (by simpa using hi)
      simpa [memPutBytes, Nat.add_assoc, Nat.add_comm 1 i] using this

end Sys2Proof.Machine
end

