-- ==== Sys2Proof/Tests/Slice0.lean ====
section
/-! SUPPORT. Tests: ill-formed terms are refused, words written out from the spec decode, steps run them, and witnesses
that the hypotheses of the statements can be met. -/

set_option maxRecDepth 20000

namespace Sys2Proof.Tests

open Sys2Proof.Machine Sys2Proof.Claims

/-! ### Well-formedness: one ill-formed term for each check -/

theorem test_wf_refuses_scalar :
    ([.add ⟨16, 0, 1, 1, 1⟩, .add ⟨0, 0, 1, 72, 1⟩, .add ⟨0, 0, 1, 1, 127⟩, .cmpEq ⟨0, 0, 1, 1⟩, .loop ⟨0, 0, 1, 0⟩,
      .crd ⟨0, 1, 0x45⟩, .cwr ⟨0, 1, 0x21⟩] : List Instr).map Instr.wf = List.replicate 7 false := by decide

theorem test_wf_refuses_vector :
    ([.vadd ⟨0, 3, 0, 1, 2, 3, 0, 0⟩, .vadd ⟨0, 2, 0, 1, 40, 3, 0, 0⟩, .vadd ⟨0, 2, 0, 1, 2, 63, 0, 0⟩,
      .vadd ⟨0, 2, 0, 1, 2, 3, 0, 5⟩, .vadd ⟨0, 2, 0, 1, 2, 3, 1, 0⟩, .vcvt ⟨0, 2, 0, 1, 2, 0, 0x14, 0⟩,
      .vcvt ⟨0, 2, 0, 1, 2, 0, 0, 6⟩, .vfcmp 2 ⟨0, 2, 0, 1, 2, 3, 0, 0⟩, .vfcmp 2 ⟨0, 2, 0, 2, 2, 3, 8, 0⟩,
      .vfsgn 2 ⟨0, 2, 0, 1, 2, 3, 0, 0⟩, .vfrnd 2 ⟨0, 2, 0, 1, 2, 0, 2, 0⟩, .vbpk ⟨0, 1, 0, 1, 2, 0, 4, 0⟩,
      .vbpk ⟨0, 2, 0, 1, 2, 0, 8, 0⟩, .vext ⟨0, 0, 0, 1, 2, 0, 8, 0⟩, .vext ⟨0, 0, 1, 1, 2, 0, 0, 0⟩,
      .vins ⟨0, 1, 0, 1, 2, 3, 16, 0⟩, .vsplat ⟨0, 2, 0, 1, 2, 0, 2, 0⟩] : List Instr).map Instr.wf =
      List.replicate 17 false := by decide

theorem test_wf_refuses_fx :
    ([.fexpF32 ⟨0, 0, 1, 2, 6⟩, .fangcsA32 ⟨0, 0, 31, 2, 0⟩, .fangofA32 ⟨0, 0, 1, 31, 0⟩, .xcfg ⟨0, 1, 2, 1⟩,
      .xdeal ⟨0, 1, 2, 4⟩] : List Instr).map Instr.wf = List.replicate 5 false := by decide

theorem test_wf_refuses_memory :
    ([.stB ⟨0, 1, 2, 0, 1⟩, .ldvW256 ⟨0, 32, 2, 0, 0⟩, .stvW256 ⟨0, 40, 2, 0, 0⟩, .ldvx ⟨0, 1, 2, 4, 0⟩,
      .fence ⟨0, 1, 0, 0, 0⟩, .xfence ⟨0, 32, 0, 0, 0⟩, .qrd ⟨0, 1, 8, 0, 0⟩] : List Instr).map Instr.wf =
      List.replicate 7 false := by decide

theorem test_wf_refuses_commands :
    ([.rotLd ⟨0, 1, 2, 0, 0, 1⟩, .rotGrad ⟨0, 1, 2, 3, 4, 1⟩, .accClr ⟨0, 0, 0, 0, 0, 0⟩, .cpWait ⟨0, 1, 0, 0, 0, 0⟩,
      .cbar ⟨0, 1, 2, 0, 0, 1⟩, .eqFence ⟨0, 0, 0, 0, 0, 0⟩, .rotSav ⟨0, 1, 2, 0, 1, 0⟩] : List Instr).map Instr.wf =
      List.replicate 7 false := by decide

theorem test_wf_refuses_events :
    (Instr.bundleIssue 4096).wf = false ∧ (Instr.taskStart 8192).wf = false ∧ (Instr.pkCommandProcess 8).wf = false ∧
      (Instr.eqRequestProcess 256).wf = false ∧ (Instr.graphStart 0 16).wf = false ∧
      (Instr.streamElementDeliver 0 8).wf = false ∧ (Instr.debugChallengeRequest 9).wf = false := by decide

/-! ### Decoding: words written out bit by bit -/

/-- R73, R78: `add s7, s1, s2` is G 00000, op 000001, nw 0, dst 000111, srcA 0000001, srcB 0000010. -/
theorem test_decode_add : decodeSlot .s 0b00000_000001_0_000111_0000001_0000010 = some (.add ⟨0, 0, 7, 1, 2⟩) := by decide
/-- R73, R89: `(p4) addi s8, s8, -1`. -/
theorem test_decode_addi : decodeSlot .s 0x2342047F = some (.addi ⟨4, 0, 8, 8, 0x7F⟩) := by decide
/-- R73, R95: `(p3) br +4`. -/
theorem test_decode_br : decodeSlot .s 0x1E000004 = some (.br ⟨3, 4⟩) := by decide
/-- R69: a slot guarded by !p0 is a nop whatever its other bits are. -/
theorem test_decode_disabled : decodeSlot .s 0x87FFFFFF = some (.nop 16) := by decide
/-- R77: an unused field that is not zero rejects the word. -/
theorem test_decode_unused_field : decodeSlot .s 0x06800001 = none := by decide
/-- R109: the worked encoding of `vfadd.f32.w512.rtz`. -/
theorem test_decode_vfadd : decodeSlot .v 0x0064312201 = some (.vfadd 2 ⟨0, 1, 0, 3, 4, 34, 0, 1⟩) := by decide
/-- R112: the worked encoding of `vfma`. -/
theorem test_decode_vfma : (decodeSlot .v 0x012880421B).isSome = true := by decide
/-- R135: `fexp.f64.rup v10, v11`. -/
theorem test_decode_fexp : decodeSlot .f 0x008A5A = some (.fexpF64 ⟨0, 0, 10, 11, 2⟩) := by decide
/-- R142: `xrotl`. -/
theorem test_decode_xrotl : decodeSlot .x 0x0214C3 = some (.xrotl ⟨0, 5, 6, 3⟩) := by decide
/-- R153: the worked encoding of `ld.w`. -/
theorem test_decode_ldw : decodeSlot .m 0x00A48802AB = some (.ldW ⟨0, 9, 4, 2, 0xAB⟩) := by decide
/-- R154: the worked encoding of `stv.w1024`. -/
theorem test_decode_stv : (decodeSlot .m 0x0241940200).isSome = true := by decide
/-- R159: `xfence n, m`. -/
theorem test_decode_xfence : ∃ f, decodeSlot .m 0x03AA000000 = some (.xfence f) ∧ f.classA = 5 ∧ f.classB = 0 := by
  exact ⟨_, rfl, by decide, by decide⟩
/-- R213: `acc.swap 0b0001`. -/
theorem test_decode_acc_swap : decodeSlot .t 0x00B0000001 = some (.accSwap ⟨0, 0, 0, 0, 0, 1⟩) := by decide
/-- R241: the worked encoding of `cp.go`. -/
theorem test_decode_cp_go : decodeSlot .t 0x01028B30D5 = some (.cpGo ⟨0, 10, 11, 12, 13, 5⟩) := by decide
/-- R250: `cbar s8, s9`. -/
theorem test_decode_cbar : decodeSlot .t 0x01B2090000 = some (.cbar ⟨0, 8, 9, 0, 0, 0⟩) := by decide
/-- R253: `fuse s7`, `dcpl`, `rejoin`. -/
theorem test_decode_gang : decodeSlot .t 0x0180000070 = some (.fuse ⟨0, 0, 0, 0, 7, 0⟩) ∧
    decodeSlot .t 0x0190000000 = some (.dcpl ⟨0, 0, 0, 0, 0, 0⟩) ∧
    decodeSlot .t 0x01A0000000 = some (.rejoin ⟨0, 0, 0, 0, 0, 0⟩) := by decide
/-- R272, R297, R311, R289, R345: worked encodings of unit commands. -/
theorem test_decode_units : (decodeSlot .t 0x0215155891).isSome = true ∧ decodeSlot .t 0x0280000080 = some (.eqFence ⟨0, 0, 0, 0, 8, 0⟩) ∧
    (decodeSlot .t 0x0315155891).isSome = true ∧ (decodeSlot .t 0x0385155970).isSome = true ∧
    (decodeSlot .t 0x0405155891).isSome = true ∧ (decodeSlot .t 0x0485155893).isSome = true := by decide
/-- R347: `rng.seed`. -/
theorem test_decode_rng_seed : decodeSlot .t 0x04A28B30D0 = some (.rngSeed ⟨0, 10, 11, 12, 13, 0⟩) := by decide

/-! ### One step on small states -/

/-- The state after reset with context 0 changed. -/
def at0 (f : Ctx → Ctx) : State := State.reset.modCtx 0 f
/-- The state after reset with the registers of context 0 changed. -/
def reg0 (f : Regs → Regs) : State := at0 fun c => { c with r := f c.r }
/-- A next state, or the state after reset. -/
def out (o : Host.Outcome State Fault Refusal) : State :=
  match o with
  | .next s => s
  | _ => State.reset

/-- R86: `add s7, s1, s2` wraps modulo 2^64 and lands one cc later. -/
theorem test_add_wraps :
    ((out (exec (.add ⟨0, 0, 7, 1, 2⟩)
      (reg0 fun r => (r.writeS 1 (SVal.mkOk 0xFFFFFFFFFFFFFFFF)).writeS 2 (SVal.mkOk 2)))).ctx 0).r.flight =
      [⟨1, 0, [.sreg 7 (SVal.mkOk 1)], some (.scalar (SVal.mkOk 1)), 0⟩] := by decide
/-- R87: the remainder takes the sign of A, and division truncates toward zero. -/
theorem test_div_truncates :
    let s := reg0 fun r => (r.writeS 1 (SVal.mkOk (BitVec.ofInt 64 (-7)))).writeS 2 (SVal.mkOk 2)
    ((out (exec (.div ⟨0, 0, 7, 1, 2⟩) s)).ctx 0).r.flight.map (·.writes) = [[.sreg 7 (SVal.mkOk (BitVec.ofInt 64 (-3)))]] ∧
      ((out (exec (.rem ⟨0, 0, 7, 1, 2⟩) s)).ctx 0).r.flight.map (·.writes) = [[.sreg 7 (SVal.mkOk (BitVec.ofInt 64 (-1)))]] := by
  decide
/-- R61: an invalid source word makes both result words invalid. -/
theorem test_invalid_source :
    ((out (exec (.add ⟨0, 0, 7, 1, 2⟩) (reg0 fun r => r.writeS 1 ⟨5, true, false⟩))).ctx 0).r.flight.map (·.writes) =
      [[.sreg 7 ⟨5, false, false⟩]] := by decide
/-- R91: a compare with an invalid operand writes the neither state. -/
theorem test_compare_neither :
    ((out (exec (.cmpEq ⟨0, 1, 1, 1⟩) (reg0 fun r => r.writeS 1 ⟨5, false, true⟩))).ctx 0).r.flight.map (·.writes) =
      [[.neither 2]] := by decide
/-- A step runs the word that stands where the next instruction is fetched. -/
theorem test_step_runs_add :
    ((out (step (State.reset.withFetchWord 32 0x0021C082))).ctx 0).r.flight.map (·.writes) = [[.sreg 7 (SVal.mkOk 0)]] := by
  decide
/-- R77: a reserved word is an illegal slot, and without a handler that is fatal (R227). -/
theorem test_step_illegal :
    let t := (out (step (State.reset.withFetchWord 32 0x06800001))).ctx 0
    t.status = .ending ∧ t.endInfo.map (·.cause) = some 3 := by decide

/-! ### Witnesses: scalar, predicate, vector, F and X slots -/

/-- Both sources of an S slot read, and nothing lands with its result. -/
theorem witness_scalar_forms : ∀ e ∈ regForms,
    let f : SReg := ⟨0, 0, 63, 63, 71⟩
    Enabled f.g State.reset ∧ State.reset.me.r.src f.a = some (SVal.mkOk 0) ∧ State.reset.me.r.src f.b = some ⟨0, false, false⟩ ∧
      Free State.reset e.2.1 (toS f.nw f.d (SVal.whole (e.2.2 0 0) false)) := by decide
/-- A latch of vector kind in a scalar field. -/
theorem witness_scalar_wrong_kind :
    let s := reg0 fun r => { r with latch := r.latch.set 2 (.vector VVal.zero) }
    Enabled 0 s ∧ s.me.r.src 66 = none ∧ s.me.r.src 1 = some (SVal.mkOk 0) := by decide
/-- Two results in one register in one cc. -/
theorem witness_scalar_collision :
    let s := reg0 fun r => { r with flight := [⟨1, 1, [.sreg 7 (SVal.mkOk 1)], none, 0⟩] }
    Enabled 0 s ∧ s.collides 1 (toS 0 7 (SVal.whole 0 true)) = true := by decide
/-- Two results in one predicate in one cc: of a predicate operation, and of a compare through its second predicate. -/
theorem witness_predicate_collision :
    let s := reg0 fun r => { r with flight := [⟨1, 1, [.pred 5 true], none, 0⟩] }
    Enabled 0 s ∧ s.collides 1 [.pred 5 false] = true ∧ s.me.r.src 1 = some (SVal.mkOk 0) ∧
      s.collides 1 (pair 2 true true) = true := by decide
theorem witness_shifts_and_fields :
    Enabled 0 State.reset ∧ State.reset.me.r.src 1 = some (SVal.mkOk 0) ∧ State.reset.me.r.src 2 = some (SVal.mkOk 0) ∧
      Free State.reset 1 (toS 0 7 (SVal.mkOk 0)) := by decide
theorem witness_immediates : Enabled 0 State.reset ∧ State.reset.me.r.src 1 = some (SVal.mkOk 0) ∧
    Free State.reset 1 (toS 1 63 (SVal.mkOk 0)) ∧ (0 : BitVec 5) ≠ 16 ∧ (71 : BitVec 7).toNat < 72 := by decide
/-- Words that the refusals speak of: a shift by 64, a set field of `loop.exit`, an odd destination, and the like. -/
theorem witness_refusals :
    (opField .s 0x03800040 = 0x1C ∧ slotGuard .s 0x03800040 ≠ 16 ∧ 64 ≤ fieldN 0x03800040 0 7) ∧
    (opField .s 0x05300000 = 0x29 ∧ slotGuard .s 0x05300000 ≠ 16 ∧ fieldN 0x05300000 20 1 ≠ 0) ∧
    (opField .s 0x06800001 = 0x34 ∧ slotGuard .s 0x06800001 ≠ 16 ∧ fieldN 0x06800001 0 21 ≠ 0) ∧
    (opField .v 0x0500100000 = 0x50 ∧ slotGuard .v 0x0500100000 ≠ 16 ∧ fieldN 0x0500100000 20 5 % 2 ≠ 0) ∧
    (opField .v 0x0580000008 = 0x58 ∧ slotGuard .v 0x0580000008 ≠ 16 ∧ fieldN 0x0580000008 3 5 ≠ 0) ∧
    (opField .v 0x0630000040 = 0x63 ∧ vWords (BitVec.ofNat 2 (fieldN 0x0630000040 26 2)) ≤ fieldN 0x0630000040 3 5) ∧
    (opField .v 0x0600000010 = 0x60 ∧ 1 < fieldN 0x0600000010 3 5) ∧
    (opField .v 0x0610000008 = 0x61 ∧ fieldN 0x0610000008 3 17 ≠ 0) ∧
    (opField .v 0x0622000000 = 0x62 ∧ fieldN 0x0622000000 25 1 ≠ 0) ∧
    (opField .v 0x0200000018 = 0x20 ∧ 2 < fieldN 0x0200000018 3 5) := by decide
theorem witness_compares : Enabled 16 (State.reset) = False ∧ Enabled 0 State.reset ∧
    State.reset.me.r.src 1 = some (SVal.mkOk 0) ∧ Free State.reset 1 (pair 7 true true) ∧ Free State.reset 1 (pair 7 false true) ∧
    (7 : BitVec 3) ≠ 0 ∧ (15 : BitVec 4).toNat / 2 = (7 : BitVec 3).toNat ∧ (31 : BitVec 5).setWidth 4 = (15 : BitVec 4) := by
  refine ⟨eq_false (by decide), by decide, by decide, by decide, by decide, by decide, by decide, by decide⟩
theorem witness_predicates : Enabled 0 State.reset ∧ Free State.reset 1 [.pred 15 true] := by decide
/-- Both sources of a V slot read: a register and a voided latch. -/
theorem witness_vector_forms :
    let f : VFld := ⟨0, 2, 0, 31, 31, 39, 0, 0⟩
    Enabled f.g State.reset ∧ State.reset.me.r.vsrc f.a = some VVal.zero ∧ (State.reset.me.r.vsrc f.b).isSome = true ∧
      Free State.reset 2 (toV f VVal.zero) ∧ Free State.reset 5 (toV f VVal.zero) ∧ Free State.reset 3 (toV f VVal.zero) ∧
      Free State.reset 2 (toVV { f with d := 30 } VVal.zero VVal.zero) ∧
      Free State.reset 6 (toVV { f with d := 30 } VVal.zero VVal.zero) := by decide
theorem witness_fp_forms : ∀ t : BitVec 2,
    let f : VFld := ⟨0, 2, 0, 31, 1, 2, 2, 0⟩
    Enabled f.g State.reset ∧ State.reset.me.r.vsrc f.a = some VVal.zero ∧ State.reset.me.r.vsrc f.b = some VVal.zero ∧
      f.c.toNat < 3 ∧ Free State.reset (fpLat t) (toV f VVal.zero) ∧ Free State.reset 16 (toV f VVal.zero) ∧
      Free State.reset 30 (toV f VVal.zero) ∧ Free State.reset (fpLat t) (toVV { f with d := 30 } VVal.zero VVal.zero) := by decide
/-- A stochastic conversion with a random word, and one without. -/
theorem witness_stochastic :
    let f : VFld := ⟨0, 2, 0, 1, 1, 0, 0, 5⟩
    f.rm = 5 ∧ (reg0 fun r => { r with rng := [7] }).me.r.rng = [7] ∧ State.reset.me.r.rng = [] := by decide
theorem witness_special_functions : Enabled 0 State.reset ∧ FUnitFree State.reset ∧
    (∀ lat v, Free State.reset lat [.vreg 31 32 v]) ∧ (∀ lat v v', Free State.reset lat [.vreg 30 32 v, .vreg 31 32 v']) :=
  ⟨by decide, by decide, fun _ _ => rfl, fun _ _ _ => rfl⟩
/-- The F unit in use by the context itself. -/
theorem witness_f_unit_busy :
    let s := reg0 fun r => { r with flight := [⟨14, 1, [.vreg 31 32 VVal.zero], none, 0⟩] }
    ¬ FUnitFree (reg0 fun r => { r with fUntil := 1 }) ∧ Enabled 0 s ∧
      s.collides 14 (toF ⟨0, 0, 31, 1, 0⟩ false VVal.zero VVal.zero) = true ∧
      s.collides 14 (toF ⟨0, 0, 30, 1, 0⟩ true VVal.zero VVal.zero) = true := by decide
theorem witness_crossbar : Enabled 0 State.reset ∧ (∀ v, Free State.reset 2 [.vreg 31 32 v]) ∧
    (State.reset.me.r.pattern 31).length = 32 ∧ ((State.reset.me.r.pattern 31).filterMap id).Nodup ∧
    (∀ i < 32, ((State.reset.me.r.readV 31).word i).ok = true) ∧ (∀ p, Free State.reset 2 [.pat 31 p]) :=
  ⟨by decide, fun _ => rfl, by decide, by decide, by decide, fun _ => rfl⟩

/-! ### Witnesses: control and system slots -/

/-- An `fnop` with a guard that finds the F unit free, and one that does not. -/
theorem witness_occupied_fnop : isFFun (.fnop 1) = true ∧ (1 : BitVec 5) ≠ 0 ∧ (1 : BitVec 5) ≠ 16 ∧ FUnitFree State.reset ∧
    ¬ FUnitFree (reg0 fun r => { r with fUntil := 4 }) := by decide
/-- The link of a `call` whose second delay bundle begins, still in s63 and overwritten. -/
theorem witness_links : ∀ v : Bool,
    let c := { Ctx.reset with links := [⟨0, 8⟩], r := Ctx.reset.r.writeS 63 (SVal.mkOk (if v then 8 else 9)) }
    c.links = [⟨0, 8⟩] ∧ (c.r.readS 63 = SVal.mkOk 8 ↔ v = true) := by decide
/-- A disabled slot, a disabled F function, and a control instruction in S1. -/
theorem witness_disabled : guardField (.add ⟨1, 0, 1, 1, 1⟩) = some 1 ∧ guardOn State.reset.me.r 1 = false ∧
    isFFun (.add ⟨1, 0, 1, 1, 1⟩) = false ∧ guardField (.fexpF32 ⟨1, 0, 1, 1, 0⟩) = some 1 ∧
    isFFun (.fexpF32 ⟨1, 0, 1, 1, 0⟩) = true ∧ FUnitFree State.reset ∧ isControl (.yield 0) = true ∧
    ({ State.reset with cur := ⟨0, 1, 0⟩ } : State).cur.slot ≠ 0 := by decide
theorem witness_control : InS0 0 State.reset ∧ State.reset.me.r.src 1 = some (SVal.mkOk 0) ∧
    State.reset.me.r.src 71 = some ⟨0, false, false⟩ ∧ (∀ v, Free State.reset 1 [.sreg 63 v]) :=
  ⟨by decide, by decide, by decide, fun _ => rfl⟩
theorem witness_redirect : ∀ t ∈ [(⟨4, 100⟩ : Transfer)], 3 < t.left := by decide
/-- A count of 1, a count of 0, an armed level, a level to leave, and none. -/
theorem witness_loops :
    let s := reg0 fun r => { (r.writeS 10 (SVal.mkOk 1)) with loops := [⟨3, 2, 0, 9⟩] }
    InS0 0 s ∧ (s.me.r.readS 10).ok = true ∧ (s.me.r.readS 10).bits ≠ 0 ∧ (s.me.r.readS 11).bits = 0 ∧
      s.me.r.loops = [⟨3, 2, 0, 9⟩] ∧ State.reset.me.r.loops = [] ∧ InS0 0 State.reset := by decide
theorem witness_end_test :
    let l : LoopSh := ⟨3, 2, 0, 9⟩
    l.last = 9 ∧ l.cnt ≠ 1 ∧ ({ l with cnt := 1 } : LoopSh).cnt = 1 ∧ ∀ x ∈ [l], x.last ≠ 8 := by decide
/-- The unmet fault of a dictionary load. -/
theorem witness_dictionary_fault :
    let c := { Ctx.reset with r := { Ctx.reset.r with dictLoad := .faulted 6 64 false } }
    c.r.dictLoad = .faulted 6 64 false ∧ c.firstFail = none := by decide
/-- Every state of the last dictionary load. -/
theorem witness_dictionary :
    let s (d : DictLoad) := reg0 fun r => { r with dictLoad := d }
    InS0 0 (s .none) ∧ (s .none).me.r.dictLoad = .none ∧ (s (.loaded 1)).me.r.dictLoad = .loaded 1 ∧
      (s (.loaded 1023)).me.r.dictLoad = .loaded 1023 ∧ (s (.loaded 1024)).me.r.dictLoad = .loaded 1024 ∧
      (s .running).me.r.dictLoad = .running ∧ ∀ met, (s (.faulted 5 64 met)).me.r.dictLoad = .faulted 5 64 met := by decide
theorem witness_system :
    let s := reg0 fun r => r.writeS 5 ⟨0, true, false⟩
    InS0 0 s ∧ (s.me.r.readS 1).ok = true ∧ (s.me.r.readS 5).ok = false ∧ s.me.r.inHandler = false := by decide
theorem witness_control_registers : InS0 0 State.reset ∧ (∀ v, Free State.reset 1 [.sreg 63 v]) ∧
    (4 : Word).toNat % 8 ≤ 4 ∧ 4 < (5 : Word).toNat % 8 ∧ (1 : Word) ≠ 0 := ⟨by decide, fun _ => rfl, by decide, by decide, by decide⟩
/-- A due result without flags, and one that raises an enabled flag. -/
theorem witness_results_land :
    let p : Pending := ⟨0, 2, [.sreg 7 (SVal.mkOk 1)], none, 1⟩
    let s := at0 fun c => { c with status := .running, r := { c.r with flight := [p], xtrapen := 1 } }
    s.dueResult 0 = some (p, []) ∧ p.flags &&& (s.ctx 0).r.xtrapen ≠ 0 ∧ (s.ctx 0).status = .running ∧
      (s.ctx 0).r.inHandler = false ∧ p.flags &&& State.reset.me.r.xtrapen = 0 := by decide

/-- A due result that raises an enabled flag in a handler and at the end of a task, and a landing of a bank format. -/
theorem witness_results_land_elsewhere : ∀ x ∈ [(TStatus.running, true), (.ending, false)],
    let p : Pending := ⟨0, 2, [.sreg 7 (SVal.mkOk 1)], none, 1⟩
    let q : Pending := ⟨0, 0, [.ctl 0x1F 0], none, 0⟩
    let s (p : Pending) := at0 fun c => { c with status := x.1, r := { c.r with flight := [p], xtrapen := 1, inHandler := x.2 } }
    (s p).dueResult 0 = some (p, []) ∧ p.isCtl = false ∧ p.flags &&& ((s p).ctx 0).r.xtrapen ≠ 0 ∧
      ((s p).ctx 0).r.inHandler = x.2 ∧ ((s p).ctx 0).status = x.1 ∧ (s q).dueResult 0 = some (q, []) := by decide

/-! ### Witnesses: memory slots -/

/-- The number of an offset of the local window. -/
def win (o : Nat) : Word := BitVec.ofNat 64 (Config.windowL + o)
/-- Context 0 runs with every bank, and s1 holds a window address. -/
def mem0 (o : Nat) : State :=
  at0 fun c => { c with status := .running, bind := { c.bind with used := 0xFFFF }, r := c.r.writeS 1 (SVal.mkOk (win o)) }
/-- The places of consecutive bytes. -/
def places (n : Nat) (l : Nat → Loc) : List (Nat × Loc) := (List.range n).map fun i => (i, l i)
/-- A byte of scratchpad bank 15. -/
def bankByte (o : Nat) : Loc := ⟨0, kScratch 0 15 o, 0, 0, false⟩

/-- A double word at the end of the scratchpad. -/
theorem witness_scalar_load :
    let s := mem0 0x3FFF8
    let f : MFld := ⟨0, 63, 1, 0, 0⟩
    Enabled f.g s ∧ (s.me.r.readS f.base).ok = true ∧ addrOf s f 8 % 8 = 0 ∧ landHeld s < 32 ∧
      Free s (delayOf f.lat) [.sreg f.data (SVal.mkOk 0)] ∧
      locateChunks s s.cur.cid .read .plain [⟨0, addrOf s f 8, 8⟩] = .ok (places 8 fun i => bankByte (0x3FF8 + i)) ∧
      locateChunks s s.cur.cid .write .plain [⟨0, addrOf s f 8, 8⟩] = .ok (places 8 fun i => bankByte (0x3FF8 + i)) := by decide
theorem witness_vector_load :
    let s := mem0 0x3FF80
    let f : MFld := ⟨0, 31, 1, 0, 0⟩
    Enabled f.g s ∧ (s.me.r.readS f.base).ok = true ∧ addrOf s f 128 % 4 = 0 ∧ landHeld s < 32 ∧
      Free s (delayOf f.lat) [.vreg (f.data.setWidth 5) 32 VVal.zero] ∧ s.me.r.vsrc f.data = some VVal.zero ∧
      locateChunks s s.cur.cid .read .plain [⟨0, addrOf s f 128, 128⟩] = .ok (places 128 fun i => bankByte (0x3F80 + i)) ∧
      locateChunks s s.cur.cid .write .plain [⟨0, addrOf s f 128, 128⟩] = .ok (places 128 fun i => bankByte (0x3F80 + i)) := by
  decide
/-- A visible accumulator row. -/
theorem witness_accumulator_row :
    let s := mem0 0x20FF80
    let f : MFld := ⟨0, 31, 1, 0, 0⟩
    addrOf s f 128 % 128 = 0 ∧ (locateChunks s 0 .read .visible [⟨0, addrOf s f 128, 128⟩]).isOk = true ∧
      (locateChunks s 0 .write .visible [⟨0, addrOf s f 128, 128⟩]).isOk = true := by decide
/-- A strided load of stride 0, a gather and a scatter of one word. -/
theorem witness_gather :
    let s := mem0 0x3FFFC
    let f : MFld := ⟨0, 31, 1, 0, 0⟩
    let cs : List Chunk := (List.range 32).map fun i => ⟨4 * i, addrOf s f (4 * i), 4⟩
    (∀ c ∈ cs, c.va % 4 = 0) ∧ (locateChunks s 0 .read .plain cs).isOk = true ∧ (locateChunks s 0 .write .plain cs).isOk = true ∧
      (s.me.r.readV (BitVec.ofNat 5 (f.off.toNat / 16))) = VVal.zero := by decide
/-- An invalid base, a misaligned address, and a place beyond the scratchpad. -/
theorem witness_bad_access :
    let f : MFld := ⟨0, 7, 1, 0, 0⟩
    let s := reg0 fun r => r.writeS 1 ⟨0, true, false⟩
    Enabled f.g s ∧ (s.me.r.readS f.base).ok = false ∧ landHeld s < 32 ∧ Free s (delayOf f.lat) [.sreg f.data (SVal.mkOk 0)] ∧
      addrOf (mem0 1) f 8 % 8 ≠ 0 ∧ addrOf (mem0 0x40000) f 8 % 8 = 0 ∧
      locateChunks (mem0 0x40000) 0 .read .plain [⟨0, addrOf (mem0 0x40000) f 8, 8⟩] = .error ⟨false, Config.windowL + 0x40000, 0, 0⟩ ∧
      locateChunks (mem0 0x40000) 0 .write .plain [⟨0, addrOf (mem0 0x40000) f 8, 8⟩] = .error ⟨false, Config.windowL + 0x40000, 0, 0⟩ := by
  decide
/-- A landing buffer and a walker without room, an access for which there is room, and a scalar latch in a vector store. -/
theorem witness_no_room :
    let q : MReq := ⟨0, 0, 9, .sreg 1 8 false, [true], [], false, false, none, 0, 0⟩
    let s := reg0 fun r => { r with land := List.replicate 32 q }
    let d := State.reset.modDie 0 fun d => { d with walks := List.replicate 64 ⟨0, 0, []⟩, walkQ := List.replicate 1024 ⟨0, 0, []⟩ }
    let v := reg0 fun r => { r with latch := r.latch.set 2 (.scalar (SVal.mkOk 0)) }
    landHeld s = 32 ∧ WalkerRoom State.reset [⟨0, 0x6000, 8⟩] ∧ ¬ WalkerRoom d [⟨0, 0x6000, 8⟩] ∧ v.me.r.vsrc 34 = none := by
  decide
theorem witness_fence : Enabled 0 State.reset ∧ (Instr.fence ⟨0, 0, 0, 0, 0⟩ = .fence ⟨0, 0, 0, 0, 0⟩ ∧ MKind.fence = .fence) := by
  decide
/-- The last word, and a whole line, of the atomic area. -/
theorem witness_atomic :
    let s := mem0 0x303FFC
    let f : MFld := ⟨0, 7, 1, 0, 0⟩
    let ls := places 4 fun i => ⟨3, kAtom 0 (0x3FFC + i), 0, 0, false⟩
    Enabled f.g s ∧ (s.me.r.readS f.base).ok = true ∧ addrOf s f 4 % 4 = 0 ∧ landHeld s < 32 ∧
      locateChunks s 0 .readWrite .atomic [⟨0, addrOf s f 4, 4⟩] = .ok ls ∧ ls.head? = some (0, ⟨3, kAtom 0 0x3FFC, 0, 0, false⟩) ∧
      (let q : MReq := ⟨0, 0, 9, .sreg 1 8 false, [true], [], false, false, none, 0, 0⟩
       let u := s.modRegs 0 fun r => { r with land := List.replicate 32 q }
       landHeld u = 32 ∧ Free u (delayOf f.lat) [.sreg f.data (SVal.mkOk 0)] ∧
         locateChunks u 0 .readWrite .atomic [⟨0, addrOf u f 4, 4⟩] = .ok ls) ∧
      s.me.bind.det = false ∧ (∀ x ∈ ls, x.2.region ≠ 5) ∧ addrOf (mem0 0x303F80) f 128 % 128 = 0 ∧
      (locateChunks (mem0 0x303F80) 0 .readWrite .atomic [⟨0, addrOf (mem0 0x303F80) f 128, 128⟩]).isOk = true := by decide
/-- An atomic of another core's area, in deterministic operation. -/
theorem witness_far_atomic :
    let s := (mem0 0).modCtx 0 fun c => { c with bind := { c.bind with det := true }, r := c.r.writeS 1 (SVal.mkOk (win 0x2010000)) }
    let ls := locateChunks s 0 .readWrite .atomic [⟨0, addrOf s ⟨0, 7, 1, 0, 0⟩ 4, 4⟩]
    s.me.bind.det = true ∧ (match ls with | .ok l => l.any fun x => x.2.region == 5 | .error _ => false) = true := by decide
/-- A stream with one element that closes, one without elements, and an output stream with room for one. -/
theorem witness_streams :
    let e : List VWord := [⟨1, true⟩]
    let s (q : Stream) := reg0 fun r => r.setStream 7 (some q)
    let q : Stream := ⟨false, 0, [e], true, []⟩
    let o : Stream := ⟨true, 0, List.replicate 7 e, false, List.replicate 7 0⟩
    Enabled 0 (s q) ∧ (s q).me.r.stream 7 = some q ∧ ((s q).me.r.pops 7).length < [e].length ∧ landHeld (s q) < 32 ∧
      (s { q with elems := [] }).me.r.stream 7 = some { q with elems := [] } ∧ State.reset.me.r.stream 7 = none ∧
      (s o).me.r.stream 7 = some o ∧ (List.replicate 7 e).length < 8 ∧ 8 ≤ (List.replicate 8 e).length ∧
      State.reset.me.r.vsrc 1 = some VVal.zero ∧ Free State.reset (delayOf 255) [.vreg 31 32 VVal.zero] := by decide
/-- A pop that waits for the element that has come, behind an older access that holds path C, and free to go. -/
def popping (mq : List MAcc) : State :=
  at0 fun c =>
    { c with status := .running, mq := mq,
             r := ({ c.r with land := [⟨0, 6, 9, .vreg 31 32, List.replicate 32 true, List.replicate 128 none, false, false,
               some 0, 0, 5⟩] }).setStream 0 (some ⟨false, 0, [[⟨1, true⟩]], true, []⟩) }
theorem witness_pops : ∀ held : Bool,
    let s := popping (if held then [⟨0, 0, .acquire, 0, 0, 0, false, 0, [], [(0, 0)], 0, [], ⟨0, 0, 0, 0⟩, true, (0, 0)⟩] else [])
    (s.ctx 0).r.stream 0 = some ⟨false, 0, [[⟨1, true⟩]], true, []⟩ ∧ ((s.ctx 0).r.pops 0).length = 1 ∧
      ((s.ctx 0).r.pops 0).all (fun x => s.blockedAt 0 1 x.seq false == held) = true ∧ (s.ctx 0).r.pops 1 = [] ∧
      (s.ctx 0).r.land.find? (fun q => q.id == 0) = ((s.ctx 0).r.pops 0).head? := by decide

/-! ### Witnesses: commands of the T slot -/

/-- Context 0 with four parameter words in s1 to s4. -/
def cmd0 (a b c d : Nat) : State :=
  reg0 fun r => (((r.writeS 1 (SVal.mkOk (BitVec.ofNat 64 a))).writeS 2 (SVal.mkOk (BitVec.ofNat 64 b))).writeS 3
    (SVal.mkOk (BitVec.ofNat 64 c))).writeS 4 (SVal.mkOk (BitVec.ofNat 64 d))
/-- A command with these registers and a result in s7, or four parameters. -/
def fld (four : Bool) : TFld := ⟨0, 1, 2, 3, if four then 4 else 7, 0⟩
/-- A panel of 64 rows (R199). -/
def desc : Nat := 64 * 2 ^ 41 + 2 ^ 24

/-- Every engine command with parameters that its checks accept, at the bounds of their ranges. -/
theorem witness_engine_commands : ∀ x ∈
    [(0x01, false, 0, 1, 0, 0), (0x02, false, desc, 0, 2 ^ 48, 0), (0x03, false, desc, 0, 2 ^ 48, 0),
     (0x04, false, desc, 0, 32 * 2 ^ 8, 0), (0x05, false, 0, 0, 0, 0), (0x06, true, desc, 0, 2 ^ 48, desc),
     (0x07, false, desc, 2 ^ 24, desc, 0), (0x09, false, 0, 0, 0, 0), (0x0A, false, desc, 0, 0, 0),
     (0x0B, false, 0, 0, 0, 0), (0x0C, false, 0, 0, 0, 0), (0x0D, false, 0, 0, 64, 0), (0x0E, false, 0, 0, 0, 0)],
    let s := cmd0 x.2.2.1 x.2.2.2.1 x.2.2.2.2.1 x.2.2.2.2.2
    MaySend s (fld x.2.1) x.1 x.2.1 ∧ engOk (mkCmd s x.1 (fld x.2.1) x.2.1) = true ∧ (s.core 0).engQ.length < 4 := by decide
/-- A `rot.sav` into the scratchpad. -/
theorem witness_rot_sav :
    let s := at0 fun c => { c with bind := { c.bind with used := 1 }, r := c.r.writeS 1 (SVal.mkOk (win 0x3FC0)) }
    let f : TFld := ⟨0, 1, 0, 0, 0, 0⟩
    let ls := (List.range 64).map fun i => (⟨0, kScratch 0 0 (0x3FC0 + i), 0, 0, false⟩ : Loc)
    MemOk s ∧ MaySend s f 8 false ∧ (mkCmd s 8 f false).a.toNat % 64 = 0 ∧ Config.windowL ≤ (mkCmd s 8 f false).a.toNat ∧
      locateAll s 0 .write (mkCmd s 8 f false).a.toNat 64 = .ok ls ∧ (∀ l ∈ ls, l.region ≠ 2 ∧ l.q = 0) ∧
      s.heldOp 0 = none := by decide
/-- Raw copies, a fill, and both kinds of stream. -/
theorem witness_copies : ∀ x ∈ [(0x10, 0xFFFF0000 + 7 * 2 ^ 13), (0x11, 0xFFFF0000), (0x14, 0xFFFF0000)],
    let s := cmd0 0 0 x.2 0
    MaySend s (fld true) x.1 true ∧ copyOk s (mkCmd s x.1 (fld true) true) = true ∧ copiesOf s 0 < 8 ∧
      MaySend (cmd0 15 0 0 0) (fld true) 0x12 true ∧ bindOk (cmd0 15 0 0 0) (mkCmd (cmd0 15 0 0 0) 0x12 (fld true) true) = true := by
  decide
theorem witness_waits :
    let s := cmd0 0xFFFF 0 0 0
    (∀ op ∈ [0x13, 0x28, 0x33, 0x3B, 0x41], MaySend s (fld false) op false) ∧
      0 < (mkCmd s 0x13 (fld false) false).a.toNat ∧ (mkCmd s 0x13 (fld false) false).a.toNat < 2 ^ 16 := by decide
/-- Requests to a forest of one element. -/
theorem witness_eq_requests : ∀ op ∈ [0x20, 0x21, 0x22, 0x23, 0x24, 0x26, 0x27],
    let s := cmd0 (2 ^ 18) 0 0 0
    let c := mkCmd s op (fld false) false
    MaySend s (fld false) op false ∧ eqOk c = true ∧ eqBad s c = none ∧ (s.clu c.eqClu).eqQ.length < 64 := by decide
/-- A relabel into the last word of cluster memory. -/
theorem witness_eq_relabel :
    let s := cmd0 (2 ^ 18) (Config.windowL + 0x13FFFFC) 0 0
    let c := mkCmd s 0x25 (fld false) false
    MaySend s (fld false) 0x25 false ∧ eqOk c = true ∧ eqBad s c = none := by decide
theorem witness_catalogue : ∀ x ∈ [(0x30, 15), (0x31, 0), (0x32, 0)],
    let s := cmd0 0 x.2 0 0
    let c := mkCmd s x.1 (fld false) false
    MaySend s (fld false) x.1 false ∧ pkOk s c = true ∧ s.me.pkOut.length < 16 ∧ (s.die 0).pkQ.length < 64 := by decide
theorem witness_near_memory : ∀ x ∈ [(0x38, true, 4 * 2 ^ 24), (0x39, false, 1), (0x3A, true, 0)],
    let s := cmd0 0 0 x.2.2 0
    let c := mkCmd s x.1 (fld x.2.1) x.2.1
    MaySend s (fld x.2.1) x.1 x.2.1 ∧ nmOk c = true ∧ s.me.bind.det = false ∧ (s.me.ncmds.filter fun n => !n.over).length < 32 := by
  decide
/-- The whole angle store, and its last granule. -/
theorem witness_angle_store : ∀ x ∈ [(Config.windowK, 2 ^ 31), (Config.windowK + 2 ^ 31 - 64, 64)],
    let s := cmd0 0 x.1 x.2 0
    MaySend s (fld false) 0x40 false ∧ asOk (mkCmd s 0x40 (fld false) false) = true := by decide
/-- A barrier of 32, a lone member, a member of a gang, and commands without operands. -/
theorem witness_gang_commands :
    let s := cmd0 15 32 0 0
    let g := at0 fun c => { c with bind := { c.bind with gangW := 2 } }
    MaySend s ⟨0, 1, 2, 0, 0, 0⟩ 0x1B false ∧ (mkCmd s 0x1B ⟨0, 1, 2, 0, 0, 0⟩ false).a.toNat < 16 ∧
      1 ≤ (mkCmd s 0x1B ⟨0, 1, 2, 0, 0, 0⟩ false).b.toNat ∧ (mkCmd s 0x1B ⟨0, 1, 2, 0, 0, 0⟩ false).b.toNat ≤ 32 ∧
      MaySend s ⟨0, 0, 0, 0, 7, 0⟩ 0x18 false ∧ s.me.bind.gang = false ∧ MaySend g ⟨0, 0, 0, 0, 7, 0⟩ 0x18 false ∧
      g.me.bind.gang = true ∧ g.me.fused = false ∧ MaySend s ⟨0, 0, 0, 0, 0, 0⟩ 0x19 false ∧
      MaySend s ⟨0, 0, 0, 0, 0, 0⟩ 0x1A false := by decide
theorem witness_scheduler_commands :
    let s := cmd0 64 127 32 0
    let c := mkCmd s 0x48 (fld false) false
    MaySend s (fld false) 0x48 false ∧ c.a.toNat % 64 = 0 ∧ c.b.toNat < 128 ∧ c.c.toNat % 32 = 0 ∧
      MaySend s (fld false) 0x49 false ∧ MaySend s (fld true) 0x4A true := by decide
/-- An invalid parameter. -/
theorem witness_invalid_parameter :
    let s := reg0 fun r => r.writeS 1 ⟨0, false, true⟩
    ∀ e ∈ sendForms, Enabled 0 s ∧ paramsOk s e.2.1 (fld e.2.2) e.2.2 = false ∧
      s.wordTrouble (if e.2.2 then { fld e.2.2 with d := 0 } else fld e.2.2) = none := by decide

/-! ### Witnesses: traps, the step, decoding -/

/-- Context 0 with a handler, and inside it. -/
theorem witness_traps :
    let s := reg0 fun r => { r with trapvec := 64 }
    let h := reg0 fun r => { r with trapvec := 64, inHandler := true }
    s.gangOf 0 = [0] ∧ (s.gangOf 0).Nodup ∧ s.me.r.trapvec ≠ 0 ∧ s.me.r.inHandler = false ∧ h.me.r.inHandler = true ∧ h.me.firstFail = none ∧
      State.reset.me.r.trapvec = 0 := by decide
theorem witness_return :
    let s := at0 fun c => { c with bun := { c.bun with aft := { c.bun.aft with eret := true } } }
    (s.ctx 0).bun.aft.eret = true ∧ (s.ctx 0).bun.aft.ends = false ∧ (reg0 fun r => { r with trapvec := 64 }).me.r.inHandler = false := by
  decide
/-- A slot that decodes, one that does not, and an event that is next. -/
theorem witness_step :
    let w : SlotWord := ⟨0, 0, 0x0021C082⟩
    let s := State.reset.withFetchWord 32 0x0021C082
    s.on = true ∧ s.halted = false ∧ s.issue = [w] ∧ s.gangOf 0 = [0] ∧ breakAt (atSlot s w []) w = none ∧
      laneStop (atSlot s w []) w = none ∧ decodeSlot (kindOfSlot 0) 0x0021C082 = some (.add ⟨0, 0, 7, 1, 2⟩) ∧
      decodeSlot (kindOfSlot 0) 0x06800001 = none ∧ State.reset.issue = [] ∧
      ({ State.reset with agenda := [.yield 0] } : State).agenda = [.yield 0] := by decide
theorem witness_step_completes : ∃ t, exec (.add ⟨0, 0, 7, 1, 2⟩) (atSlot (State.reset.withFetchWord 32 0x0021C082) ⟨0, 0, 0x0021C082⟩ []) =
    .next t := ⟨_, rfl⟩
theorem witness_encoding : (Instr.ldW ⟨0, 9, 4, 2, 0xAB⟩).wf = true ∧ encodeSlot (.ldW ⟨0, 9, 4, 2, 0xAB⟩) = some (.m, 0x00A48802AB) := by
  decide
theorem witness_memory_invariant : MemOk State.reset ∧ step State.reset = .next State.reset := ⟨by decide, by rfl⟩
theorem witness_registers : (1 : BitVec 6) ≠ 0 ∧ (2 : BitVec 6) ≠ 1 := by decide
theorem witness_slot_frame : guardField (.stB ⟨0, 1, 2, 0, 0⟩) = some 0 ∧
    ∃ t, exec (.stB ⟨0, 1, 2, 0, 0⟩) State.reset = .next t := ⟨rfl, _, rfl⟩

/-! ### Witnesses: events of a context -/

/-- A partition on die 0 whose first gigabyte of addresses is its own stack memory: a root table, two tables below it and
one leaf (R280, R281), and context 0 running in it. -/
def world (cells : List Host.Cell) (f : Ctx → Ctx) : State :=
  { (State.reset.modCtx 0 fun c => f { c with status := .running }).modPart 0 fun p => { p with dies := [0], cap := 2 ^ 22 } with
    mem := [(0, 1), (1, 0x10), (0x1000, 1), (0x1001, 0x20), (0x2000, 2), (0x2001, 7)] ++ cells }
/-- Code at 0x3000: the dictionary's entry 1, whose S0 slot is `add s7, s1, s2`. -/
def coded (f : Ctx → Ctx) : State :=
  world [(0x3000, 1)] fun c => f { c with r := { c.r with pc := 0x1800, bank0 := ⟨0, [BitVec.ofNat 384 (0x0021C082 * 2 ^ 320)]⟩ } }
/-- The bundle there. -/
def codedBundle : Fetch := ⟨1, false, 0x0021C082 * 2 ^ 320⟩

theorem witness_bundle_issue :
    let s := coded id
    s.mayIssue 0 = true ∧ Alone s 0 ∧ s.turnOf 0 = .issue codedBundle ∧ s.turnOf 1 = .idle := by decide
/-- Context 2 × 1,536 on die 3, the only one of its partition, and context 2 × 4,608 on a logical die that stands on it, at
two frame times of frames of 100 cc. -/
def sharing (a b : Nat) : State :=
  let part : Part := { Part.reset with dies := [3], hosts := [3] }
  let task (l t : Nat) : Nat × Ctx := (2 * l, { Ctx.reset with
    status := .running, bind := { Ctx.reset.bind with det := true, frame := 100, leader := 2 * l }, r := { Ctx.reset.r with frameTime := t } })
  { State.reset with ctxs := [task 1536 a, task 4608 b], hub := { Hub.reset with parts := [(0, part)] } }
/-- They take turns, a frame each (R348). -/
theorem test_turns : ∀ x ∈ [(0, 0, true), (50, 0, true), (100, 0, false), (100, 50, false), (100, 100, true)],
    let s := sharing x.1 x.2.1
    (s.detAhead 3072, s.detAhead 9216) = (!x.2.2, x.2.2) := by decide
/-- Two retired cores of a die go to its two highest ones, and later retirements of those go on (R231, R360). -/
theorem test_retired_cores :
    let h := (Hub.reset.retirePhys 5).retirePhys 6
    h.physOf 5 = 511 ∧ h.physOf 6 = 510 ∧ (h.retirePhys 511).physOf 5 = 509 ∧ (h.retirePhys 511).physOf 511 = 509 := by decide
/-- A task without its turn, and one a frame ahead of its mate. -/
theorem witness_no_turn :
    let s := sharing 50 0
    let t := sharing 100 50
    Single s (2 * coreOf 9216) ∧ s.missCycle (coreOf 9216) = none ∧ (s.ctx 9216).status = .running ∧
      (s.ctx 9216).bind.det = true ∧ s.hasTurn 9216 = false ∧ (t.ctx 3072).preempt = false ∧
      (9216, t.ctx 9216) ∈ t.detRunning 3072 ∧ (t.ctx 9216).r.frameTime / 100 < (t.ctx 3072).r.frameTime / (t.ctx 3072).bind.frame := by
  decide
/-- Two bundles that merge, and a bundle that resumes. -/
theorem witness_merge_and_resume :
    let s := (coded id).modCtx 1 fun c => { c with status := .running, r := { c.r with pc := 0x1900 } }
    let u := coded fun c => { c with resumed := true }
    s.mayIssue 0 = true ∧ Alone s 0 ∧ Alone s 1 ∧ s.turnOf 0 = .issue codedBundle ∧ s.turnOf 1 = .issue ⟨1, true, 0⟩ ∧
      (s.core 0).forced = false ∧ s.conflict 0 1 codedBundle ⟨1, true, 0⟩ = false ∧
      u.mayIssue 0 = true ∧ Single u 0 ∧ (u.ctx 0).resumed = true ∧ u.turnOf 0 = .issue codedBundle ∧ u.turnOf 1 = .idle := by
  decide
/-- A loop of no rounds whose end is at an index that is fetched, and at one that is not. -/
theorem witness_empty_loop :
    let s := coded id
    indexLen s 0 0x1800 = .ok 1 ∧ (match indexLen s 0 0x30000000 with | .ok _ => none | .error e => some e.trans) = some true := by
  decide
/-- In deterministic operation: at the stamp, and after it. -/
theorem witness_stamps :
    let s (t : Nat) := coded fun c => { c with bind := { c.bind with det := true, frame := 1 }, r := { c.r with frameTime := t } }
    (s 0).mayIssue (coreOf 0) = true ∧ Alone (s 0) 0 ∧ (s 0).turnOf 0 = .stamped codedBundle ∧ (s 1).turnOf 0 = .late ∧
      (s 1).mayIssue (coreOf 0) = true := by decide
theorem witness_empty_bundle :
    let s := world [] fun c => { c with r := { c.r with pc := 0x1800 } }
    s.mayIssue 0 = true ∧ Alone s 0 ∧ (⟨1, true, 0⟩ : Fetch).word % 2 ^ 352 = 0 ∧ s.turnOf 0 = .issue ⟨1, true, 0⟩ ∧
      s.turnOf 1 = .idle := by decide
theorem witness_context_events :
    let s := State.reset.modCore 0 fun c => { c with settle := 1 }
    let r (n : Nat) := (reg0 fun r => { r with waitTo := 1, rngDue := 1, rng := List.replicate n 0 }).modCore 0 fun c =>
      { c with cc := 1 }
    (s.core 0).settle = 1 ∧ ((r 63).ctx 0).r.waitTo ≠ 0 ∧ ((r 63).ctx 0).r.waitTo ≤ ((r 63).core 0).cc ∧
      0 < ((r 63).ctx 0).r.rngDue ∧ ((r 63).ctx 0).r.rng.length < 64 ∧ 64 ≤ ((r 64).ctx 0).r.rng.length := by decide
/-- A dictionary group of one entry at 0x4000. -/
theorem witness_dictionary_load :
    let s := world [(0x4000, 1), (0x4010, 5)] fun c => { c with r := { c.r with dictLoad := .running, dictAddr := 0x4000 } }
    (s.ctx 0).r.dictLoad = .running ∧ s.svcWaits 0 6 = false ∧ dictRead s 0 0x4000 = .ok (1, [5]) := by decide
/-- A group that no translation reaches, and one outside the address space. -/
theorem witness_dictionary_load_faults :
    let s (a : Word) := world [] fun c => { c with r := { c.r with dictLoad := .running, dictAddr := a } }
    ((s 0x40000000).ctx 0).r.dictLoad = .running ∧ (s 0x40000000).svcWaits 0 6 = false ∧
      (match dictRead (s 0x40000000) 0 0x40000000 with | .ok _ => none | .error e => some e.trans) = some true ∧
      (match dictRead (s 0x0300000000000000) 0 0x0300000000000000 with | .ok _ => none | .error e => some e.trans) = some false := by
  decide
theorem witness_checkpoints :
    let s := at0 fun c => { c with status := .running, ckWant := true }
    let u := at0 fun c => { c with status := .running, ival := { c.ival with bundles := 4096 } }
    s.ckptDue 0 = true ∧ s.issueCores = [] ∧ u.unprotDue 0 = true := by decide
theorem witness_landings :
    let q : MReq := ⟨0, 6, 0, .sreg 63 4 true, [true], List.replicate 4 (some 0xFF), true, false, none, 0, 0⟩
    let w : TWord := ⟨0, 0, 63, some (SVal.mkOk 1), .command, false, false⟩
    let s := reg0 fun r => { r with land := [q] }
    let t := reg0 fun r => { r with words := [w] }
    s.dueReq 0 = some (q, []) ∧ q.arrived = true ∧ t.dueWord 0 = some (w, []) ∧ wordValue t 0 w = some (SVal.mkOk 1) := by decide
/-- A request and a result word that are late, in normal and in deterministic operation. -/
theorem witness_late : ∀ det : Bool,
    let q : MReq := ⟨0, 6, 0, .sreg 63 4 true, [true], List.replicate 4 none, false, false, none, 0, 0⟩
    let w : TWord := ⟨0, 0, 63, none, .command, false, false⟩
    let s := at0 fun c => { c with status := .running, bind := { c.bind with det := det }, r := { c.r with land := [q] } }
    let t := at0 fun c => { c with status := .running, bind := { c.bind with det := det }, r := { c.r with words := [w] } }
    s.dueReq 0 = some (q, []) ∧ q.arrived = false ∧ (s.ctx 0).bind.det = det ∧ (s.ctx 0).r.inHandler = false ∧
      t.dueWord 0 = some (w, []) ∧ wordValue t 0 w = none := by decide
/-- A fault that waits for a handler's boundary. -/
theorem witness_handler_trap :
    let b : BoundaryTrap := ⟨9, 2, 1, 0, 0⟩
    let s := coded fun c => { c with hTraps := [b], r := { c.r with trapvec := 0x1000, inHandler := true } }
    s.issueCores = [] ∧ s.landsNow 0 = false ∧ s.trapDue 0 = true ∧ Single s 0 ∧ (s.ctx 0).hTraps = [b] ∧ (s.ctx 0).firstFail = none := by
  decide
theorem witness_boundary_trap :
    let b : BoundaryTrap := ⟨9, 2, 1, 0, 0⟩
    let s := coded fun c => { c with traps := [b], r := { c.r with trapvec := 0x1000 } }
    s.issueCores = [] ∧ s.landsNow 0 = false ∧ s.trapDue 0 = true ∧ (s.ctx 0).hTraps = [] ∧ (s.ctx 0).traps = [b] ∧
      s.gangOf 0 = [0] ∧ s.fetcher 0 = 0 ∧ (s.ctx 0).r.trapvec ≠ 0 ∧ b.cause < 10 := by decide
theorem witness_deadline : ∀ t : Bool,
    let s := at0 fun c => { c with status := .running, r := { c.r with dlEvent := true, dlTrap := t } }
    let u := s.modCtx 0 fun c => { c with abandoned := true }
    let p := s.modCtx 0 fun c => { c with bun := { c.bun with nextSkip := 1 } }
    (s.ctx 0).r.dlEvent = true ∧ (s.ctx 0).abandoned = false ∧ s.atBoundary 0 = true ∧ (s.ctx 0).r.dlTrap = t ∧
      (u.ctx 0).abandoned = true ∧ u.atBoundary 0 = true ∧ 0 ∈ u.members 0 ∧
      (p.ctx 0).status = .running ∧ p.atBoundary 0 = false := by decide

/-! ### Witnesses: the ordering machine -/

/-- An access of an M queue. -/
def acc (kind : MKind) (q : Nat) (cells : List Host.Cell) (locs : List (Nat × Nat)) (operands : List (Nat × BitVec 32)) : MAcc :=
  ⟨0, 0, kind, 0, 0, q, false, 0, cells, locs, 0, operands, ⟨0, 0, 0, 0⟩, true, (0, 0)⟩
/-- A command of context 0. -/
def cmdOf (op a b c m : Nat) : Cmd :=
  ⟨0, op, BitVec.ofNat 64 a, BitVec.ofNat 64 b, BitVec.ofNat 64 c, 0, m, 0, 0, 0, 0, ⟨0, 0, 0, 0⟩, [], 0, 0⟩
/-- Context 0 with one access. -/
def queued (a : MAcc) : State := at0 fun c => { c with status := .running, ival := { c.ival with unprotected := true }, mq := [a] }

theorem witness_store_leaves : ∀ q ∈ [0, 4],
    let a := acc .store q [(kScratch 0 0 0, 1)] [] []
    ((queued a).dropFences 0).mayLeave 0 a = true ∧ (((queued a).dropFences 0).ctx 0).mq[0]? = some a ∧ a.kind = .store := by decide
/-- A release at its scope and short of it, and an atomic on its way to another core. -/
theorem witness_release_leaves : ∀ scope ∈ [3, 4],
    let a := { acc .release 4 [(kStack 0 0x6000, 1)] [] [] with scope := scope }
    let b := acc (.atomic 0x22) 2 [] [] [(kAtom 1 0, 5)]
    ((queued a).dropFences 0).mayLeave 0 a = true ∧ (((queued a).dropFences 0).ctx 0).mq[0]? = some a ∧
      ((queued b).dropFences 0).mayLeave 0 b = true ∧ (((queued b).dropFences 0).ctx 0).mq[0]? = some b ∧ b.q ≠ 0 := by decide
/-- A write at each level, at its point of coherence and short of it. -/
theorem witness_buffers : ∀ q ∈ [1, 2, 3, 4],
    let w : BufWrite := ⟨0, 0, 0, q, 0, false, [(5, 1)]⟩
    takeWrite ((State.reset.modCore 0 fun c => { c with buf := [w] }).core 0).buf 0 = some (w, []) ∧
      takeWrite ((State.reset.modClu 0 fun c => { c with buf := [w] }).clu 0).buf 0 = some (w, []) ∧
      takeWrite ((State.reset.modDie 0 fun c => { c with buf := [w] }).die 0).buf 0 = some (w, []) ∧
      takeWrite (State.reset.modHub fun h => { h with pkgBuf := [w] }).hub.pkgBuf 0 = some (w, []) ∧
      takeWrite (State.reset.modHub fun h => { h with bridge := [{ w with host := true }] }).hub.bridge 0 =
        some ({ w with host := true }, []) := by decide
theorem witness_load_performs : ∀ k ∈ [MKind.load, .acquire],
    let a := acc k 0 [] [(0, kScratch 0 0 0)] []
    ((queued a).dropFences 0).mayPerform 0 a = true ∧ (((queued a).dropFences 0).ctx 0).mq[0]? = some a := by decide
theorem witness_atomic_performs :
    let a := acc (.atomic 0x22) 0 [] [] [(kAtom 0 0x3FF8, 4), (kAtom 0 0x3FFC, 5)]
    let s := queued a
    (a.operands.Pairwise fun x y => x.1 + 4 ≤ y.1 ∨ y.1 + 4 ≤ x.1) ∧
    (s.dropFences 0).atomicAt 0 0 = some a ∧ MemOk s ∧ (s.dropFences 0).atomicHere 0 0 a = true ∧ (s.ctx 0).bind.det = false := by
  decide
/-- A keyed atomic 64 cc after its key. -/
theorem witness_keyed_atomic :
    let a := acc (.atomic 0x22) 0 [] [] [(kAtom 0 0, 5)]
    let s := at0 fun c => { c with status := .running, bind := { c.bind with det := true, frame := 100 },
                                   ival := { c.ival with unprotected := true }, mq := [a], r := { c.r with frameTime := 64 } }
    (s.dropFences 0).atomicAt 0 0 = some a ∧ (s.dropFences 0).atomicHere 0 0 a = true ∧ (s.ctx 0).bind.det = true ∧
      (s.dropFences 0).frameReached 0 ((s.ctx 0).keyTime a.key + 64) = true ∧ (s.dropFences 0).earlierAtomic 0 a = false := by decide
/-- Data that has come for a request. -/
theorem witness_data_arrives :
    let q : MReq := ⟨0, 6, 9, .sreg 63 4 true, [true], List.replicate 4 (some 1), false, false, none, 0, 0⟩
    let s := reg0 fun r => { r with land := [q] }
    (∀ q ∈ (s.ctx 0).r.land, q.id = 0 → q.qn = none) ∧ q.bytes.all Option.isSome = true ∧ q.from_ ≤ (s.core 0).beats := by decide
/-- An `as.ld` of one granule from 0x4000 to the end of the angle store. -/
theorem witness_as_ld :
    let a : AsLd := ⟨cmdOf 0x40 0x4000 (Config.windowK + 2 ^ 31 - 64) 64 0, 0, none, none⟩
    let s := world [] fun c => { c with asLds := [a] }
    MemOk s ∧ (s.ctx 0).asLds[0]? = some a ∧ (s.ctx 0).bind.det = false ∧ asReady s 0 a = true ∧ readPhase s 0 = false ∧
      (match locateAll (s.noteWalk 0 0x4000) 0 .read 0x4000 64 with | .ok ls => ls.all fun l => l.region == 8 | .error _ => false) = true ∧
      a.held = none ∧ s.frameReached 0 0 = true ∧ earlierAs s a = false := by decide
theorem witness_task_sig :
    let c := cmdOf 0x49 0 0 0 0
    let s := at0 fun x => { x with hCmds := [c] }
    (s.ctx 0).hCmds = [c] ∧ ∀ k < 8, (s.dropFences 0).classDone 0 k c.seq 3 = true := by decide

/-! ### Witnesses: the engines and units -/

/-- A running operation of context 0. -/
def engOp (c : Cmd) (finished : Bool) : EngOp := { EngOp.start c with finished := finished }
/-- Core 0 with a running operation. -/
def running (o : EngOp) : State := State.reset.modCore 0 fun c => { c with run := some o }

theorem witness_array_start : ∀ op ∈ [0x0B, 0x0C, 0x0E],
    let c := cmdOf op 0 0 0 1
    let s := State.reset.modCore 0 fun x => { x with engQ := [c] }
    (s.core 0).run = none ∧ (s.core 0).heldOps = [] ∧ (s.core 0).engQ = [c] ∧ engOver s c.cid = false ∧
      s.blockedAt c.cid c.engClass c.seq false = false ∧ s.accWaits c = false ∧ s.savWaits c = false ∧ gangHolds s c.cid = false ∧
      s.engPaused c.cid = false ∧ (engStart s (c.atStart s)).isOk = true := by decide
/-- A command whose checks fail where it starts, and one whose table no translation reaches. -/
theorem witness_array_discard : ∀ x ∈ [(0x0D, 8, false), (0x0D, 0x40000000, true)],
    let c := cmdOf x.1 x.2.1 0 64 0
    let s := (world [] id).modCore 0 fun k => { k with engQ := [c] }
    (s.core 0).engQ = [c] ∧ s.blockedAt 0 c.engClass c.seq false = false ∧ s.accWaits c = false ∧ s.savWaits c = false ∧
      (match engStart s (c.atStart s) with | .ok _ => none | .error e => some e.trans) = some x.2.2 := by decide
/-- Operations that wait for the fault service, for a handler's end, and after a resumption. -/
theorem witness_array_continues : ∀ why ∈ [1, 3, 4, 5],
    let o := { engOp (cmdOf 0x0C 0 0 0 1) false with heldWhy := why, entered := true }
    let s := State.reset.modCore 0 fun k => { k with heldOps := [o] }
    (s.core 0).run = none ∧ (s.core 0).heldOps = [o] ∧ engOver s 0 = false ∧ heldReady s o = true ∧
      (engStart (s.modCore 0 fun k => { k with heldOps := [] }) (o.cmd.atStart s)).isOk = true := by decide
/-- A command without steps of its own. -/
theorem witness_array_step :
    let o := engOp (cmdOf 0x0C 0 0 0 1) false
    let s := running o
    (s.core 0).run = some o ∧ o.cmd.op ≠ 0x0E ∧ o.cmd.op ≠ 5 ∧ o.finished = false ∧ gangWaits s o 0 = false ∧
      engWork s o = .ok (s, engOp o.cmd true) ∧ (engOp o.cmd true).heldWhy = 0 ∧ engOver s 0 = false ∧ o.flags &&& (s.ctx 0).r.xtrapen = 0 ∧
      (s.ctx 0).r.dlPend = false ∧ s.engPaused 0 = false :=
  ⟨by decide, by decide, by decide, by decide, by decide, rfl, rfl, by decide, by decide, by decide, by decide⟩
/-- One that raises an enabled flag. -/
theorem witness_array_hold :
    let o := { engOp (cmdOf 0x0C 0 0 0 1) false with flags := 3 }
    let s := (running o).modCtx 0 fun c => { c with status := .running, r := { c.r with xtrapen := 2 } }
    (s.core 0).run = some o ∧ engWork s o = .ok (s, { o with finished := true }) ∧ engOver s 0 = false ∧
      o.flags &&& (s.ctx 0).r.xtrapen ≠ 0 ∧ (s.ctx 0).status = .running ∧ (s.ctx 0).r.inHandler = false :=
  ⟨by decide, rfl, by decide, by decide, by decide, by decide⟩
/-- A solve of one row, whose record and panels stand in the operand store. -/
theorem witness_array_solve_parks :
    let desc := fun o l => o + 2 ^ 27 + 2 ^ 41 + (l - 1) * 2 ^ 48
    let c := cmdOf 4 (desc 0x100040 1) 0x100000 (desc 0x100080 3) 0
    let v : Solve := ⟨0, 1, [], [], [0], [0], some 0, 0, 0, 0, 0⟩
    let o := { engOp c false with solve := some v }
    let s := wrWin State.reset 0 0 0x100000 [1, 0, 1, 1]
    o.finished = false ∧ (slvIn (EngOp.orFlags s o) o.cmd).isSome = true ∧ v.bestNorm = some 0 :=
  ⟨rfl, by decide, rfl⟩
/-- A `rot.lin` of one row and one column whose B lies where no translation is. -/
theorem witness_array_fault :
    let o := engOp (cmdOf 5 (2 ^ 41 + 2 ^ 24) 0x40000000 (2 ^ 41 + 2 ^ 24) 0) false
    let s := (world [] id).modCore 0 fun k => { k with run := some o }
    (s.core 0).run = some o ∧ gangWaits s o 0 = false ∧
      (match engWork s o with | .ok _ => none | .error e => some e.trans) = some true := by decide
theorem witness_array_end :
    let o := engOp (cmdOf 0x0C 0 0 0 1) true
    ((running o).core 0).run = some o ∧ o.endsLater (running o) = false ∧ gangEndWaits (running o) o 0 = false := by decide
/-- A table of one NOP entry that is its own successor, and one with two entries. -/
theorem witness_sequencer : ∀ e ∈ [0, 2 ^ 71],
    let o := engOp (cmdOf 0x0E 0 0 0 0) false
    let s := (running o).modCtx 0 fun c => { c with seqr := { c.seqr with table := [e, 0], at_ := 0, prev := some 0, inner := none } }
    let q := (s.ctx 0).seqr
    (s.core 0).run = some o ∧ o.finished = false ∧ q.inner = none ∧ q.prev = some q.at_ ∧ q.table[q.at_]? = some e ∧
      e / 2 ^ 121 % 2 ^ 7 = 0 ∧ (e / 2 ^ 71 % 2 ^ 6 = q.at_ ↔ e = 0) := by decide
/-- A running command of the sequencer, and one that has finished. -/
theorem witness_sequencer_inner : ∀ fin : Bool,
    let o := engOp (cmdOf 0x0E 0 0 0 0) false
    let i := engOp (cmdOf 0x0C 0 0 0 1) fin
    let s := (running o).modCtx 0 fun c => { c with seqr := { c.seqr with inner := some i } }
    (s.core 0).run = some o ∧ (s.ctx 0).seqr.inner = some i ∧ s.svcWaits 0 1 = false ∧ s.deliveredNow 0 = false ∧
      gangWaits s i (s.ctx 0).seqr.issued = false ∧ engWork s i = .ok (s, { i with finished := true }) ∧ i.endsLater s = false ∧ i.cmd.cid = o.cmd.cid :=
  fun _ => ⟨by rfl, by rfl, by rfl, by rfl, by rfl, rfl, by rfl, rfl⟩
/-- A raw copy of one row of one byte. -/
def oneByte : Cmd := cmdOf 0x10 0 0 0xFFFF0000 0
theorem witness_copy_completes :
    let k : Copy := ⟨oneByte, 0, 1, 0, [], [], [], none⟩
    let s := at0 fun c => { c with copies := [k] }
    (s.ctx 0).copies[0]? = some k ∧ workTotal k.cmd = 1 ∧ workTotal k.cmd ≤ k.pos ∧ k.bytes = [] := by decide
/-- A copy of one byte in the stack memory, in normal and in deterministic operation. -/
theorem witness_copy_element : ∀ det : Bool,
    let k : Copy := ⟨{ cmdOf 0x10 0x6000 0x7000 0xFFFF0000 0 with fmts := [] }, 0, 0, 0, [], [], [], none⟩
    let s := world [] fun c => { c with copies := [k], bind := { c.bind with det := det, frame := 100 }, r := { c.r with frameTime := 64 } }
    (s.ctx 0).copies[0]? = some k ∧ copyReady s 0 k = true ∧ s.frameReached 0 ((s.ctx 0).keyTime k.cmd.key + 64) = true ∧
      earlierCopy s k = false ∧ copyBad k = none ∧
      (match elemStretches s k with
       | .ok (sts, fl) =>
          let u := s.noteSpans 0 (copySpans k sts)
          (s.ctx 0).r.enabled fl == 0 && sts.length == 1 &&
            (copyWrites u 1 0 0 (sts.map fun st => stretchPut u 0 (addrPlus k.cmd.b st.1) st)).isOk
       | .error _ => false) = true := by decide
theorem witness_stream_delivery : ∀ n ∈ [1, 128],
    let k : Copy := ⟨oneByte, 0, 1, 0, [0], List.replicate n (some 7), [], none⟩
    let st : Stream := ⟨false, 15, List.replicate 7 [⟨1, true⟩], false, []⟩
    let s := at0 fun c => { c with copies := [k], r := c.r.setStream 0 (some st) }
    (s.ctx 0).r.stream 0 = some st ∧ st.output = false ∧ st.elems.length < 8 ∧ st.tag < pkTag ∧
      (s.ctx 0).copies.findIdx? (fun k => k.streams.contains 0) = some 0 ∧ (s.ctx 0).copies[0]? = some k ∧
      workTotal k.cmd ≤ k.pos ∧ k.bytes ≠ [] ∧ k.bytes.length ≤ 128 := by decide
/-- A lookup with results for a stream, and a stream that is full. -/
theorem witness_lookup_delivery : ∀ n ∈ [7, 8],
    let st : Stream := ⟨false, pkTag, List.replicate n [⟨1, true⟩], false, []⟩
    let r : PkRun := ⟨cmdOf 0x31 0 0 (2 ^ 28) 0, 0, 0, 0, 0, true, [], [1]⟩
    let s := (at0 fun c => { c with status := .running, r := c.r.setStream 0 (some st) }).modDie 0 fun d => { d with pkRun := some r }
    (s.ctx 0).r.stream 0 = some st ∧ pkTag ≤ st.tag ∧ (s.die (dieOf (coreOf 0))).pkRun = some r ∧
      (st.elems.length < 8 ↔ n = 7) ∧ r.out ≠ [] ∧ (s.ctx 0).status ≠ .stopped := by decide
theorem witness_push_consumed : ∀ es ∈ [[], [[(⟨1, true⟩ : VWord)]]],
    let c : Cmd := if es = [] then cmdOf 0x14 0 0 0xFFFF0000 0 else oneByte
    let k : Copy := ⟨c, 0, 0, 0, [8], [], [], none⟩
    let st : Stream := ⟨true, 0, es, false, es.map fun _ => 0⟩
    let s := at0 fun c => { c with copies := [k], r := c.r.setStream 0 (some st) }
    (s.ctx 0).copies.findIdx? (fun k => k.streams.contains (0 + 8)) = some 0 ∧ (s.ctx 0).copies[0]? = some k ∧
      (s.ctx 0).r.stream 0 = some st ∧ st.elems = es ∧ k.held = none ∧ s.svcWaits 0 (copyCls k.cmd) = false ∧
      s.blockedAt 0 1 0 false = false ∧ (es ≠ [] → pushesReady k = false) ∧ (es = [] → srcTotal k.cmd = 0) := by decide
theorem witness_units :
    let e := cmdOf 0x20 0 0 0 0
    let p := cmdOf 0x30 0 0 0 0
    let r : PkRun := ⟨p, 0, 0, 0, 0, true, [], []⟩
    let s := State.reset.modClu 0 fun c => { c with eqQ := [e] }
    let t := State.reset.modDie 0 fun d => { d with pkQ := [p] }
    let u (fin : Bool) := State.reset.modDie 0 fun d => { d with pkRun := some { r with finished := fin } }
    pickFree (s.tick * 4096) (eqNextCands s 0) = some e ∧ (t.die 0).pkRun = none ∧
      pickFree (t.tick * 4096) (pkNextCands t 0) = some p ∧ ((u true).die 0).pkRun = some r ∧ r.finished = true ∧
      r.out = [] ∧ (u false).svcWaits 0 4 = false ∧ pkPaused (u false) { r with finished := false } = false := by decide
/-- An `nm.fai` on a word of the stack memory, and on a poisoned one. -/
theorem witness_nm_row : ∀ bad : Bool,
    let n : NCmd := ⟨cmdOf 0x39 0x6000 1 0 0, 0, 0, [], none, false, none, 0⟩
    let w := world [] fun c => { c with ncmds := [n] }
    let s := if bad then w.modHub fun h => { h with poison := [0x6000 / 64] } else w
    (s.ctx 0).ncmds[0]? = some n ∧ n.over = false ∧ n.held = none ∧ s.blockedAt 0 5 n.cmd.seq false = false ∧
      nmOlder s ((s.ctx 0).ncmds.take 0) n = false ∧
      (match nmTry s n with | .done d => d.poisoned.isSome == bad | _ => false) = true := by decide
/-- An `as.ld` that has written its granules, and one that met the check of its phase. -/
theorem witness_as_ld_end : ∀ st ∈ [none, some 1],
    let a : AsLd := ⟨cmdOf 0x40 0 0 64 0, if st = none then 1 else 0, none, st⟩
    let s := at0 fun c => { c with asLds := [a] }
    (s.ctx 0).asLds[0]? = some a ∧ (a.total ≤ a.granules ∨ a.status = some 1) := by decide
theorem witness_nm_acknowledge :
    let n : NCmd := ⟨cmdOf 0x39 0x6000 1 0 0, 1, 0, [], none, false, none, 640⟩
    let m : NCmd := { n with cmd := cmdOf 0x38 0 0x6000 0 0, stopped := true }
    let s := at0 fun c => { c with ncmds := [n, m] }
    (s.ctx 0).ncmds[0]? = some n ∧ (s.ctx 0).ncmds[1]? = some m ∧ m.over = true ∧ m.row ≤ m.acked + 1 ∧ n.acked < n.row := by decide

/-! ### Witnesses: gangs, barriers, pre-emption -/

/-- Contexts 0 and 2 in a gang of two. -/
def gang (f : Ctx → Ctx) : State :=
  let b : Binding := { Ctx.reset.bind with gangW := 2 }
  (State.reset.modCtx 0 fun c => f { c with status := .running, bind := b }).modCtx 2 fun c =>
    f { c with status := .running, bind := { b with member := 1 } }

/-- The last arrival and one that is not. -/
theorem witness_barrier : ∀ n ∈ [1, 2],
    let c := cmdOf 0x1B 15 n 0 0
    let s := State.reset.modClu 0 fun k => { k with cbarQ := [c] }
    takeFirst (fun c => c.cid == 0) (s.clu (s.ctx 0).bind.barClu).cbarQ = some (c, []) ∧ cbarReady s c = true ∧
      (((s.clu 0).barriers[15]).arrive c.b.toNat ((s.ctx 0).keyTime c.key)).isSome = true := by decide
theorem witness_barrier_release :
    let s := (at0 fun c => { c with barrier := some (15, some 1) })
    (s.ctx 0).barrier = some (15, some 1) ∧ ((s.clu (s.ctx 0).bind.barClu).barriers[15 % 16]).gen ≠ 1 ∧
      (s.ctx 0).bind.det = false := by decide
theorem witness_gang :
    let s := gang fun c => { c with status := .running, lineFuse := some 64, lineRejoin := true }
    (s.ctx 0).bind.gang = true ∧ s.members 0 = [0, 2] ∧
      ∀ i ∈ s.members 0, (s.ctx i).lineFuse.isSome = true ∧ (s.ctx i).lineFuse = (s.ctx 0).lineFuse ∧
        (s.ctx i).lineRejoin = true ∧ (s.ctx i).status = .running := by decide
theorem witness_preemption :
    let s := at0 fun c => { c with status := .running, preempt := true }
    let t := at0 fun c => { c with status := .stopped }
    (s.ctx 0).status = .running ∧ s.issueCores = [] ∧ (∀ i ∈ s.gangOf 0, s.stopsHere i = true ∧ (s.ctx i).r.rngDue = 0) ∧
      (t.ctx 0).status = .stopped ∧ t.imageReady 0 = true := by decide
/-! ### Witnesses: the scheduler -/

/-- Partition 0 on die 0 with one launch at the head of a queue. -/
def launched (queue : Fin 16) (l : Launch) : State :=
  State.reset.modPart 0 fun p => { p with dies := [0], cap := 2 ^ 22, queues := p.queues.set queue [l] }
/-- A started graph of one node. -/
def started (n : Node) : Launch := ⟨3, 0x4000, none, 0, true, false, 0xFFFFFFFF, [n], 4⟩
/-- A node of class 3 whose kernel is of one tile. -/
def node1 (state : NodeState) (flags : Nat) : Node :=
  { Node.none with state := state, cls := 3, ent := { Node.none.ent with flags := flags, gx := 1, gy := 1, gz := 1 } }

theorem witness_graph_refused :
    let l : Launch := ⟨0, 0x4000, none, 0, false, false, 0xFFFFFFFF, [], 4⟩
    let s := (world [] id).modPart 0 fun p => { p with queues := p.queues.set 15 [l] }
    s.graph 0 15 = some l ∧ l.started = false ∧ (match checkGraph s 0 15 l with | .ok _ => none | .error e => some e) = some (1, 0xFFFFFFFF) := by
  decide
theorem witness_node_release : ∀ flags ∈ [0, 1],
    let n := node1 .ready flags
    let s := launched 7 (started n)
    s.graph 0 7 = some (started n) ∧ (s.node 0 7 0).state = .ready ∧
      served s 0 (fun a => a.saved.isNone && a.queue == 7 && a.node == 0) = true ∧ ((s.node 0 7 0).ent.reserves = true ↔ flags = 1) := by
  decide
/-- The image of a saved task. -/
def image : Saved := ⟨Ctx.reset, [], [], [], [], none, [], 0, 0, 0, none⟩
/-- A free context that a node's ticket lacks, and one that the ticket of a group of saved tasks lacks. -/
theorem witness_reservation :
    let r : Resv := ⟨0, [0], 0, []⟩
    let n := { node1 .released 1 with resv := some r, unbound := [0] }
    let s := launched 7 (started n)
    let x := { image with resv := some r }
    let u := State.reset.modPart 0 fun p => { p with dies := [0], cap := 2 ^ 22, saved := [x] }
    (heldBy (holders s 0) 0).isSome = false ∧ wantedBy s (holders s 0) 0 = some ⟨r, none, 7, 0, 3, n⟩ ∧
      (s.node 0 7 0).resv = some r ∧ s.graph 0 7 = some (started n) ∧ (heldBy (holders u 0) 0).isSome = false ∧
      (wantedBy u (holders u 0) 0).map (fun h => (h.resv, h.saved)) = some (r, some 0) ∧ (u.part 0).saved[0]? = some x := by
  decide
/-- A node that waits, and a saved task of a node, each for a period of aging. -/
theorem witness_age :
    let n := node1 .ready 0
    let s := (launched 7 (started n)).modPart 0 fun p => { p with age := 0 }
    let x := { image with ctx := { Ctx.reset with bind := { Ctx.reset.bind with launch := 3 } } }
    let u := (launched 7 (started (node1 .released 0))).modPart 0 fun p => { p with age := 0, saved := [x] }
    s.graph 0 7 = some (started n) ∧ (s.node 0 7 0).state = .ready ∧ 2 ≤ n.cls ∧ n.since + (s.part 0).age ≤ s.hub.ptb ∧
      (u.part 0).saved[0]? = some x ∧ x.ctx.bind.node = 0 ∧ queueOf u 0 x.ctx.bind.launch = some 7 ∧
      2 + x.boost ≤ (u.node 0 7 0).cls ∧ x.aged + (u.part 0).age ≤ u.hub.ptb := by decide
/-- A ready co-resident node of class 0 that waits for the one context, which a task of a node of class 3 has. -/
theorem witness_preemption_request :
    let w : Node := { node1 .released 1 with cls := 0, unbound := [0], resv := some ⟨0, [0], 0, []⟩ }
    let l : Launch := ⟨3, 0x4000, none, 0, true, false, 0xFFFFFFFF, [w, node1 .released 0], 4⟩
    let s := (State.reset.modPart 0 fun p => { p with dies := [0], queues := p.queues.set 7 [l] }).modCtx 0 fun c =>
      { c with status := .running, bind := { c.bind with launch := 3, node := 1 } }
    let items := (readyItems s 0).filter fun a => !a.able && decide (0 < a.lacks)
    let going := (s.ctxs.filter fun x => x.2.bind.part == 0 && x.2.preempt).length
    let lacks (c : Nat) : Nat := ((items.filter fun a => mayPreempt a.cls c).map (·.lacks)).sum
    let cands := (s.ctxs.filter fun x => x.2.bind.part == 0 && x.2.status == .running && !x.2.preempt
      && decide (going < lacks (s.nodeOf x.2.bind).cls)).map (·.1)
    cands.find? (fun a => cands.all fun b => a == b || victimBefore s a b) = some 0 := by decide
/-- A node without a reservation, and one with all its contexts granted; a deadline that leaves no count. -/
theorem witness_bind : ∀ flags ∈ [0, 1],
    let n := { node1 .released flags with zext := 1, unbound := [0], resv := if flags = 1 then some ⟨0, [0], 0, [0]⟩ else none }
    let s := launched 7 (started n)
    s.graph 0 7 = some (started n) ∧ nextPlace s 0 (started n).seq 0 n 0 = some [0] ∧ n.state = .released ∧
      (n.ent.reserves = false → served s 0 (fun a => a.saved.isNone && a.queue == 7 && a.node == 0) = true) ∧
      bindDeadline s n.ent (s.core (coreOf 0)).op = some 0xFFFFFFFFFFFFFFFF ∧ deadlinesOk s n.ent [0] = true ∧
      deadlinesOk { s with hub := { s.hub with ptb := 2 } } { n.ent with flags := 4, dline := 1 } [0] = false := by decide
/-- A task that starts alone, the tasks of a co-resident node that start together, and tasks that end. -/
theorem witness_start_and_end :
    let s := at0 fun c => { c with status := .bound }
    let u := at0 fun c => { c with status := .bound, bind := { c.bind with coRes := true } }
    let t := at0 fun c => { c with status := .ending }
    let g := gang fun c => { c with status := .ending }
    (s.ctx 0).status = .bound ∧ (s.ctx 0).bind.coRes = false ∧ (s.ctx 0).bind.det = false ∧
      (u.ctx 0).bind.coRes = true ∧ (u.nodeOf (u.ctx 0).bind).unbound = [] ∧ (u.part 0).saved = [] ∧
      0 ∈ startSet u 0 ∧ (t.ctx 0).status = .ending ∧ (t.ctx 0).bind.gang = false ∧ t.drained 0 = true ∧
      (g.ctx 0).bind.gang = true ∧ g.members 0 = [0, 2] ∧ ∀ i ∈ g.members 0, g.drained i = true := by decide
/-- A saved task that resumes, and a group that takes its ticket. -/
theorem witness_resume :
    let s := State.reset.modPart 0 fun p => { p with dies := [0], cap := 2 ^ 22, saved := [image] }
    let x := { image with ctx := { Ctx.reset with bind := { Ctx.reset.bind with coRes := true } } }
    let u := State.reset.modPart 0 fun p => { p with dies := [0], cap := 2 ^ 22, saved := [x] }
    (s.hub.parts.find? fun p => p.2.dies.contains (dieOf (coreOf 0)) || decide (dieOf (coreOf 0) / 8 = p.1 + 1)) =
        some (0, s.part 0) ∧
      resumePlace s 0 0 = some [0] ∧ groupOf (s.part 0) 0 = [0] ∧ served s 0 (fun a => a.saved == some 0) = true ∧
      (u.hub.parts.find? fun p => p.2.dies.contains (dieOf (coreOf 0)) || decide (dieOf (coreOf 0) / 8 = p.1 + 1)) =
        some (0, u.part 0) ∧
      resumePlace u 0 0 = none ∧ served u 0 (fun a => a.saved == some 0) = true := by decide

/-! ### Witnesses: the host, debug, power and errors -/

/-- A launch message (R333) and an answer of the fault service. -/
def msg (op : Nat) : List Byte := leBytes 2 op ++ leBytes 62 0
theorem witness_walk :
    let s := (world [] id).modDie 0 fun d => { d with walks := [⟨0, 0x6000, [0]⟩] }
    (s.die 0).walks[0]? = some ⟨0, 0x6000, [0]⟩ ∧ (match walk s 0 0x6000 with | .page _ _ => true | _ => false) = true := by decide
theorem witness_fault_reply :
    let f : FaultRec := ⟨0, 0, 0, 0, 0, 0, 0, 0, 0, 0, []⟩
    let m := leBytes 2 2 ++ leBytes 62 0
    let s := State.reset.modPart 0 fun p => { p with faults := [f] }
    (s.part 0).faults.find? (fun f => f.num == slice m 8 8) = some f ∧ slice m 0 2 = 2 ∧ slice m 2 1 = 0 ∧ f.waiters = [] ∧
      (s.part 0).faultWaiting = [] := by decide
/-- A fault that is delivered to an engine's operation. -/
theorem witness_fault_delivery :
    let f : FaultRec := ⟨0, 0, 0, 0, 0, 0, 0, 0x6000, 0, 0, [(0, 1)]⟩
    let m := leBytes 2 2 ++ [1] ++ leBytes 61 0
    let s := (at0 fun c => { c with status := .running }).modPart 0 fun p => { p with faults := [f] }
    (s.part 0).faults.find? (fun f => f.num == slice m 8 8) = some f ∧ slice m 0 2 = 2 ∧ slice m 2 1 = 1 ∧ f.waiters = [(0, 1)] ∧
      (s.ctx 0).status = .running ∧ (s.ctx 0).r.inHandler = false := by decide
/-- A launch that is refused for its queue number, and a queue that is full. -/
theorem witness_launch_refused :
    let l : Launch := ⟨0, 0x4000, none, 0, false, false, 0xFFFFFFFF, [], 4⟩
    let m := leBytes 2 1 ++ [16] ++ leBytes 61 0
    let s := State.reset.modPart 0 fun p => { p with dies := [0], queues := p.queues.set 0 (List.replicate 64 l) }
    slice m 0 2 = 1 ∧ launchBad s 0 m = true ∧ launchBad s 0 (msg 1) = false ∧ 64 ≤ ((s.part 0).queue (slice (msg 1) 2 1)).length := by
  decide
theorem witness_launch_messages :
    let s := State.reset.modPart 0 fun p => { p with dies := [0], invals := [(0, 1, true)] }
    slice (msg 3) 0 2 = 3 ∧ (s.part 0).invals[0]? = some (0, 1, true) ∧ translatedPending s 0 = false ∧ slice (msg 1) 0 2 = 1 ∧
      launchBad s 0 (msg 1) = false ∧ ((s.part 0).queue (slice (msg 1) 2 1)).length < 64 ∧ slice (msg 4) 0 2 ∉ [1, 2, 3] ∧
      (s.part 0).dies ≠ [] := by decide
theorem witness_inbound :
    let s := world [] id
    (s.part 0).dies ≠ [] ∧ (State.reset.part 0).dies = [] ∧
    (inKeys s 0 true false 0x6000 2).isSome = true ∧ (inKeys s 0 false true 0x6000 2).isSome = true ∧
      ∀ size ∈ [4, 8], 0x6000 % size = 0 ∧ (inKeys s 0 true true 0x6000 size).isSome = true := by decide
/-- A load of host memory that has been sent, and one that an older acquire holds. -/
theorem witness_remote_error :
    let a := { acc .load 4 [] [(0, 0)] [] with host := true, seq := 1 }
    let s (q : List MAcc) := at0 fun c => { c with status := .running, mq := a :: q }
    (∀ q ∈ [[], [acc .acquire 0 [] [] []]], ((s q).ctx 0).mq[0]? = some a ∧ ((s q).ctx 0).status = .running ∧
      ((s q).ctx 0).r.inHandler = false) ∧ a.host = true ∧ a.kind.isLoad = true ∧ (s []).mayPerform 0 a = true ∧
      (s [acc .acquire 0 [] [] []]).mayPerform 0 a = false := by decide
/-- A release at system scope to host memory that may leave. -/
theorem witness_release_error :
    let a := { acc .release 4 [(kHost 0 8, 1)] [] [] with host := true, scope := 4 }
    ((queued a).ctx 0).mq[0]? = some a ∧ a.host = true ∧ a.kind = .release ∧ 4 ≤ a.scope ∧ (queued a).mayLeave 0 a = true ∧
      ((queued a).ctx 0).status ≠ .ending := by decide
/-- A copy that reads a page of host memory. -/
theorem witness_engine_remote_error :
    let k : Copy := ⟨oneByte, 0, 1, 0, [], [], [], none⟩
    let s := world [(0x2008, 2), (0x2009, 7), (0x200F, 0x10)] fun c => { c with copies := [k] }
    2 ^ 30 < 2 ^ 64 ∧ remoteVa s 0 (2 ^ 30) = true ∧ (s.ctx 0).copies[0]? = some k ∧ k.held = none ∧
      (s.ctx 0).status = .running ∧ (s.ctx 0).r.inHandler = false := by decide
/-- A remote write that fails while its task runs, and when it ends. -/
theorem witness_remote_write_error : ∀ st ∈ [TStatus.running, .ending],
    let w : BufWrite := ⟨0, 0, 0, 4, 0, true, [(5, 1)]⟩
    let s := (at0 fun c => { c with status := st }).modHub fun h => { h with bridge := [w] }
    1000 ≤ 1000 ∧ 1000 < 2 ^ 64 ∧ takeWrite s.hub.bridge (1000 - 1000) = some (w, []) ∧ takeWrite [w, w] (1001 - 1000) = none ∧
      w.cid = 0 ∧ w.ofHub = false ∧ (s.ctx 0).status = st ∧ (s.ctx 0).firstFail = none := by decide
/-- Without an owner key no signature verifies; and a module in recovery mode. -/
theorem witness_unsigned : (∀ k ws sig, State.reset.hub.signed k ws sig = false) ∧ State.reset.hub.recovery = false ∧
    State.reset.hub.ownerKey = none ∧ (State.reset.modHub fun h => { h with recovery := true, rollback := 1 }).hub.recovery = true ∧
    0 < (State.reset.modHub fun h => { h with recovery := true, rollback := 1 }).hub.rollback :=
  ⟨fun _ _ _ => rfl, rfl, rfl, rfl, by decide⟩
/-- Whether a signature verifies is not the model's to say; what else the messages ask for, at the bounds. -/
theorem witness_management :
    let s := State.reset.modHub fun h => { h with ownerKey := some 1, parts := [] }
    State.reset.hub.recovery = false ∧ State.reset.hub.ownerKey = none ∧ s.hub.ownerKey.isSome = true ∧ 15 < 16 ∧ 7 < 8 ∧
      maskDies 1 = [0] ∧ (∀ p ∈ s.hub.parts, p.2.dies = [] ∨ (p.1 ≠ 7 ∧ ∀ d ∈ p.2.dies, d ∉ maskDies 1)) ∧
      s.hub.signed 6 [0] 0 = Config.sigVerifies 1 (msgDigest 6 [0]) 0 ∧ s.hub.rollback ≤ 0 :=
  ⟨rfl, rfl, rfl, by decide, by decide, by decide, by decide, rfl, by decide⟩
theorem witness_debug :
    let d : DebugDom := ⟨[1], some 0, 7, true⟩
    let s := State.reset.modHub fun h => { h with firmDebug := d, kernelDebug := [(0, d)] }
    let t := s.modCtx 0 fun c => { c with status := .running, held := true, dbgStop := some (64, 9, 0x3FFC) }
    s.hub.recovery = false ∧ (s.hub.domain 1).fails < 8 ∧ (s.hub.domain 0).challenge = some 0 ∧ 1 ∈ (s.hub.domain 0).keys ∧
      debugOpen t 0 = true ∧ (t.ctx 0).status ≠ .free ∧ 1023 % 1024 ≠ 0 ∧ (t.ctx 0).dbgStop = some (64, 9, 0x3FFC) := by decide
/-- A domain locked out by eight failures, and one without a challenge. -/
theorem witness_debug_refused :
    let s := State.reset.modHub fun h => { h with firmDebug := ⟨[1], none, 8, false⟩ }
    s.hub.recovery = false ∧ 8 ≤ (s.hub.domain 0).fails ∧ (s.hub.domain 0).challenge = none := by decide
/-- The sixty-fourth boost of a cluster in 1,024 ticks. -/
theorem witness_droop :
    let s := (State.reset.modHub fun h => { h with ptb := 1024 }).modClu 0 fun c => { c with boosts := List.range' 1 63 }
    let old := (s.clu 0).boosts.filter fun t => decide (s.hub.ptb < t + 1024)
    old.contains s.hub.ptb = false ∧ (s.clu 0).raised ≠ some s.hub.ptb ∧ (old ++ [s.hub.ptb]).length = 64 := by decide
/-- Two detections in the PTB cycle in which the level rises count once (R352). -/
theorem test_droop_counts_once :
    let s := (State.reset.modHub fun h => { h with ptb := 1024 }).modClu 0 fun c => { c with boosts := List.range' 1 63 }
    let t := out (exec (.droopDetect 0 3) s)
    let u := out (exec (.droopDetect 0 9) t)
    (t.clu 0).lim = 1 ∧ (t.clu 0).boosts = [] ∧ (u.clu 0).boosts = [] := by decide
/-- An error that a rerun corrects, and errors of a granule and of a cluster with a bound task. -/
theorem witness_errors :
    let s := at0 fun c => { c with status := .running }
    let b := at0 fun c => { c with status := .bound }
    (s.ctx 0).status = .running ∧ (s.ctx 0).ival.unprotected = false ∧ 16 + 5 < 2 ^ 80 ∧ cluGranule 5 = false ∧
      clusterOf (coreOf 0) = clusterOf (coreOf 2) ∧ (0, b.ctx 0) ∈ b.ctxs ∧ (b.ctx 0).status ≠ .free ∧ (b.ctx 0).firstFail = none := by
  decide
theorem witness_power_and_errors :
    let s := State.reset.modClu 0 fun c => { c with thr := 1, lim := 2 }
    let u := (State.reset.modHub fun h => { h with ptb := 4096 }).modClu 0 fun c => { c with thr := 1, lim := 2 }
    let d : Dump := ⟨0, 0, [], 0, 0, true, [], 0, [], [], [], [], [], [], 0, 0⟩
    (s.clu 0).boosts = [] ∧ (u.clu 0).thr < (u.clu 0).lim ∧ (u.clu 0).quietFrom + 4096 ≤ u.hub.ptb ∧
      (∃ x ∈ [(255 : Nat), 110], 110 ≤ x ∧ x < 256) ∧ (List.replicate 32 89).length = 32 ∧ (∀ x ∈ List.replicate 32 89, x < 90) ∧
      ((State.reset.modDie 7 fun x => { x with dump := some d }).die 7).dump.isSome = true ∧ State.reset.hub.recovery = false := by
  decide
theorem witness_unprotected_error :
    let s := at0 fun c => { c with status := .running, ival := { c.ival with unprotected := true } }
    (s.ctx 0).status = .running ∧ (s.ctx 0).ival.unprotected = true ∧ (s.ctx 0).firstFail = none := by decide
/-- A halted module that drops an event, and one that is off. -/
theorem witness_stopped :
    let s := { State.reset with halted := true, agenda := [.yield 0] }
    let t := { State.reset with on := false }
    s.halted = true ∧ reachesHalted (.yield 0) = false ∧ t.on = false ∧ t.halted = false ∧ t.agenda = [] := by decide
/-! ### Witnesses: clauses of a statement at the bounds of their ranges -/

/-- A scalar latch in the sources of a V slot, and results that meet at every latency of the V slot. -/
theorem witness_v_slot_refusals :
    let s := reg0 fun r => { r with latch := r.latch.set 2 (.scalar (SVal.mkOk 0)) }
    let ns := [2, 3, 4, 5, 6, 8, 16, 30]
    let k := reg0 fun r => { r with rng := [7], flight := (ns.map fun n => ⟨n, 1, [.vreg 30 32 VVal.zero], none, 0⟩) ++
      [⟨2, 1, [.sreg 30 (SVal.mkOk 0)], none, 0⟩] }
    let f : VFld := ⟨0, 2, 0, 30, 34, 1, 0, 5⟩
    Enabled f.g s ∧ s.me.r.vsrc f.a = none ∧ (k.me.r.vsrc 1).isSome = true ∧ k.me.r.rng ≠ [] ∧
      (∀ n ∈ ns, k.collides n (toV f VVal.zero) = true ∧ k.collides n (toVV f VVal.zero VVal.zero) = true) ∧
      k.collides 2 [.sreg (BitVec.ofNat 6 f.d.toNat) (SVal.mkOk 0)] = true := by decide
/-- Earlier transfers of which one, two and more than three bundles are left. -/
theorem witness_redirects :
    let ts : List Transfer := [⟨1, 100⟩, ⟨2, 200⟩, ⟨4, 300⟩]
    (∀ t ∈ ts, t.left ≠ 0 ∧ t.left ≠ 3) ∧ ts.find? (fun t => t.left == 1) = some ⟨1, 100⟩ ∧
      ts.find? (fun t => t.left == 2) = some ⟨2, 200⟩ ∧ ([] : List Transfer).find? (fun t => t.left == 1) = none := by decide
/-- An inner level that ends elsewhere, and outer levels that end here with a count of 2 and of 1. -/
theorem witness_nested_levels :
    let is : List LoopSh := [⟨3, 2, 0, 9⟩]
    let l : LoopSh := ⟨2, 2, 0, 12⟩
    (∀ x ∈ is, x.last ≠ 12) ∧ l.last = 12 ∧ l.cnt ≠ 1 ∧ ({ l with cnt := 1 } : LoopSh).cnt = 1 ∧
      ∀ x ∈ ([⟨1, 2, 0, 20⟩] : List LoopSh), x.last ≠ 12 := by decide
/-- A faulted dictionary load that an `eret` meets again, and one that another bundle meets. -/
theorem witness_dictionary_retry : ∀ re : Bool,
    let s := at0 fun c => { c with bun := { c.bun with re := re }, r := { c.r with dictLoad := .faulted 5 64 true } }
    InS0 0 s ∧ s.me.r.dictLoad = .faulted 5 64 true ∧ s.me.bun.re = re := by decide
/-- A due result of each kind of write. -/
theorem witness_landing_kinds :
    let p : List (Option Nat) := List.replicate 32 none
    ∀ ws ∈ ([[.vreg 0 16 VVal.zero], [.vreg 0 32 VVal.zero, .vreg 1 32 VVal.zero], [.pred 15 true],
      [.pred 14 true, .pred 15 false], [.neither 14], [.pat 31 p], [.loopRegs 3 2 4 9]] : List (List RWrite)),
    let q : Pending := ⟨0, 7, ws, some (.vector VVal.zero), 0⟩
    let s := at0 fun c => { c with status := .running, r := { c.r with flight := [q] } }
    s.dueResult 0 = some (q, []) ∧ q.isCtl = false ∧ q.flags &&& (s.ctx 0).r.xtrapen = 0 := by decide
/-- `rot.sav` with a held operation of its own context and one of the other; a record that waits, free and behind an acquire. -/
theorem witness_rot_sav_held :
    let o (cid : Nat) : EngOp := { EngOp.start { cmdOf 0x05 0 0 0 0 with cid := cid } with heldWhy := 2 }
    let s := State.reset.modCore 0 fun k => { k with heldOps := [o 0, o 1] }
    let w : SavWrite := ⟨1, 0x3FC0, leBytes 64 0, 0, 0⟩
    let t (q : List MAcc) := at0 fun c => { c with savs := [w], mq := q, bind := { c.bind with used := 1 } }
    let a := acc .acquire 0 [] [] []
    let ls := (List.range 64).map fun i => (⟨0, kScratch 0 0 (0x3FC0 + i), 0, 0, false⟩ : Loc)
    (s.heldOp 0).isSome = true ∧ ((s.core 0).heldOps.filter fun x => x.cmd.cid != 0) = [o 1] ∧ MemOk (t []) ∧
      ((t []).ctx 0).savs = [w] ∧ (((t []).dropFences 0).blockedAt 0 2 1 false) = false ∧
      (((t [a]).dropFences 0).blockedAt 0 2 1 false) = true ∧ w.bytes.length = 64 ∧ w.off % 64 = 0 ∧
      locateAll (t []) 0 .write (Config.windowL + w.off) 64 = .ok ls ∧ (∀ l ∈ ls, l.region ≠ 2 ∧ l.q = 0) := by decide
/-- Parameters that the checks of each kind of command refuse. -/
theorem witness_failed_checks : ∀ x ∈
    [(0x02, false, 0, 0, 0, 0), (0x10, true, 0, 0, 1, 0), (0x20, false, 0, 0, 0, 0), (0x30, false, 0, 16, 0, 0),
     (0x38, true, 0, 0, 15 * 2 ^ 24, 0), (0x12, true, 16, 0, 0, 0), (0x13, false, 0, 0, 0, 0), (0x13, false, 2 ^ 16, 0, 0, 0),
     (0x1B, false, 16, 1, 0, 0), (0x1B, false, 15, 33, 0, 0), (0x1B, false, 15, 0, 0, 0), (0x40, false, 1, 0, 0, 0),
     (0x48, false, 1, 0, 0, 0), (0x48, false, 0, 128, 0, 0)],
    let s := cmd0 x.2.2.1 x.2.2.2.1 x.2.2.2.2.1 x.2.2.2.2.2
    let f := fld x.2.1
    Enabled f.g s ∧ paramsOk s x.1 f x.2.1 = true ∧
      ∃ e ∈ sendShapes, e.op = x.1 ∧ e.four = x.2.1 ∧ e.ok s (mkCmd s x.1 f x.2.1) = false := by decide
/-- A relabel whose list is misaligned. -/
theorem witness_relabel_misplaced :
    let s := cmd0 (2 ^ 18) (Config.windowL + 0x1000001) 0 0
    let c := mkCmd s 0x25 (fld false) false
    paramsOk s 0x25 (fld false) false = true ∧ eqOk c = true ∧ eqBad s c = some (Config.windowL + 0x1000001) := by decide
/-- A result word that meets another result, eight that are pending, and a queue without room. -/
theorem witness_commands_wait :
    let c := cmdOf 0x0C 0 0 0 1
    let k := reg0 fun r => { r with flight := [⟨16, 1, [.sreg 7 (SVal.mkOk 0)], none, 0⟩] }
    let w := reg0 fun r => { r with words := List.replicate 8 ⟨0, 99, 1, none, .command, false, false⟩ }
    let e := State.reset.modCore 0 fun x => { x with engQ := List.replicate 4 c }
    let q := at0 fun x => { x with pkOut := List.replicate 16 0 }
    k.collides (16 * ((fld false).m.toNat + 1)) [.sreg (fld false).d (SVal.mkOk 0)] = true ∧ (fld false).d ≠ 0 ∧
      w.collides (16 * ((fld false).m.toNat + 1)) [.sreg (fld false).d (SVal.mkOk 0)] = false ∧ 8 ≤ w.me.r.words.length ∧
      (∃ x ∈ sendShapes, x.op = 0x0C ∧ x.full e c = true ∧ paramsOk e 0x0C (fld false) false = true ∧ x.ok e c = true) ∧
      (∃ x ∈ sendShapes, x.op = 0x30 ∧ x.full q (cmdOf 0x30 0 0 0 0) = true ∧ x.ok q (cmdOf 0x30 0 0 0 0) = true) := by decide
theorem witness_trap_causes : (11 : BitVec 5) ≠ 12 ∧ (3 : BitVec 5) ≠ 12 := by decide
/-- A vector load that is due. -/
theorem witness_vector_landing :
    let q : MReq := ⟨0, 7, 0, .vreg 31 16, List.replicate 16 true, List.replicate 64 (some 1), true, false, none, 0, 0⟩
    let s := reg0 fun r => { r with land := [q] }
    s.dueReq 0 = some (q, []) ∧ q.arrived = true := by decide
/-- A trap with nothing to land in the clock domain, and the deadline of a bound task, of one that is stopped and of one that
has gone. -/
theorem witness_boundary_bounds : ∀ st ∈ [TStatus.bound, .stopped, .ending],
    let s := at0 fun c => { c with status := st, r := { c.r with dlEvent := true, dlTrap := false } }
    (State.reset.clockCtxs 0).any State.reset.landsNow = false ∧ (s.ctx 0).r.dlEvent = true ∧ (s.ctx 0).status = st ∧
      (s.ctx 0).status ≠ .running ∧ (st = .bound → s.atBoundary 0 = true) := by decide
/-- Releases at their point of coherence on the module and beyond it, and short of it at each scope. -/
theorem witness_releases : ∀ x ∈ [(3, 3, false), (4, 4, true), (0, 4, false), (1, 4, false), (2, 4, false), (3, 4, true),
    (3, 3, true)],
    let a := { acc .release x.2.1 [(kStack 0 0x6000, 1)] [] [] with scope := x.1, host := x.2.2 }
    ((queued a).dropFences 0).mayLeave 0 a = true ∧ (((queued a).dropFences 0).ctx 0).mq[0]? = some a ∧ a.kind = .release := by
  decide
/-- A record of the hub that is the first of its partition at the bridge, one behind another, and a counter's. -/
theorem witness_bridge_records :
    let w : BufWrite := ⟨2 ^ 40, 0, 65536, 4, 0, true, [(5, 1)]⟩
    let c := { w with cls := 9 }
    let s := State.reset.modHub fun h => { h with bridge := [c, w] }
    w.ofHub = true ∧ takeWrite s.hub.bridge 0 = some (c, [w]) ∧ (∀ x ∈ s.hub.bridge.take 0, x.cid ≠ c.cid) ∧
      (∃ x ∈ s.hub.bridge.take 1, x.cid = w.cid) ∧ queueOf s (c.cid - 2 ^ 40) (c.seq / 65536) = none ∧
      ({ w with cid := 3 } : BufWrite).ofHub = false := by decide
/-- Data that is not whole, and data whose time is not reached. -/
theorem witness_data_waits :
    let q : MReq := ⟨0, 6, 9, .sreg 63 4 true, [true], List.replicate 4 none, false, false, none, 0, 0⟩
    let u : MReq := { q with bytes := List.replicate 4 (some 1), from_ := 3 }
    q.bytes.all Option.isSome = false ∧ u.bytes.all Option.isSome = true ∧ ¬ u.from_ ≤ (State.reset.core 0).beats := by decide
/-- An operation that an FP trap holds when its task ends. -/
theorem witness_array_dropped :
    let o := { engOp (cmdOf 0x0C 0 0 0 1) false with heldWhy := 2 }
    let s := (at0 fun c => { c with status := .ending }).modCore 0 fun k => { k with heldOps := [o] }
    (s.core 0).run = none ∧ (s.core 0).heldOps = [o] ∧ engOver s 0 = false ∧ (s.ctx 0).status = .ending ∧ o.heldWhy = 2 ∧
      (s.ctx 0).firstFail = none := by decide
/-- A copy into a stream whose last element is still to come, and a stopped context with 8 elements. -/
theorem witness_stream_bounds :
    let k : Copy := ⟨oneByte, 0, 1, 0, [0], [some 7], [], none⟩
    let st : Stream := ⟨false, 15, List.replicate 8 [⟨1, true⟩], false, []⟩
    let s := at0 fun c => { c with status := .stopped, copies := [k], r := c.r.setStream 0 (some st) }
    (s.ctx 0).r.stream 0 = some st ∧ k.bytes ≠ [] ∧ (128 ≤ finalBytes k ∨ workTotal k.cmd ≤ k.pos) ∧ (s.ctx 0).status = .stopped ∧
      ({ k with streams := [] } : Copy).fills = none := by decide
/-- The old word of an `nm.fai` whose time is reached, and of one whose time is not. -/
theorem witness_nm_word : ∀ n ∈ [0, 640],
    let c : NCmd := ⟨{ cmdOf 0x39 0x6000 1 0 0 with dreg := 7 }, 1, 0, [], none, false, none, n⟩
    c.over = true ∧ c.row ≤ c.acked + 1 ∧ c.wordFree State.reset 0 = (n == 0) := by decide
/-- A barrier that is done at a frame time the context has reached. -/
theorem witness_det_barrier_release :
    let s := at0 fun c => { c with barrier := some (15, some 1), bind := { c.bind with det := true } }
    (s.ctx 0).barrier = some (15, some 1) ∧ ((s.clu (s.ctx 0).bind.barClu).barriers[15 % 16]).gen ≠ 1 ∧
      ((s.clu (s.ctx 0).bind.barClu).barriers[15 % 16]).doneAt ≤ (s.ctx 0).r.frameTime := by decide
/-- Nodes that split along z, deterministic and not. -/
theorem witness_split_node : ∀ det : Bool,
    let n := node1 .ready (if det then 18 else 16)
    n.ent.flag 4 = true ∧ n.ent.det = det ∧ 0 < n.ent.gz ∧
      served (launched 7 (started n)) 0 (fun a => a.saved.isNone && a.queue == 7 && a.node == 0) = true := by decide
/-- A gang whose members are all there. -/
theorem witness_gang_whole :
    let s := gang fun c => { c with status := .running, lineFuse := some 64, lineRejoin := true }
    (s.members 0).length = (s.ctx 0).bind.gangW * (s.ctx 0).bind.gangH := by decide
/-- A peer that the table lists, one that it does not, and an access without the security that the policy asks for. -/
theorem witness_peers :
    let s := (world [] id).modPart 0 fun p => { p with peers := p.peers.set 15 (some 9), memSecure := true }
    (s.part 0).takes none true = true ∧ (s.part 0).takes (some 9) true = true ∧ (s.part 0).takes (some 8) true = false ∧
      some 8 ∉ (s.part 0).peers.toList ∧ (s.part 0).memSecure = true ∧ ((world [] id).part 0).takes none false = true ∧
      (∀ k ∈ (world [] id).cores, dieOf k.1 = 0 → k.2.misses = []) := by decide
/-- An unsigned firmware image of each kind in recovery mode, and one that is too old. -/
theorem witness_firmware :
    let s := State.reset.modHub fun h => { h with recovery := true, rollback := 65535 }
    s.hub.recovery = true ∧ 2 < 3 ∧ s.hub.rollback ≤ 65535 % 2 ^ 16 ∧ 65536 % 2 ^ 16 < s.hub.rollback := by decide
/-- A held context, the last byte of its scratchpad, and a byte of an accumulator's second bank. -/
theorem witness_held_memory :
    let d : DebugDom := ⟨[1], some 0, 7, true⟩
    let s := (State.reset.modHub fun h => { h with firmDebug := d, kernelDebug := [(0, d)] }).modCtx 0 fun c =>
      { c with status := .running, held := true, dbgStop := some (64, 9, 0x3FFC), bind := { c.bind with used := 0xFFFF },
               r := { c.r with transfers := [⟨0, 9⟩] }, seqr := { c.seqr with table := [2 ^ 64] } }
    (s.ctx 0).r.transfers[0]? = some ⟨0, 9⟩ ∧ (s.ctx 0).seqr.table[0]? = some (2 ^ 64) ∧ debugOpen s 0 = true ∧ (s.ctx 0).dbgStop.isSome = true ∧ 65536 + 1023 < 2 ^ 32 ∧
      imageKey s 0 0x3FFFF = some (kScratch 0 15 0x3FFF) ∧ imageKey s 0 0x28FFFF = some (kAcc 0 3 0 0x3FFF) := by decide
/-- A reading at level 3 with 64 boosts in the window, and a module halted while its dump is written. -/
theorem witness_droop_level3 :
    let s := (State.reset.modHub fun h => { h with ptb := 1024 }).modClu 0 fun c => { c with lim := 3, boosts := List.range' 1 64 }
    let t := { State.reset with halted := true, hub := { State.reset.hub with dumping := true } }
    let old := (s.clu 0).boosts.filter fun t => decide (s.hub.ptb < t + 1024)
    64 ≤ old.length ∧ 3 ≤ (s.clu 0).lim ∧ old.reverse[16]?.isSome = true ∧ t.halted = true ∧ t.agenda = [] ∧ t.hub.dumping = true ∧
      reachesDump (.yield 0) = false ∧ reachesHalted (.yield 0) = false ∧ State.reset.hub.dumping = false := by decide

/-! ### Witness: a graph that starts

One node with an image of 4,978 bytes at 0x5000 whose only kernel, named k, has no code. The lemmas below say what the hub reads. -/

/-- The nonzero bytes of the graph at 0x4000 and of the image. -/
def imageCells : List Host.Cell :=
  [(0x4000, 1), (0x4040 + 1, 0x50), (0x4040 + 12, 1), (0x4040 + 14, 1), (0x4040 + 16, 1), (0x4040 + 49, 0x48),
   (0x5000, 0x4E), (0x5001, 0x4C), (0x5002, 0x46), (0x5003, 0x01), (0x5008, 0x72), (0x5009, 0x13), (0x5018, 0xE3), (0x5019, 0x12),
   (0x5031, 0x13), (0x5038, 64), (0x5040, 0x40), (0x5041, 0x13), (0x5048, 16), (0x5080, 0x50), (0x5081, 0x13), (0x5088, 34),
   (0x5000 + 4805, 1), (0x5000 + 4806, 1), (0x5000 + 4944, 1), (0x5000 + 4952, 32), (0x5000 + 4956, 1), (0x5000 + 4957, 1),
   (0x5000 + 4976, 0x6B)]
/-- Partition 0 with that graph launched in queue 7. -/
def gl : Launch := ⟨0, 0x4000, none, 0, false, false, 0xFFFFFFFF, [], 4⟩
def gs : State := (world imageCells id).modPart 0 fun p => { p with queues := p.queues.set 7 [gl] }
theorem mapE_ok {α β ε : Type} (f : α → Except ε β) (g : α → β) (l : List α) (h : ∀ x ∈ l, f x = .ok (g x)) :
    mapE f l = .ok (l.map g) := by
  induction l with
  | nil => rfl
  | cons a t ih => simp [mapE, h a (by simp), ih fun x hx => h x (by simp [hx])]
theorem gs_byte (a : Nat) : gs.readByte 0 4 a = memGet gs.mem a := by rfl
theorem gs_entries : readEntry gs 0 0 = 0x1001 ∧ readEntry gs 0 0x1000 = 0x2001 ∧ readEntry gs 0 0x2000 = 0x702 := by
  decide +kernel
def gp : Page := ⟨0, 2 ^ 30, 0, 0, false, false, true, true, true⟩
theorem gs_leaf : walkLeaf gs 0 0 2 30 0x702 = .page gp 0x702 := by decide +kernel
theorem gs_walk (va : Nat) (h : va < 2 ^ 30) : walk gs 0 va = .page gp 0x702 := by
  have h1 : va % 2 ^ 57 = va := by omega
  have h2 : va / 2 ^ 48 % 512 = 0 := by omega
  have h3 : va / 2 ^ 39 % 512 = 0 := by omega
  have h4 : va / 2 ^ 30 % 512 = 0 := by omega
  have h5 : walkLeaf gs 0 va 2 30 0x702 = walkLeaf gs 0 0 2 30 0x702 := by
    simp [walkLeaf, fieldN, show va / 1073741824 = 0 by omega]
  have hr : (gs.part 0).root = 0 := by rfl
  obtain ⟨e0, e1, e2⟩ := gs_entries
  simp only [walk, h1, hr, walkFrom, levelShift, Nat.mul_zero, Nat.sub_zero, h2, Nat.zero_mul, Nat.add_zero, e0, Nat.mul_one, h3,
    Nat.reduceMul, Nat.reduceSub, Nat.reduceAdd, h4]
  simp only [Nat.reduceMod, Nat.reduceDiv, Nat.reducePow, Nat.reduceMul, fieldN, e1, e2, Nat.reduceEqDiff, if_false,
    if_true, or_false, ne_eq, not_true, OfNat.ofNat_ne_zero]
  exact h5.trans gs_leaf
theorem gs_key (perm : Perm) (va : Nat) (h : va < 2 ^ 30) (hp : gp.allows perm = true) : hubPage gs 0 perm va = .ok gp ∧ hubKey gs 0 perm va = .ok va := by
  have h1 : ¬ ((!isTranslated va) = true ∨ (va / 2 ^ 56 ≠ 0 ∧ va / 2 ^ 56 ≠ 255)) := by
    have h0 : va < Config.windowK := by simp only [Config.windowK]; omega
    simp [isTranslated, h0]; omega
  have h2 : gs.poisoned va = false := by rfl
  have h3 : gp.key + (va % 2 ^ 57 - gp.base) = va := by simp [gp]; omega
  have h4 : hubPage gs 0 perm va = .ok gp := by
    rw [hubPage, if_neg h1, gs_walk va h]
    simp only [hp, if_true]
  refine ⟨h4, ?_⟩
  rw [hubKey, h4]
  simp only [h3, h2, Bool.and_false, Bool.false_eq_true, if_false]
theorem gs_keys (perm : Perm) (va n : Nat) (h : va + n ≤ 2 ^ 30) (hp : gp.allows perm = true) :
    hubKeys gs 0 perm va n = .ok ((List.range n).map fun i => va + i) := by
  refine mapE_ok _ _ _ fun i hi => ?_
  have : i < n := List.mem_range.mp hi
  rw [show (va + i) % 2 ^ 64 = va + i by omega, (gs_key perm (va + i) (by omega) hp).2]
theorem gs_allows (perm : Perm) (va n : Nat) (h : va + n ≤ 2 ^ 30) (hp : gp.allows perm = true) : hubAllows gs 0 perm va n = true := by
  have hm : mapE (fun i => hubPage gs 0 perm ((va + i) % 2 ^ 64)) (List.range n) = .ok ((List.range n).map fun _ => gp) := by
    refine mapE_ok _ _ _ fun i hi => ?_
    have : i < n := List.mem_range.mp hi
    rw [show (va + i) % 2 ^ 64 = va + i by omega, (gs_key perm (va + i) (by omega) hp).1]
  rw [hubAllows, hm]
  rfl
theorem gs_read (va n : Nat) (h : va + n ≤ 2 ^ 30) : hubRead gs 0 4 va n = .ok (memGetBytes gs.mem va n) := by
  simp only [hubRead, gs_keys .read va n h rfl, State.readKeys, List.map_map, memGetBytes]
  rfl
def img : List Byte :=
  [78, 76, 70, 1, 0, 0, 0, 0, 114, 19, 0, 0, 0, 0, 0, 0, 0, 0, 0, 0, 0, 0, 0, 0, 227, 18, 0, 0, 0, 0, 0, 0, 0, 0, 0, 0,
   0, 0, 0, 0, 0, 0, 0, 0, 0, 0, 0, 0, 0, 19, 0, 0, 0, 0, 0, 0, 64, 0, 0, 0, 0, 0, 0, 0, 64, 19, 0, 0, 0, 0, 0, 0,
   16, 0, 0, 0, 0, 0, 0, 0, 0, 0, 0, 0, 0, 0, 0, 0, 0, 0, 0, 0, 0, 0, 0, 0, 0, 0, 0, 0, 0, 0, 0, 0, 0, 0, 0, 0, 0,
   0, 0, 0, 0, 0, 0, 0, 0, 0, 0, 0, 0, 0, 0, 0, 0, 0, 0, 0, 80, 19, 0, 0, 0, 0, 0, 0, 34]
    ++ (List.replicate 4668 0 ++ ([1, 1] ++ List.replicate 137 0 ++ [1, 0, 0, 0, 0, 0, 0, 0, 32, 0, 0, 0, 1, 1] ++
      List.replicate 18 0 ++ [107, 0]))
theorem memGetBytes_add (m : List Host.Cell) (a n k : Nat) :
    memGetBytes m a (n + k) = memGetBytes m a n ++ memGetBytes m (a + n) k := by
  simp [memGetBytes, List.range_add, Nat.add_assoc, Function.comp_def]
theorem gs_mem : gs.mem = [(0, 1), (1, 0x10), (0x1000, 1), (0x1001, 0x20), (0x2000, 2), (0x2001, 7)] ++ imageCells := by rfl
theorem gs_zeros : memGetBytes gs.mem 0x5089 4668 = List.replicate 4668 0 := by
  refine List.eq_replicate_iff.mpr ⟨by simp [memGetBytes], fun b hb => ?_⟩
  obtain ⟨i, hi, rfl⟩ := List.mem_map.mp hb
  have hi := List.mem_range.mp hi
  have hne : ∀ k, (k ≤ 0x5088 ∨ 0x5089 + 4668 ≤ k) → (k = 0x5089 + i) = False := fun k hk => eq_false (by omega)
  rw [gs_mem]
  simp [imageCells, memGet, hne, memDefault, remoteKey]
  exact fun h => absurd h (by omega)
theorem gs_img : memGetBytes gs.mem 0x5000 4978 = img := by
  have h1 : memGetBytes gs.mem 0x5000 137 = img.take 137 := by decide +kernel
  have h3 : memGetBytes gs.mem 0x62C5 173 = img.drop 4805 := by decide +kernel
  rw [show 4978 = 137 + (4668 + 173) from rfl, memGetBytes_add, memGetBytes_add, h1, gs_zeros, h3]
  rfl
theorem img_length : img.length = 4978 := by rfl
theorem gs_shape : imageShape img = true := by
  simp only [imageShape, img_length]
  decide +kernel
theorem gs_policy : policyAccepts (gs.part 0) img = true := by decide +kernel
theorem gs_kernel : (kernelOf img 0x5000 0).map (fun k => k.1.det) = some false := by decide +kernel
theorem readNoluf_ok {s : State} {part scope va : Nat} {h im : List Byte} (h0 : va % 64 = 0)
    (h1 : hubRead s part scope (va + 8) 8 = .ok h) (h2 : hubRead s part scope va (leNat h) = .ok im) (h3 : ¬ im.length < 4771) (h4 : imageShape im = true) :
    readNoluf s part scope va = some im := by
  simp [readNoluf, h0, h1, h2, h3, h4]
theorem gs_noluf : readNoluf gs 0 4 0x5000 = some img := by
  have h1 : leNat (memGetBytes gs.mem 0x5008 8) = 4978 := by decide +kernel
  refine readNoluf_ok rfl (gs_read 0x5008 8 (by decide)) ?_ (by rw [img_length]; decide) gs_shape
  rw [h1, gs_read 0x5000 4978 (by decide), gs_img]
theorem checkGraph_ok {s : State} {part queue : Nat} {l : Launch} {h b su im : List Byte} {k : Kernel × List Nat}
    (hq : ¬ 8 ≤ queue) (h1 : hubRead s part l.scope l.graph 64 = .ok h) (n : slice h 0 4 = 1) (ns : slice h 4 4 = 0) (so : slice h 8 8 = 0)
    (hz : headerOk h = true) (h2 : hubRead s part l.scope (l.graph + 64) 128 = .ok b)
    (h3 : hubRead s part l.scope 0 0 = .ok su) (cap : capOf s part l.scope b = 0) (n1 : nodeBad1 s part b 0 0 = false) (sn : slice b 24 2 = 0) (fl : slice b 10 2 = 0)
    (rd : readNoluf s part l.scope (slice b 0 8) = some im) (pol : policyAccepts (s.part part) im = true)
    (ker : kernelOf im (slice b 0 8) (slice b 8 2) = some k) (det : k.1.det = false) :
    (checkGraph s part queue l).isOk = true := by
  simp [checkGraph, h1, n, ns, so, hz, List.range_succ, mapE, h2, h3, cap, n1, rd, pol, ker, det, fl, hq, firstBad, firstOf,
    nodeBad4, nodeBad2, succsOf, sn, onCycle, reachFrom]
  rfl
theorem gs_ok : (checkGraph gs 0 7 gl).isOk = true := by
  obtain ⟨k, hk, hd⟩ := Option.map_eq_some_iff.mp gs_kernel
  have b0 : slice (memGetBytes gs.mem 0x4040 128) 0 8 = 0x5000 := by decide +kernel
  have b8 : slice (memGetBytes gs.mem 0x4040 128) 8 2 = 0 := by decide +kernel
  have b48 : slice (memGetBytes gs.mem 0x4040 128) 48 8 = 0x4800 := by decide +kernel
  have c2 : hubAllows gs 0 .readWrite 0x4800 64 = true := gs_allows _ _ _ (by decide) rfl
  have c3 : nodeBad1 gs 0 (memGetBytes gs.mem 0x4040 128) 0 0 = false := by
    simp only [nodeBad1, b48, c2]
    decide +kernel
  refine checkGraph_ok (by decide) (gs_read 0x4000 64 (by decide)) (by decide +kernel) (by decide +kernel) (by decide +kernel)
    (by decide +kernel) (gs_read 0x4040 128 (by decide)) (gs_read 0 0 (by decide)) ?_ c3 (by decide +kernel) (by decide +kernel)
    (by rw [b0]; exact gs_noluf) gs_policy (by rw [b0, b8]; exact hk) hd
  rw [show gl.scope = 4 from rfl, capOf, b48, gs_read _ _ (by decide)]
  decide +kernel
theorem witness_graph_starts : gs.graph 0 7 = some gl ∧ gl.started = false ∧ ∃ ns, checkGraph gs 0 7 gl = .ok ns := by
  refine ⟨by rfl, by rfl, ?_⟩
  have h := gs_ok
  cases hc : checkGraph gs 0 7 gl with
  | ok ns => exact ⟨ns, rfl⟩
  | error e => rw [hc] at h; exact absurd h (fun x => Bool.noConfusion x)

end Sys2Proof.Tests
end

namespace Sys2Proof.Claims

open Sys2Proof.Machine

/-! ### The computed values (R86 to R90) -/

theorem mulhU_eq (a b : Word) : mulhU a b = BitVec.ofNat 64 (a.toNat * b.toNat / 2 ^ 64) := by
  have hlt : a.toNat * b.toNat < 2 ^ 64 * 2 ^ 64 := Nat.mul_lt_mul'' a.isLt b.isLt
  apply BitVec.eq_of_toNat_eq
  simp [mulhU, Nat.shiftRight_eq_div_pow]
  omega

/-- The upper half of a signed 128-bit number is its quotient by 2^64, rounded down. -/
theorem upper_half_eq_ofInt_div (x : BitVec 128) : x.extractLsb' 64 64 = BitVec.ofInt 64 (x.toInt / 2 ^ 64) := by
  have hx := x.isLt
  apply BitVec.eq_of_toNat_eq
  rw [BitVec.toInt_eq_toNat_cond]
  simp only [BitVec.extractLsb'_toNat, BitVec.toNat_ofInt, Nat.shiftRight_eq_div_pow]
  split <;> omega

/-- A signed product of two 64-bit words fits in 128 bits. -/
theorem toInt_wide_product (a b : Word) : (a.signExtend 128 * b.signExtend 128).toInt = a.toInt * b.toInt := by
  have hlo := BitVec.le_toInt_mul_toInt (x := a) (y := b)
  have hhi := BitVec.toInt_mul_toInt_le (x := a) (y := b)
  rw [BitVec.toInt_mul, BitVec.toInt_signExtend_of_le (by decide), BitVec.toInt_signExtend_of_le (by decide)]
  apply Int.bmod_eq_of_le <;> omega

theorem mulhS_eq (a b : Word) : mulhS a b = BitVec.ofInt 64 (a.toInt * b.toInt / 2 ^ 64) := by
  rw [mulhS, upper_half_eq_ofInt_div, toInt_wide_product]

theorem add_eq_ofNat (a b : Word) : a + b = BitVec.ofNat 64 (a.toNat + b.toNat) := by simp [BitVec.ofNat_add]

theorem add_eq_ofInt (a b : Word) : a + b = BitVec.ofInt 64 (a.toInt + b.toInt) := by simp [BitVec.ofInt_add]

theorem sub_eq_ofInt (a b : Word) : a - b = BitVec.ofInt 64 (a.toInt - b.toInt) := by
  simp [BitVec.sub_eq_add_neg, Int.sub_eq_add_neg, BitVec.ofInt_add, BitVec.ofInt_neg]

theorem mul_eq_ofNat (a b : Word) : a * b = BitVec.ofNat 64 (a.toNat * b.toNat) := by simp [BitVec.ofNat_mul]

/-! The smaller and the greater of two words, signed and unsigned. -/

theorem ite_slt_eq_min (a b : Word) : (if a.slt b then a else b) = BitVec.ofInt 64 (min a.toInt b.toInt) := by
  rw [BitVec.slt_eq_decide]
  by_cases h : a.toInt < b.toInt
  · simp [h, Int.min_eq_left (Int.le_of_lt h)]
  · simp [h, Int.min_eq_right (Int.not_lt.mp h)]

theorem ite_slt_eq_max (a b : Word) : (if a.slt b then b else a) = BitVec.ofInt 64 (max a.toInt b.toInt) := by
  rw [BitVec.slt_eq_decide]
  by_cases h : a.toInt < b.toInt
  · simp [h, Int.max_eq_right (Int.le_of_lt h)]
  · simp [h, Int.max_eq_left (Int.not_lt.mp h)]

theorem ite_ult_eq_min (a b : Word) : (if a.ult b then a else b) = BitVec.ofNat 64 (min a.toNat b.toNat) := by
  rw [BitVec.ult_eq_decide]
  by_cases h : a.toNat < b.toNat
  · simp [h, Nat.min_eq_left (Nat.le_of_lt h)]
  · simp [h, Nat.min_eq_right (Nat.not_lt.mp h)]

theorem ite_ult_eq_max (a b : Word) : (if a.ult b then b else a) = BitVec.ofNat 64 (max a.toNat b.toNat) := by
  rw [BitVec.ult_eq_decide]
  by_cases h : a.toNat < b.toNat
  · simp [h, Nat.max_eq_right (Nat.le_of_lt h)]
  · simp [h, Nat.max_eq_left (Nat.not_lt.mp h)]

/-! Counts of bits. -/

theorem popcount_eq_length_filter (n x : Nat) : popcount n x = ((List.range n).filter x.testBit).length := by
  induction n generalizing x with
  | zero => rfl
  | succ n ih =>
    have htail : (x.testBit ∘ Nat.succ) = (x / 2).testBit := funext (Nat.testBit_succ x)
    rw [popcount, ih, List.range_succ_eq_map, List.filter_cons, List.filter_map, htail, Nat.testBit_zero]
    by_cases h : x % 2 = 1
    · simp [h, Nat.add_comm]
    · simp [h]; omega

theorem popcWord_eq (a : Word) : popcWord a = BitVec.ofNat 64 (oneBits a) := by
  simp only [popcWord, popcount_eq_length_filter, oneBits]
  rfl

/-- The numbers taken up to the first failure, at k, are k many. -/
theorem length_takeWhile_range {n k : Nat} {p : Nat → Bool} (hk : k < n) (hfail : p k = false)
    (hbelow : ∀ i < k, p i = true) : ((List.range n).takeWhile p).length = k := by
  have hidx : (List.range n).findIdx (fun i => !p i) = k := by
    rw [List.findIdx_eq (by simpa using hk)]
    simpa [hfail] using hbelow
  rw [List.takeWhile_eq_take_findIdx_not, hidx]
  simp [Nat.le_of_lt hk]

theorem leadingZeros_zero : leadingZeros 0 = 64 := by decide

theorem leadingZeros_of_ne_zero {a : Word} (h : a ≠ 0) : leadingZeros a = 63 - a.toNat.log2 := by
  have h0 : a.toNat ≠ 0 := fun h' => h (BitVec.eq_of_toNat_eq h')
  have hlog : a.toNat.log2 < 64 := (Nat.log2_lt h0).mpr a.isLt
  apply length_takeWhile_range (by omega)
  · have htop : 63 - (63 - a.toNat.log2) = a.toNat.log2 := by omega
    rw [htop, ← BitVec.testBit_toNat, Nat.testBit_log2 h0]
    rfl
  · intro i hi
    have habove : a.toNat.log2 < 63 - i := by omega
    rw [← BitVec.testBit_toNat, Nat.testBit_lt_two_pow ((Nat.log2_lt h0).mp habove)]
    rfl

theorem clzWord_eq (a : Word) : clzWord a = BitVec.ofNat 64 (leadingZeros a) := by
  by_cases h : a = 0
  · rw [h, leadingZeros_zero]; rfl
  · rw [clzWord, if_neg h, leadingZeros_of_ne_zero h]

/-! Shifts by an encoded count, and the constant builder. -/

theorem shCount_setWidth (n : BitVec 6) : shCount (n.setWidth 64) = n.toNat := by
  have := n.isLt
  simp only [shCount, BitVec.toNat_setWidth]
  omega

theorem shiftLeft_eq_ofNat (a : Word) (n : Nat) : a <<< n = BitVec.ofNat 64 (a.toNat * 2 ^ n) := by
  apply BitVec.eq_of_toNat_eq
  simp [Nat.shiftLeft_eq]

theorem ushiftRight_eq_ofNat (a : Word) (n : Nat) : a >>> n = BitVec.ofNat 64 (a.toNat / 2 ^ n) := by
  apply BitVec.eq_of_toNat_eq
  have hlt : a.toNat / 2 ^ n < 2 ^ 64 := Nat.lt_of_le_of_lt (Nat.div_le_self _ _) a.isLt
  rw [BitVec.toNat_ushiftRight, BitVec.toNat_ofNat, Nat.shiftRight_eq_div_pow, Nat.mod_eq_of_lt hlt]

theorem sshiftRight_eq_ofInt (a : Word) (n : Nat) : a.sshiftRight n = BitVec.ofInt 64 (a.toInt / 2 ^ n) := by
  rw [BitVec.sshiftRight, Int.shiftRight_eq_div_pow]
  simp

/-- Fourteen bits appended below a word are added to the shifted word. -/
theorem append_imm14_eq_ofNat (d : Word) (imm : BitVec 14) :
    (d <<< 14) ||| imm.setWidth 64 = BitVec.ofNat 64 (d.toNat * 2 ^ 14 + imm.toNat) := by
  have himm := imm.isLt
  have hkeep : d.toNat <<< 14 % 2 ^ 64 = (d.toNat % 2 ^ 50) <<< 14 := by
    rw [Nat.shiftLeft_eq, Nat.shiftLeft_eq]
    omega
  apply BitVec.eq_of_toNat_eq
  rw [BitVec.toNat_or, BitVec.toNat_shiftLeft, BitVec.toNat_setWidth, BitVec.toNat_ofNat, hkeep,
    Nat.mod_eq_of_lt (a := imm.toNat) (by omega), ← Nat.shiftLeft_add_eq_or_of_lt himm, Nat.shiftLeft_eq]
  omega

/-! ### The shared operations of the scalar slots (R81, R83, R85) -/

theorem launch_eq_inFlight {s : State} {lat : Nat} {ws : List RWrite} (l : Option Latch) (fl : BitVec 8)
    (hfree : Free s lat ws) : s.launch lat ws l fl = inFlight s lat ws l fl := launch_free l fl hfree

theorem scalarResult_free {s : State} {lat : Nat} {nw : BitVec 1} {d : BitVec 6} {v : SVal}
    (hfree : Free s lat (toS nw d v)) :
    scalarResult lat nw d v s = inFlight s lat (toS nw d v) (some (.scalar v)) 0 := launch_eq_inFlight _ _ hfree

theorem scalarResult_collides {s : State} {lat : Nat} {nw : BitVec 1} {d : BitVec 6} {v : SVal}
    (hcol : s.collides lat (toS nw d v) = true) : scalarResult lat nw d v s = s.illegalSchedule :=
  launch_collides _ _ hcol

section RegisterForms

variable {lat : Nat} {op : Word → Word → Word} {f : SReg} {s : State}

theorem regOp_sources {a b : SVal} (hg : Enabled f.g s) (ha : s.me.r.src f.a = some a) (hb : s.me.r.src f.b = some b) :
    regOp lat op f s = .next (scalarResult lat f.nw f.d (SVal.whole (op a.bits b.bits) (a.ok && b.ok)) s) := by
  rw [regOp, slotRun_on _ hg, ha, hb]

theorem regOp_wrongKind (hg : Enabled f.g s) (hsrc : s.me.r.src f.a = none ∨ s.me.r.src f.b = none) :
    regOp lat op f s = .next s.illegalSlot := by
  rw [regOp, slotRun_on _ hg]
  rcases hsrc with ha | hb
  · rw [ha]
  · rw [hb]
    cases s.me.r.src f.a <;> rfl

end RegisterForms

section OneSource

variable {s : State} {a : SVal}

theorem unOp_source {op : Word → Word} {f : SUn} (hg : Enabled f.g s) (ha : s.me.r.src f.a = some a) :
    unOp op f s = .next (scalarResult 1 f.nw f.d (SVal.whole (op a.bits) a.ok) s) := by
  rw [unOp, slotRun_on _ hg, ha]
  rfl

theorem immOp_source {op : Word → Word → Word} {f : SReg} (hg : Enabled f.g s) (ha : s.me.r.src f.a = some a) :
    immOp op f s = .next (scalarResult 1 f.nw f.d (SVal.whole (op a.bits (BitVec.ofInt 64 f.b.toInt)) a.ok) s) := by
  rw [immOp, slotRun_on _ hg, ha]
  rfl

/-- A shift's value takes its encoded count, which is below 64, as it stands. -/
theorem shiftImm_source {op : Word → Nat → Word} {f : SSh} (hg : Enabled f.g s) (ha : s.me.r.src f.a = some a) :
    shiftImm (fun a n => op a (shCount n)) f s =
      .next (scalarResult 1 f.nw f.d (SVal.whole (op a.bits f.sh.toNat) a.ok) s) := by
  rw [shiftImm, slotRun_on _ hg, ha]
  dsimp only
  rw [shCount_setWidth, latAlu]

end OneSource

/-! ### The instructions as these operations -/

/-- An instruction whose value is computed as `op` has every equal function as its value. -/
theorem exec_eq_regOp {i : SReg → Instr} {lat : Nat} {op op' : Word → Word → Word}
    (hi : ∀ f s, exec (i f) s = regOp lat op f s) (hop : ∀ a b, op a b = op' a b) (f : SReg) (s : State) :
    exec (i f) s = regOp lat op' f s := by
  rw [hi, funext fun a => funext (hop a)]

/-- R86, R87: each register-form instruction is the shared operation with its latency and its value. -/
theorem exec_regForms : ∀ e ∈ regForms, ∀ (f : SReg) (s : State), exec (e.1 f) s = regOp e.2.1 e.2.2 f s := by
  simp only [regForms, List.forall_mem_cons]
  exact ⟨exec_eq_regOp exec_add add_eq_ofNat, exec_eq_regOp exec_sub sub_eq_ofInt, exec_eq_regOp exec_mul mul_eq_ofNat,
    exec_eq_regOp exec_mulh mulhS_eq, exec_eq_regOp exec_mulhu mulhU_eq, exec_div, exec_divu, exec_rem, exec_remu,
    exec_and, exec_or, exec_xor, exec_andn, exec_eq_regOp exec_min ite_slt_eq_min, exec_eq_regOp exec_max ite_slt_eq_max,
    exec_eq_regOp exec_minu ite_ult_eq_min, exec_eq_regOp exec_maxu ite_ult_eq_max, fun _ h => nomatch h⟩

/-- Settles O1: an instruction is the shared operation of its form, which launches its result. -/
theorem scalarRegisterForms : Obligations.ScalarRegisterForms := by
  refine ⟨fun e he f s a b hg ha hb => ?_, fun e he f s hg => ⟨fun hsrc => ?_, fun a b ha hb hcol => ?_⟩⟩
  · intro v hfree
    rw [exec_regForms e he, regOp_sources hg ha hb, scalarResult_free hfree]
  · rw [exec_regForms e he, regOp_wrongKind hg hsrc]
  · rw [exec_regForms e he, regOp_sources hg ha hb, scalarResult_collides hcol]

/-! ### Immediates, counts and constant builders (R86, R89, R90) -/

theorem exec_oneForms : ∀ e ∈ oneForms, ∀ (f : SUn) (s : State), exec (e.1 f) s = unOp e.2 f s := by
  simp only [oneForms, List.forall_mem_cons]
  refine ⟨fun f s => ?_, fun f s => ?_, fun _ h => nomatch h⟩
  · rw [exec_clz, execClz, funext clzWord_eq]
  · rw [exec_popc, execPopc, funext popcWord_eq]

theorem exec_immForms : ∀ e ∈ immForms, ∀ (f : SReg) (s : State), exec (e.1 f) s = immOp e.2 f s := by
  simp only [immForms, List.forall_mem_cons]
  refine ⟨fun f s => ?_, exec_andi, fun _ h => nomatch h⟩
  rw [exec_addi, execAddi, funext fun a => funext (add_eq_ofInt a)]

/-- R89: a shift by an encoded count is the shared operation, whose value takes the count from a word. -/
theorem exec_shiftForms : ∀ e ∈ shiftForms, ∀ (f : SSh) (s : State),
    exec (e.1 f) s = shiftImm (fun a n => e.2 a (shCount n)) f s := by
  simp only [shiftForms, List.forall_mem_cons]
  refine ⟨fun f s => ?_, fun f s => ?_, fun f s => ?_, fun _ h => nomatch h⟩
  · simp only [exec_shli, execShli, shiftLeft_eq_ofNat]
  · simp only [exec_shri, execShri, ushiftRight_eq_ofNat]
  · simp only [exec_srai, execSrai, sshiftRight_eq_ofInt]

theorem exec_movi_enabled {f : SImm} {s : State} (hg : Enabled f.g s) :
    exec (.movi f) s = .next (scalarResult 1 f.nw f.d (SVal.mkOk (BitVec.ofInt 64 f.imm.toInt)) s) := by
  rw [exec_movi, execMovi, slotRun_on _ hg]
  rfl

theorem exec_sli_enabled {f : SImm} {s : State} (hg : Enabled f.g s) :
    exec (.sli f) s = .next (scalarResult 1 f.nw f.d
      (SVal.whole (BitVec.ofNat 64 ((s.me.r.readS f.d).bits.toNat * 2 ^ 14 + f.imm.toNat)) (s.me.r.readS f.d).ok) s) := by
  rw [exec_sli, execSli, slotRun_on _ hg]
  simp only [append_imm14_eq_ofNat, latAlu]

/-! ### Predicates (R91, R92) -/

theorem exec_predForms : ∀ e ∈ predForms, ∀ (f : SPred) (s : State), exec (e.1 f) s = predOp e.2 f s := by
  simp only [predForms, List.forall_mem_cons]
  refine ⟨exec_pand, exec_por, fun f s => ?_, exec_pandn, fun _ h => nomatch h⟩
  simp only [exec_pxor, execPxor, Bool.bne_eq_xor]

theorem predOp_enabled {op : Bool → Bool → Bool} {f : SPred} {s : State} (hg : Enabled f.g s) :
    predOp op f s = .next (s.launch 1 [.pred f.pd (op (s.me.r.readPred f.pa) (s.me.r.readPred f.pb))] none 0) := by
  rw [predOp, slotRun_on _ hg]
  rfl

theorem cmpWrites_eq_pair (p : BitVec 3) (ok c : Bool) : cmpWrites p ok c = pair p ok c := by
  have heven : predEven p = BitVec.ofNat 4 (2 * p.toNat) := by decide +revert
  have hodd : predEven p + 1 = BitVec.ofNat 4 (2 * p.toNat + 1) := by decide +revert
  rw [cmpWrites, pair, hodd, heven]

theorem exec_cmpForms : ∀ e ∈ cmpForms, ∀ (f : SCmp) (s : State), exec (e.1 f) s = cmpOp e.2 f s := by
  simp only [cmpForms, List.forall_mem_cons]
  refine ⟨exec_cmpEq, fun f s => ?_, exec_cmpLt, exec_cmpLtu, exec_cmpLe, exec_cmpLeu, fun _ h => nomatch h⟩
  simp only [exec_cmpNe, execCmpNe, ne_eq, decide_not]
  rfl

theorem cmpOp_sources {c : Word → Word → Bool} {f : SCmp} {s : State} {a b : SVal} (hg : Enabled f.g s)
    (ha : s.me.r.src f.a = some a) (hb : s.me.r.src f.b = some b) :
    cmpOp c f s = .next (s.launch 1 (pair f.pd (a.ok && b.ok) (c a.bits b.bits)) none 0) := by
  rw [cmpOp, slotRun_on _ hg, ha, hb, ← cmpWrites_eq_pair]
  rfl

theorem readPred_writeP_same (r : Regs) {p : BitVec 4} (b : Bool) (h0 : p ≠ 0) (h1 : p ≠ 1) :
    (r.writeP p b).readPred p = b := by
  rw [Regs.writeP, if_neg (not_or.mpr ⟨h0, h1⟩), Regs.readPred, if_neg h0, if_neg h1]
  exact Vector.getElem_set_self _

theorem readPred_writeP_ne (r : Regs) {p q : BitVec 4} (b : Bool) (h : p ≠ q) : (r.writeP p b).readPred q = r.readPred q := by
  have hne : p.toNat ≠ q.toNat := fun h' => h (BitVec.eq_of_toNat_eq h')
  unfold Regs.writeP
  split
  · rfl
  · unfold Regs.readPred
    rw [Vector.getElem_set_ne _ _ hne]

/-- The mark of the neither state is no predicate: reading sees the two zeros alone. -/
theorem readPred_writeNeither_eq (r : Regs) (p q : BitVec 4) :
    (r.writeNeither p).readPred q = ((r.writeP p false).writeP (p + 1) false).readPred q := by
  unfold Regs.writeNeither
  dsimp only
  split <;> rfl

/-- R91: both predicates of a pair in the neither state read 0. -/
theorem readPred_writeNeither (r : Regs) {p : BitVec 3} {q : BitVec 4} (hp : p ≠ 0) (hq : q.toNat / 2 = p.toNat) :
    (r.writeNeither (BitVec.ofNat 4 (2 * p.toNat))).readPred q = false := by
  have h0 : q ≠ 0 := by decide +revert
  have h1 : q ≠ 1 := by decide +revert
  have hpair : q = BitVec.ofNat 4 (2 * p.toNat) ∨ q = BitVec.ofNat 4 (2 * p.toNat) + 1 := by decide +revert
  rw [readPred_writeNeither_eq]
  rcases hpair with heven | hodd
  · have hne : q + 1 ≠ q := by decide +revert
    rw [← heven, readPred_writeP_ne _ _ hne, readPred_writeP_same _ _ h0 h1]
  · rw [← hodd, readPred_writeP_same _ _ h0 h1]

/-- A result in flight changes no predicate: a guard acts on them as they were. -/
theorem guardOn_inFlight (s : State) (lat : Nat) (ws : List RWrite) (l : Option Latch) (fl : BitVec 8) (g : BitVec 5) :
    guardOn (inFlight s lat ws l fl).me.r g = guardOn s.me.r g := by
  simp only [State.me, inFlight, modRegs_cur, ctx_modRegs, if_true]
  rfl

/-! ### Slot words that decode, and words that are refused (R69, R73, R77) -/

/-- A word that names a well-formed instruction and is its encoding decodes to it. -/
theorem decodeSlot_of_encodes {k : SlotKind} {i : Instr} {w : Nat} (hw : w < 2 ^ slotBits k) (hg : slotGuard k w ≠ 16)
    (hraw : rawSlot k w = some i) (hwf : i.wf = true) (henc : encodeSlot i = some (k, w)) : decodeSlot k w = some i := by
  simp only [decodeSlot, Nat.mod_eq_of_lt hw, hraw]
  rw [if_neg hg, if_pos (by simp [hwf, henc])]

/-- A word that names an instruction with another encoding is refused. -/
theorem decodeSlot_of_not_encodes {k : SlotKind} {i : Instr} {w : Nat} (hw : w < 2 ^ slotBits k) (hg : slotGuard k w ≠ 16)
    (hraw : rawSlot k w = some i) (henc : encodeSlot i ≠ some (k, w)) : decodeSlot k w = none := by
  simp only [decodeSlot, Nat.mod_eq_of_lt hw, hraw]
  rw [if_neg hg, if_neg (by simp [henc])]

/-- An S word that its guard does not take out names what its opcode says. -/
theorem rawSlot_s {w : Nat} (hg : slotGuard .s w ≠ 16) : rawSlot .s w = rawS (opField .s w) w := if_neg hg

/-- Every S word with some fields is refused where an instruction of its opcode has other fields in its encoding. -/
theorem refuses_s {op : Nat} {i : Nat → Instr} {pack : Nat → Nat} {bad : Nat → Prop} (hraw : ∀ w, rawS op w = some (i w))
    (henc : ∀ w, encodeSlot (i w) = some (.s, pack w)) (hpack : ∀ w, ¬ bad (pack w)) : Refuses .s op bad := by
  intro w hw hop hg hbad
  have hraw' : rawSlot .s w = some (i w) := by rw [rawSlot_s hg, hop, hraw]
  refine decodeSlot_of_not_encodes hw hg hraw' fun h => hpack w ?_
  have hw' : pack w = w := by simpa [henc] using h
  rwa [hw']

/-- A shift's encoded count is below 64 (R89). -/
theorem packSSh_count_lt (op : Nat) (f : SSh) : ¬ 64 ≤ fieldN (packSSh op f) 0 7 := by
  have := f.sh.isLt
  simp only [fieldN, packSSh]
  omega

/-- The encoding of a predicate operation has no bit in nw or above a predicate index (R92). -/
theorem packSPred_unused (op : Nat) (f : SPred) :
    ¬ (fieldN (packSPred op f) 20 1 ≠ 0 ∨ fieldN (packSPred op f) 18 2 ≠ 0 ∨ fieldN (packSPred op f) 11 3 ≠ 0 ∨
      fieldN (packSPred op f) 4 3 ≠ 0) := by
  have hd := f.pd.isLt
  have ha := f.pa.isLt
  have hb := f.pb.isLt
  simp only [fieldN, packSPred]
  omega

/-- R73: an S word by its guard, its opcode and its 21 bits of fields decodes to the instruction with that encoding. -/
theorem decodeSlot_s_fields {i : Instr} {g : BitVec 5} {op low w : Nat} (hw : w = g.toNat * 2 ^ 27 + op * 2 ^ 21 + low)
    (hop : op < 64) (hlow : low < 2 ^ 21) (hg : g ≠ 16) (hraw : rawS op w = some i) (hwf : i.wf = true)
    (henc : encodeSlot i = some (.s, w)) : decodeSlot .s w = some i := by
  have hglt := g.isLt
  have hguard : slotGuard .s w = g := by
    apply BitVec.eq_of_toNat_eq
    simp only [slotGuard, slotBits, BitVec.toNat_ofNat]
    omega
  have hopf : opField .s w = op := by
    simp only [opField, fieldN]
    omega
  have hg' : slotGuard .s w ≠ 16 := by rwa [hguard]
  refine decodeSlot_of_encodes ?_ hg' ?_ hwf henc
  · simp only [slotBits]
    omega
  · rw [rawSlot_s hg', hopf, hraw]

theorem unpackSReg_packSReg {op : Nat} (f : SReg) (hop : op < 64) : unpackSReg (packSReg op f) = f := by
  obtain ⟨g, nw, d, a, b⟩ := f
  simp only [unpackSReg, packSReg, SReg.mk.injEq]
  refine ⟨?_, ?_, ?_, ?_, ?_⟩ <;> bv_omega

theorem unpackSSh_packSSh {op : Nat} (f : SSh) (hop : op < 64) : unpackSSh (packSSh op f) = f := by
  obtain ⟨g, nw, d, a, sh⟩ := f
  simp only [unpackSSh, packSSh, SSh.mk.injEq]
  refine ⟨?_, ?_, ?_, ?_, ?_⟩ <;> bv_omega

theorem unpackSImm_packSImm {op : Nat} (f : SImm) (hop : op < 64) : unpackSImm (packSImm op f) = f := by
  obtain ⟨g, nw, d, imm⟩ := f
  simp only [unpackSImm, packSImm, SImm.mk.injEq]
  refine ⟨?_, ?_, ?_, ?_⟩ <;> bv_omega

/-- The fields of a register form in the order of their bits (R73). -/
theorem fields_eq_packSReg (op : Nat) (f : SReg) :
    f.g.toNat * 2 ^ 27 + op * 2 ^ 21 + f.nw.toNat * 2 ^ 20 + f.d.toNat * 2 ^ 14 + f.a.toNat * 2 ^ 7 +
      f.b.toNat = packSReg op f := by
  simp only [packSReg]
  omega

theorem decodeSlot_SReg {i : SReg → Instr} {op : Nat} {f : SReg} (hop : op < 64)
    (hraw : ∀ w, rawS op w = some (i (unpackSReg w))) (henc : encodeSlot (i f) = some (.s, packSReg op f))
    (hwf : (i f).wf = true) (hg : f.g ≠ 16) :
    decodeSlot .s (f.g.toNat * 2 ^ 27 + op * 2 ^ 21 + f.nw.toNat * 2 ^ 20 + f.d.toNat * 2 ^ 14 + f.a.toNat * 2 ^ 7 +
      f.b.toNat) = some (i f) := by
  have hlow : f.nw.toNat * 2 ^ 20 + f.d.toNat * 2 ^ 14 + f.a.toNat * 2 ^ 7 + f.b.toNat < 2 ^ 21 := by bv_omega
  have hword : packSReg op f = f.g.toNat * 2 ^ 27 + op * 2 ^ 21 +
      (f.nw.toNat * 2 ^ 20 + f.d.toNat * 2 ^ 14 + f.a.toNat * 2 ^ 7 + f.b.toNat) := by
    rw [← fields_eq_packSReg]
    simp only [Nat.add_assoc]
  rw [fields_eq_packSReg]
  refine decodeSlot_s_fields hword hop hlow hg ?_ hwf henc
  rw [hraw, unpackSReg_packSReg f hop]

/-- The fields of a shift by an encoded count in the order of their bits (R73). -/
theorem fields_eq_packSSh (op : Nat) (f : SSh) :
    f.g.toNat * 2 ^ 27 + op * 2 ^ 21 + f.nw.toNat * 2 ^ 20 + f.d.toNat * 2 ^ 14 + f.a.toNat * 2 ^ 7 +
      f.sh.toNat = packSSh op f := by
  simp only [packSSh]
  omega

theorem decodeSlot_SSh {i : SSh → Instr} {op : Nat} {f : SSh} (hop : op < 64)
    (hraw : ∀ w, rawS op w = some (i (unpackSSh w))) (henc : encodeSlot (i f) = some (.s, packSSh op f))
    (hwf : (i f).wf = true) (hg : f.g ≠ 16) :
    decodeSlot .s (f.g.toNat * 2 ^ 27 + op * 2 ^ 21 + f.nw.toNat * 2 ^ 20 + f.d.toNat * 2 ^ 14 + f.a.toNat * 2 ^ 7 +
      f.sh.toNat) = some (i f) := by
  have hlow : f.nw.toNat * 2 ^ 20 + f.d.toNat * 2 ^ 14 + f.a.toNat * 2 ^ 7 + f.sh.toNat < 2 ^ 21 := by bv_omega
  have hword : packSSh op f = f.g.toNat * 2 ^ 27 + op * 2 ^ 21 +
      (f.nw.toNat * 2 ^ 20 + f.d.toNat * 2 ^ 14 + f.a.toNat * 2 ^ 7 + f.sh.toNat) := by
    rw [← fields_eq_packSSh]
    simp only [Nat.add_assoc]
  rw [fields_eq_packSSh]
  refine decodeSlot_s_fields hword hop hlow hg ?_ hwf henc
  rw [hraw, unpackSSh_packSSh f hop]

/-- The fields of an SI form in the order of their bits (R73). -/
theorem fields_eq_packSImm (op : Nat) (f : SImm) :
    f.g.toNat * 2 ^ 27 + op * 2 ^ 21 + f.nw.toNat * 2 ^ 20 + f.d.toNat * 2 ^ 14 + f.imm.toNat = packSImm op f := by
  simp only [packSImm]
  omega

theorem decodeSlot_SImm {i : SImm → Instr} {op : Nat} {f : SImm} (hop : op < 64)
    (hraw : ∀ w, rawS op w = some (i (unpackSImm w))) (henc : encodeSlot (i f) = some (.s, packSImm op f))
    (hwf : (i f).wf = true) (hg : f.g ≠ 16) :
    decodeSlot .s (f.g.toNat * 2 ^ 27 + op * 2 ^ 21 + f.nw.toNat * 2 ^ 20 + f.d.toNat * 2 ^ 14 + f.imm.toNat) = some (i f) := by
  have hlow : f.nw.toNat * 2 ^ 20 + f.d.toNat * 2 ^ 14 + f.imm.toNat < 2 ^ 21 := by bv_omega
  have hword : packSImm op f = f.g.toNat * 2 ^ 27 + op * 2 ^ 21 +
      (f.nw.toNat * 2 ^ 20 + f.d.toNat * 2 ^ 14 + f.imm.toNat) := by
    rw [← fields_eq_packSImm]
    simp only [Nat.add_assoc]
  rw [fields_eq_packSImm]
  refine decodeSlot_s_fields hword hop hlow hg ?_ hwf henc
  rw [hraw, unpackSImm_packSImm f hop]

theorem gOk_of_ne {g : BitVec 5} (hg : g ≠ 16) : gOk g = true := by simpa [gOk] using hg

/-- The forms with one source field are well formed where their guard and their source are (R69, R70). -/
theorem gOk_sSrcOk {g : BitVec 5} {a : BitVec 7} (hg : g ≠ 16) (ha : a.toNat < 72) : (gOk g && sSrcOk a) = true := by
  simp [gOk_of_ne hg, sSrcOk, ha]

theorem immForms_decode : ∀ e ∈ immForms.zip [0x1A, 0x1B], ∀ f : SReg, f.g ≠ 16 → f.a.toNat < 72 →
    decodeSlot .s (f.g.toNat * 2 ^ 27 + e.2 * 2 ^ 21 + f.nw.toNat * 2 ^ 20 + f.d.toNat * 2 ^ 14 + f.a.toNat * 2 ^ 7 +
      f.b.toNat) = some (e.1.1 f) := by
  simp only [immForms, List.zip_cons_cons, List.zip_nil_left, List.forall_mem_cons]
  exact ⟨fun _ hg ha => decodeSlot_SReg (by decide) (fun _ => rfl) rfl (gOk_sSrcOk hg ha) hg,
    fun _ hg ha => decodeSlot_SReg (by decide) (fun _ => rfl) rfl (gOk_sSrcOk hg ha) hg, fun _ h => nomatch h⟩

theorem shiftForms_decode : ∀ e ∈ shiftForms.zip [0x1C, 0x1D, 0x1E], ∀ f : SSh, f.g ≠ 16 → f.a.toNat < 72 →
    decodeSlot .s (f.g.toNat * 2 ^ 27 + e.2 * 2 ^ 21 + f.nw.toNat * 2 ^ 20 + f.d.toNat * 2 ^ 14 + f.a.toNat * 2 ^ 7 +
      f.sh.toNat) = some (e.1.1 f) := by
  simp only [shiftForms, List.zip_cons_cons, List.zip_nil_left, List.forall_mem_cons]
  exact ⟨fun _ hg ha => decodeSlot_SSh (by decide) (fun _ => rfl) rfl (gOk_sSrcOk hg ha) hg,
    fun _ hg ha => decodeSlot_SSh (by decide) (fun _ => rfl) rfl (gOk_sSrcOk hg ha) hg,
    fun _ hg ha => decodeSlot_SSh (by decide) (fun _ => rfl) rfl (gOk_sSrcOk hg ha) hg, fun _ h => nomatch h⟩

theorem constants_decode : ∀ e ∈ [(Instr.movi, 0x1F), (Instr.sli, 0x20)], ∀ f : SImm, f.g ≠ 16 →
    decodeSlot .s (f.g.toNat * 2 ^ 27 + e.2 * 2 ^ 21 + f.nw.toNat * 2 ^ 20 + f.d.toNat * 2 ^ 14 + f.imm.toNat) =
      some (e.1 f) := by
  simp only [List.forall_mem_cons]
  exact ⟨fun _ hg => decodeSlot_SImm (by decide) (fun _ => rfl) rfl (gOk_of_ne hg) hg,
    fun _ hg => decodeSlot_SImm (by decide) (fun _ => rfl) rfl (gOk_of_ne hg) hg, fun _ h => nomatch h⟩

theorem shift_counts_refused : ∀ op ∈ [0x1C, 0x1D, 0x1E], Refuses .s op fun w => 64 ≤ fieldN w 0 7 := by
  simp only [List.forall_mem_cons]
  refine ⟨?_, ?_, ?_, fun _ h => nomatch h⟩
  · exact refuses_s (i := fun w => .shli (unpackSSh w)) (fun _ => rfl) (fun _ => rfl) fun _ => packSSh_count_lt _ _
  · exact refuses_s (i := fun w => .shri (unpackSSh w)) (fun _ => rfl) (fun _ => rfl) fun _ => packSSh_count_lt _ _
  · exact refuses_s (i := fun w => .srai (unpackSSh w)) (fun _ => rfl) (fun _ => rfl) fun _ => packSSh_count_lt _ _

theorem predicate_fields_refused : ∀ op ∈ [0x29, 0x2A, 0x2B, 0x2C], Refuses .s op fun w =>
    fieldN w 20 1 ≠ 0 ∨ fieldN w 18 2 ≠ 0 ∨ fieldN w 11 3 ≠ 0 ∨ fieldN w 4 3 ≠ 0 := by
  simp only [List.forall_mem_cons]
  refine ⟨?_, ?_, ?_, ?_, fun _ h => nomatch h⟩
  · exact refuses_s (i := fun w => .pand (unpackSPred w)) (fun _ => rfl) (fun _ => rfl) fun _ => packSPred_unused _ _
  · exact refuses_s (i := fun w => .por (unpackSPred w)) (fun _ => rfl) (fun _ => rfl) fun _ => packSPred_unused _ _
  · exact refuses_s (i := fun w => .pxor (unpackSPred w)) (fun _ => rfl) (fun _ => rfl) fun _ => packSPred_unused _ _
  · exact refuses_s (i := fun w => .pandn (unpackSPred w)) (fun _ => rfl) (fun _ => rfl) fun _ => packSPred_unused _ _

/-- Settles O3: the words by the round trip of their forms, and the results by the shared operation of each form. -/
theorem scalarImmediateForms : Obligations.ScalarImmediateForms := by
  refine ⟨⟨shift_counts_refused, immForms_decode, shiftForms_decode, constants_decode⟩, ?_, ?_, ?_, ?_, ?_⟩
  · intro e he f s a hg ha v hfree
    rw [exec_oneForms e he, unOp_source hg ha, scalarResult_free hfree]
  · intro e he f s a hg ha v hfree
    rw [exec_immForms e he, immOp_source hg ha, scalarResult_free hfree]
  · intro e he f s a hg ha v hfree
    rw [exec_shiftForms e he, shiftImm_source hg ha, scalarResult_free hfree]
  · intro f s hg v hfree
    rw [exec_movi_enabled hg, scalarResult_free hfree]
  · intro f s hg d v hfree
    rw [exec_sli_enabled hg, scalarResult_free hfree]

/-- Settles O5: each operation launches its one write, and the refused words have other encodings. -/
theorem predicateOperations : Obligations.PredicateOperations := by
  refine ⟨fun e he f s hg => ⟨fun hfree => ?_, fun hcol => ?_⟩, fun e he f s a b hg ha hb hcol => ?_,
    predicate_fields_refused, fun r p q => readPred_writeNeither r, fun s ws g => guardOn_inFlight s 1 ws none 0 g⟩
  · rw [exec_predForms e he, predOp_enabled hg, launch_eq_inFlight _ _ hfree]
  · rw [exec_predForms e he, predOp_enabled hg, launch_collides _ _ hcol]
  · rw [exec_cmpForms e he, cmpOp_sources hg ha hb, launch_collides _ _ hcol]

end Sys2Proof.Claims


namespace Sys2Proof.Claims

open Sys2Proof.Machine

/-! ### The decoder reads back what the encoder writes (R69, R73 to R80) -/

/-- The instruction that an opcode of a slot kind names, before its fields are checked. -/
def rawOp : SlotKind → Nat → Nat → Option Instr
  | .s => rawS
  | .v => rawV
  | .f => rawF
  | .x => rawX
  | .m => rawM
  | .t => rawT

/-- The opcodes of a slot kind are below this number. -/
def opCount : SlotKind → Nat
  | .s | .m => 64
  | .v | .t => 128
  | .f => 32
  | .x => 16

/-- A word that its guard does not take out names what its opcode says. -/
theorem rawSlot_eq_rawOp {k : SlotKind} {w : Nat} (hg : slotGuard k w ≠ 16) : rawSlot k w = rawOp k (opField k w) w := by
  cases k <;> exact if_neg hg

/-- A slot form keeps guard, opcode and fields apart: each is read back from the packed word. -/
structure FormOk {F : Type} (k : SlotKind) (pack : Nat → F → Nat) (unpack : Nat → F) (guard : F → BitVec 5) : Prop where
  small : ∀ op f, op < opCount k → pack op f < 2 ^ slotBits k
  guardField : ∀ op f, op < opCount k → pack op f / 2 ^ (slotBits k - 5) % 32 = (guard f).toNat
  opField : ∀ op f, op < opCount k → opField k (pack op f) = op
  fields : ∀ op f, op < opCount k → unpack (pack op f) = f

/-- The guard that a slot word holds is the one of its bits. -/
theorem slotGuard_ne {k : SlotKind} {w : Nat} {g : BitVec 5} (hg : gOk g = true)
    (h : w / 2 ^ (slotBits k - 5) % 32 = g.toNat) : slotGuard k w ≠ 16 := by
  have heq : slotGuard k w = g := BitVec.eq_of_toNat_eq (by simpa [slotGuard] using h)
  simpa [heq, gOk] using hg

/-- A well-formed instruction of a form decodes from its encoding to itself, where the opcode names it with the fields of
the word. -/
theorem decodeSlot_form {F : Type} {k k' : SlotKind} {pack : Nat → F → Nat} {unpack : Nat → F} {guard : F → BitVec 5}
    {i : Instr} {f : F} {op w : Nat} (hform : FormOk k pack unpack guard) (henc : encodeSlot i = some (k', w))
    (hwf : i.wf = true) (hg : gOk (guard f) = true) (hpack : encodeSlot i = some (k, pack op f)) (hop : op < opCount k)
    (hraw : unpack (pack op f) = f → rawOp k op (pack op f) = some i) : decodeSlot k' w = some i := by
  obtain ⟨rfl, rfl⟩ := Prod.mk.inj (Option.some.inj (henc.symm.trans hpack))
  have hguard := slotGuard_ne hg (hform.guardField op f hop)
  refine decodeSlot_of_encodes (hform.small op f hop) hguard ?_ hwf hpack
  rw [rawSlot_eq_rawOp hguard, hform.opField op f hop]
  exact hraw (hform.fields op f hop)

/-- The same where the opcode names the instruction with whatever fields the word has. -/
theorem decodeSlot_plain {F : Type} {k k' : SlotKind} {pack : Nat → F → Nat} {unpack : Nat → F} {guard : F → BitVec 5}
    {i : F → Instr} {f : F} {op w : Nat} (hform : FormOk k pack unpack guard) (henc : encodeSlot (i f) = some (k', w))
    (hwf : (i f).wf = true) (hg : gOk (guard f) = true) (hpack : encodeSlot (i f) = some (k, pack op f))
    (hraw : ∀ w, rawOp k op w = some (i (unpack w))) (hop : op < opCount k := by decide) : decodeSlot k' w = some (i f) :=
  decodeSlot_form hform henc hwf hg hpack hop fun h => by rw [hraw, h]

/-! ### The forms (R73 to R76) -/

theorem formOk_SReg : FormOk .s packSReg unpackSReg SReg.g := by
  constructor <;> intro op f (hop : op < 64) <;> simp only [packSReg, unpackSReg, slotBits, opField, fieldN]
  case fields => congr <;> bv_omega
  all_goals bv_omega

theorem formOk_SUn : FormOk .s packSUn unpackSUn SUn.g := by
  constructor <;> intro op f (hop : op < 64) <;> simp only [packSUn, unpackSUn, slotBits, opField, fieldN]
  case fields => congr <;> bv_omega
  all_goals bv_omega

theorem formOk_SSh : FormOk .s packSSh unpackSSh SSh.g := by
  constructor <;> intro op f (hop : op < 64) <;> simp only [packSSh, unpackSSh, slotBits, opField, fieldN]
  case fields => congr <;> bv_omega
  all_goals bv_omega

theorem formOk_SImm : FormOk .s packSImm unpackSImm SImm.g := by
  constructor <;> intro op f (hop : op < 64) <;> simp only [packSImm, unpackSImm, slotBits, opField, fieldN]
  case fields => congr <;> bv_omega
  all_goals bv_omega

theorem formOk_SCmp : FormOk .s packSCmp unpackSCmp SCmp.g := by
  constructor <;> intro op f (hop : op < 64) <;> simp only [packSCmp, unpackSCmp, slotBits, opField, fieldN]
  case fields => congr <;> bv_omega
  all_goals bv_omega

theorem formOk_SPred : FormOk .s packSPred unpackSPred SPred.g := by
  constructor <;> intro op f (hop : op < 64) <;> simp only [packSPred, unpackSPred, slotBits, opField, fieldN]
  case fields => congr <;> bv_omega
  all_goals bv_omega

theorem formOk_SBr : FormOk .s packSBr unpackSBr SBr.g := by
  constructor <;> intro op f (hop : op < 64) <;> simp only [packSBr, unpackSBr, slotBits, opField, fieldN]
  case fields => congr <;> bv_omega
  all_goals bv_omega

theorem formOk_SSrc : FormOk .s packSSrc unpackSSrc SSrc.g := by
  constructor <;> intro op f (hop : op < 64) <;> simp only [packSSrc, unpackSSrc, slotBits, opField, fieldN]
  case fields => congr <;> bv_omega
  all_goals bv_omega

theorem formOk_SLoop : FormOk .s packSLoop unpackSLoop SLoop.g := by
  constructor <;> intro op f (hop : op < 64) <;> simp only [packSLoop, unpackSLoop, slotBits, opField, fieldN]
  case fields => congr <;> bv_omega
  all_goals bv_omega

theorem formOk_SNum : FormOk .s packSNum unpackSNum Sys2Proof.SNum.g := by
  constructor <;> intro op f (hop : op < 64) <;> simp only [packSNum, unpackSNum, slotBits, opField, fieldN]
  case fields => congr <;> bv_omega
  all_goals bv_omega

theorem formOk_SCode : FormOk .s packSCode unpackSCode SCode.g := by
  constructor <;> intro op f (hop : op < 64) <;> simp only [packSCode, unpackSCode, slotBits, opField, fieldN]
  case fields => congr <;> bv_omega
  all_goals bv_omega

theorem formOk_SCtl : FormOk .s packSCtl unpackSCtl SCtl.g := by
  constructor <;> intro op f (hop : op < 64) <;> simp only [packSCtl, unpackSCtl, slotBits, opField, fieldN]
  case fields => congr <;> bv_omega
  all_goals bv_omega

theorem formOk_V : FormOk .v packV unpackV VFld.g := by
  constructor <;> intro op f (hop : op < 128) <;> simp only [packV, unpackV, slotBits, opField, fieldN]
  case fields => congr <;> bv_omega
  all_goals bv_omega

theorem formOk_F : FormOk .f packF unpackF FFld.g := by
  constructor <;> intro op f (hop : op < 32) <;> simp only [packF, unpackF, slotBits, opField, fieldN]
  case fields => congr <;> bv_omega
  all_goals bv_omega

theorem formOk_X : FormOk .x packX unpackX XFld.g := by
  constructor <;> intro op f (hop : op < 16) <;> simp only [packX, unpackX, slotBits, opField, fieldN]
  case fields => congr <;> bv_omega
  all_goals bv_omega

theorem formOk_M : FormOk .m packM unpackM MFld.g := by
  constructor <;> intro op f (hop : op < 64) <;> simp only [packM, unpackM, slotBits, opField, fieldN]
  case fields => congr <;> bv_omega
  all_goals bv_omega

theorem formOk_T : FormOk .t packT unpackT TFld.g := by
  constructor <;> intro op f (hop : op < 128) <;> simp only [packT, unpackT, slotBits, opField, fieldN]
  case fields => congr <;> bv_omega
  all_goals bv_omega

theorem formOk_SG : FormOk .s packSG guardOfS id := by
  constructor <;> intro op g (hop : op < 64) <;> simp only [packSG, guardOfS, slotBits, opField, fieldN, id]
  all_goals bv_omega

theorem formOk_VG : FormOk .v packVG guardOfV id := by
  constructor <;> intro op g (hop : op < 128) <;> simp only [packVG, guardOfV, slotBits, opField, fieldN, id]
  all_goals bv_omega

theorem formOk_FG : FormOk .f packFG guardOfF id := by
  constructor <;> intro op g (hop : op < 32) <;> simp only [packFG, guardOfF, slotBits, opField, fieldN, id]
  all_goals bv_omega

theorem formOk_XG : FormOk .x packXG guardOfX id := by
  constructor <;> intro op g (hop : op < 16) <;> simp only [packXG, guardOfX, slotBits, opField, fieldN, id]
  all_goals bv_omega

theorem formOk_MG : FormOk .m packMG guardOfM id := by
  constructor <;> intro op g (hop : op < 64) <;> simp only [packMG, guardOfM, slotBits, opField, fieldN, id]
  all_goals bv_omega

theorem formOk_TG : FormOk .t packTG guardOfT id := by
  constructor <;> intro op g (hop : op < 128) <;> simp only [packTG, guardOfT, slotBits, opField, fieldN, id]
  all_goals bv_omega

/-! ### Instructions that share an opcode, and the nops (R69, R96, R99, R102) -/

/-- A `loop` has an end offset, so it is not its re-arm form (R96). -/
theorem unpackLoop_loop {w : Nat} {f : SLoop} (h : unpackSLoop w = f) (he : f.e ≠ 0) : unpackLoop w = .loop f := by
  simp only [unpackLoop, h]
  exact if_neg fun hz => he hz.1

theorem unpackLoop_rearm {w : Nat} {f : SRearm} (h : unpackSLoop w = ⟨f.g, f.lvl, 0, 0⟩) : unpackLoop w = .loopRearm f := by
  simp [unpackLoop, h]

/-- A control register without a row of its own is none of the four that have one (R102). -/
theorem unpackCwr_cwr {w : Nat} {f : SCtl} (h : unpackSCtl w = f) (hown : ctlOwnRow f.num.toNat = false) :
    unpackCwr w = .cwr f := by
  have hx (n : Nat) (hn : n < 2 ^ 14) (hrow : ctlOwnRow n = true) : f.num ≠ BitVec.ofNat 14 n := by
    intro heq
    rw [heq, BitVec.toNat_ofNat, Nat.mod_eq_of_lt hn, hrow] at hown
    exact Bool.noConfusion hown
  have hbank : ¬ (16 ≤ f.num.toNat ∧ f.num.toNat ≤ 31) := by
    rintro ⟨hlo, hhi⟩
    simp [ctlOwnRow, hlo, hhi] at hown
  have h21 : f.num ≠ 0x21#14 := hx 0x21 (by decide) (by decide)
  have h20 : f.num ≠ 0x20#14 := hx 0x20 (by decide) (by decide)
  have h32 : f.num ≠ 0x32#14 := hx 0x32 (by decide) (by decide)
  simp [unpackCwr, h, h21, h20, h32, hbank]

/-- The sixteen bank formats are numbered from 0x10 (R147). -/
theorem unpackCwr_bankfmt {w : Nat} {f : SCtlBank} (h : unpackSCtl w = ⟨f.g, f.r, BitVec.ofNat 14 (0x10 + f.n.toNat)⟩) :
    unpackCwr w = .cwrBankfmt f := by
  obtain ⟨g, r, n⟩ := f
  have hn := n.isLt
  have hnum : (BitVec.ofNat 14 (0x10 + n.toNat)).toNat = 16 + n.toNat := by simp; omega
  have hx (m : Nat) (hm : 32 ≤ m ∧ m < 2 ^ 14) : BitVec.ofNat 14 (0x10 + n.toNat) ≠ BitVec.ofNat 14 m := by
    intro heq
    have := congrArg BitVec.toNat heq
    rw [hnum, BitVec.toNat_ofNat] at this
    omega
  have hlow : BitVec.ofNat 4 (16 + n.toNat) = n := by bv_omega
  have h21 : BitVec.ofNat 14 (16 + n.toNat) ≠ 0x21 := hx 0x21 (by decide)
  have h20 : BitVec.ofNat 14 (16 + n.toNat) ≠ 0x20 := hx 0x20 (by decide)
  have h32 : BitVec.ofNat 14 (16 + n.toNat) ≠ 0x32 := hx 0x32 (by decide)
  have hbank : 16 ≤ 16 + n.toNat ∧ 16 + n.toNat ≤ 31 := by omega
  simp only [unpackCwr, h, hnum, h21, h20, h32, hbank, hlow, if_true, if_false, and_self]

/-- A nop decodes from its encoding, also under the guard that takes its slot out (R69). -/
theorem decodeSlot_nop {k k' : SlotKind} {pack : Nat → BitVec 5 → Nat} {unpack : Nat → BitVec 5} {i : BitVec 5 → Instr}
    {g : BitVec 5} {w : Nat} (hform : FormOk k pack unpack id) (henc : encodeSlot (i g) = some (k', w))
    (hwf : (i g).wf = true) (hpack : encodeSlot (i g) = some (k, pack 0 g)) (hraw : ∀ w, rawOp k 0 w = some (i (unpack w)))
    (hoff : ∀ w, slotGuard k w = 16 → rawSlot k w = some (i 16)) : decodeSlot k' w = some (i g) := by
  have h0 : 0 < opCount k := by cases k <;> decide
  by_cases hg : g = 16
  · obtain ⟨rfl, rfl⟩ := Prod.mk.inj (Option.some.inj (henc.symm.trans hpack))
    have hguard : slotGuard k' (pack 0 g) = 16 := by
      rw [← hg]
      exact BitVec.eq_of_toNat_eq (by simpa [slotGuard] using hform.guardField 0 g h0)
    simp only [decodeSlot, Nat.mod_eq_of_lt (hform.small 0 g h0), hoff _ hguard]
    rw [if_pos hguard, hg]
  · exact decodeSlot_plain hform henc hwf (by simpa [gOk] using hg) hpack hraw h0

/-- A family of V instructions over the four element types decodes where each of its opcodes names its member (R79). -/
theorem decodeSlot_typed {k : SlotKind} {i : BitVec 2 → VFld → Instr} {f : VFld} {t : BitVec 2} {base w : Nat}
    (henc : encodeSlot (i t f) = some (k, w)) (hwf : (i t f).wf = true) (hg : gOk f.g = true)
    (hpack : encodeSlot (i t f) = some (.v, packV (base + t.toNat) f))
    (hraw : ∀ w, rawV base w = some (i 0 (unpackV w)) ∧ rawV (base + 1) w = some (i 1 (unpackV w)) ∧
      rawV (base + 2) w = some (i 2 (unpackV w)) ∧ rawV (base + 3) w = some (i 3 (unpackV w)))
    (hbase : base < 125 := by decide) : decodeSlot k w = some (i t f) := by
  refine decodeSlot_plain formOk_V henc hwf hg hpack (fun w => ?_) (by have := t.isLt; simp only [opCount]; omega)
  obtain ⟨h0, h1, h2, h3⟩ := hraw w
  match t with
  | 0 => exact h0
  | 1 => exact h1
  | 2 => exact h2
  | 3 => exact h3

/-- A well-formed instruction other than a nop has a guard other than `!p0` (R69). -/
theorem gOk_of_wf {i : Instr} {g : BitVec 5} (hi : guardField i = some g) (hwf : i.wf = true)
    (hnop : ∀ g, i ≠ .nop g ∧ i ≠ .vnop g ∧ i ≠ .fnop g ∧ i ≠ .xnop g ∧ i ≠ .mnop g ∧ i ≠ .tnop g) : gOk g = true := by
  cases i
  case nop g' | vnop g' | fnop g' | xnop g' | mnop g' | tnop g' => simp at hnop
  all_goals cases hi
  all_goals simp only [Instr.wf, vBase, vBaseSr, Bool.and_eq_true] at hwf
  all_goals tauto

/-- Settles O40: each form reads back its fields, and each opcode names the instruction that it encodes. -/
theorem decodingInvertsEncoding : Obligations.DecodingInvertsEncoding := by
  intro i k w hwf henc
  have hg {g : BitVec 5} (hi : guardField i = some g) := gOk_of_wf hi hwf
  cases i
  case nop g =>
    exact decodeSlot_nop formOk_SG henc hwf rfl (fun _ => rfl) fun _ hoff => if_pos hoff
  case loopExit g | dictSw g | eret g | endTask g | yield g =>
    exact decodeSlot_plain formOk_SG henc hwf (hg rfl (by simp)) rfl fun _ => rfl
  case add f | sub f | mul f | mulh f | mulhu f | div f | divu f | rem f | remu f | and f | or f | xor f | andn f
      | shl f | shr f | sra f | rotl f | min f | max f | minu f | maxu f | bfx f | bfi f | addi f | andi f =>
    exact decodeSlot_plain formOk_SReg henc hwf (hg rfl (by simp)) rfl fun _ => rfl
  case clz f | popc f =>
    exact decodeSlot_plain formOk_SUn henc hwf (hg rfl (by simp)) rfl fun _ => rfl
  case shli f | shri f | srai f =>
    exact decodeSlot_plain formOk_SSh henc hwf (hg rfl (by simp)) rfl fun _ => rfl
  case movi f | sli f =>
    exact decodeSlot_plain formOk_SImm henc hwf (hg rfl (by simp)) rfl fun _ => rfl
  case cmpEq f | cmpNe f | cmpLt f | cmpLtu f | cmpLe f | cmpLeu f | cmpiEq f | cmpiLt f =>
    exact decodeSlot_plain formOk_SCmp henc hwf (hg rfl (by simp)) rfl fun _ => rfl
  case pand f | por f | pxor f | pandn f =>
    exact decodeSlot_plain formOk_SPred henc hwf (hg rfl (by simp)) rfl fun _ => rfl
  case br f | call f =>
    exact decodeSlot_plain formOk_SBr henc hwf (hg rfl (by simp)) rfl fun _ => rfl
  case jr f | dictLd f =>
    exact decodeSlot_plain formOk_SSrc henc hwf (hg rfl (by simp)) rfl fun _ => rfl
  case trap f | wait f =>
    exact decodeSlot_plain formOk_SNum henc hwf (hg rfl (by simp)) rfl fun _ => rfl
  case crd f =>
    exact decodeSlot_plain formOk_SCtl henc hwf (hg rfl (by simp)) rfl fun _ => rfl
  case brk f =>
    exact decodeSlot_plain formOk_SCode henc hwf (hg rfl (by simp)) rfl fun _ => rfl
  case vnop g =>
    exact decodeSlot_nop formOk_VG henc hwf rfl (fun _ => rfl) fun _ hoff => if_pos hoff
  case vcvt f | vbpk f | vbupk f | vfdivF32 f | vfdivF64 f | vadd f | vsub f | vmul f | vmulh f | vmin f | vmax f
      | vminu f | vmaxu f | vand f | vor f | vxor f | vshl f | vshr f | vsra f | vaddD f | vsubD f | vcmpEq f
      | vcmpLt f | vcmpLtu f | vsel f | vvalid f | vvmask f | vmaskv f | vsplat f | viota f | vext f | vins f
      | vredAdd f | vredMax f | vscanAdd f | vsort f | vsegsum f =>
    exact decodeSlot_plain formOk_V henc hwf (hg rfl (by simp)) rfl fun _ => rfl
  case vfadd t f | vfsub t f | vfmul t f | vfma t f | vfmin t f | vfmax t f | vfcmp t f | vfsgn t f | vfrnd t f
      | vfclass t f | vfsum t f =>
    exact decodeSlot_typed henc hwf (hg rfl (by simp)) rfl fun _ => ⟨rfl, rfl, rfl, rfl⟩
  case fnop g =>
    exact decodeSlot_nop formOk_FG henc hwf rfl (fun _ => rfl) fun _ hoff => if_pos hoff
  case fexpF32 f | fexpF64 f | flogF32 f | flogF64 f | ferfF32 f | ferfF64 f | ferfcF32 f | ferfcF64 f | frcpF32 f
      | frcpF64 f | fsqrtF32 f | fsqrtF64 f | frsqrtF32 f | frsqrtF64 f | fexp2F32 f | flog2F32 f | ftanhF32 f
      | fsigmF32 f | fangcsA32 f | fangcsA64 f | fangofA32 f | fangofA64 f =>
    exact decodeSlot_plain formOk_F henc hwf (hg rfl (by simp)) rfl fun _ => rfl
  case xnop g =>
    exact decodeSlot_nop formOk_XG henc hwf rfl (fun _ => rfl) fun _ hoff => if_pos hoff
  case xperm f | xcfg f | xbcast f | xrotl f | xdeal f | xweave f =>
    exact decodeSlot_plain formOk_X henc hwf (hg rfl (by simp)) rfl fun _ => rfl
  case mnop g =>
    exact decodeSlot_nop formOk_MG henc hwf rfl (fun _ => rfl) fun _ hoff => if_pos hoff
  case ldB f | ldBu f | ldH f | ldHu f | ldW f | ldWu f | ldD f | stB f | stH f | stW f | stD f | ldvW256 f
      | ldvW512 f | ldvW1024 f | stvW256 f | stvW512 f | stvW1024 f | ldvs f | ldvx f | stvx f | ldAcq f | stRel f
      | ldAcqW f | stRelW f | fence f | xfence f | accLd f | accSt f | accAddI f | accAddF f | accFaddI f | accXchg f
      | accAddvF f | qrd f | qwr f =>
    exact decodeSlot_plain formOk_M henc hwf (hg rfl (by simp)) rfl fun _ => rfl
  case tnop g =>
    exact decodeSlot_nop formOk_TG henc hwf rfl (fun _ => rfl) fun _ hoff => if_pos hoff
  case rotLd f | rotApp f | rotAppt f | rotDrv f | rotLin f | rotGrad f | rotSlv f | rotSav f | rotRst f | rotNrm f
      | accSwap f | accClr f | seqLd f | seqRun f | cpGo f | cpTr f | cpFill f | cpBind f | cpWait f | cbar f | fuse f
      | dcpl f | rejoin f | eqInit f | eqUnite f | eqFind f | eqSame f | eqSize f | eqRelabel f | eqSnap f | eqUndo f
      | eqFence f | pkCfg f | pkLook f | pkBack f | pkWait f | nmAdd f | nmFai f | nmOpt f | nmFence f | asLd f
      | asWait f | graphGo f | taskSig f | rngSeed f =>
    exact decodeSlot_plain formOk_T henc hwf (hg rfl (by simp)) rfl fun _ => rfl
  case loop f =>
    have he : f.e ≠ 0 := by
      simp only [Instr.wf, Bool.and_eq_true, bne_iff_ne] at hwf
      exact hwf.2
    exact decodeSlot_form formOk_SLoop henc hwf (hg rfl (by simp)) rfl (by decide) fun h => congrArg some (unpackLoop_loop h he)
  case loopRearm f =>
    exact decodeSlot_form formOk_SLoop henc hwf (hg rfl (by simp)) rfl (by decide) fun h => congrArg some (unpackLoop_rearm h)
  case cwr f =>
    have hown : ctlOwnRow f.num.toNat = false := by
      simp only [Instr.wf, Bool.and_eq_true, Bool.not_eq_true'] at hwf
      exact hwf.2
    exact decodeSlot_form formOk_SCtl henc hwf (hg rfl (by simp)) rfl (by decide) fun h => congrArg some (unpackCwr_cwr h hown)
  case cwrXflags f | cwrRmode f | cwrDeadline f =>
    refine decodeSlot_form formOk_SCtl henc hwf (hg rfl (by simp)) rfl (by decide) fun h => congrArg some ?_
    rw [unpackCwr, h]
    rfl
  case cwrBankfmt f =>
    exact decodeSlot_form formOk_SCtl henc hwf (hg rfl (by simp)) rfl (by decide) fun h => congrArg some (unpackCwr_bankfmt h)
  all_goals exact nomatch henc

end Sys2Proof.Claims


namespace Sys2Proof.Claims

open Sys2Proof.Machine

/-! ### Which registers two results meet in does not depend on their values (R83) -/

/-- Two writes of the same register: they meet the same other writes and landings. -/
def SameTarget (w w' : RWrite) : Prop := (∀ x : RWrite, x.collides w = x.collides w') ∧ ∀ d : LandDest, d.hits w = d.hits w'

theorem sameTarget_sreg (d : BitVec 6) (v v' : SVal) : SameTarget (.sreg d v) (.sreg d v') :=
  ⟨fun x => by cases x <;> rfl, fun d => by cases d <;> rfl⟩

theorem sameTarget_vreg (d : BitVec 5) (n n' : Nat) (v v' : VVal) : SameTarget (.vreg d n v) (.vreg d n' v') :=
  ⟨fun x => by cases x <;> rfl, fun d => by cases d <;> rfl⟩

theorem sameTarget_pat (d : BitVec 5) (p p' : List (Option Nat)) : SameTarget (.pat d p) (.pat d p') :=
  ⟨fun x => by cases x <;> rfl, fun d => by cases d <;> rfl⟩

theorem any_congr_targets {ws ws' : List RWrite} (h : List.Forall₂ SameTarget ws ws') {p : RWrite → Bool}
    (hp : ∀ w w', SameTarget w w' → p w = p w') : ws.any p = ws'.any p := by
  induction h with
  | nil => rfl
  | cons hw _ ih => rw [List.any_cons, List.any_cons, hp _ _ hw, ih]

/-- Results with the same registers collide alike. -/
theorem collides_congr {ws ws' : List RWrite} (h : List.Forall₂ SameTarget ws ws') (s : State) (lat : Nat) :
    s.collides lat ws = s.collides lat ws' := by
  have hland (d : LandDest) : ws.any d.hits = ws'.any d.hits := any_congr_targets h fun w w' hw => hw.2 d
  have hflight (a : RWrite) : ws.any a.collides = ws'.any a.collides := any_congr_targets h fun w w' hw => hw.1 a
  simp only [State.collides, Regs.collision, hland, hflight]

theorem collides_toS (s : State) (lat : Nat) (nw : BitVec 1) (d : BitVec 6) (v v' : SVal) :
    s.collides lat (toS nw d v) = s.collides lat (toS nw d v') := by
  refine collides_congr ?_ s lat
  unfold toS
  split
  · exact .nil
  · exact .cons (sameTarget_sreg ..) .nil

/-! ### s0, the words of R73 to R80, and reset (R58, R60) -/

theorem readS_zero (r : Regs) : r.readS 0 = SVal.mkOk 0 := if_pos rfl

theorem writeS_zero (r : Regs) (v : SVal) : r.writeS 0 v = r := if_pos rfl

theorem readS_writeS_same (r : Regs) {n : BitVec 6} (v : SVal) (h : n ≠ 0) : (r.writeS n v).readS n = v := by
  rw [Regs.writeS, if_neg h, Regs.readS, if_neg h]
  exact Vector.getElem_set_self _

theorem readS_writeS_ne (r : Regs) {n m : BitVec 6} (v : SVal) (h : m ≠ n) : (r.writeS n v).readS m = r.readS m := by
  have hne : n.toNat ≠ m.toNat := fun h' => h (BitVec.eq_of_toNat_eq h').symm
  unfold Regs.writeS
  split
  · rfl
  · unfold Regs.readS
    rw [Vector.getElem_set_ne _ _ hne]

/-- Settles O44: a write to s0 is discarded, and any other is read back and leaves the other registers. -/
theorem zeroRegister : Obligations.ZeroRegister := fun r _ _ v =>
  ⟨readS_zero _, writeS_zero r v, readS_writeS_same r v, readS_writeS_ne r v⟩

/-- Settles O41: the four words, bit by bit. -/
theorem writtenOutWordsDecode : Obligations.WrittenOutWordsDecode := by
  refine ⟨?_, ?_, ?_, ?_⟩ <;> decide +kernel

theorem readPred_reset (p : BitVec 4) : Regs.reset.readPred p = decide (p = 0) := by
  unfold Regs.readPred
  by_cases h0 : p = 0
  · simp [h0]
  · simp [Regs.reset]

/-- Settles O43: no unit is listed, so each context is as reset leaves a free one. -/
theorem resetState : Obligations.ResetState := by
  refine ⟨memWf_reset, rfl, rfl, rfl, fun cid => ⟨rfl, fun n => ?_, fun n => ?_, readPred_reset, rfl, rfl, rfl, rfl, rfl⟩⟩
  · change Regs.reset.readS n = _
    simp [Regs.readS, Regs.reset]
  · change Regs.reset.readV n = _
    simp [Regs.readV, Regs.reset]

/-! ### One step of the issue in progress (R63, R69) -/

/-- A context that issues alone has no mates among the slots that wait. -/
theorem mates_of_alone {s : State} {w : SlotWord} (rest : List SlotWord) (h : s.gangOf w.cid = [w.cid]) :
    (rest.takeWhile fun x => x.slot == w.slot && x.cid != w.cid && (s.gangOf w.cid).contains x.cid) = [] := by
  cases rest with
  | nil => rfl
  | cons x xs => simp [h]

/-- A slot of a context that issues alone runs by itself, and the issue ends after the last one. -/
theorem runIssue_alone {s : State} {w : SlotWord} {rest : List SlotWord} (h : s.gangOf w.cid = [w.cid]) :
    runIssue s w rest = match runSlot { s with issue := rest } w with
      | .next t => .next t.finishIssue
      | o => o := by
  simp only [runIssue, mates_of_alone rest h] <;> rfl

/-- Where no comparator stops a slot and no lane breach traps it, its word is decoded. -/
theorem runSlot_of_free {s : State} {w : SlotWord} (hb : breakAt { s with cur := w } w = none)
    (hl : laneStop { s with cur := w } w = none) :
    runSlot s w = match decodeSlot (kindOfSlot w.slot) w.bits with
      | none => .next ({ s with cur := w } : State).illegalSlot
      | some i => exec i { s with cur := w } := by
  simp only [runSlot, hb, hl] <;> rfl

theorem step_running {s : State} (hon : s.on = true) (hh : s.halted = false) : step s = stepRunning s := by
  simp [step, hon, hh]

/-- Settles O39: the step takes the slot or the event that is next, and a slot's word as the decoder reads it. -/
theorem stepRunsTheDecodedInstruction : Obligations.StepRunsTheDecodedInstruction := by
  refine ⟨fun s w rest hon hh hi hg hb hl => ?_, fun s e rest hon hh hi ha => ?_⟩
  · have hstep : step s = match runSlot { s with issue := rest } w with
        | .next t => .next t.finishIssue
        | o => o := by
      rw [step_running hon hh, stepRunning, hi]
      exact runIssue_alone hg
    rw [hstep, runSlot_of_free (s := { s with issue := rest }) hb hl]
    refine ⟨fun i hdec t hexec => ?_, fun hdec => ?_⟩
    · rw [hdec]
      change (match exec i (atSlot s w rest) with
        | .next t => Host.Outcome.next t.finishIssue
        | o => o) = _
      rw [hexec]
    · rw [hdec]
      rfl
  · rw [step_running hon hh, stepRunning, hi, ha]

/-! ### Shifts and fields (R86, R88) -/

/-- A register-form operation with a count launches its result where both sources are read. -/
theorem regOpLow_sources {op : Word → Word → Word} {f : SReg} {s : State} {a b : SVal} (hg : Enabled f.g s)
    (ha : s.me.r.src f.a = some a) (hb : s.me.r.src f.b = some b) :
    regOpLow op f s = .next (scalarResult 1 f.nw f.d (SVal.whole (op a.bits b.bits) (a.ok && b.ok0)) s) := by
  rw [regOpLow, slotRun_on _ hg, ha, hb]
  rfl

/-- The low part of a product with a power of two, and what went beyond it, side by side. -/
theorem mul_add_div_mod {a m n : Nat} (ha : a < m * n) : (a * n + a / m) % (m * n) = a % m * n + a / m := by
  have hm : 0 < m := Nat.pos_of_ne_zero fun h => by simp [h] at ha
  have hq : a / m < n := Nat.div_lt_of_lt_mul ha
  have hr : a % m + 1 ≤ m := Nat.mod_lt _ hm
  have hsum : a % m * n + a / m < m * n := by
    calc a % m * n + a / m < a % m * n + n := by omega
      _ = (a % m + 1) * n := by rw [Nat.add_mul, Nat.one_mul]
      _ ≤ m * n := Nat.mul_le_mul_right n hr
  have hsplit : a * n + a / m = a % m * n + a / m + m * n * (a / m) := by
    conv_lhs => rw [← Nat.mod_add_div a m]
    rw [Nat.add_mul, Nat.add_mul_div_left _ _ hm, Nat.mod_div_self]
    ring
  rw [hsplit, Nat.add_mul_mod_self_left, Nat.mod_eq_of_lt hsum]

theorem rotateLeft_eq_ofNat (a : Word) {n : Nat} (hn : n < 64) :
    a.rotateLeft n = BitVec.ofNat 64 (a.toNat * 2 ^ n + a.toNat / 2 ^ (64 - n)) := by
  have hpow : 2 ^ 64 = 2 ^ (64 - n) * 2 ^ n := by rw [← pow_add]; congr 1; omega
  have ha : a.toNat < 2 ^ (64 - n) * 2 ^ n := hpow ▸ a.isLt
  have hkeep : a.toNat <<< n % (2 ^ (64 - n) * 2 ^ n) = (a.toNat % 2 ^ (64 - n)) <<< n := by
    rw [Nat.shiftLeft_eq, Nat.shiftLeft_eq]
    exact Nat.mul_mod_mul_right _ _ _
  apply BitVec.eq_of_toNat_eq
  rw [BitVec.rotateLeft_eq_rotateLeftAux_of_lt hn, BitVec.rotateLeftAux, BitVec.toNat_or, BitVec.toNat_shiftLeft,
    BitVec.toNat_ushiftRight, BitVec.toNat_ofNat, Nat.shiftRight_eq_div_pow, hpow, hkeep,
    ← Nat.shiftLeft_add_eq_or_of_lt (Nat.div_lt_of_lt_mul ha), Nat.shiftLeft_eq, mul_add_div_mod ha]

theorem bfxWord_eq_ofNat (a b : Word) :
    bfxWord a b = BitVec.ofNat 64 (a.toNat / 2 ^ (b.toNat % 64) % 2 ^ min (b.toNat / 2 ^ 8 % 2 ^ 7) 64) := by
  have hmask : 2 ^ min (b.toNat / 2 ^ 8 % 2 ^ 7) 64 - 1 < 2 ^ 64 := by
    have := Nat.pow_le_pow_right (n := 2) (by decide) (Nat.min_le_right (b.toNat / 2 ^ 8 % 2 ^ 7) 64)
    omega
  have hlt : a.toNat / 2 ^ (b.toNat % 64) % 2 ^ min (b.toNat / 2 ^ 8 % 2 ^ 7) 64 < 2 ^ 64 :=
    Nat.lt_of_le_of_lt (Nat.mod_le _ _) (Nat.lt_of_le_of_lt (Nat.div_le_self _ _) a.isLt)
  apply BitVec.eq_of_toNat_eq
  simp only [bfxWord, bfMask, fieldN, Nat.pow_zero, Nat.div_one, BitVec.toNat_and, BitVec.toNat_ushiftRight,
    Nat.shiftRight_eq_div_pow, BitVec.toNat_ofNat]
  rw [Nat.mod_eq_of_lt hmask, Nat.and_two_pow_sub_one_eq_mod, Nat.mod_eq_of_lt hlt]
  rfl

/-- R86, R88: each shift, the rotation and the extraction is the shared operation with its value. -/
theorem exec_lowForms : ∀ e ∈ lowForms, ∀ (f : SReg) (s : State), exec (e.1 f) s = regOpLow e.2 f s := by
  simp only [lowForms, List.forall_mem_cons]
  refine ⟨fun f s => ?_, fun f s => ?_, fun f s => ?_, fun f s => ?_, fun f s => ?_, fun _ h => nomatch h⟩
  · simp only [exec_shl, execShl, shiftLeft_eq_ofNat, shCount]
  · simp only [exec_shr, execShr, ushiftRight_eq_ofNat, shCount]
  · simp only [exec_sra, execSra, sshiftRight_eq_ofInt, shCount]
  · simp only [exec_rotl, execRotl, shCount, rotateLeft_eq_ofNat _ (Nat.mod_lt _ (show 0 < 64 by decide))]
  · rw [exec_bfx, execBfx, funext fun a => funext (bfxWord_eq_ofNat a)]

/-- The mask of a descriptor has its low bits set, as many as the descriptor names (R88). -/
theorem getLsbD_bfMask (b : Word) {i : Nat} (hi : i < 64) :
    (bfMask b).getLsbD i = decide (i < min (b.toNat / 2 ^ 8 % 2 ^ 7) 64) := by
  rw [bfMask, BitVec.getLsbD_ofNat, Nat.testBit_two_pow_sub_one, decide_eq_true hi, Bool.true_and]
  rfl

theorem getLsbD_bfiWord (d a b : Word) {i : Nat} (hi : i < 64) : (bfiWord d a b).getLsbD i = inserted d a b i := by
  have hlo : fieldN b.toNat 0 6 = b.toNat % 64 := by simp [fieldN]
  simp only [bfiWord, inserted, hlo, BitVec.getLsbD_or, BitVec.getLsbD_and, BitVec.getLsbD_not, BitVec.getLsbD_shiftLeft,
    getLsbD_bfMask b (show i - b.toNat % 64 < 64 by omega), hi, decide_true, Bool.true_and]
  by_cases hbelow : i < b.toNat % 64
  · simp [hbelow, show ¬ b.toNat % 64 ≤ i by omega]
  · by_cases hin : i - b.toNat % 64 < min (b.toNat / 2 ^ 8 % 2 ^ 7) 64
    · rw [if_pos (by omega), decide_eq_true hin]
      simp [hbelow]
    · rw [if_neg (by omega), decide_eq_false hin]
      simp [hbelow]

theorem exec_bfi_sources {f : SReg} {s : State} {a b : SVal} (hg : Enabled f.g s) (ha : s.me.r.src f.a = some a)
    (hb : s.me.r.src f.b = some b) :
    exec (.bfi f) s = .next (scalarResult 1 f.nw f.d (SVal.whole (bfiWord (s.me.r.readS f.d).bits a.bits b.bits)
      ((s.me.r.readS f.d).ok && a.ok && b.ok0)) s) := by
  rw [exec_bfi, execBfi, slotRun_on _ hg, ha, hb]
  rfl

/-- Settles O2: a shift is the shared operation with a count, and an insertion's word has the bits of its rule. -/
theorem scalarShiftsAndFields : Obligations.ScalarShiftsAndFields := by
  refine ⟨fun e he f s a b hg ha hb => ?_, fun f s a b hg ha hb hfree => ?_⟩
  · intro v hfree
    rw [exec_lowForms e he, regOpLow_sources hg ha hb, scalarResult_free hfree]
  · refine ⟨bfiWord (s.me.r.readS f.d).bits a.bits b.bits, fun i hi => getLsbD_bfiWord _ _ _ hi, ?_⟩
    rw [exec_bfi_sources hg ha hb, scalarResult_free]
    exact (collides_toS ..).trans hfree

/-! ### Compares (R91) -/

theorem exec_cmpImmForms : ∀ e ∈ cmpImmForms, ∀ (f : SCmp) (s : State), exec (e.1 f) s = cmpImm e.2 f s := by
  simp only [cmpImmForms, List.forall_mem_cons]
  exact ⟨exec_cmpiEq, exec_cmpiLt, fun _ h => nomatch h⟩

theorem cmpImm_source {c : Word → Word → Bool} {f : SCmp} {s : State} {a : SVal} (hg : Enabled f.g s)
    (ha : s.me.r.src f.a = some a) :
    cmpImm c f s = .next (s.launch 1 (pair f.pd a.ok (c a.bits (BitVec.ofInt 64 f.b.toInt))) none 0) := by
  rw [cmpImm, slotRun_on _ hg, ha, ← cmpWrites_eq_pair]
  rfl

/-- The mark of a pair in the neither state stands at the pair's number. -/
theorem neither_writeNeither (r : Regs) {p : BitVec 3} (hp : p ≠ 0) :
    (r.writeNeither (BitVec.ofNat 4 (2 * p.toNat))).neither.getLsbD p.toNat = true := by
  have h0 : ¬ (BitVec.ofNat 4 (2 * p.toNat) = 0 ∨ BitVec.ofNat 4 (2 * p.toNat) = 1) := by decide +revert
  have hmark : (1 <<< ((BitVec.ofNat 4 (2 * p.toNat)).toNat / 2) : BitVec 8).getLsbD p.toNat = true := by decide +revert
  simp only [Regs.writeNeither]
  rw [if_neg h0, BitVec.getLsbD_or, hmark, Bool.or_true]

/-- R91: a guard on a pair in the neither state disables its slot, negated or not. -/
theorem guardOn_writeNeither (r : Regs) {p : BitVec 3} {q : BitVec 4} (hp : p ≠ 0) (hq : q.toNat / 2 = p.toNat)
    {g : BitVec 5} (hg : g.setWidth 4 = q) : guardOn (r.writeNeither (BitVec.ofNat 4 (2 * p.toNat))) g = false := by
  rw [guardOn, hg, hq, neither_writeNeither r hp]
  rfl

/-- Settles O4: a compare launches its pair, and the mark of the neither state disables its guards. -/
theorem scalarCompares : Obligations.ScalarCompares := by
  refine ⟨fun e he f s a b hg ha hb => ?_, fun e he f s a hg ha => ?_,
    fun r p q hp hq => ⟨readPred_writeNeither r hp hq, fun g hg => guardOn_writeNeither r hp hq hg⟩⟩
  · intro ws hfree
    rw [exec_cmpForms e he, cmpOp_sources hg ha hb, launch_eq_inFlight _ _ hfree]
  · intro ws hfree
    rw [exec_cmpImmForms e he, cmpImm_source hg ha, launch_eq_inFlight _ _ hfree]

end Sys2Proof.Claims


namespace Sys2Proof.Claims

open Sys2Proof.Machine

/-! ### The shared operations of the vector slots (R74, R109) -/

theorem vecRun_sources {f : VFld} {s : State} {a b : VVal} (k : VVal → VVal → State → State) (hg : Enabled f.g s)
    (ha : s.me.r.vsrc f.a = some a) (hb : s.me.r.vsrc f.b = some b) : vecRun f s k = .next (k a b s) := by
  rw [vecRun, slotRun_on _ hg, ha, hb]

theorem vecResult_free {s : State} {lat : Nat} {f : VFld} {v : VVal} {fl : BitVec 8} (hfree : Free s lat (toV f v)) :
    vecResult lat f v fl s = inFlight s lat (toV f v) (latchV f v) fl := launch_eq_inFlight _ _ hfree

theorem pairResult_free {s : State} {lat : Nat} {f : VFld} {v v' : VVal} {fl : BitVec 8} (hfree : Free s lat (toVV f v v')) :
    pairResult lat f v v' fl s = inFlight s lat (toVV f v v') (latchV f v) fl := launch_eq_inFlight _ _ hfree

theorem collides_toV (s : State) (lat : Nat) (f : VFld) (v v' : VVal) :
    s.collides lat (toV f v) = s.collides lat (toV f v') := by
  refine collides_congr ?_ s lat
  unfold toV
  split
  · exact .nil
  · exact .cons (sameTarget_vreg ..) .nil

theorem collides_toVV (s : State) (lat : Nat) (f : VFld) (v w v' w' : VVal) :
    s.collides lat (toVV f v w) = s.collides lat (toVV f v' w') := by
  refine collides_congr ?_ s lat
  unfold toVV
  split
  · exact .nil
  · exact .cons (sameTarget_vreg ..) (.cons (sameTarget_vreg ..) .nil)

/-! ### Words of vector values -/

@[simp] theorem word_ofWords (f : Nat → VWord) {i : Nat} (hi : i < 32) : (VVal.ofWords f).word i = f i := by
  simp [VVal.word, VVal.ofWords, hi]

theorem ofWords_congr {f g : Nat → VWord} (h : ∀ i < 32, f i = g i) : VVal.ofWords f = VVal.ofWords g :=
  Vector.ext fun i hi => by simpa [VVal.ofWords] using h i hi

theorem ofElems_congr {wb : Nat} {f g : Nat → Nat × Bool} (h : ∀ i, f i = g i) : VVal.ofElems wb f = VVal.ofElems wb g := by
  rw [funext h]

theorem elem64_lt (v : VVal) (i : Nat) : (v.elem 64 i).1 < 2 ^ 64 := by
  have h0 := (v.word (2 * i)).bits.isLt
  have h1 := (v.word (2 * i + 1)).bits.isLt
  simp only [VVal.elem, if_true]
  omega

theorem vWords_pos (w : BitVec 2) : 0 < vWords w := by decide +revert

theorem vWords_le (w : BitVec 2) : vWords w ≤ 32 := by decide +revert

theorem allOk_eq_decide (v : VVal) (n : Nat) : v.allOk n = decide (∀ j < n, (v.word j).ok = true) := by
  rw [VVal.allOk, Bool.eq_iff_iff]
  simp

/-! ### The values of the word operations (R118) -/

section WordValues

variable {n : Nat} (a b : BitVec n)

theorem bv_add_eq_ofNat : a + b = BitVec.ofNat n (a.toNat + b.toNat) := by simp [BitVec.ofNat_add]

theorem bv_sub_eq_ofInt : a - b = BitVec.ofInt n (a.toInt - b.toInt) := by
  simp [BitVec.sub_eq_add_neg, Int.sub_eq_add_neg, BitVec.ofInt_add, BitVec.ofInt_neg]

theorem bv_mul_eq_ofNat : a * b = BitVec.ofNat n (a.toNat * b.toNat) := by simp [BitVec.ofNat_mul]

theorem bv_ite_slt_eq_min : (if a.slt b then a else b) = BitVec.ofInt n (min a.toInt b.toInt) := by
  rw [BitVec.slt_eq_decide]
  by_cases h : a.toInt < b.toInt
  · simp [h, Int.min_eq_left (Int.le_of_lt h)]
  · simp [h, Int.min_eq_right (Int.not_lt.mp h)]

theorem bv_ite_slt_eq_max : (if a.slt b then b else a) = BitVec.ofInt n (max a.toInt b.toInt) := by
  rw [BitVec.slt_eq_decide]
  by_cases h : a.toInt < b.toInt
  · simp [h, Int.max_eq_right (Int.le_of_lt h)]
  · simp [h, Int.max_eq_left (Int.not_lt.mp h)]

theorem bv_ite_ult_eq_min : (if a.ult b then a else b) = BitVec.ofNat n (min a.toNat b.toNat) := by
  rw [BitVec.ult_eq_decide]
  by_cases h : a.toNat < b.toNat
  · simp [h, Nat.min_eq_left (Nat.le_of_lt h)]
  · simp [h, Nat.min_eq_right (Nat.not_lt.mp h)]

theorem bv_ite_ult_eq_max : (if a.ult b then b else a) = BitVec.ofNat n (max a.toNat b.toNat) := by
  rw [BitVec.ult_eq_decide]
  by_cases h : a.toNat < b.toNat
  · simp [h, Nat.max_eq_right (Nat.le_of_lt h)]
  · simp [h, Nat.max_eq_left (Nat.not_lt.mp h)]

theorem bv_shiftLeft_eq_ofNat (k : Nat) : a <<< k = BitVec.ofNat n (a.toNat * 2 ^ k) := by
  apply BitVec.eq_of_toNat_eq
  simp [Nat.shiftLeft_eq]

theorem bv_ushiftRight_eq_ofNat (k : Nat) : a >>> k = BitVec.ofNat n (a.toNat / 2 ^ k) := by
  apply BitVec.eq_of_toNat_eq
  have hlt : a.toNat / 2 ^ k < 2 ^ n := Nat.lt_of_le_of_lt (Nat.div_le_self _ _) a.isLt
  rw [BitVec.toNat_ushiftRight, BitVec.toNat_ofNat, Nat.shiftRight_eq_div_pow, Nat.mod_eq_of_lt hlt]

theorem bv_sshiftRight_eq_ofInt (k : Nat) : a.sshiftRight k = BitVec.ofInt n (a.toInt / 2 ^ k) := by
  rw [BitVec.sshiftRight, Int.shiftRight_eq_div_pow]
  simp

end WordValues

/-- The upper word of a signed 64-bit product is its quotient by 2^32, rounded down (R118). -/
theorem upper_word_of_product (a b : BitVec 32) :
    (a.signExtend 64 * b.signExtend 64).extractLsb' 32 32 = BitVec.ofInt 32 (a.toInt * b.toInt / 2 ^ 32) := by
  have hlo := BitVec.le_toInt_mul_toInt (x := a) (y := b)
  have hhi := BitVec.toInt_mul_toInt_le (x := a) (y := b)
  have hprod : (a.signExtend 64 * b.signExtend 64).toInt = a.toInt * b.toInt := by
    rw [BitVec.toInt_mul, BitVec.toInt_signExtend_of_le (by decide), BitVec.toInt_signExtend_of_le (by decide)]
    apply Int.bmod_eq_of_le <;> omega
  rw [← hprod]
  generalize a.signExtend 64 * b.signExtend 64 = x
  have hx := x.isLt
  apply BitVec.eq_of_toNat_eq
  rw [BitVec.toInt_eq_toNat_cond]
  simp only [BitVec.extractLsb'_toNat, BitVec.toNat_ofInt, Nat.shiftRight_eq_div_pow]
  split <;> omega

/-- R118: each word operation is the shared one with its value. -/
theorem exec_wordForms : ∀ e ∈ wordForms, ∀ (f : VFld) (s : State), exec (e.1 f) s = wordBin f e.2 s := by
  have value {i : VFld → Instr} {op op' : BitVec 32 → BitVec 32 → BitVec 32} (hi : ∀ f s, exec (i f) s = wordBin f op s)
      (hop : ∀ a b, op a b = op' a b) (f : VFld) (s : State) : exec (i f) s = wordBin f op' s := by
    rw [hi, funext fun a => funext (hop a)]
  simp only [wordForms, List.forall_mem_cons]
  exact ⟨value exec_vadd bv_add_eq_ofNat, value exec_vsub bv_sub_eq_ofInt, value exec_vmul bv_mul_eq_ofNat,
    value exec_vmulh upper_word_of_product, value exec_vmin bv_ite_slt_eq_min, value exec_vmax bv_ite_slt_eq_max,
    value exec_vminu bv_ite_ult_eq_min, value exec_vmaxu bv_ite_ult_eq_max, exec_vand, exec_vor, exec_vxor,
    value exec_vshl fun a b => bv_shiftLeft_eq_ofNat a _, value exec_vshr fun a b => bv_ushiftRight_eq_ofNat a _,
    value exec_vsra fun a b => bv_sshiftRight_eq_ofInt a _, fun _ h => nomatch h⟩

theorem wordBin_sources {op : BitVec 32 → BitVec 32 → BitVec 32} {f : VFld} {s : State} {a b : VVal} (hg : Enabled f.g s)
    (ha : s.me.r.vsrc f.a = some a) (hb : s.me.r.vsrc f.b = some b) :
    wordBin f op s = .next (vecResult 2 f
      (words fun i => ⟨op (a.word i).bits (b.word i).bits, (a.word i).ok && (b.word i).ok⟩) 0 s) := vecRun_sources _ hg ha hb

/-- R118: each operation on 64-bit elements is the shared one with its value. -/
theorem dwordForms_sources : ∀ e ∈ dwordForms, ∀ (f : VFld) (s : State) (a b : VVal), Enabled f.g s →
    s.me.r.vsrc f.a = some a → s.me.r.vsrc f.b = some b → exec (e.1 f) s = .next (vecResult 2 f (VVal.ofElems 64 fun i =>
      (e.2 (a.elem 64 i).1 (b.elem 64 i).1, (a.elem 64 i).2 && (b.elem 64 i).2)) 0 s) := by
  have value {i : VFld → Instr} {op : Word → Word → Word} {op' : Nat → Nat → Nat} (hi : ∀ f s, exec (i f) s = dwordBin f op s)
      (hop : ∀ x < 2 ^ 64, ∀ y < 2 ^ 64, (op (BitVec.ofNat 64 x) (BitVec.ofNat 64 y)).toNat = op' x y) (f : VFld) (s : State)
      (a b : VVal) (hg : Enabled f.g s) (ha : s.me.r.vsrc f.a = some a) (hb : s.me.r.vsrc f.b = some b) :
      exec (i f) s = .next (vecResult 2 f (VVal.ofElems 64 fun i =>
        (op' (a.elem 64 i).1 (b.elem 64 i).1, (a.elem 64 i).2 && (b.elem 64 i).2)) 0 s) := by
    rw [hi, dwordBin, vecRun_sources _ hg ha hb]
    simp only [hop _ (elem64_lt a _) _ (elem64_lt b _)]
  simp only [dwordForms, List.forall_mem_cons]
  refine ⟨value (op' := fun x y => (x + y) % 2 ^ 64) exec_vaddD ?_,
    value (op' := fun x y => (x + 2 ^ 64 - y) % 2 ^ 64) exec_vsubD ?_, fun _ h => nomatch h⟩
  · intro x _ y _
    simp
  · intro x hx y hy
    rw [BitVec.toNat_sub, BitVec.toNat_ofNat, BitVec.toNat_ofNat, Nat.mod_eq_of_lt hx, Nat.mod_eq_of_lt hy]
    congr 1
    omega

/-! ### Word compares (R119) -/

/-- A compare of words gives both results A's bits, each valid where both sources are and the condition says so. -/
theorem comparePair_words (a b : VVal) (c : BitVec 32 → BitVec 32 → Bool) :
    comparePair 32 a (fun i => if (a.word i).ok && (b.word i).ok then some (c (a.word i).bits (b.word i).bits) else none) =
      (words fun i => ⟨(a.word i).bits, ((a.word i).ok && (b.word i).ok) && c (a.word i).bits (b.word i).bits⟩,
       words fun i => ⟨(a.word i).bits, ((a.word i).ok && (b.word i).ok) && !c (a.word i).bits (b.word i).bits⟩) := by
  have verdict (i : Nat) (p : Option Bool → Bool) : List.all ((List.range (32 / 32)).map fun k =>
      if (a.word (32 / 32 * i + k)).ok && (b.word (32 / 32 * i + k)).ok then
        some (c (a.word (32 / 32 * i + k)).bits (b.word (32 / 32 * i + k)).bits) else none) p =
      p (if (a.word i).ok && (b.word i).ok then some (c (a.word i).bits (b.word i).bits) else none) := by
    simp
  have h64 : ¬ (32 : Nat) = 64 := by decide
  simp only [comparePair, words, if_neg h64, verdict]
  congr 2 <;> funext i <;> cases (a.word i).ok && (b.word i).ok <;> cases c (a.word i).bits (b.word i).bits <;> rfl

theorem exec_wordCmps : ∀ e ∈ wordCmps, ∀ (f : VFld) (s : State), exec (e.1 f) s = wordCmp f e.2 s := by
  simp only [wordCmps, List.forall_mem_cons]
  exact ⟨exec_vcmpEq, exec_vcmpLt, exec_vcmpLtu, fun _ h => nomatch h⟩

theorem wordCmp_sources {c : BitVec 32 → BitVec 32 → Bool} {f : VFld} {s : State} {a b : VVal} (hg : Enabled f.g s)
    (ha : s.me.r.vsrc f.a = some a) (hb : s.me.r.vsrc f.b = some b) :
    wordCmp f c s = .next (pairResult 2 f
      (words fun i => ⟨(a.word i).bits, ((a.word i).ok && (b.word i).ok) && c (a.word i).bits (b.word i).bits⟩)
      (words fun i => ⟨(a.word i).bits, ((a.word i).ok && (b.word i).ok) && !c (a.word i).bits (b.word i).bits⟩) 0 s) := by
  rw [wordCmp, vecRun_sources _ hg ha hb, comparePair_words]

/-! ### Words with illegal fields (R77) -/

/-- Every word with some fields is refused where the instruction of its opcode is ill formed with them. -/
theorem refuses_illFormed {k : SlotKind} {op : Nat} {i : Nat → Instr} {bad : Nat → Prop}
    (hraw : ∀ w, rawOp k op w = some (i w)) (hwf : ∀ w, bad w → (i w).wf = false) : Refuses k op bad := by
  intro w hw hop hg hbad
  simp only [decodeSlot, Nat.mod_eq_of_lt hw, rawSlot_eq_rawOp hg, hop, hraw, hwf w hbad]
  rw [if_neg hg]
  rfl

theorem unpackV_c (w : Nat) : (unpackV w).c.toNat = fieldN w 3 5 := by simp [unpackV, fieldN]

theorem unpackV_b (w : Nat) : (unpackV w).b.toNat = fieldN w 8 6 := by simp [unpackV, fieldN]

theorem unpackV_d (w : Nat) : (unpackV w).d.toNat = fieldN w 20 5 := by simp [unpackV, fieldN]

theorem unpackV_nw (w : Nat) : (unpackV w).nw.toNat = fieldN w 25 1 := by simp [unpackV, fieldN]

theorem unpackV_w (w : Nat) : (unpackV w).w = BitVec.ofNat 2 (fieldN w 26 2) := by
  apply BitVec.eq_of_toNat_eq
  simp [unpackV, fieldN]

theorem bv_ne_zero_of_toNat {n : Nat} {x : BitVec n} (h : x.toNat ≠ 0) : (x == 0) = false := by
  simp only [beq_eq_false_iff_ne, ne_eq]
  rintro rfl
  simp at h

/-- A pair needs an even destination (R79). -/
theorem evenD_unpackV {w : Nat} (h : fieldN w 20 5 % 2 ≠ 0) : evenD (unpackV w) = false := by
  simpa [evenD, unpackV_d] using h

theorem odd_compares_refused : ∀ op ∈ [0x50, 0x51, 0x52], Refuses .v op fun w => fieldN w 20 5 % 2 ≠ 0 := by
  simp only [List.forall_mem_cons]
  refine ⟨?_, ?_, ?_, fun _ h => nomatch h⟩
  · exact refuses_illFormed (i := fun w => .vcmpEq (unpackV w)) (fun _ => rfl) fun w h => by simp [Instr.wf, evenD_unpackV h]
  · exact refuses_illFormed (i := fun w => .vcmpLt (unpackV w)) (fun _ => rfl) fun w h => by simp [Instr.wf, evenD_unpackV h]
  · exact refuses_illFormed (i := fun w => .vcmpLtu (unpackV w)) (fun _ => rfl) fun w h => by simp [Instr.wf, evenD_unpackV h]

/-- Settles O6: each operation is the shared one of its kind, which launches its result. -/
theorem vectorWordOperations : Obligations.VectorWordOperations := by
  refine ⟨⟨fun e he f s a b hg ha hb => ?_, fun e he f s a b hg ha hb => ?_⟩, fun e he f s a b hg ha hb => ?_,
    odd_compares_refused⟩
  · intro v hfree
    rw [exec_wordForms e he, wordBin_sources hg ha hb, vecResult_free hfree]
  · intro v hfree
    rw [dwordForms_sources e he f s a b hg ha hb, vecResult_free hfree]
  · intro ok c v v' hfree
    rw [exec_wordCmps e he, wordCmp_sources hg ha hb, pairResult_free hfree]

/-! ### Selection, validity, insertion, sum and scan (R120, R121, R125, R126) -/

/-- A mask built bit by bit is the sum of its bits. -/
theorem okMask_eq_sum (v : VVal) (n : Nat) :
    v.okMask n = BitVec.ofNat 32 ((List.range n).map fun j => if (v.word j).ok then 2 ^ j else 0).sum := by
  unfold VVal.okMask
  congr 1
  induction n with
  | zero => rfl
  | succ n ih =>
    rw [List.range_succ, List.foldl_append, List.map_append, List.sum_append, ih]
    simp only [List.foldl_cons, List.foldl_nil, List.map_cons, List.map_nil, List.sum_cons, List.sum_nil, Nat.add_zero]
    split <;> simp

/-- A sum modulo 2^32, word after word (R126). -/
theorem foldl_add_eq_ofNat_sum (x : Nat → BitVec 32) (n : Nat) :
    (List.range n).foldl (fun acc k => acc + x k) 0 = BitVec.ofNat 32 ((List.range n).map fun k => (x k).toNat).sum := by
  induction n with
  | zero => rfl
  | succ n ih =>
    rw [List.range_succ, List.foldl_append, List.map_append, List.sum_append, ih]
    simp [BitVec.ofNat_add]

/-- A reduction starts with word 0 and takes the others in order. -/
theorem foldl_add_from_first (x : Nat → BitVec 32) {n : Nat} (hn : 0 < n) :
    (List.range (n - 1)).foldl (fun acc i => acc + x (i + 1)) (x 0) =
      BitVec.ofNat 32 ((List.range n).map fun k => (x k).toNat).sum := by
  rw [← foldl_add_eq_ofNat_sum]
  obtain ⟨m, rfl⟩ := Nat.exists_eq_succ_of_ne_zero hn.ne'
  rw [List.range_succ_eq_map, List.foldl_cons, List.foldl_map]
  simp

theorem moveForms_sources : ∀ e ∈ moveForms, ∀ (f : VFld) (s : State) (a b : VVal), Enabled f.g s →
    s.me.r.vsrc f.a = some a → s.me.r.vsrc f.b = some b →
    exec (e.1 f) s = .next (vecResult e.2.1 f (words (e.2.2 f a b)) 0 s) := by
  simp only [moveForms, List.forall_mem_cons]
  refine ⟨fun f s a b hg ha hb => ?_, fun f s a b hg ha hb => ?_, fun f s a b hg ha hb => ?_, fun f s a b hg ha hb => ?_,
    fun f s a b hg ha hb => ?_, fun f s a b hg ha hb => ?_, fun f s a b hg ha hb => ?_, fun _ h => nomatch h⟩
  · exact vecRun_sources _ hg ha hb
  · exact vecRun_sources _ hg ha hb
  · rw [exec_vvmask, execVvmask, vecRun_sources _ hg ha hb, okMask_eq_sum, words]
  · rw [exec_vmaskv, execVmaskv, vecRun_sources _ hg ha hb, words]
  · exact vecRun_sources _ hg ha hb
  · rw [exec_vredAdd, execVredAdd, reduce, vecRun_sources _ hg ha hb]
    simp only [foldl_add_from_first (fun i => (a.word i).bits) (vWords_pos f.w), allOk_eq_decide, words]
  · rw [exec_vscanAdd, execVscanAdd, vecRun_sources _ hg ha hb]
    simp only [foldl_add_eq_ofNat_sum fun k => (a.word k).bits, allOk_eq_decide, words]

/-- Settles O7: each operation launches its words, and the refused words are ill formed. -/
theorem vectorSelectsAndSums : Obligations.VectorSelectsAndSums := by
  refine ⟨fun e he f s a b hg ha hb => ?_, ?_, ?_⟩
  · intro v hfree
    rw [moveForms_sources e he f s a b hg ha hb, vecResult_free hfree]
  · refine refuses_illFormed (i := fun w => .vsel (unpackV w)) (fun _ => rfl) fun w h => ?_
    rw [Instr.wf, bv_ne_zero_of_toNat (x := (unpackV w).c) (by rwa [unpackV_c]), Bool.and_false]
  · refine refuses_illFormed (i := fun w => .vins (unpackV w)) (fun _ => rfl) fun w h => ?_
    rw [Instr.wf, unpackV_w, unpackV_c, decide_eq_false (Nat.not_lt.mpr h), Bool.and_false]

/-! ### Splats, extraction and the signed maximum (R122 to R124, R126) -/

/-- The running maximum is one of the words, and none is greater. -/
theorem foldl_max_spec (x : Nat → BitVec 32) (n : Nat) :
    let m := (List.range n).foldl (fun acc i => if acc.slt (x (i + 1)) then x (i + 1) else acc) (x 0)
    (∃ i < n + 1, x i = m) ∧ ∀ i < n + 1, (x i).toInt ≤ m.toInt := by
  induction n with
  | zero => exact ⟨⟨0, by simp⟩, fun i hi => by simp [show i = 0 by omega]⟩
  | succ n ih =>
    simp only [List.range_succ, List.foldl_append, List.foldl_cons, List.foldl_nil] at ih ⊢
    generalize (List.range n).foldl (fun acc i => if acc.slt (x (i + 1)) then x (i + 1) else acc) (x 0) = m at ih
    obtain ⟨⟨i, hi, him⟩, hmax⟩ := ih
    rw [BitVec.slt_eq_decide]
    by_cases h : m.toInt < (x (n + 1)).toInt
    · simp only [h, decide_true, if_true]
      refine ⟨⟨n + 1, by omega, rfl⟩, fun j hj => ?_⟩
      by_cases hjn : j = n + 1
      · rw [hjn]
      · exact Int.le_of_lt (Int.lt_of_le_of_lt (hmax j (by omega)) h)
    · simp only [h, decide_false, if_false, Bool.false_eq_true]
      refine ⟨⟨i, by omega, him⟩, fun j hj => ?_⟩
      by_cases hjn : j = n + 1
      · rw [hjn]
        exact Int.not_lt.mp h
      · exact hmax j (by omega)

theorem splat_refused : Refuses .v 0x60 fun w => 1 < fieldN w 3 5 := by
  refine refuses_illFormed (i := fun w => .vsplat (unpackV w)) (fun _ => rfl) fun w h => ?_
  rw [Instr.wf, unpackV_c, decide_eq_false (Nat.not_le.mpr h), Bool.and_false]

theorem iota_refused : Refuses .v 0x61 fun w => fieldN w 3 17 ≠ 0 := by
  refine refuses_illFormed (i := fun w => .viota (unpackV w)) (fun _ => rfl) fun w h => ?_
  have hor : (unpackV w).a.toNat ≠ 0 ∨ (unpackV w).b.toNat ≠ 0 ∨ (unpackV w).c.toNat ≠ 0 := by
    simp only [unpackV, fieldN, BitVec.toNat_ofNat] at h ⊢
    omega
  rw [Instr.wf]
  rcases hor with ha | hb | hc
  · rw [bv_ne_zero_of_toNat ha]
    simp
  · rw [bv_ne_zero_of_toNat hb]
    simp
  · rw [bv_ne_zero_of_toNat hc, Bool.and_false]

theorem ext_refused :
    Refuses .v 0x62 fun w => vWords (BitVec.ofNat 2 (fieldN w 26 2)) ≤ fieldN w 3 5 ∨ fieldN w 25 1 ≠ 0 := by
  refine refuses_illFormed (i := fun w => .vext (unpackV w)) (fun _ => rfl) fun w h => ?_
  rw [Instr.wf]
  rcases h with hc | hnw
  · rw [unpackV_w, unpackV_c, decide_eq_false (Nat.not_lt.mpr hc), Bool.and_false]
  · rw [bv_ne_zero_of_toNat (x := (unpackV w).nw) (by rwa [unpackV_nw])]
    simp

theorem exec_vext_sources {f : VFld} {s : State} {a b : VVal} (hg : Enabled f.g s) (ha : s.me.r.vsrc f.a = some a)
    (hb : s.me.r.vsrc f.b = some b) :
    exec (.vext f) s = .next (s.launch 2 [.sreg (BitVec.ofNat 6 f.d.toNat)
      ⟨BitVec.ofNat 64 (a.word f.c.toNat).bits.toNat, (a.word f.c.toNat).ok, true⟩] none 0) := by
  rw [exec_vext, execVext, vecRun_sources _ hg ha hb, BitVec.ofNat_toNat, BitVec.ofNat_toNat]

/-- Settles O8: each move launches its words, and the maximum is found word after word. -/
theorem vectorMoves : Obligations.VectorMoves := by
  refine ⟨⟨splat_refused, iota_refused, ext_refused⟩, fun f s hg => ?_, fun f s hg => ?_, fun f s a b hg ha hb => ?_,
    fun f s a b hg ha hb hfree => ?_⟩
  · intro x v hfree
    rw [exec_vsplat, execVsplat, slotRun_on _ hg]
    exact congrArg _ (vecResult_free hfree)
  · intro v hfree
    rw [exec_viota, execViota, slotRun_on _ hg]
    exact congrArg _ (vecResult_free hfree)
  · intro w ws hfree
    rw [exec_vext_sources hg ha hb, launch_eq_inFlight _ _ hfree]
  · obtain ⟨hone, hmax⟩ := foldl_max_spec (fun i => (a.word i).bits) (vWords f.w - 1)
    rw [Nat.sub_add_cancel (vWords_pos f.w)] at hone hmax
    refine ⟨_, hone, hmax, ?_⟩
    intro v
    rw [exec_vredMax, execVredMax, reduce, vecRun_sources _ hg ha hb, ← vecResult_free ((collides_toV ..).trans hfree)]
    simp only [allOk_eq_decide, v, words]

end Sys2Proof.Claims


namespace Sys2Proof.Claims

open Sys2Proof.Machine

/-! ### The stable sort of lanes (R127) -/

/-- `sortInsert` on lane numbers, by a key of each. -/
def laneInsert (key : Nat → Int) (x : Nat) : List Nat → List Nat
  | [] => [x]
  | y :: t => if key x < key y then x :: y :: t else y :: laneInsert key x t

/-- Lane x comes before lane y: its key is less, or the keys are equal and it is the earlier one. -/
def LaneBefore (key : Nat → Int) (x y : Nat) : Prop := key x < key y ∨ (¬ key y < key x ∧ x < y)

theorem laneBefore_of_lt {key : Nat → Int} {x y z : Nat} (hxy : key x < key y) (hyz : LaneBefore key y z) :
    LaneBefore key x z := by
  unfold LaneBefore at *
  omega

theorem laneInsert_perm (key : Nat → Int) (x : Nat) (l : List Nat) : (laneInsert key x l).Perm (x :: l) := by
  induction l with
  | nil => exact .refl _
  | cons y t ih =>
    unfold laneInsert
    split
    · exact .refl _
    · exact (ih.cons y).trans (.swap x y t)

/-- A lane behind all others goes to its place among lanes that stand in order. -/
theorem laneInsert_pairwise {key : Nat → Int} {x : Nat} {l : List Nat} (hl : l.Pairwise (LaneBefore key))
    (hx : ∀ y ∈ l, y < x) : (laneInsert key x l).Pairwise (LaneBefore key) := by
  induction l with
  | nil => exact List.pairwise_singleton _ _
  | cons y t ih =>
    obtain ⟨hy, ht⟩ := List.pairwise_cons.mp hl
    unfold laneInsert
    split
    case isTrue hlt =>
      refine List.pairwise_cons.mpr ⟨fun z hz => ?_, hl⟩
      rcases List.mem_cons.mp hz with rfl | hz
      · exact .inl hlt
      · exact laneBefore_of_lt hlt (hy z hz)
    case isFalse hnlt =>
      refine List.pairwise_cons.mpr ⟨fun z hz => ?_, ih ht fun z hz => hx z (List.mem_cons_of_mem _ hz)⟩
      rcases List.mem_cons.mp ((laneInsert_perm key x t).mem_iff.mp hz) with rfl | hz
      · exact .inr ⟨hnlt, hx y (List.mem_cons_self ..)⟩
      · exact hy z hz

/-- The lanes of a list, one after another, in the order of their keys. -/
def laneSort (key : Nat → Int) (l : List Nat) : List Nat := l.foldl (fun acc x => laneInsert key x acc) []

theorem foldl_laneInsert_spec (key : Nat → Int) (l acc : List Nat) (hl : l.Pairwise (· < ·))
    (hacc : acc.Pairwise (LaneBefore key)) (hlt : ∀ y ∈ acc, ∀ x ∈ l, y < x) :
    (l.foldl (fun acc x => laneInsert key x acc) acc).Perm (acc ++ l) ∧
      (l.foldl (fun acc x => laneInsert key x acc) acc).Pairwise (LaneBefore key) := by
  induction l generalizing acc with
  | nil => simpa using hacc
  | cons x t ih =>
    obtain ⟨hx, ht⟩ := List.pairwise_cons.mp hl
    have hins := laneInsert_pairwise hacc fun y hy => hlt y hy x (List.mem_cons_self ..)
    have hperm := laneInsert_perm key x acc
    have hnext : ∀ y ∈ laneInsert key x acc, ∀ z ∈ t, y < z := by
      intro y hy z hz
      rcases List.mem_cons.mp (hperm.mem_iff.mp hy) with rfl | hy
      · exact hx z hz
      · exact hlt y hy z (List.mem_cons_of_mem _ hz)
    obtain ⟨hp, ho⟩ := ih _ ht hins hnext
    exact ⟨hp.trans ((hperm.append_right t).trans List.perm_middle.symm), ho⟩

theorem laneSort_perm (key : Nat → Int) {l : List Nat} (hl : l.Pairwise (· < ·)) : (laneSort key l).Perm l :=
  (foldl_laneInsert_spec key l [] hl .nil (by simp)).1

theorem laneSort_pairwise (key : Nat → Int) {l : List Nat} (hl : l.Pairwise (· < ·)) :
    (laneSort key l).Pairwise (LaneBefore key) := (foldl_laneInsert_spec key l [] hl .nil (by simp)).2

/-- The order of the lanes of R127: the valid keys sorted, then the invalid ones as they are. -/
def sortedLanes (key : Nat → Int) (ok : Nat → Bool) (n : Nat) : List Nat :=
  laneSort key ((List.range n).filter ok) ++ (List.range n).filter fun i => !ok i

theorem sortedLanes_perm (key : Nat → Int) (ok : Nat → Bool) (n : Nat) : (sortedLanes key ok n).Perm (List.range n) :=
  ((laneSort_perm key (List.Pairwise.filter _ List.pairwise_lt_range)).append_right _).trans (List.filter_append_perm _ _)

theorem mem_laneSort_ok {key : Nat → Int} {ok : Nat → Bool} {n i : Nat}
    (h : i ∈ laneSort key ((List.range n).filter ok)) : ok i = true :=
  (List.mem_filter.mp ((laneSort_perm key (List.Pairwise.filter _ List.pairwise_lt_range)).mem_iff.mp h)).2

theorem mem_invalid_lanes {ok : Nat → Bool} {n i : Nat} (h : i ∈ (List.range n).filter fun i => !ok i) : ok i = false := by
  simpa using (List.mem_filter.mp h).2

/-- Before a valid lane stand only valid lanes that come before it. -/
theorem sortedLanes_valid (key : Nat → Int) (ok : Nat → Bool) (n : Nat) :
    (sortedLanes key ok n).Pairwise fun i j => ok j = true → ok i = true ∧ LaneBefore key i j := by
  refine List.pairwise_append.mpr ⟨?_, ?_, fun i hi j hj hok => ?_⟩
  · refine List.Pairwise.imp_of_mem (fun {i j} hi hj hij _ => ⟨mem_laneSort_ok hi, hij⟩)
      (laneSort_pairwise key (List.Pairwise.filter _ List.pairwise_lt_range))
  · refine List.Pairwise.imp_of_mem (R := (· < ·)) (fun {i j} _ hj _ hok => ?_) (List.Pairwise.filter _ List.pairwise_lt_range)
    rw [mem_invalid_lanes hj] at hok
    exact Bool.noConfusion hok
  · rw [mem_invalid_lanes hj] at hok
    exact Bool.noConfusion hok

/-- The lanes with an invalid key stand in source order. -/
theorem sortedLanes_invalid (key : Nat → Int) (ok : Nat → Bool) (n : Nat) :
    (sortedLanes key ok n).Pairwise fun i j => ok i = false → ok j = false → i < j := by
  refine List.pairwise_append.mpr ⟨?_, ?_, fun i hi j _ hbad => ?_⟩
  · refine List.Pairwise.imp_of_mem (fun {i j} hi _ _ hbad => ?_)
      (laneSort_pairwise key (List.Pairwise.filter _ List.pairwise_lt_range))
    rw [mem_laneSort_ok hi] at hbad
    exact Bool.noConfusion hbad
  · exact (List.Pairwise.filter _ List.pairwise_lt_range).imp fun h _ _ => h
  · rw [mem_laneSort_ok hi] at hbad
    exact Bool.noConfusion hbad

/-! ### The model's sort of word pairs is the sort of the lanes they stand in -/

section Pairs

variable {lt : BitVec 32 → BitVec 32 → Bool} {key : Nat → Int} {p : Nat → VWord × VWord}

theorem sortInsert_map (hlt : ∀ x y, lt (p x).1.bits (p y).1.bits = decide (key x < key y)) (x : Nat) (l : List Nat) :
    sortInsert lt (p x) (l.map p) = (laneInsert key x l).map p := by
  induction l with
  | nil => rfl
  | cons y t ih =>
    simp only [List.map_cons, sortInsert, laneInsert, hlt, decide_eq_true_eq, ih]
    split <;> rfl

theorem foldl_sortInsert_map (hlt : ∀ x y, lt (p x).1.bits (p y).1.bits = decide (key x < key y)) (l acc : List Nat) :
    (l.map p).foldl (fun acc x => sortInsert lt x acc) (acc.map p) =
      (l.foldl (fun acc x => laneInsert key x acc) acc).map p := by
  induction l generalizing acc with
  | nil => rfl
  | cons x t ih => rw [List.map_cons, List.foldl_cons, List.foldl_cons, sortInsert_map hlt, ih]

theorem sortPairs_eq_sortedLanes (hlt : ∀ x y, lt (p x).1.bits (p y).1.bits = decide (key x < key y)) (n : Nat) :
    sortPairs lt ((List.range n).map p) = (sortedLanes key (fun i => (p i).1.ok) n).map p := by
  have hsort := foldl_sortInsert_map hlt ((List.range n).filter fun i => (p i).1.ok) []
  simp only [sortPairs, sortedLanes, laneSort, List.filter_map, List.map_append]
  exact congrArg (· ++ _) hsort

end Pairs

/-- The key of R127 as an integer: unsigned under srcC = 0, else signed. -/
def laneKey (f : VFld) (a : VVal) (i : Nat) : Int := if f.c = 0 then ((a.word i).bits.toNat : Int) else (a.word i).bits.toInt

theorem sort_lt_eq_laneKey (f : VFld) (a : VVal) (x y : Nat) :
    (if f.c = 0 then BitVec.ult else BitVec.slt) (a.word x).bits (a.word y).bits = decide (laneKey f a x < laneKey f a y) := by
  unfold laneKey
  split
  · simp [BitVec.ult]
  · simp [BitVec.slt]

theorem exec_vsort_sources {f : VFld} {s : State} {a b : VVal} (hg : Enabled f.g s) (ha : s.me.r.vsrc f.a = some a)
    (hb : s.me.r.vsrc f.b = some b) :
    let r := sortedLanes (laneKey f a) (fun i => (a.word i).ok) (vWords f.w)
    exec (.vsort f) s = .next (pairResult 6 f (VVal.ofList (r.map a.word)) (VVal.ofList (r.map b.word)) 0 s) := by
  have hsort := sortPairs_eq_sortedLanes (p := fun i => (a.word i, b.word i)) (sort_lt_eq_laneKey f a) (vWords f.w)
  rw [exec_vsort, execVsort, vecRun_sources _ hg ha hb]
  simp only [hsort, List.map_map]
  rfl

/-- Settles O9: the model's sort is the sort of the lanes by their keys, which is stable and keeps every lane. -/
theorem vectorSortSorts : Obligations.VectorSortSorts := by
  intro f s a b hg ha hb hfree
  refine ⟨sortedLanes (laneKey f a) (fun i => (a.word i).ok) (vWords f.w), sortedLanes_perm .., ?_, sortedLanes_invalid .., ?_⟩
  · refine (sortedLanes_valid (laneKey f a) (fun i => (a.word i).ok) (vWords f.w)).imp fun {i j} h hok => ?_
    obtain ⟨hoki, hbefore⟩ := h hok
    refine ⟨hoki, ?_⟩
    unfold LaneBefore laneKey at hbefore
    by_cases hc : f.c = 0
    · simpa only [if_pos hc, Nat.cast_lt] using hbefore
    · simpa only [if_neg hc] using hbefore
  · intro v v'
    rw [exec_vsort_sources hg ha hb, pairResult_free ((collides_toVV ..).trans hfree)]

end Sys2Proof.Claims


namespace Sys2Proof.Claims

open Sys2Proof.Machine

/-! ### Elements of vector values (R110, R111) -/

/-- The element widths of the FP formats. -/
def FpWidth (wb : Nat) : Prop := wb = 16 ∨ wb = 32 ∨ wb = 64

theorem fpWidth_fmtOfT (t : BitVec 2) : FpWidth (fmtOfT t).width := by
  unfold FpWidth
  decide +revert

/-- An element's bits are read back from the value that its bits made. -/
theorem elem_ofElems_bits {wb : Nat} (hwb : FpWidth wb) (f : Nat → Nat × Bool) {i : Nat} (hi : i < 1024 / wb) :
    ((VVal.ofElems wb f).elem wb i).1 = (f i).1 % 2 ^ wb := by
  rcases hwb with rfl | rfl | rfl
  · have hw : i / 2 < 32 := by omega
    rcases Nat.mod_two_eq_zero_or_one i with h | h
    · have hidx : 2 * (i / 2) = i := by omega
      simp [VVal.elem, VVal.ofElems, hw, List.range_succ, h, hidx]
    · have hidx : 2 * (i / 2) + 1 = i := by omega
      simp [VVal.elem, VVal.ofElems, hw, List.range_succ, h, hidx]
      omega
  · have hw : i < 32 := by omega
    simp [VVal.elem, VVal.ofElems, hw, Nat.mod_one]
  · have h0 : 2 * i < 32 := by omega
    have h1 : 2 * i + 1 < 32 := by omega
    simp [VVal.elem, VVal.ofElems, h0, h1, Nat.mul_add_div]
    omega

/-- An element is valid where the elements of its words are. -/
theorem elem_ofElems_ok {wb : Nat} (hwb : FpWidth wb) (f : Nat → Nat × Bool) {i : Nat} (hi : i < 1024 / wb) {v : Bool}
    (hv : ∀ j, (if wb = 16 then j / 2 = i / 2 else j = i) → (f j).2 = v) : ((VVal.ofElems wb f).elem wb i).2 = v := by
  rcases hwb with rfl | rfl | rfl
  · have hw : i / 2 < 32 := by omega
    have h0 := hv (2 * (i / 2)) (by simp)
    have h1 := hv (2 * (i / 2) + 1) (by simp; omega)
    simp [VVal.elem, VVal.ofElems, hw, List.range_succ, h0, h1]
  · have hw : i < 32 := by omega
    have h0 := hv i (by simp)
    simp [VVal.elem, VVal.ofElems, hw, h0]
  · have h0 : 2 * i < 32 := by omega
    have h1 : 2 * i + 1 < 32 := by omega
    have hvi := hv i (by simp)
    simp [VVal.elem, VVal.ofElems, h0, h1, Nat.mul_add_div, hvi]

theorem elem_lt {wb : Nat} (hwb : FpWidth wb) (v : VVal) (i : Nat) : (v.elem wb i).1 < 2 ^ wb := by
  rcases hwb with rfl | rfl | rfl
  · simp only [VVal.elem]
    exact Nat.mod_lt _ (by decide)
  · simp only [VVal.elem]
    exact Nat.mod_lt _ (by decide)
  · exact elem64_lt v i

/-- The elements of a narrow format share their word's validity bit. -/
theorem elem_ok_of_same_word {wb : Nat} (v : VVal) {i j : Nat} (h : if wb = 16 then j / 2 = i / 2 else j = i) :
    (v.elem wb j).2 = (v.elem wb i).2 := by
  split at h
  case isTrue hwb =>
    subst hwb
    simp only [VVal.elem]
    change (v.word (j / 2)).ok = (v.word (i / 2)).ok
    rw [h]
  case isFalse => rw [h]

/-! ### Values of a result element by element (R111) -/

theorem getD_map_range {α : Type} (n i : Nat) (f : Nat → Option α) :
    ((List.range n).map f).getD i none = if i < n then f i else none := by
  by_cases h : i < n <;> simp [List.getD_eq_getElem?_getD, h]

/-- The elements of a narrow format fill whole words. -/
theorem count_spec (t w : BitVec 2) (h : (fmtOfT t).width = 16) : count t w % 2 = 0 := by
  rw [count, h]
  omega

theorem count_le (t w : BitVec 2) : count t w ≤ 1024 / (fmtOfT t).width := by
  rw [count]
  exact Nat.div_le_div_right (by have := vWords_le w; omega)

/-- An element of a result is valid where its sources are. -/
theorem lanes_ok {wb n : Nat} (hwb : FpWidth wb) (hn : n ≤ 1024 / wb) (heven : wb = 16 → n % 2 = 0) {ok : Nat → Bool}
    {g : Nat → FRes} {i : Nat} (hi : i < n) (hok : ∀ j, (if wb = 16 then j / 2 = i / 2 else j = i) → ok j = ok i) :
    ((lanes wb n ok g).1.elem wb i).2 = ok i := by
  have hi' : i < 1024 / wb := by omega
  simp only [lanes, vecOf]
  refine elem_ofElems_ok hwb _ hi' fun j hj => ?_
  have hjn : j < n := by
    split at hj
    · have := heven ‹_›
      omega
    · omega
  simp only [getD_map_range, if_pos hjn, ← hok j hj]
  cases ok j <;> rfl

theorem lanes_bits {wb n : Nat} (hwb : FpWidth wb) (hn : n ≤ 1024 / wb) {ok : Nat → Bool} {g : Nat → FRes} {i : Nat}
    (hi : i < n) (hok : ok i = true) : ((lanes wb n ok g).1.elem wb i).1 = (g i).bits % 2 ^ wb := by
  rw [lanes, vecOf, elem_ofElems_bits hwb _ (by omega), getD_map_range, if_pos hi, hok]
  rfl

/-- A fold whose every element leaves the start value leaves it. -/
theorem foldl_fixed_of_mem {α β : Type} {f : β → α → β} {b : β} {l : List α} (h : ∀ x ∈ l, f b x = b) : l.foldl f b = b := by
  induction l with
  | nil => rfl
  | cons x t ih => rw [List.foldl_cons, h x (List.mem_cons_self ..), ih fun y hy => h y (List.mem_cons_of_mem _ hy)]

/-- Elements without flags give a result without flags. -/
theorem lanes_flags_zero {wb n : Nat} {ok : Nat → Bool} {g : Nat → FRes} (hg : ∀ i, (g i).flags = 0) :
    (lanes wb n ok g).2 = 0 := by
  refine foldl_fixed_of_mem fun x hx => ?_
  obtain ⟨i, _, hi⟩ := List.mem_map.mp (List.fst_mem_of_mem_zipIdx hx)
  rw [← hi]
  cases ok i with
  | false => rfl
  | true => simp [hg]

/-! ### FP arithmetic (R112 to R116) -/

section Fp

variable {lat : Nat} {t : BitVec 2} {f : VFld} {s : State} {a b : VVal}

theorem fpBin_sources (op : Fmt → RMode → Nat → Nat → FRes) (hg : Enabled f.g s) (ha : s.me.r.vsrc f.a = some a)
    (hb : s.me.r.vsrc f.b = some b) :
    let m := fmtOfT t
    let r := lanes m.width (count t f.w) (fun i => (a.elem m.width i).2 && (b.elem m.width i).2)
      fun i => op m (s.me.r.modeOf f.rm) (a.elem m.width i).1 (b.elem m.width i).1
    fpBin lat t f op s = .next (vecResult lat f r.1 r.2 s) := vecRun_sources _ hg ha hb

/-- An operation of one source reads it twice. -/
theorem fpUn_sources (op : Fmt → RMode → Nat → FRes) (hg : Enabled f.g s) (ha : s.me.r.vsrc f.a = some a) :
    let m := fmtOfT t
    let r := lanes m.width (count t f.w) (fun i => (a.elem m.width i).2)
      fun i => op m (s.me.r.modeOf f.rm) (a.elem m.width i).1
    fpUn lat t f op s = .next (vecResult lat f r.1 r.2 s) := by
  have h := fpBin_sources (lat := lat) (t := t) (f := { f with b := f.a }) (fun fm rm x _ => op fm rm x) hg ha ha
  simp only [Bool.and_self] at h
  exact h

end Fp

theorem exec_fpForms : ∀ e ∈ fpForms, ∀ (t : BitVec 2) (f : VFld) (s : State),
    exec (e.1 t f) s = fpBin (fpLat t) t f e.2 s := by
  simp only [fpForms, List.forall_mem_cons]
  exact ⟨exec_vfadd, exec_vfsub, exec_vfmul, exec_vfmin, exec_vfmax, fun _ h => nomatch h⟩

theorem exec_divForms : ∀ e ∈ divForms, ∀ (f : VFld) (s : State), exec (e.1 f) s =
    fpBin e.2.2 e.2.1 f (fun fm rm x y => fDiv fm rm (decodeF fm x) (decodeF fm y)) s := by
  simp only [divForms, List.forall_mem_cons]
  exact ⟨exec_vfdivF32, exec_vfdivF64, fun _ h => nomatch h⟩

theorem exec_fpOneForms : ∀ e ∈ fpOneForms, ∀ (t : BitVec 2) (f : VFld) (s : State),
    exec (e.1 t f) s = fpUn (fpLat t) t f (e.2 f) s := by
  simp only [fpOneForms, List.forall_mem_cons]
  exact ⟨exec_vfrnd, exec_vfclass, fun _ h => nomatch h⟩

/-- Settles O10: each operation is the shared one of its kind with its function on two elements or one. -/
theorem vectorFpArithmetic : Obligations.VectorFpArithmetic := by
  refine ⟨fun e he t f s a b hg ha hb => ?_, fun e he f s a b hg ha hb => ?_, fun t f s a b hg ha hb => ?_,
    fun e he t f s a hg ha => ?_⟩
  · intro m r hfree
    rw [exec_fpForms e he, fpBin_sources _ hg ha hb, vecResult_free hfree]
  · intro m r hfree
    rw [exec_divForms e he, fpBin_sources _ hg ha hb, vecResult_free hfree]
  · intro m c r hfree
    rw [exec_vfma, execVfma, vecRun_sources _ hg ha hb]
    exact congrArg _ (vecResult_free hfree)
  · intro m r hfree
    rw [exec_fpOneForms e he, fpUn_sources _ hg ha, vecResult_free hfree]

/-! ### Sign operations (R114) -/

/-- What a sign operation gives for an element: the magnitude of x, under the sign of its mode. -/
def signed (m : Fmt) (c : BitVec 5) (x y : Nat) : FRes :=
  ⟨m.withSign (if c = 0 then false else if c = 1 then decide (x < m.signBit) else decide (m.signBit ≤ y)) (x % m.signBit), 0⟩

theorem exec_vfsgn_copysign {t : BitVec 2} {f : VFld} {s : State} (hc : f.c = 2) :
    exec (.vfsgn t f) s = fpBin (fpLat t) t f (fun m _ x y => signed m f.c x y) s := by
  rw [exec_vfsgn, execVfsgn, if_pos hc]
  rfl

theorem exec_vfsgn_one {t : BitVec 2} {f : VFld} {s : State} (hc : f.c ≠ 2) :
    exec (.vfsgn t f) s = fpUn (fpLat t) t f (fun m _ x => signed m f.c x x) s := by
  rw [exec_vfsgn, execVfsgn, if_neg hc]
  rfl

theorem width_eq_signBit (t : BitVec 2) :
    (fmtOfT t).signBit = 2 ^ ((fmtOfT t).width - 1) ∧ 2 ^ (fmtOfT t).width = 2 * 2 ^ ((fmtOfT t).width - 1) := by
  decide +kernel +revert

/-- A sign operation keeps the magnitude and sets the sign; its result fits the format. -/
theorem signed_spec {t : BitVec 2} {c : BitVec 5} {x y : Nat} (hx : x < 2 ^ (fmtOfT t).width)
    (hy : y < 2 ^ (fmtOfT t).width) :
    let h := 2 ^ ((fmtOfT t).width - 1)
    let z := (signed (fmtOfT t) c x y).bits % 2 ^ (fmtOfT t).width
    z % h = x % h ∧ z / h = if c = 0 then 0 else if c = 1 then 1 - x / h else y / h := by
  obtain ⟨hs, hw⟩ := width_eq_signBit t
  have hpos : 0 < 2 ^ ((fmtOfT t).width - 1) := by positivity
  simp only [signed, Fmt.withSign, hs]
  rw [hw] at hx hy ⊢
  generalize 2 ^ ((fmtOfT t).width - 1) = h at *
  have hmod := Nat.mod_lt x hpos
  have hbit (z : Nat) (hz : z < 2 * h) : z / h = if z < h then 0 else 1 := by
    split
    · exact Nat.div_eq_of_lt ‹_›
    · exact Nat.div_eq_of_lt_le (by omega) (by omega)
  have hkeep (neg : Bool) : let z := (if neg = true then h + x % h else x % h) % (2 * h)
      z % h = x % h ∧ z / h = if neg = true then 1 else 0 := by
    cases neg
    · simp [Nat.mod_eq_of_lt (show x % h < 2 * h by omega), Nat.div_eq_of_lt hmod]
    · simp [Nat.mod_eq_of_lt (show h + x % h < 2 * h by omega), Nat.add_div_left _ hpos, Nat.div_eq_of_lt hmod]
  refine ⟨(hkeep _).1, (hkeep _).2.trans ?_⟩
  rw [hbit x hx, hbit y hy]
  by_cases h0 : c = 0
  · simp [h0]
  · by_cases h1 : c = 1
    · by_cases hlt : x < h <;> simp [h1, hlt]
    · simp only [if_neg h0, if_neg h1]
      by_cases hlt : y < h
      · simp [hlt, Nat.not_le.mpr hlt]
      · simp [hlt, Nat.not_lt.mp hlt]

theorem sign_modes_refused : ∀ op ∈ [0x20, 0x21, 0x22, 0x23],
    Refuses .v op fun w => 2 < fieldN w 3 5 ∨ (fieldN w 3 5 < 2 ∧ fieldN w 8 6 ≠ 0) := by
  have hbad (t : BitVec 2) (w : Nat) (h : 2 < fieldN w 3 5 ∨ (fieldN w 3 5 < 2 ∧ fieldN w 8 6 ≠ 0)) :
      (Instr.vfsgn t (unpackV w)).wf = false := by
    rw [Instr.wf, unpackV_c]
    rcases h with hc | ⟨hc, hb⟩
    · rw [decide_eq_false (Nat.not_le.mpr hc)]
      simp
    · have hc2 : ((unpackV w).c == 2) = false := by
        rw [beq_eq_false_iff_ne]
        intro h2
        have := congrArg BitVec.toNat h2
        rw [unpackV_c] at this
        simp at this
        omega
      rw [hc2, bv_ne_zero_of_toNat (x := (unpackV w).b) (by rwa [unpackV_b])]
      simp
  simp only [List.forall_mem_cons]
  refine ⟨?_, ?_, ?_, ?_, fun _ h => nomatch h⟩
  · exact refuses_illFormed (i := fun w => .vfsgn 0 (unpackV w)) (fun _ => rfl) (hbad 0)
  · exact refuses_illFormed (i := fun w => .vfsgn 1 (unpackV w)) (fun _ => rfl) (hbad 1)
  · exact refuses_illFormed (i := fun w => .vfsgn 2 (unpackV w)) (fun _ => rfl) (hbad 2)
  · exact refuses_illFormed (i := fun w => .vfsgn 3 (unpackV w)) (fun _ => rfl) (hbad 3)

/-- Settles O11: a sign operation is a lane operation without flags, whose elements keep their magnitude. -/
theorem signOperationsKeepMagnitudes : Obligations.SignOperationsKeepMagnitudes := by
  refine ⟨fun t f s a b hc hg ha hb hfree => ?_, sign_modes_refused⟩
  intro n sign
  have hwb := fpWidth_fmtOfT t
  have hlanes (y : VVal) (ok : Nat → Bool) (hok : ∀ i j, (if n = 16 then j / 2 = i / 2 else j = i) → ok j = ok i)
      (hsound : ∀ i, ok i = ((a.elem n i).2 && (f.c != 2 || (b.elem n i).2)))
      (hsign : ∀ i, f.c = 2 → (y.elem n i).1 = (b.elem n i).1) :
      let r := lanes n (count t f.w) ok fun i => signed (fmtOfT t) f.c (a.elem n i).1 (y.elem n i).1
      ∀ i < count t f.w, (r.1.elem n i).2 = ((a.elem n i).2 && (f.c != 2 || (b.elem n i).2)) ∧
        ((r.1.elem n i).2 = true → (r.1.elem n i).1 % 2 ^ (n - 1) = (a.elem n i).1 % 2 ^ (n - 1) ∧
          sign r.1 i = (if f.c = 0 then 0 else if f.c = 1 then 1 - sign a i else sign b i)) := by
    intro r i hi
    have hvalid : (r.1.elem n i).2 = ok i := lanes_ok hwb (count_le t f.w) (count_spec t f.w) hi (hok i)
    refine ⟨hvalid.trans (hsound i), fun htrue => ?_⟩
    have hbits := lanes_bits (g := fun i => signed (fmtOfT t) f.c (a.elem n i).1 (y.elem n i).1) hwb (count_le t f.w) hi
      (hvalid.symm.trans htrue)
    obtain ⟨hmag, hsgn⟩ := signed_spec (t := t) (c := f.c) (elem_lt hwb a i) (elem_lt hwb y i)
    rw [← hbits] at hmag hsgn
    refine ⟨hmag, hsgn.trans ?_⟩
    by_cases h0 : f.c = 0
    · simp only [if_pos h0]
    · by_cases h1 : f.c = 1
      · simp only [if_neg h0, if_pos h1]
        rfl
      · have h2 : f.c = 2 := by
          clear hbits hmag hsgn hvalid htrue hsound hsign
          bv_omega
        simp only [if_neg h0, if_neg h1]
        exact congrArg (· / 2 ^ (n - 1)) (hsign i h2)
  by_cases h2 : f.c = 2
  · refine ⟨_, hlanes b (fun i => (a.elem n i).2 && (b.elem n i).2) (fun i j h => ?_) (fun i => ?_) (fun i _ => rfl), ?_⟩
    · simp only [elem_ok_of_same_word a h, elem_ok_of_same_word b h]
    · simp [h2]
    · rw [exec_vfsgn_copysign h2, fpBin_sources _ hg ha hb, ← vecResult_free ((collides_toV ..).trans hfree),
        lanes_flags_zero fun _ => rfl]
  · refine ⟨_, hlanes a (fun i => (a.elem n i).2) (fun i j h => elem_ok_of_same_word a h) (fun i => ?_)
      (fun i h => absurd h h2), ?_⟩
    · rw [bne_iff_ne.mpr h2]
      simp
    · rw [exec_vfsgn_one h2, fpUn_sources _ hg ha, ← vecResult_free ((collides_toV ..).trans hfree),
        lanes_flags_zero fun _ => rfl]

end Sys2Proof.Claims


namespace Sys2Proof.Claims

open Sys2Proof.Machine

/-! ### What an update of the executing context's registers leaves to its slot -/

@[simp] theorem me_modRegs (s : State) (f : Regs → Regs) : (s.modRegs s.cur.cid f).me = { s.me with r := f s.me.r } := by
  simp [State.me]

/-- Results meet by what is in flight and what waits to land, and by nothing else of a register file. -/
theorem collides_modRegs {s : State} {f : Regs → Regs} (hf : ∀ r : Regs, (f r).flight = r.flight ∧ (f r).land = r.land ∧
    (f r).words = r.words) (lat : Nat) (ws : List RWrite) : (s.modRegs s.cur.cid f).collides lat ws = s.collides lat ws := by
  obtain ⟨hflight, hland, hwords⟩ := hf (s.ctx s.cur.cid).r
  simp only [State.collides, Regs.collision, modRegs_cur, ctx_modRegs, core_of_modRegs, if_true, hflight, hland, hwords]

/-! ### Compares, sums and conversions complete (R113, R117, R128 to R134) -/

/-- The two results of a compare hold A's bits, and no word is valid in both. -/
theorem comparePair_spec {wb : Nat} (hwb : FpWidth wb) (a : VVal) (c : Nat → Option Bool) {i : Nat} (hi : i < 32) :
    let p := comparePair wb a c
    (p.1.word i).bits = (a.word i).bits ∧ (p.2.word i).bits = (a.word i).bits ∧
      ((p.1.word i).ok && (p.2.word i).ok) = false := by
  have hexcl (x : Option Bool) (l l' : Bool) : ((x == some true && l) && (x == some false && l')) = false := by
    rcases x with _ | (_ | _) <;> simp
  simp only [comparePair, word_ofWords _ hi, true_and]
  rcases hwb with rfl | rfl | rfl
  · simp only [if_neg (show ¬ (16 : Nat) = 64 by decide), show 32 / 16 = 2 from rfl, List.range_succ_eq_map, List.range_zero,
      List.map_cons, List.map_nil, List.all_cons, hexcl]
  · simp only [if_neg (show ¬ (32 : Nat) = 64 by decide), show 32 / 32 = 1 from rfl, List.range_one, List.map_cons,
      List.map_nil, List.all_cons, hexcl]
  · simp only [if_true, List.all_cons, hexcl]

theorem exec_vfcmp_sources {t : BitVec 2} {f : VFld} {s : State} {a b : VVal} (hg : Enabled f.g s)
    (ha : s.me.r.vsrc f.a = some a) (hb : s.me.r.vsrc f.b = some b) : ∃ c fl, exec (.vfcmp t f) s =
      .next (pairResult (fpLat t) f (comparePair (fmtOfT t).width a c).1 (comparePair (fmtOfT t).width a c).2 fl s) := by
  rw [exec_vfcmp, execVfcmp, vecRun_sources _ hg ha hb]
  exact ⟨_, _, rfl⟩

/-- Settles O12: each form launches one result; a conversion that draws a random word takes it off the queue first. -/
theorem vectorConversions : Obligations.VectorConversions := by
  refine ⟨⟨fun t f s a b hg ha hb hfree => ?_, fun t f s a b hg ha hb hfree => ?_, fun f s a b hg ha hb hfree => ?_,
    fun f s a b hrm hg ha hb hfree => ?_, ?_⟩, fun f s a b hrm hg ha hb hfree => ⟨fun w t hrng => ?_, fun hrng => ?_⟩⟩
  · obtain ⟨c, fl, hexec⟩ := exec_vfcmp_sources (t := t) hg ha hb
    refine ⟨_, _, fl, fun i hi => comparePair_spec (fpWidth_fmtOfT t) a c hi, ?_⟩
    rw [hexec]
    exact congrArg _ (pairResult_free ((collides_toVV ..).trans hfree))
  · rw [exec_vfsum, execVfsum, vecRun_sources _ hg ha hb]
    simp only
    rw [vecResult_free ((collides_toV ..).trans hfree)]
    refine ⟨_, _, fun hok => ?_, rfl⟩
    rw [hok]
    rfl
  · rw [exec_vsegsum, execVsegsum, vecRun_sources _ hg ha hb]
    simp only
    rw [pairResult_free ((collides_toVV ..).trans hfree)]
    exact ⟨_, _, _, rfl⟩
  · rw [exec_vcvt, execVcvt, vecRun_sources _ hg ha hb]
    simp only [if_neg hrm]
    rw [vecResult_free ((collides_toV ..).trans hfree)]
    exact ⟨_, _, rfl⟩
  · simp only [List.forall_mem_cons]
    refine ⟨fun f s a b hg ha hb hfree => ?_, fun f s a b hg ha hb hfree => ?_, fun _ h => nomatch h⟩
    · rw [exec_vbpk, execVbpk, vecRun_sources _ hg ha hb]
      simp only
      rw [vecResult_free ((collides_toV ..).trans hfree)]
      exact ⟨_, _, rfl⟩
    · rw [exec_vbupk, execVbupk, vecRun_sources _ hg ha hb]
      simp only
      rw [vecResult_free ((collides_toV ..).trans hfree)]
      exact ⟨_, _, rfl⟩
  · have hfree' (v : VVal) : s.collides 3 (if f.nw = 1 then [] else [.vreg f.d (vWords f.w) v]) = false :=
      (collides_toV s 3 f v a).trans hfree
    rw [exec_vcvt, execVcvt, vecRun_sources _ hg ha hb]
    simp only [if_pos hrm, hrng, hfree', Bool.false_eq_true, if_false]
    rw [vecResult_free ((collides_modRegs (f := fun r => { r with rng := t }) (fun _ => ⟨rfl, rfl, rfl⟩) ..).trans (hfree' _))]
    exact ⟨_, _, rfl⟩
  · rw [exec_vcvt, execVcvt, vecRun_sources _ hg ha hb]
    simp only [if_pos hrm, hrng]

/-! ### The F unit (R83, R135) -/

theorem fRun_free {g : BitVec 5} {lat : Nat} {ws : List RWrite} {s : State} (k : State → State) (hg : Enabled g s)
    (hunit : FUnitFree s) (hfree : Free s lat ws) : fRun g lat ws s k = .next (k (takesF s)) := by
  have hstop : ¬ (s.now < s.me.r.fUntil ∨ (guardOn s.me.r g ∧ s.collides lat ws)) := by
    rintro (h | ⟨_, h⟩)
    · exact absurd h (Nat.not_lt.mpr hunit)
    · rw [hfree] at h
      exact Bool.noConfusion h
  rw [fRun, if_neg hstop, slotRun_on k]
  · rfl
  · rw [me_modRegs]
    exact hg

theorem fRun_stopped {g : BitVec 5} {lat : Nat} {ws : List RWrite} {s : State} (k : State → State)
    (h : ¬ FUnitFree s ∨ (Enabled g s ∧ s.collides lat ws = true)) : fRun g lat ws s k = .next s.illegalSchedule :=
  if_pos (h.imp Nat.not_le.mp id)

/-- An F operation that its guard takes out takes the unit and does nothing else. -/
theorem fRun_off {g : BitVec 5} {lat : Nat} {ws : List RWrite} {s : State} (k : State → State)
    (hg : guardOn s.me.r g = false) (hunit : FUnitFree s) : fRun g lat ws s k = .next (takesF s) := by
  have hstop : ¬ (s.now < s.me.r.fUntil ∨ (guardOn s.me.r g ∧ s.collides lat ws)) := by
    rintro (h | ⟨h, _⟩)
    · exact absurd h (Nat.not_lt.mpr hunit)
    · rw [hg] at h
      exact Bool.noConfusion h
  rw [fRun, if_neg hstop, slotRun_off k]
  · rfl
  · rw [me_modRegs]
    exact hg

theorem collides_takesF (s : State) (lat : Nat) (ws : List RWrite) : (takesF s).collides lat ws = s.collides lat ws :=
  collides_modRegs (f := fun r => { r with fUntil := (s.core (coreOf s.cur.cid)).cc + 4 }) (fun _ => ⟨rfl, rfl, rfl⟩) lat ws

theorem readV_takesF (s : State) (n : BitVec 5) : (takesF s).me.r.readV n = s.me.r.readV n := by
  rw [takesF, me_modRegs]
  rfl

theorem collides_toF (s : State) (lat : Nat) (f : FFld) (two : Bool) (v w v' w' : VVal) :
    s.collides lat (toF f two v w) = s.collides lat (toF f two v' w') := by
  refine collides_congr ?_ s lat
  unfold toF
  repeat' split
  · exact .nil
  · exact .cons (sameTarget_vreg ..) (.cons (sameTarget_vreg ..) .nil)
  · exact .cons (sameTarget_vreg ..) .nil

/-- An F function of one register: an element of wb bits for each element of the source, by a function of its bits. -/
def fOne (wb lat : Nat) (f : FFld) (g : Rounding → Nat → FRes) (s : State) : Host.Outcome State Fault Refusal :=
  fRun f.g lat (toF f false VVal.zero VVal.zero) s fun s =>
    fResult lat f (lanes wb (1024 / wb) (fun i => ((s.me.r.readV f.s).elem wb i).2)
      fun i => g (fRounding f s.me.r) ((s.me.r.readV f.s).elem wb i).1) s

/-- An angle form: two elements of wb bits for each element of one register or of two. -/
def fTwo (wb lat : Nat) (both : Bool) (f : FFld) (g g' : Rounding → RMode → Nat → Nat → FRes) (s : State) :
    Host.Outcome State Fault Refusal :=
  fRun f.g lat (toF f true VVal.zero VVal.zero) s fun s =>
    let x (i : Nat) := (s.me.r.readV f.s).elem wb i
    let y (i : Nat) := (s.me.r.readV (f.s + 1)).elem wb i
    let ok (i : Nat) : Bool := (x i).2 && (!both || (y i).2)
    let apply (g : Rounding → RMode → Nat → Nat → FRes) (i : Nat) := g (fRounding f s.me.r) (s.me.r.modeOf f.rm) (x i).1 (y i).1
    fPair lat f (lanes wb (1024 / wb) ok (apply g)) (lanes wb (1024 / wb) ok (apply g')) s

/-- The results of a function with two values, one after the other. -/
theorem vecOf_map_some {α : Type} (wb n : Nat) (ok : Nat → Bool) (h : Nat → α) (p : α → FRes) :
    vecOf wb (((List.range n).map fun i => if ok i then some (h i) else none).map (Option.map p)) =
      lanes wb n ok fun i => p (h i) := by
  rw [lanes, List.map_map]
  congr 2
  funext i
  simp only [Function.comp]
  split <;> rfl

theorem oneDst_eq_toF (f : FFld) : oneDst f = toF f false VVal.zero VVal.zero := rfl

theorem pairDst_eq_toF (f : FFld) : pairDst f = toF f true VVal.zero VVal.zero := rfl

theorem fFun32_eq_fOne (f : FFld) (g : Rounding → Nat → FRes) (s : State) : fFun32 f g s = fOne 32 14 f g s := by
  rw [fFun32, fOne, oneDst_eq_toF]
  rfl

theorem fFun64_eq_fOne (f : FFld) (g : Rounding → Nat → FRes) (s : State) : fFun64 f g s = fOne 64 28 f g s := by
  rw [fFun64, fOne, oneDst_eq_toF]
  rfl

/-- R136: each F function is the shared one of its width. -/
theorem exec_fForms : ∀ e ∈ fForms, ∃ g : Rounding → Nat → FRes, ∀ f s, exec (e.1 f) s = fOne e.2.1 e.2.2 f g s := by
  simp only [fForms, List.forall_mem_cons]
  refine ⟨⟨_, fun f s => fFun32_eq_fOne f (fun rd x => fExp fmtF32 rd (decodeF fmtF32 x)) s⟩,
    ⟨_, fun f s => fFun64_eq_fOne f (fun rd x => fExp fmtF64 rd (decodeF fmtF64 x)) s⟩,
    ⟨_, fun f s => fFun32_eq_fOne f (fun rd x => fLog fmtF32 rd (decodeF fmtF32 x)) s⟩,
    ⟨_, fun f s => fFun64_eq_fOne f (fun rd x => fLog fmtF64 rd (decodeF fmtF64 x)) s⟩,
    ⟨_, fun f s => fFun32_eq_fOne f (fun rd x => fErf fmtF32 rd (decodeF fmtF32 x)) s⟩,
    ⟨_, fun f s => fFun64_eq_fOne f (fun rd x => fErf fmtF64 rd (decodeF fmtF64 x)) s⟩,
    ⟨_, fun f s => fFun32_eq_fOne f (fun rd x => fErfc fmtF32 rd (decodeF fmtF32 x)) s⟩,
    ⟨_, fun f s => fFun64_eq_fOne f (fun rd x => fErfc fmtF64 rd (decodeF fmtF64 x)) s⟩,
    ⟨_, fun f s => fFun32_eq_fOne f (fun rd x => fRcp fmtF32 rd.rmode (decodeF fmtF32 x)) s⟩,
    ⟨_, fun f s => fFun64_eq_fOne f (fun rd x => fRcp fmtF64 rd.rmode (decodeF fmtF64 x)) s⟩,
    ⟨_, fun f s => fFun32_eq_fOne f (fun rd x => fSqrt fmtF32 rd.rmode (decodeF fmtF32 x)) s⟩,
    ⟨_, fun f s => fFun64_eq_fOne f (fun rd x => fSqrt fmtF64 rd.rmode (decodeF fmtF64 x)) s⟩,
    ⟨_, fun f s => fFun32_eq_fOne f (fun rd x => fRsqrt fmtF32 rd.rmode (decodeF fmtF32 x)) s⟩,
    ⟨_, fun f s => fFun64_eq_fOne f (fun rd x => fRsqrt fmtF64 rd.rmode (decodeF fmtF64 x)) s⟩,
    ⟨_, fun f s => fFun32_eq_fOne f (fun _ x => faithful 0xf x fun rd => fExp2 fmtF32 rd (decodeF fmtF32 x)) s⟩,
    ⟨_, fun f s => fFun32_eq_fOne f (fun _ x => faithful 0x10 x fun rd => fLog2 fmtF32 rd (decodeF fmtF32 x)) s⟩,
    ⟨_, fun f s => fFun32_eq_fOne f (fun _ x => faithful 0x11 x fun rd => fTanh fmtF32 rd (decodeF fmtF32 x)) s⟩,
    ⟨_, fun f s => fFun32_eq_fOne f (fun _ x => faithful 0x12 x fun rd => fSigm fmtF32 rd (decodeF fmtF32 x)) s⟩,
    fun _ h => nomatch h⟩

/-- R137, R138: each angle form is the shared one of its width. -/
theorem exec_fPairs : ∀ e ∈ fPairs,
    ∃ g g' : Rounding → RMode → Nat → Nat → FRes, ∀ f s, exec (e.1 f) s = fTwo e.2.1 e.2.2.1 e.2.2.2 f g g' s := by
  simp only [fPairs, List.forall_mem_cons]
  refine ⟨⟨fun rd _ x _ => (angleCosSin fmtF32 rd 32 x).1, fun rd _ x _ => (angleCosSin fmtF32 rd 32 x).2, fun f s => ?_⟩,
    ⟨fun rd _ x _ => (angleCosSin fmtF64 rd 64 x).1, fun rd _ x _ => (angleCosSin fmtF64 rd 64 x).2, fun f s => ?_⟩,
    ⟨fun _ m x y => ⟨(angleOf fmtF32 m 32 (decodeF fmtF32 x) (decodeF fmtF32 y)).1, 0⟩,
      fun _ m x y => (angleOf fmtF32 m 32 (decodeF fmtF32 x) (decodeF fmtF32 y)).2, fun f s => ?_⟩,
    ⟨fun _ m x y => ⟨(angleOf fmtF64 m 64 (decodeF fmtF64 x) (decodeF fmtF64 y)).1, 0⟩,
      fun _ m x y => (angleOf fmtF64 m 64 (decodeF fmtF64 x) (decodeF fmtF64 y)).2, fun f s => ?_⟩, fun _ h => nomatch h⟩
  · rw [exec_fangcsA32, execFangcsA32, fTwo, pairDst_eq_toF]
    simp only [vecOf_map_some, Bool.not_false, Bool.true_or, Bool.and_true, Nat.reduceDiv]
  · rw [exec_fangcsA64, execFangcsA64, fTwo, pairDst_eq_toF]
    simp only [vecOf_map_some, Bool.not_false, Bool.true_or, Bool.and_true, Nat.reduceDiv]
  · rw [exec_fangofA32, execFangofA32, fTwo, pairDst_eq_toF]
    simp only [vecOf_map_some, Bool.not_true, Bool.false_or, Nat.reduceDiv]
  · rw [exec_fangofA64, execFangofA64, fTwo, pairDst_eq_toF]
    simp only [vecOf_map_some, Bool.not_true, Bool.false_or, Nat.reduceDiv]

theorem fForms_width : ∀ e ∈ fForms, FpWidth e.2.1 ∧ e.2.1 ≠ 16 := by
  simp [fForms, FpWidth]

theorem fPairs_width : ∀ e ∈ fPairs, FpWidth e.2.1 ∧ e.2.1 ≠ 16 := by
  simp [fPairs, FpWidth]

/-- Elements of words and of 64-bit pairs are each valid by themselves. -/
theorem lanes_ok_whole {wb : Nat} (hwb : FpWidth wb ∧ wb ≠ 16) (ok : Nat → Bool) (g : Nat → FRes) {i : Nat}
    (hi : i < 1024 / wb) : ((lanes wb (1024 / wb) ok g).1.elem wb i).2 = ok i :=
  lanes_ok hwb.1 (Nat.le_refl _) (absurd · hwb.2) hi fun j hj => by rw [if_neg hwb.2] at hj; rw [hj]

theorem fResult_free {lat : Nat} {f : FFld} {s : State} (r : VVal × BitVec 8)
    (hfree : Free s lat (toF f false VVal.zero VVal.zero)) :
    fResult lat f r s = inFlight s lat (toF f false r.1 r.1) (some (.vector r.1)) r.2 :=
  launch_eq_inFlight _ _ ((collides_toF s lat f false r.1 r.1 _ _).trans hfree)

theorem fPair_free {lat : Nat} {f : FFld} {s : State} (r r' : VVal × BitVec 8)
    (hfree : Free s lat (toF f true VVal.zero VVal.zero)) :
    fPair lat f r r' s = inFlight s lat (toF f true r.1 r'.1) (some (.vector r.1)) (r.2 ||| r'.2) :=
  launch_eq_inFlight _ _ ((collides_toF ..).trans hfree)

/-- Settles O13: a function takes the unit, and its result is valid lane by lane; the schedule faults come before. -/
theorem specialFunctions : Obligations.SpecialFunctions := by
  refine ⟨⟨fun e he f s hg hunit hfree => ?_, fun e he f s hg hunit hfree => ?_⟩, fun e he f s hstop => ?_⟩
  · obtain ⟨g, hexec⟩ := exec_fForms e he
    have hfree' := (collides_takesF s _ _).trans hfree
    rw [hexec, fOne, fRun_free _ hg hunit hfree, fResult_free _ hfree', readV_takesF]
    exact ⟨_, _, fun i hi => lanes_ok_whole (fForms_width e he) _ _ hi, rfl⟩
  · obtain ⟨g, g', hexec⟩ := exec_fPairs e he
    have hfree' := (collides_takesF s _ _).trans hfree
    rw [hexec, fTwo, fRun_free _ hg hunit hfree]
    simp only [readV_takesF]
    rw [fPair_free _ _ hfree']
    exact ⟨_, _, _, fun i hi => ⟨lanes_ok_whole (fPairs_width e he) _ _ hi, lanes_ok_whole (fPairs_width e he) _ _ hi⟩, rfl⟩
  · rcases List.mem_append.mp he with he | he
    · obtain ⟨e, hmem, rfl⟩ := List.mem_map.mp he
      obtain ⟨g, hexec⟩ := exec_fForms e hmem
      rw [hexec]
      exact fRun_stopped _ hstop
    · obtain ⟨e, hmem, rfl⟩ := List.mem_map.mp he
      obtain ⟨g, g', hexec⟩ := exec_fPairs e hmem
      rw [hexec]
      exact fRun_stopped _ hstop

/-! ### The crossbar slot (R139 to R142) -/

theorem xMove_sources {f : XFld} {s : State} (src : Nat → Nat) (hg : Enabled f.g s)
    (hfree : Free s 2 [.vreg f.d 32 (words fun i => (s.me.r.readV f.s).word (src i))]) : xMove f src s =
      .next (inFlight s 2 [.vreg f.d 32 (words fun i => (s.me.r.readV f.s).word (src i))] none 0) := by
  rw [xMove, slotRun_on _ hg]
  exact congrArg _ (launch_eq_inFlight _ _ hfree)

theorem exec_xForms : ∀ e ∈ xForms, ∀ (f : XFld) (s : State), exec (e.1 f) s = xMove f (e.2 f.p.toNat) s := by
  simp only [xForms, List.forall_mem_cons]
  exact ⟨fun _ _ => rfl, fun _ _ => rfl, fun _ _ => rfl, fun _ _ => rfl, fun _ h => nomatch h⟩

/-- A pattern that sends no two source words to one place passes its check. -/
theorem patCollides_of_nodup {p : List (Option Nat)} (h : (p.filterMap id).Nodup) : patCollides p = false := by
  induction p with
  | nil => rfl
  | cons x t ih =>
    cases x with
    | none => exact ih h
    | some d =>
      obtain ⟨hd, ht⟩ := List.nodup_cons.mp h
      rw [patCollides, ih ht, Bool.or_false, List.contains_eq_mem, decide_eq_false_iff_not]
      exact fun hmem => hd (List.mem_filterMap.mpr ⟨some d, hmem, rfl⟩)

/-- Where no two places of a pattern name the same destination, the place that names it is the one found. -/
theorem findIdx?_eq_of_nodup {p : List (Option Nat)} (h : (p.filterMap id).Nodup) {i j : Nat} (hj : p[j]? = some (some i)) :
    p.findIdx? (· == some i) = some j := by
  induction p generalizing j with
  | nil => simp at hj
  | cons x t ih =>
    rw [List.findIdx?_cons]
    cases j with
    | zero =>
      have hx : x = some i := by simpa using hj
      rw [hx, if_pos (beq_self_eq_true _)]
    | succ j =>
      have ht : t[j]? = some (some i) := by simpa using hj
      have hmem : i ∈ t.filterMap id := List.mem_filterMap.mpr ⟨some i, List.mem_of_getElem? ht, rfl⟩
      have hx : (x == some i) = false := by
        refine beq_eq_false_iff_ne.mpr ?_
        rintro rfl
        exact (List.nodup_cons.mp h).1 hmem
      have hnd : (t.filterMap id).Nodup := h.sublist ((List.sublist_cons_self x t).filterMap id)
      rw [hx, if_neg Bool.false_ne_true, ih hnd ht]
      rfl

theorem getElem?_eq_getD {p : List (Option Nat)} {i j : Nat} (h : p.getD j none = some i) : p[j]? = some (some i) := by
  rw [List.getD_eq_getElem?_getD] at h
  cases hj : p[j]? with
  | none => rw [hj] at h; cases h
  | some x => rw [hj] at h; exact congrArg some h

/-- The word of a permuted register: the one that the pattern sends there, and the register's own where there is none. -/
theorem xperm_word {p : List (Option Nat)} (hlen : p.length = 32) (h : (p.filterMap id).Nodup) (a d : Nat → VWord) (i : Nat) :
    let w := match p.findIdx? (· == some i) with
      | some j => a j
      | none => d i
    (∀ j < 32, p.getD j none = some i → w = a j) ∧ ((∀ j < 32, p.getD j none ≠ some i) → w = d i) := by
  refine ⟨fun j _ hp => ?_, fun hnone => ?_⟩
  · simp only [findIdx?_eq_of_nodup h (getElem?_eq_getD hp)]
  · have hnot : p.findIdx? (· == some i) = none := by
      rw [List.findIdx?_eq_none_iff]
      intro x hx
      obtain ⟨j, hj, rfl⟩ := List.mem_iff_getElem.mp hx
      have := hnone j (hlen ▸ hj)
      rw [List.getD_eq_getElem _ _ hj] at this
      exact beq_eq_false_iff_ne.mpr this
    simp only [hnot]

/-- Settles O14: the fixed movements are one shared operation; a pattern without collisions names each place once. -/
theorem crossbarMoves : Obligations.CrossbarMoves := by
  refine ⟨fun e he f s hg => ?_, fun f s hg hfree => ?_, fun f s hg hok hfree => ?_⟩
  · intro v hfree
    rw [exec_xForms e he, xMove_sources _ hg hfree]
  · intro p hlen hnd
    rw [exec_xperm, execXperm, slotRun_on _ hg]
    simp only [p] at hnd
    simp only [patCollides_of_nodup hnd, Bool.false_eq_true, if_false, xResult]
    rw [launch_eq_inFlight _ _ (hfree _)]
    refine ⟨_, fun i hi => ?_, rfl⟩
    simp only [word_ofWords _ hi]
    exact xperm_word hlen hnd (fun j => (s.me.r.readV f.s).word j) (fun j => (s.me.r.readV f.d).word j) i
  · have hall : (s.me.r.readV f.s).allOk 32 = true := by
      rw [allOk_eq_decide]
      exact decide_eq_true hok
    rw [exec_xcfg, execXcfg, slotRun_on _ hg]
    simp only [hall, Bool.not_true, Bool.false_eq_true, if_false]
    rw [launch_eq_inFlight _ _ (hfree _)]
    exact ⟨_, fun i hi => by rw [getD_map_range, if_pos hi], rfl⟩

end Sys2Proof.Claims


namespace Sys2Proof.Claims

open Sys2Proof.Machine

/-! ### Every instruction runs under its guard (R69, R78, R83, R93) -/

/-- A control or system instruction is a control slot under its guard. -/
theorem exec_of_isControl {i : Instr} (hi : isControl i = true) (s : State) :
    ∃ g k, guardField i = some g ∧ exec i s = ctlRun g s k := by
  unfold isControl at hi
  split at hi
  case h_21 => cases hi
  all_goals exact ⟨_, _, rfl, rfl⟩

/-- An occupied F slot takes the unit before its guard decides. -/
theorem exec_of_isFFun {i : Instr} (hi : isFFun i = true) (s : State) :
    ∃ g lat ws k, guardField i = some g ∧ exec i s = fRun g lat ws s k := by
  unfold isFFun at hi
  split at hi
  case h_1 g =>
    have hg : ¬ (g = 0 ∨ g = 16) := by simpa using hi
    exact ⟨g, 14, [], id, rfl, if_neg hg⟩
  case h_24 => cases hi
  all_goals exact ⟨_, _, _, _, rfl, rfl⟩

theorem slotRun_id (g : BitVec 5) (s : State) : slotRun g s id = .next s := by
  unfold slotRun
  split <;> rfl

/-- A slot whose work does not depend on the state beforehand. -/
theorem slotRun_of_forall {i : Instr} {g : BitVec 5} (h : ∃ k, ∀ s, exec i s = slotRun g s k) (s : State) :
    ∃ k, exec i s = slotRun g s k := h.imp fun _ hk => hk s

/-- Every other instruction with a guard is a slot under it. -/
theorem exec_of_guard {i : Instr} {g : BitVec 5} (hi : guardField i = some g) (hc : isControl i = false)
    (hf : isFFun i = false) (s : State) : ∃ k, exec i s = slotRun g s k := by
  cases i
  all_goals simp only [isControl, isFFun, reduceCtorEq] at hc hf
  all_goals cases hi
  case fnop =>
    have hg : g = 0 ∨ g = 16 := by
      revert hf
      decide +revert
    exact ⟨id, (if_pos hg).trans (slotRun_id g s).symm⟩
  case vfsgn t f =>
    refine slotRun_of_forall ?_ s
    by_cases hcopy : f.c = 2
    · simp only [exec_vfsgn_copysign hcopy]
      exact ⟨_, fun _ => rfl⟩
    · simp only [exec_vfsgn_one hcopy]
      exact ⟨_, fun _ => rfl⟩
  case pkWait => exact ⟨_, by rw [exec_pkWait, execPkWait, tRun]⟩
  case nmFence => exact ⟨_, by rw [exec_nmFence, execNmFence, tRun]⟩
  case asWait => exact ⟨_, by rw [exec_asWait, execAsWait, tRun]⟩
  all_goals exact slotRun_of_forall ⟨_, fun _ => rfl⟩ s

/-! ### Vector slots that trap (R70, R71, R83) -/

section VectorTraps

variable {f : VFld} {s : State} {k : VVal → VVal → State → State}

theorem vecRun_scalarLatch (hg : Enabled f.g s) (h : s.me.r.vsrc f.a = none ∨ s.me.r.vsrc f.b = none) :
    vecRun f s k = .next s.illegalSlot := by
  rw [vecRun, slotRun_on _ hg]
  rcases h with h | h
  · rw [h]
  · rw [h]
    cases s.me.r.vsrc f.a <;> rfl

theorem vecRun_collides (hg : Enabled f.g s) (ha : (s.me.r.vsrc f.a).isSome = true) (hb : (s.me.r.vsrc f.b).isSome = true)
    (hk : ∀ a b, k a b s = s.illegalSchedule) : vecRun f s k = .next s.illegalSchedule := by
  obtain ⟨a, ha⟩ := Option.isSome_iff_exists.mp ha
  obtain ⟨b, hb⟩ := Option.isSome_iff_exists.mp hb
  rw [vecRun_sources _ hg ha hb, hk]

end VectorTraps

/-- The registers of a vector result, of one register or a pair. -/
def toVs (two : Bool) (f : VFld) : List RWrite := if two = true then toVV f VVal.zero VVal.zero else toV f VVal.zero

/-- A V slot that reads source A, and B where it is asked to, and whose result, one register or a pair, lands `lat` cc
later. -/
def LandsV (f : VFld) (lat : Nat) (two reads : Bool) (x : State → Host.Outcome State Fault Refusal) : Prop :=
  ∃ k : VVal → VVal → State → State, (∀ s, x s = vecRun { f with b := if reads = true then f.b else f.a } s k) ∧
    ∀ s a b, s.collides lat (toVs two f) = true → k a b s = s.illegalSchedule

theorem vecResult_collides {s : State} {lat : Nat} {f : VFld} (v : VVal) (fl : BitVec 8)
    (h : s.collides lat (toVs false f) = true) : vecResult lat f v fl s = s.illegalSchedule :=
  launch_collides _ _ ((collides_toV s lat f v VVal.zero).trans h)

theorem pairResult_collides {s : State} {lat : Nat} {f : VFld} (v v' : VVal) (fl : BitVec 8)
    (h : s.collides lat (toVs true f) = true) : pairResult lat f v v' fl s = s.illegalSchedule :=
  launch_collides _ _ ((collides_toVV s lat f v v' VVal.zero VVal.zero).trans h)

/-- A slot whose work is to launch one result. -/
theorem landsV_one {f : VFld} {lat : Nat} {reads : Bool} {x : State → Host.Outcome State Fault Refusal}
    {v : VVal → VVal → State → VVal} {fl : VVal → VVal → State → BitVec 8}
    (h : ∀ s, x s = vecRun { f with b := if reads = true then f.b else f.a } s fun a b s =>
      vecResult lat f (v a b s) (fl a b s) s) : LandsV f lat false reads x :=
  ⟨_, h, fun _ _ _ => vecResult_collides _ _⟩

/-- A slot whose work is to launch a pair. -/
theorem landsV_pair {f : VFld} {lat : Nat} {x : State → Host.Outcome State Fault Refusal}
    {v v' : VVal → VVal → State → VVal} {fl : VVal → VVal → State → BitVec 8}
    (h : ∀ s, x s = vecRun f s fun a b s => pairResult lat f (v a b s) (v' a b s) (fl a b s) s) : LandsV f lat true true x :=
  ⟨_, h, fun _ _ _ => pairResult_collides _ _ _⟩

theorem landsV_fpBin (lat : Nat) (t : BitVec 2) (f : VFld) (op : Fmt → RMode → Nat → Nat → FRes) :
    LandsV f lat false true (fpBin lat t f op) := landsV_one fun _ => rfl

theorem landsV_fpUn (lat : Nat) (t : BitVec 2) (f : VFld) (op : Fmt → RMode → Nat → FRes) :
    LandsV f lat false false (fpUn lat t f op) := landsV_one fun _ => rfl

theorem landsV_wordBin (f : VFld) (op : BitVec 32 → BitVec 32 → BitVec 32) : LandsV f 2 false true (wordBin f op) :=
  landsV_one fun _ => rfl

theorem landsV_wordCmp (f : VFld) (c : BitVec 32 → BitVec 32 → Bool) : LandsV f 2 true true (wordCmp f c) :=
  landsV_pair fun _ => rfl

/-- A form of the V slot stops as its sources and its schedule say. -/
def StopsV (e : (VFld → Instr) × Nat × Bool × (VFld → Bool)) : Prop :=
  ∀ (f : VFld) (s : State), Enabled f.g s →
    (s.me.r.vsrc f.a = none ∨ (e.2.2.2 f = true ∧ s.me.r.vsrc f.b = none) → exec (e.1 f) s = .next s.illegalSlot) ∧
    ((s.me.r.vsrc f.a).isSome = true → (e.2.2.2 f = true → (s.me.r.vsrc f.b).isSome = true) →
      (e.1 f = .vcvt f → f.rm = 5 → s.me.r.rng ≠ []) →
      s.collides e.2.1 (toVs e.2.2.1 f) = true → exec (e.1 f) s = .next s.illegalSchedule)

theorem stopsV_of_landsV {e : (VFld → Instr) × Nat × Bool × (VFld → Bool)}
    (h : ∀ f, LandsV f e.2.1 e.2.2.1 (e.2.2.2 f) (exec (e.1 f))) : StopsV e := by
  intro f s hg
  obtain ⟨k, hx, hk⟩ := h f
  rw [hx]
  refine ⟨fun hsrc => vecRun_scalarLatch hg ?_, fun ha hb _ hcol => vecRun_collides hg ha ?_ fun a b => hk s a b hcol⟩
  · rcases hsrc with ha | ⟨hr, hb⟩
    · exact .inl ha
    · exact .inr (by simpa only [hr, if_true] using hb)
  · cases hr : e.2.2.2 f with
    | false => simpa using ha
    | true => simpa using hb hr

/-- Under rm = 5 a conversion whose result collides takes no random word. -/
theorem stopsV_vcvt : StopsV (.vcvt, 3, false, fun _ => true) := by
  intro f s hg
  refine ⟨fun hsrc => (exec_vcvt f s).trans (vecRun_scalarLatch hg (hsrc.imp_right And.right)), fun ha hb hrng hcol => ?_⟩
  refine (exec_vcvt f s).trans (vecRun_collides hg ha (hb rfl) fun a b => ?_)
  have hcol' (v : VVal) : s.collides 3 (if f.nw = 1 then [] else [.vreg f.d (vWords f.w) v]) = true :=
    (collides_toV s 3 f v VVal.zero).trans hcol
  by_cases hrm : f.rm = 5
  · simp only [if_pos hrm]
    cases hw : s.me.r.rng with
    | nil => exact absurd hw (hrng rfl hrm)
    | cons w t => simp only [hcol', if_true]
  · simp only [if_neg hrm]
    exact vecResult_collides _ _ hcol

theorem exec_vfsgn_lands (t : BitVec 2) (f : VFld) : LandsV f (fpLat t) false (f.c == 2) (exec (.vfsgn t f)) := by
  by_cases hc : f.c = 2
  · have hexec : exec (.vfsgn t f) = _ := funext fun _ => exec_vfsgn_copysign hc
    rw [beq_iff_eq.mpr hc, hexec]
    exact landsV_fpBin ..
  · have hexec : exec (.vfsgn t f) = _ := funext fun _ => exec_vfsgn_one hc
    rw [beq_eq_false_iff_ne.mpr hc, hexec]
    exact landsV_fpUn ..

theorem stopsV_fpForms (t : BitVec 2) : ∀ e ∈ fpForms, StopsV (e.1 t, fpLat t, false, fun _ => true) := fun e he =>
  stopsV_of_landsV fun f => by
    rw [funext (exec_fpForms e he t f)]
    exact landsV_fpBin ..

theorem stopsV_fpOneForms (t : BitVec 2) : ∀ e ∈ fpOneForms, StopsV (e.1 t, fpLat t, false, fun _ => false) := fun e he =>
  stopsV_of_landsV fun f => by
    rw [funext (exec_fpOneForms e he t f)]
    exact landsV_fpUn ..

theorem stopsV_divForms : ∀ e ∈ divForms, StopsV (e.1, e.2.2, false, fun _ => true) := fun e he =>
  stopsV_of_landsV fun f => by
    rw [funext (exec_divForms e he f)]
    exact landsV_fpBin ..

theorem stopsV_wordForms : ∀ e ∈ wordForms, StopsV (e.1, 2, false, fun _ => true) := fun e he =>
  stopsV_of_landsV fun f => by
    rw [funext (exec_wordForms e he f)]
    exact landsV_wordBin ..

theorem stopsV_wordCmps : ∀ e ∈ wordCmps, StopsV (e.1, 2, true, fun _ => true) := fun e he =>
  stopsV_of_landsV fun f => by
    rw [funext (exec_wordCmps e he f)]
    exact landsV_wordCmp ..

theorem stopsV_dwordForms : ∀ e ∈ dwordForms, StopsV (e.1, 2, false, fun _ => true) := by
  simp only [dwordForms, List.forall_mem_cons]
  exact ⟨stopsV_of_landsV fun _ => landsV_one fun _ => rfl, stopsV_of_landsV fun _ => landsV_one fun _ => rfl,
    fun _ h => nomatch h⟩

theorem stopsV_moveForms : ∀ e ∈ moveForms, StopsV (e.1, e.2.1, false, fun _ => true) := by
  simp only [moveForms, List.forall_mem_cons]
  exact ⟨stopsV_of_landsV fun _ => landsV_one fun _ => rfl, stopsV_of_landsV fun _ => landsV_one fun _ => rfl,
    stopsV_of_landsV fun _ => landsV_one fun _ => rfl, stopsV_of_landsV fun _ => landsV_one fun _ => rfl,
    stopsV_of_landsV fun _ => landsV_one fun _ => rfl, stopsV_of_landsV fun _ => landsV_one fun _ => rfl,
    stopsV_of_landsV fun _ => landsV_one fun _ => rfl, fun _ h => nomatch h⟩

theorem stopsV_vForms (t : BitVec 2) : ∀ e ∈ vForms t, StopsV e := by
  simp only [vForms, List.forall_mem_append, List.forall_mem_map, List.forall_mem_cons]
  refine ⟨⟨⟨⟨⟨⟨⟨stopsV_fpForms t, stopsV_fpOneForms t⟩, stopsV_divForms⟩, ?_⟩, stopsV_wordForms⟩, stopsV_dwordForms⟩,
    stopsV_wordCmps⟩, stopsV_moveForms⟩
  exact ⟨stopsV_of_landsV fun _ => landsV_one fun _ => rfl, stopsV_of_landsV fun _ => landsV_pair fun _ => rfl,
    stopsV_of_landsV (exec_vfsgn_lands t), stopsV_of_landsV fun _ => landsV_one fun _ => rfl, stopsV_vcvt,
    stopsV_of_landsV fun _ => landsV_one fun _ => rfl, stopsV_of_landsV fun _ => landsV_one fun _ => rfl,
    stopsV_of_landsV fun _ => landsV_one fun _ => rfl, stopsV_of_landsV fun _ => landsV_pair fun _ => rfl,
    stopsV_of_landsV fun _ => landsV_pair fun _ => rfl, fun _ h => nomatch h⟩

theorem collides_nil (s : State) (lat : Nat) : s.collides lat [] = false := by
  simp [State.collides, Regs.collision]

/-- Settles O15: each instruction is a slot under its guard, and each V slot reads its sources before it launches. -/
theorem disabledAndRefusedSlots : Obligations.DisabledAndRefusedSlots := by
  refine ⟨⟨fun i g s hi hoff hf hs0 => ?_, ?_, fun g s => ⟨fun hg => if_pos hg, fun h0 h16 hunit => ?_, fun h0 h16 hunit => ?_⟩,
    fun i g s hi hoff hf hunit => ?_⟩, fun i s hi hs => ?_, fun t e he f s hg => stopsV_vForms t e he f s hg, fun f s hg =>
    ⟨fun ha => ?_, fun ha hb hcol => ?_, fun hcol => ⟨?_, ?_⟩⟩⟩
  · cases hc : isControl i with
    | false =>
      obtain ⟨k, hk⟩ := exec_of_guard hi hc hf s
      rw [hk, slotRun_off _ hoff]
    | true =>
      obtain ⟨g', k, hg', hk⟩ := exec_of_isControl hc s
      cases hi.symm.trans hg'
      rw [hk, ctlRun_s0 _ (hs0 hc), slotRun_off _ hoff]
  · simp only [List.forall_mem_cons]
    exact ⟨slotRun_id, slotRun_id, slotRun_id, slotRun_id, slotRun_id, fun _ h => nomatch h⟩
  · rw [exec_fnop, execFnop, if_neg (not_or.mpr ⟨h0, h16⟩)]
    cases hg : guardOn s.me.r g with
    | true => exact fRun_free id hg hunit (collides_nil s 14)
    | false => exact fRun_off id hg hunit
  · rw [exec_fnop, execFnop, if_neg (not_or.mpr ⟨h0, h16⟩)]
    exact fRun_stopped id (.inl hunit)
  · obtain ⟨g', lat, ws, k, hg', hk⟩ := exec_of_isFFun hf s
    cases hi.symm.trans hg'
    rw [hk, fRun_off _ hoff hunit]
  · obtain ⟨g, k, -, hk⟩ := exec_of_isControl hi s
    rw [hk, ctlRun_s1 _ hs]
  · exact (exec_vext f s).trans (vecRun_scalarLatch hg (.inl ha))
  · rw [BitVec.ofNat_toNat] at hcol
    rw [exec_vext, execVext]
    refine vecRun_collides hg ha hb fun a b => ?_
    exact launch_collides _ _ ((collides_congr (.cons (sameTarget_sreg ..) .nil) s 2).trans hcol)
  · rw [exec_vsplat, execVsplat, slotRun_on _ hg]
    exact congrArg _ (vecResult_collides _ _ hcol)
  · rw [exec_viota, execViota, slotRun_on _ hg]
    exact congrArg _ (vecResult_collides _ _ hcol)

end Sys2Proof.Claims


namespace Sys2Proof.Claims

open Sys2Proof.Machine

/-! ### The shared operation of the control slots (R93) -/

theorem ctlRun_on {g : BitVec 5} {s : State} (k : State → State) (h : InS0 g s) : ctlRun g s k = .next (k s) := by
  obtain ⟨hs0, hg⟩ := h
  rw [ctlRun_s0 _ hs0, slotRun_on _ hg]

theorem modCtx_congr {s : State} {i : Nat} {f g : Ctx → Ctx} (h : f (s.ctx i) = g (s.ctx i)) : s.modCtx i f = s.modCtx i g :=
  congrArg (s.setCtx i) h

theorem modRegs_congr {s : State} {i : Nat} {f g : Regs → Regs} (h : f (s.ctx i).r = g (s.ctx i).r) :
    s.modRegs i f = s.modRegs i g := modCtx_congr (by rw [h])

@[simp] theorem me_modCtx (s : State) (f : Ctx → Ctx) : (s.modCtx s.cur.cid f).me = f s.me := by
  simp [State.me]

/-- Results meet by what is in flight and what waits to land, and by nothing else of a context. -/
theorem collides_modCtx {s : State} {f : Ctx → Ctx} (hf : ∀ c : Ctx, (f c).r.flight = c.r.flight ∧
    (f c).r.land = c.r.land ∧ (f c).r.words = c.r.words) (lat : Nat) (ws : List RWrite) :
    (s.modCtx s.cur.cid f).collides lat ws = s.collides lat ws := by
  obtain ⟨hflight, hland, hwords⟩ := hf (s.ctx s.cur.cid)
  simp only [State.collides, Regs.collision, modCtx_cur, ctx_modCtx, core_of_modCtx, if_true, hflight, hland, hwords]

/-! ### Transfers (R94, R95) -/

theorem brTarget_eq (s : State) (off : BitVec 21) : brTarget s off = BitVec.ofInt 64 (s.me.bun.pc.toInt + off.toInt) := by
  rw [brTarget, BitVec.ofInt_add, BitVec.ofInt_toInt, BitVec.signExtend]

@[simp] theorem readS_writeLatch (r : Regs) (n : Nat) (l : Latch) (a : BitVec 6) : (r.writeLatch n l).readS a = r.readS a := by
  unfold Regs.writeLatch
  split <;> rfl

/-- A link is made good in s63 where s63 still holds the predicted one. -/
theorem readS_fixLink (r : Regs) (v : Word) (l : Link) :
    (r.fixLink v l).readS 63 = if r.readS 63 = SVal.mkOk l.guess then SVal.mkOk v else r.readS 63 := by
  have hlatch (q : Regs) (p : Prop) [Decidable p] (n : Nat) (x : Latch) :
      (if p then q.writeLatch n x else q).readS 63 = q.readS 63 := by
    split
    · exact readS_writeLatch ..
    · rfl
  simp only [Regs.fixLink, hlatch]
  split
  · exact readS_writeS_same r _ (by decide)
  · rfl

theorem fixLinks_single {c : Ctx} {g : Word} (h : c.links = [⟨0, g⟩]) (v : Word) :
    c.fixLinks v = { c with r := c.r.fixLink v ⟨0, g⟩, links := [] } := by
  simp [Ctx.fixLinks, h]

theorem collides_transfer (s : State) (v : Word) (lat : Nat) (ws : List RWrite) :
    (s.transfer v).collides lat ws = s.collides lat ws :=
  collides_modRegs (f := fun r => { r with transfers := r.transfers ++ [⟨3, v⟩] }) (fun _ => ⟨rfl, rfl, rfl⟩) lat ws

theorem collides_linked (s : State) (v : Word) (l : Link) (lat : Nat) (ws : List RWrite) :
    ((s.transfer v).modCtx s.cur.cid fun c => { c with links := l :: c.links }).collides lat ws = s.collides lat ws :=
  (collides_modCtx (s := s.transfer v) (f := fun c => { c with links := l :: c.links }) (fun _ => ⟨rfl, rfl, rfl⟩)
    lat ws).trans (collides_transfer s v lat ws)

/-- Settles O16: each transfer is a control slot that appends its redirect. -/
theorem transfersLeaveARedirect : Obligations.TransfersLeaveARedirect := by
  refine ⟨fun f s h => ?_, fun f s a h ha => ?_, fun f s h hfree => ⟨callLink s s.cur.cid, ?_⟩, fun c g v hl => ?_⟩
  · rw [exec_br, execBr, ctlRun_on _ h, brTarget_eq]
    rfl
  · rw [exec_jr, execJr, ctlRun_on _ h]
    simp only [ha]
    rfl
  · rw [exec_call, execCall, ctlRun_on _ h, brTarget_eq]
    simp only [hfree, Bool.false_eq_true, if_false]
    exact congrArg _ (launch_eq_inFlight _ _ ((collides_linked ..).trans (hfree _)))
  · rw [fixLinks_single hl]
    refine ⟨fun hr => ?_, fun hr => ?_, rfl⟩
    · simp only [readS_fixLink, if_pos hr]
    · simp only [readS_fixLink, if_neg hr]

/-! ### Redirects (R94) -/

/-- A transfer after one more bundle. -/
def aged (t : Transfer) : Transfer := { t with left := t.left - 1 }

/-- The transfers that stay pending after a bundle. -/
def agedAll (ts : List Transfer) : List Transfer := (ts.filter fun t => t.left != 1).map aged

theorem find?_left_aged {ts : List Transfer} (h : ∀ t ∈ ts, t.left ≠ 0) :
    (ts.map aged).find? (fun t => t.left == 0) = (ts.find? fun t => t.left == 1).map aged := by
  rw [List.find?_map]
  congr 1
  refine List.find?_congr fun t ht => ?_
  have := h t ht
  simp only [Function.comp, aged]
  rw [Bool.eq_iff_iff, beq_iff_eq, beq_iff_eq]
  omega

theorem filter_left_aged {ts : List Transfer} (h : ∀ t ∈ ts, t.left ≠ 0) :
    (ts.map aged).filter (fun t => t.left != 0) = agedAll ts := by
  rw [List.filter_map, agedAll]
  congr 1
  refine List.filter_congr fun t ht => ?_
  have := h t ht
  simp only [Function.comp, aged]
  rw [Bool.eq_iff_iff, bne_iff_ne, bne_iff_ne]
  omega

/-- The flow out of a bundle with no loop level: to the target of the transfer that falls due, if any, else straight on. -/
theorem flowOut_noLoops {ts : List Transfer} (h : ∀ t ∈ ts, t.left ≠ 0) (pc : Word) (n : Nat) :
    flowOut pc n After.none ts [] = ⟨((ts.find? fun t => t.left == 1).map (·.target)).getD (pc + BitVec.ofNat 64 n),
      agedAll ts, []⟩ := by
  have hfind := find?_left_aged h
  have hfilter := filter_left_aged h
  unfold aged at hfind hfilter
  simp only [flowOut, hfind, hfilter, endTest]
  cases ts.find? fun t => t.left == 1 <;> rfl

theorem find?_agedAll (ts : List Transfer) (k : Nat) : (agedAll ts).find? (fun t => t.left == k + 1) =
    (ts.find? fun t => t.left == k + 2).map aged := by
  rw [agedAll, List.find?_map, List.find?_filter]
  congr 1
  refine List.find?_congr fun t _ => ?_
  rw [Bool.eq_iff_iff]
  simp only [Function.comp, aged, bne_iff_ne, beq_iff_eq, decide_eq_true_eq]
  omega

theorem agedAll_ne_zero {ts : List Transfer} (h : ∀ t ∈ ts, t.left ≠ 0) : ∀ t ∈ agedAll ts, t.left ≠ 0 := by
  intro u hu
  obtain ⟨t, ht, rfl⟩ := List.mem_map.mp hu
  obtain ⟨hmem, hne⟩ := List.mem_filter.mp ht
  have := h t hmem
  have := bne_iff_ne.mp hne
  simp only [aged]
  omega

/-- Three bundles on, the transfers that had more than three left are pending, with three less. -/
theorem agedAll_three {ts : List Transfer} (h : ∀ t ∈ ts, t.left ≠ 0) : agedAll (agedAll (agedAll ts)) =
    (ts.filter fun t => decide (3 < t.left)).map fun t => { t with left := t.left - 3 } := by
  have hthree : ∀ t ∈ ts, (t.left != 1 && ((aged t).left != 1 && (aged (aged t)).left != 1)) = decide (3 < t.left) := by
    intro t ht
    have := h t ht
    rw [Bool.eq_iff_iff]
    simp only [aged, Bool.and_eq_true, bne_iff_ne, decide_eq_true_eq]
    omega
  simp only [agedAll, List.filter_map, List.map_map, List.filter_filter, Function.comp_def]
  rw [List.filter_congr (q := fun t => decide (3 < t.left))]
  · exact List.map_congr_left fun t _ => by simp only [aged, Nat.sub_sub]
  · intro t ht
    rw [← hthree t ht]
    ac_rfl

/-- Settles O17: each bundle takes one from what is left of every transfer. -/
theorem redirectTakesEffectAtTheThirdBundle : Obligations.RedirectTakesEffectAtTheThirdBundle := by
  intro pc target n0 n1 n2 ts hts f0 f1 f2 at_
  have hall : ∀ t ∈ ts ++ [⟨3, target⟩], t.left ≠ 0 := by
    intro t ht
    rcases List.mem_append.mp ht with ht | ht
    · exact (hts t ht).1
    · rw [List.mem_singleton.mp ht]
      exact Nat.succ_ne_zero 2
  have hfind (k : Nat) : (ts ++ [(⟨3, target⟩ : Transfer)]).find? (fun t => t.left == k) =
      (at_ k).or (if k = 3 then some ⟨3, target⟩ else none) := by
    rw [List.find?_append, List.find?_singleton]
    simp only [at_, beq_iff_eq, @eq_comm Nat 3 k]
  have hnot3 : at_ 3 = none := by
    simp only [at_, List.find?_eq_none]
    exact fun t ht => by simpa using (hts t ht).2
  have h0 : f0 = _ := flowOut_noLoops hall pc n0
  have h1 : f1 = flowOut f0.pc n1 After.none (agedAll (ts ++ [⟨3, target⟩])) [] := by simp only [f1, h0]
  rw [flowOut_noLoops (agedAll_ne_zero hall), find?_agedAll _ 0, hfind] at h1
  have h2 : f2 = flowOut f1.pc n2 After.none (agedAll (agedAll (ts ++ [⟨3, target⟩]))) [] := by simp only [f2, h1]
  rw [flowOut_noLoops (agedAll_ne_zero (agedAll_ne_zero hall)), find?_agedAll _ 0, find?_agedAll _ 1, hfind, hnot3] at h2
  rw [hfind] at h0
  simp only [if_neg (show ¬ 1 = 3 by decide), if_neg (show ¬ 0 + 2 = 3 by decide), Option.or_none] at h0 h1
  refine ⟨fun t ht => ?_, fun ht => ?_, fun t ht => ?_, fun ht => ?_, ?_, ?_⟩
  · rw [h0, ht]
    rfl
  · rw [h0, ht]
    rfl
  · rw [h1, ht]
    rfl
  · rw [h1, ht]
    rfl
  · rw [h2]
    rfl
  · rw [h2]
    simp only [agedAll_three hall, List.filter_append]
    simp

/-! ### The end test (R98) -/

section EndTest

variable {pc : Word} {l : LoopSh} {ls : List LoopSh}

theorem flowOut_noTransfers (pc : Word) (n : Nat) (ls : List LoopSh) : flowOut pc n After.none [] ls =
    ⟨(endTest none pc ls).1.getD (pc + BitVec.ofNat 64 n), [], (endTest none pc ls).2⟩ := rfl

theorem count_sub_one_eq_zero (c : Word) : c - 1 = 0 ↔ c = 1 := by bv_omega

theorem endTest_loopsBack (hpc : l.last = pc) (hc : l.cnt ≠ 1) :
    endTest none pc (l :: ls) = (some l.start, { l with cnt := l.cnt - 1 } :: ls) := by
  rw [endTest, if_pos ⟨hpc, nofun⟩, if_neg ((count_sub_one_eq_zero _).not.mpr hc)]

theorem endTest_leaves (hpc : l.last = pc) (hc : l.cnt = 1) : endTest none pc (l :: ls) = endTest none pc ls := by
  rw [endTest, if_pos ⟨hpc, nofun⟩, if_pos ((count_sub_one_eq_zero _).mpr hc)]

/-- Levels that end elsewhere stay in front of what the test makes of the others. -/
theorem endTest_elsewhere {is : List LoopSh} (h : ∀ x ∈ is, x.last ≠ pc) (ls : List LoopSh) :
    endTest none pc (is ++ ls) = ((endTest none pc ls).1, is ++ (endTest none pc ls).2) := by
  induction is with
  | nil => rfl
  | cons x t ih =>
    have hx : ¬ (x.last = pc ∧ none ≠ some x.lvl) := fun hx => h x (List.mem_cons_self ..) hx.1
    rw [List.cons_append, endTest, if_neg hx, ih fun y hy => h y (List.mem_cons_of_mem _ hy)]
    rfl

theorem endTest_none (h : ∀ x ∈ ls, x.last ≠ pc) : endTest none pc ls = (none, ls) := by
  simpa [endTest] using endTest_elsewhere h []

end EndTest

/-- Settles O19: the test of the innermost level decides, or hands on to the next outer one. -/
theorem endTestCountsLevels : Obligations.EndTestCountsLevels := by
  refine ⟨fun pc l ls n hpc hc => ?_, fun pc l ls n hpc hc => ?_, fun pc is l ls n his hpc => ⟨fun hc => ?_, fun hc hls => ?_⟩,
    fun pc ls n h => ?_⟩
  · rw [flowOut_noTransfers, endTest_loopsBack hpc hc]
    rfl
  · rw [flowOut_noTransfers, flowOut_noTransfers, endTest_leaves hpc hc]
  · rw [flowOut_noTransfers, endTest_elsewhere his, endTest_loopsBack hpc hc]
    rfl
  · rw [flowOut_noTransfers, endTest_elsewhere his, endTest_leaves hpc hc, endTest_none hls]
    rfl
  · rw [flowOut_noTransfers, endTest_none h]
    rfl

/-! ### Loop instructions (R96, R97, R99) -/

/-- The registers of a loop level meet no other result. -/
theorem collides_loopRegs (s : State) (lat : Nat) (n : BitVec 2) (c st e : Word) :
    s.collides lat [.loopRegs n c st e] = false := by
  simp only [State.collides, Regs.collision, List.any_cons, List.any_nil, Bool.or_false]
  have hflight (p : Pending) : (p.writes.any fun a => a.collides (.loopRegs n c st e)) = false := by
    rw [List.any_eq_false]
    intro a _
    cases a <;> exact Bool.false_ne_true
  have hland (d : LandDest) : d.hits (.loopRegs n c st e) = false := by cases d <;> rfl
  simp [hflight, hland]

/-- Every word with some fields is refused where the instruction of its opcode does not encode to it. -/
theorem refuses_notEncoded {k : SlotKind} {op : Nat} {i : Nat → Instr} {bad : Nat → Prop}
    (hraw : ∀ w, rawOp k op w = some (i w)) (henc : ∀ w, bad w → encodeSlot (i w) ≠ some (k, w)) : Refuses k op bad := by
  intro w hw hop hg hbad
  have hneq : (encodeSlot (i w) == some (k, w)) = false := beq_eq_false_iff_ne.mpr (henc w hbad)
  simp only [decodeSlot, Nat.mod_eq_of_lt hw, rawSlot_eq_rawOp hg, hop, hraw, hneq, Bool.and_false]
  rw [if_neg hg]
  rfl

/-- A `loop.exit` with an operand is no encoding of one (R77). -/
theorem loopExit_refused : Refuses .s 0x34 fun w => fieldN w 0 21 ≠ 0 := by
  refine refuses_notEncoded (i := fun w => .loopExit (guardOfS w)) (fun _ => rfl) fun w hbad heq => hbad ?_
  have hw : packSG 52 (guardOfS w) = w := congrArg Prod.snd (Option.some.inj heq)
  rw [← hw, fieldN, packSG]
  omega

/-- Settles O18: each is a control slot; the end test that a `loop.exit` leaves is the one of a count of 1. -/
theorem loopInstructions : Obligations.LoopInstructions := by
  refine ⟨fun f s h hok hn => ?_, fun f s h hok hn => ?_, fun f s h hok => ?_, fun f s h => ?_, fun g s l ls h hl => ?_,
    fun g s h hl => ?_, fun pc l ls n hpc => ?_, loopExit_refused⟩
  · intro n start last
    rw [exec_loop, execLoop, ctlRun_on _ h]
    simp only [hok, Bool.not_true, Bool.false_eq_true, if_false]
    rw [if_neg hn]
    exact congrArg _ (launch_eq_inFlight _ _ (collides_loopRegs ..))
  · intro last
    rw [exec_loop, execLoop, ctlRun_on _ h]
    simp only [hok, Bool.not_true, Bool.false_eq_true, if_false]
    refine ⟨fun n hlen => ?_, fun e hlen => ?_⟩
    · simp only [last] at hlen
      simp only [hlen]
      exact congrArg _ (if_pos hn)
    · simp only [last] at hlen
      simp only [hlen]
      exact congrArg _ (if_pos hn)
  · rw [exec_loop, execLoop, ctlRun_on _ h]
    simp only [hok, Bool.not_false, if_true]
  · intro n rest
    rw [exec_loopRearm, execLoopRearm, ctlRun_on _ h]
    congr 1
  · rw [exec_loopExit, execLoopExit, ctlRun_on _ h]
    refine congrArg _ (modRegs_congr ?_)
    simp only [show (s.ctx s.cur.cid).r.loops = l :: ls from hl]
  · refine ⟨_, (exec_loopExit g s).trans (ctlRun_on _ h), fun c => ?_⟩
    rw [ctx_modRegs]
    split
    · subst_vars
      simp only [show (s.ctx s.cur.cid).r.loops = [] from hl]
    · rfl
  · rw [flowOut_noTransfers, flowOut_noTransfers, endTest_leaves (l := { l with cnt := 1 }) hpc rfl]

/-! ### Dictionaries (R100, R101) -/

theorem dictUnmet_r (c : Ctx) : c.dictUnmet.r = c.r := by
  unfold Ctx.dictUnmet
  split <;> rfl

/-- Settles O20: each state of the load has its own answer. -/
theorem dictionaryInstructions : Obligations.DictionaryInstructions := by
  refine ⟨fun f s a h ha => ?_, fun c => ⟨dictUnmet_r c, fun k va hload hfail => ?_⟩, fun g s h => ⟨fun hload => ?_, fun n hload h1 h2 => ?_,
    fun n hload hn => ?_, fun hload => ?_, fun k va met hload hmet => ?_, fun k va hload hre => ?_⟩⟩
  · rw [exec_dictLd, execDictLd, ctlRun_on _ h]
    simp only [ha]
    congr 1
    by_cases hbad : a.ok = false ∨ a.bits.toNat % 64 ≠ 0
    · rw [if_pos hbad, if_pos (by simpa using hbad)]
    · rw [if_neg hbad, if_neg (by simpa using hbad)]
      simp only [dictUnmet_r]
  · rw [Ctx.dictUnmet, hload]
    simp only [hfail]
    rfl
  all_goals rw [exec_dictSw, execDictSw, ctlRun_on _ h]
  · simp only [hload]
    rfl
  · simp only [hload]
    rw [if_pos ⟨h1, h2⟩]
    rfl
  · simp only [hload]
    rw [if_neg (by omega)]
  · simp only [hload]
  · simp only [hload]
    have hmet' : ¬ ((met && s.me.bun.re) = true) := by
      rcases hmet with h | h <;> simp [h]
    rw [if_neg hmet']
  · simp only [hload, hre]
    rfl

/-! ### System instructions (R103 to R108) -/

/-- Settles O21: each is a control slot with its own effect on what its bundle leaves. -/
theorem systemInstructions : Obligations.SystemInstructions := by
  refine ⟨fun f s h hok => ?_, fun f s h hfree => ?_, fun g s h => ?_, fun f s h hok => ?_, fun g s h => ctlRun_on _ h,
    fun g s h => ctlRun_on _ h, fun f s h hok => ⟨?_, ?_⟩⟩
  · rw [exec_trap, execTrap, ctlRun_on _ h]
    simp only [numOperand, hok, Bool.not_true, Bool.false_eq_true, if_false]
    rfl
  · rw [exec_brk, execBrk, ctlRun_on _ h]
    have hact : ¬ ((s.me.r.inHandler && !s.me.held) = true) := by
      rcases hfree with h | h <;> simp [h]
    rw [if_neg hact]
    rfl
  · exact ctlRun_on _ h
  · rw [exec_wait, execWait, ctlRun_on _ h]
    simp only [numOperand, hok, if_true]
    rfl
  · rw [exec_trap, execTrap, ctlRun_on _ h]
    simp only [numOperand, hok, Bool.not_false, if_true]
  · rw [exec_wait, execWait, ctlRun_on _ h]
    simp only [numOperand, hok, Bool.false_eq_true, if_false]

end Sys2Proof.Claims


namespace Sys2Proof.Claims

open Sys2Proof.Machine

/-! ### The bank formats that a result writes (R147) -/

section BankWrites

variable (s : State) (cid : Nat)

/-- A write of a bank format changes the core of its context, if anything. -/
theorem writeBankfmt_cases (n : BitVec 4) (v : Word) :
    s.writeBankfmt cid n v = s ∨ ∃ f, s.writeBankfmt cid n v = s.modCore (coreOf cid) f := by
  unfold State.writeBankfmt
  dsimp only
  split
  · exact .inr ⟨_, rfl⟩
  · exact .inl rfl

@[simp] theorem ctx_writeBankfmt (n : BitVec 4) (v : Word) (i : Nat) : (s.writeBankfmt cid n v).ctx i = s.ctx i := by
  rcases writeBankfmt_cases s cid n v with h | ⟨f, h⟩ <;> rw [h]
  exact ctx_of_modCore ..

@[simp] theorem mem_writeBankfmt (n : BitVec 4) (v : Word) : (s.writeBankfmt cid n v).mem = s.mem := by
  rcases writeBankfmt_cases s cid n v with h | ⟨f, h⟩ <;> rw [h]
  exact modCore_mem ..

theorem bankWrites_cons (w : RWrite) (ws : List RWrite) :
    s.bankWrites cid (w :: ws) = (s.bankWrites cid [w]).bankWrites cid ws := rfl

/-- One write of a result touches a bank format and nothing else, if anything. -/
theorem bankWrites_one (w : RWrite) : s.bankWrites cid [w] = s ∨ ∃ n v, s.bankWrites cid [w] = s.writeBankfmt cid n v := by
  cases w with
  | ctl n v =>
    simp only [State.bankWrites, List.foldl_cons, List.foldl_nil]
    split
    · exact .inr ⟨_, _, rfl⟩
    · exact .inl rfl
  | _ => exact .inl rfl

@[simp] theorem ctx_bankWrites (ws : List RWrite) (i : Nat) : (s.bankWrites cid ws).ctx i = s.ctx i := by
  induction ws generalizing s with
  | nil => rfl
  | cons w ws ih =>
    rw [bankWrites_cons, ih]
    rcases bankWrites_one s cid w with h | ⟨n, v, h⟩
    · rw [h]
    · rw [h, ctx_writeBankfmt]

@[simp] theorem mem_bankWrites (ws : List RWrite) : (s.bankWrites cid ws).mem = s.mem := by
  induction ws generalizing s with
  | nil => rfl
  | cons w ws ih =>
    rw [bankWrites_cons, ih]
    rcases bankWrites_one s cid w with h | ⟨n, v, h⟩
    · rw [h]
    · rw [h, mem_writeBankfmt]

/-- A listed format of a bank that the plan uses is read back; any other write is ignored. -/
theorem bankFmt_writeBankfmt (n : BitVec 4) (v : Word) : (s.writeBankfmt cid n v).bankFmt cid n =
    if (s.ctx cid).bind.used.getLsbD n.toNat = true ∧ fmtListed (v.toNat % 256) = true then v.setWidth 8
    else s.bankFmt cid n := by
  unfold State.writeBankfmt
  dsimp only
  by_cases h : (s.ctx cid).bind.used.getLsbD n.toNat = true ∧ fmtListed (v.toNat % 256) = true
  · have h' : ((s.ctx cid).bind.used.getLsbD n.toNat && fmtListed (v.toNat % 256)) = true := by simpa using h
    rw [if_pos h, if_pos h']
    simp [State.bankFmt, h.1]
  · have h' : ¬ ((s.ctx cid).bind.used.getLsbD n.toNat && fmtListed (v.toNat % 256)) = true := by simpa using h
    rw [if_neg h, if_neg h']

theorem bankWrites_ctl {n : BitVec 14} (v : Word) (hlo : 0x10 ≤ n.toNat) (hhi : n.toNat ≤ 0x1F) :
    s.bankWrites cid [.ctl n v] = s.writeBankfmt cid (n.setWidth 4) v := if_pos ⟨hlo, hhi⟩

/-- A bank format is the one of the bank's core, for a plan. -/
theorem bankFmt_congr {s t : State} {cid : Nat} (hbind : (t.ctx cid).bind = (s.ctx cid).bind)
    (hcore : t.core (coreOf cid) = s.core (coreOf cid)) (n : BitVec 4) : t.bankFmt cid n = s.bankFmt cid n := by
  simp only [State.bankFmt, hbind, hcore]

end BankWrites

/-! ### One write of a result -/

@[simp] theorem readV_writeS (r : Regs) (n : BitVec 6) (v : SVal) (m : BitVec 5) : (r.writeS n v).readV m = r.readV m := by
  unfold Regs.writeS
  split <;> rfl

@[simp] theorem readS_writeV (r : Regs) (d : BitVec 5) (n : Nat) (v : VVal) (m : BitVec 6) :
    (r.writeV d n v).readS m = r.readS m := rfl

theorem readV_writeV (r : Regs) (d m : BitVec 5) (n : Nat) (v : VVal) :
    (r.writeV d n v).readV m = if m = d then (r.readV d).merge v n else r.readV m := by
  by_cases h : m = d
  · subst h
    simp [Regs.writeV, Regs.readV]
  · have hne : d.toNat ≠ m.toNat := fun heq => h (BitVec.eq_of_toNat_eq heq.symm)
    simp [Regs.writeV, Regs.readV, h, hne]

theorem word_merge (old v : VVal) (n : Nat) {i : Nat} (hi : i < 32) :
    (old.merge v n).word i = if i < n then v.word i else old.word i := by
  simp only [VVal.word, dif_pos hi, VVal.merge, Vector.getElem_ofFn]
  split <;> rfl

/-- A write of a scalar register changes the scalar registers alone. -/
theorem writeS_eq (r : Regs) (n : BitVec 6) (v : SVal) : ∃ x, r.writeS n v = { r with sreg := x } := by
  unfold Regs.writeS
  split
  · exact ⟨_, rfl⟩
  · exact ⟨_, rfl⟩

/-- A write of a predicate changes the predicates and their neither marks alone. -/
theorem writeP_eq (r : Regs) (p : BitVec 4) (b : Bool) : ∃ x y, r.writeP p b = { r with pred := x, neither := y } := by
  unfold Regs.writeP
  split
  · exact ⟨_, _, rfl⟩
  · exact ⟨_, _, rfl⟩

/-- So does the neither state of a pair. -/
theorem writeNeither_eq (r : Regs) (p : BitVec 4) : ∃ x y, r.writeNeither p = { r with pred := x, neither := y } := by
  obtain ⟨x, y, hxy⟩ := writeP_eq r p false
  obtain ⟨x', y', hxy'⟩ := writeP_eq { r with pred := x, neither := y } (p + 1) false
  unfold Regs.writeNeither
  simp only [hxy, hxy']
  split
  · exact ⟨_, _, rfl⟩
  · exact ⟨_, _, rfl⟩

@[simp] theorem readS_writeP (r : Regs) (p : BitVec 4) (b : Bool) (m : BitVec 6) : (r.writeP p b).readS m = r.readS m := by
  obtain ⟨x, y, h⟩ := writeP_eq r p b
  rw [h]
  rfl

@[simp] theorem readV_writeP (r : Regs) (p : BitVec 4) (b : Bool) (m : BitVec 5) : (r.writeP p b).readV m = r.readV m := by
  obtain ⟨x, y, h⟩ := writeP_eq r p b
  rw [h]
  rfl

@[simp] theorem readS_writeNeither (r : Regs) (p : BitVec 4) (m : BitVec 6) : (r.writeNeither p).readS m = r.readS m := by
  obtain ⟨x, y, h⟩ := writeNeither_eq r p
  rw [h]
  rfl

@[simp] theorem readV_writeNeither (r : Regs) (p : BitVec 4) (m : BitVec 5) : (r.writeNeither p).readV m = r.readV m := by
  obtain ⟨x, y, h⟩ := writeNeither_eq r p
  rw [h]
  rfl

/-! ### The writes of a result, and its latch (R81) -/

/-- The registers and the latch that a landing result leaves, its flags raised before. -/
def landed (r : Regs) (p : Pending) : Regs :=
  match p.latch with
  | some l => (r.applyAll p.writes).writeLatch p.slot l
  | none => r.applyAll p.writes

theorem landResult_quiet {c : Ctx} {p : Pending} (h : p.flags &&& c.r.xtrapen = 0) : c.landResult p =
    { c with r := landed (c.r.raise p.flags) p, ival := c.ival.note (p.writes.map (RWrite.landed p.slot)) } :=
  if_pos h

theorem landResult_traps {c : Ctx} {p : Pending} (h : p.flags &&& c.r.xtrapen ≠ 0) : c.landResult p =
    { c with r := c.r.raise p.flags }.postTrap ⟨9, p.slot, p.flags &&& c.r.xtrapen, 0, 0⟩ :=
  if_neg h

/-- What a latch write leaves: every field but the latches. -/
theorem landed_eq (r : Regs) (p : Pending) : ∃ l, landed r p = { r.applyAll p.writes with latch := l } := by
  unfold landed
  cases p.latch with
  | none => exact ⟨_, rfl⟩
  | some l =>
    simp only [Regs.writeLatch]
    split
    · exact ⟨_, rfl⟩
    · exact ⟨_, rfl⟩

theorem latchAt_landed {r : Regs} {p : Pending} {l : Latch} {a : BitVec 3} (hl : p.latch = some l) (ha : a.toNat = p.slot) :
    (landed r p).latchAt a = l := by
  have hslot : p.slot < 8 := ha ▸ a.isLt
  simp only [landed, hl, Regs.writeLatch, dif_pos hslot, Regs.latchAt, ha, Vector.getElem_set_self]

/-- Whether a write is one of a control register. -/
def isCtlWrite : RWrite → Bool
  | .ctl _ _ => true
  | _ => false

theorem ne_ctl_of_mem {p : Pending} (h : p.isCtl = false) : ∀ w ∈ p.writes, isCtlWrite w = false := by
  intro w hw
  have := List.any_eq_false.mp h w hw
  cases w with
  | ctl => exact absurd rfl this
  | _ => rfl

theorem readS_applyAll {ws : List RWrite} (hctl : ∀ w ∈ ws, isCtlWrite w = false) {n : BitVec 6}
    (hn : ∀ v, RWrite.sreg n v ∉ ws) (r : Regs) : (r.applyAll ws).readS n = r.readS n := by
  induction ws generalizing r with
  | nil => rfl
  | cons w ws ih =>
    have hw : (r.apply w).readS n = r.readS n := by
      cases w with
      | sreg m v => exact readS_writeS_ne r v fun h => hn v (h ▸ List.mem_cons_self ..)
      | vreg d k v => rfl
      | pred p b => exact readS_writeP ..
      | neither p => exact readS_writeNeither ..
      | pat m q => rfl
      | ctl m v => exact absurd (hctl _ (List.mem_cons_self ..)) Bool.noConfusion
      | loopRegs l c a e => rfl
    exact (ih (fun x hx => hctl x (List.mem_cons_of_mem _ hx)) (fun v hv => hn v (List.mem_cons_of_mem _ hv)) _).trans hw

theorem readV_applyAll {ws : List RWrite} (hctl : ∀ w ∈ ws, isCtlWrite w = false) {n : BitVec 5}
    (hn : ∀ k v, RWrite.vreg n k v ∉ ws) (r : Regs) : (r.applyAll ws).readV n = r.readV n := by
  induction ws generalizing r with
  | nil => rfl
  | cons w ws ih =>
    have hw : (r.apply w).readV n = r.readV n := by
      cases w with
      | sreg m v => exact readV_writeS ..
      | vreg d k v => exact (readV_writeV ..).trans (if_neg fun h : n = d => hn k v (h ▸ List.mem_cons_self ..))
      | pred p b => exact readV_writeP ..
      | neither p => exact readV_writeNeither ..
      | pat m q => rfl
      | ctl m v => exact absurd (hctl _ (List.mem_cons_self ..)) Bool.noConfusion
      | loopRegs l c a e => rfl
    exact (ih (fun x hx => hctl x (List.mem_cons_of_mem _ hx)) (fun k v hv => hn k v (List.mem_cons_of_mem _ hv)) _).trans hw

theorem applyAll_flight_xflags {ws : List RWrite} (hctl : ∀ w ∈ ws, isCtlWrite w = false) (r : Regs) :
    (r.applyAll ws).flight = r.flight ∧ (r.applyAll ws).xflags = r.xflags := by
  induction ws generalizing r with
  | nil => exact ⟨rfl, rfl⟩
  | cons w ws ih =>
    have hw : (r.apply w).flight = r.flight ∧ (r.apply w).xflags = r.xflags := by
      cases w with
      | sreg m v =>
        obtain ⟨x, hx⟩ := writeS_eq r m v
        rw [Regs.apply, hx]
        exact ⟨rfl, rfl⟩
      | vreg d k v => exact ⟨rfl, rfl⟩
      | pred p b =>
        obtain ⟨x, y, hx⟩ := writeP_eq r p b
        rw [Regs.apply, hx]
        exact ⟨rfl, rfl⟩
      | neither p =>
        obtain ⟨x, y, hx⟩ := writeNeither_eq r p
        rw [Regs.apply, hx]
        exact ⟨rfl, rfl⟩
      | pat m q => exact ⟨rfl, rfl⟩
      | ctl m v => exact absurd (hctl _ (List.mem_cons_self ..)) Bool.noConfusion
      | loopRegs l c a e => exact ⟨rfl, rfl⟩
    obtain ⟨hf, hx⟩ := ih (fun x hx => hctl x (List.mem_cons_of_mem _ hx)) (r.apply w)
    exact ⟨hf.trans hw.1, hx.trans hw.2⟩

theorem postTrap_outside {c : Ctx} {t : BoundaryTrap} (hst : c.status ≠ .ending) (hin : c.r.inHandler = false) :
    c.postTrap t = { c with traps := c.traps ++ [t] } := by
  simp [Ctx.postTrap, hst, hin]

theorem postTrap_inside {c : Ctx} {t : BoundaryTrap} (hst : c.status ≠ .ending) (hin : c.r.inHandler = true)
    (hcause : t.cause ≠ 10) : c.postTrap t = { c with hTraps := c.hTraps ++ [t] } := by
  simp [Ctx.postTrap, hst, hin, hcause]

theorem postTrap_ending {c : Ctx} {t : BoundaryTrap} (hst : c.status = .ending) (hcause : t.cause ≠ 10) : c.postTrap t =
    { c with firstFail := some (c.firstFail.getD ⟨2, t.cause, t.slot, c.r.inHandler, t.addr, c.r.pc⟩) } := by
  simp [Ctx.postTrap, hst, hcause]

theorem postTrap_r (c : Ctx) (t : BoundaryTrap) : (c.postTrap t).r = c.r := by
  unfold Ctx.postTrap
  repeat' split
  all_goals rfl

/-! ### The predicates of a pair -/

theorem readPred_pair (r : Regs) {q : BitVec 3} (hq : q ≠ 0) (b b' : Bool) :
    let t := (r.writeP (BitVec.ofNat 4 (2 * q.toNat)) b).writeP (BitVec.ofNat 4 (2 * q.toNat + 1)) b'
    t.readPred (BitVec.ofNat 4 (2 * q.toNat)) = b ∧ t.readPred (BitVec.ofNat 4 (2 * q.toNat + 1)) = b' ∧
      t.neither.getLsbD q.toNat = false := by
  have hmask : (~~~(1 <<< ((BitVec.ofNat 4 (2 * q.toNat + 1)).toNat / 2) : BitVec 8)).getLsbD q.toNat = false := by
    decide +revert
  have he0 : BitVec.ofNat 4 (2 * q.toNat) ≠ 0 := by decide +revert
  have he1 : BitVec.ofNat 4 (2 * q.toNat) ≠ 1 := by decide +revert
  have ho0 : BitVec.ofNat 4 (2 * q.toNat + 1) ≠ 0 := by decide +revert
  have ho1 : BitVec.ofNat 4 (2 * q.toNat + 1) ≠ 1 := by decide +revert
  have hne : BitVec.ofNat 4 (2 * q.toNat + 1) ≠ BitVec.ofNat 4 (2 * q.toNat) := by decide +revert
  refine ⟨?_, readPred_writeP_same _ _ ho0 ho1, ?_⟩
  · rw [readPred_writeP_ne _ _ hne, readPred_writeP_same _ _ he0 he1]
  · rw [Regs.writeP, if_neg (not_or.mpr ⟨ho0, ho1⟩), BitVec.getLsbD_and, hmask, Bool.and_false]

theorem readPred_pair_neither (r : Regs) {q : BitVec 3} (hq : q ≠ 0) :
    let t := r.writeNeither (BitVec.ofNat 4 (2 * q.toNat))
    t.readPred (BitVec.ofNat 4 (2 * q.toNat)) = false ∧ t.readPred (BitVec.ofNat 4 (2 * q.toNat + 1)) = false ∧
      t.neither.getLsbD q.toNat = true :=
  ⟨readPred_writeNeither r hq (by decide +revert), readPred_writeNeither r hq (by decide +revert), neither_writeNeither r hq⟩

/-! ### A result lands (R81) -/

/-- The context after its oldest due result has landed. -/
def afterLanding (c : Ctx) (p : Pending) (rest : List Pending) : Ctx := ({ c with r := { c.r with flight := rest } } : Ctx).landResult p

theorem exec_resultLanding_due {cid : Nat} {s : State} {p : Pending} {rest : List Pending} (h : s.dueResult cid = some (p, rest)) :
    ∃ u : State, exec (.resultLanding cid) s = .next (u.bankWrites cid p.writes) ∧ u.mem = s.mem ∧
      (∀ l, u.core l = s.core l) ∧ ∀ i, u.ctx i = if i = cid then afterLanding (s.ctx cid) p rest else s.ctx i := by
  have hexec : exec (.resultLanding cid) s = .next (((s.modCtx cid fun c => { c with r := { c.r with flight := rest } }).modCtx
      cid fun c => c.landResult p).bankWrites cid p.writes) := by
    rw [exec_resultLanding, execResultLanding]
    simp only [h]
  refine ⟨_, hexec, rfl, fun _ => rfl, fun i => ?_⟩
  by_cases hi : i = cid <;> simp [hi, afterLanding]

/-- The context with the flags of a result raised and the result out of flight. -/
def raised (c : Ctx) (p : Pending) (rest : List Pending) : Ctx :=
  { c with r := { c.r with flight := rest, xflags := c.r.xflags ||| p.flags } }

/-- A result that raises no enabled flag writes what it holds. -/
theorem afterLanding_quiet {c : Ctx} {p : Pending} {rest : List Pending} (h : p.flags &&& c.r.xtrapen = 0) :
    afterLanding c p rest = { c with r := landed (raised c p rest).r p,
                                     ival := c.ival.note (p.writes.map (RWrite.landed p.slot)) } :=
  landResult_quiet (c := { c with r := { c.r with flight := rest } }) h

/-- One that raises an enabled flag writes nothing but XFLAGS. -/
theorem afterLanding_traps {c : Ctx} {p : Pending} {rest : List Pending} (h : p.flags &&& c.r.xtrapen ≠ 0) :
    afterLanding c p rest = (raised c p rest).postTrap ⟨9, p.slot, p.flags &&& c.r.xtrapen, 0, 0⟩ :=
  landResult_traps (c := { c with r := { c.r with flight := rest } }) h

theorem afterLanding_bind (c : Ctx) (p : Pending) (rest : List Pending) : (afterLanding c p rest).bind = c.bind := by
  by_cases h : p.flags &&& c.r.xtrapen = 0
  · rw [afterLanding_quiet h]
  · rw [afterLanding_traps h]
    unfold Ctx.postTrap
    repeat' split
    all_goals rfl

section Landed

variable {r : Regs} {p : Pending}

theorem landed_reads (h : ∃ l, landed r p = { r.applyAll p.writes with latch := l }) :
    (∀ n, (landed r p).readS n = (r.applyAll p.writes).readS n) ∧ (∀ n, (landed r p).readV n = (r.applyAll p.writes).readV n) ∧
      (∀ n, (landed r p).readPred n = (r.applyAll p.writes).readPred n) ∧
      (landed r p).neither = (r.applyAll p.writes).neither ∧ (∀ n, (landed r p).pattern n = (r.applyAll p.writes).pattern n) ∧
      (landed r p).flight = (r.applyAll p.writes).flight ∧ (landed r p).xflags = (r.applyAll p.writes).xflags ∧
      (landed r p).lcnt = (r.applyAll p.writes).lcnt ∧ (landed r p).lstart = (r.applyAll p.writes).lstart ∧
      (landed r p).lend = (r.applyAll p.writes).lend := by
  obtain ⟨l, h⟩ := h
  rw [h]
  exact ⟨fun _ => rfl, fun _ => rfl, fun _ => rfl, rfl, fun _ => rfl, rfl, rfl, rfl, rfl, rfl⟩

end Landed

theorem nine_ne_ten : (9 : Nat) ≠ 10 := by decide

/-- Settles O23: the result's context is what its landing leaves, and its bank writes touch no context. -/
theorem resultsLand : Obligations.ResultsLand := by
  intro cid s p rest hdue c on
  obtain ⟨u, hexec, hmem, hcore, hctx⟩ := exec_resultLanding_due hdue
  have hme : (u.bankWrites cid p.writes).ctx cid = afterLanding c p rest := by rw [ctx_bankWrites, hctx, if_pos rfl]
  refine ⟨_, hexec, (mem_bankWrites ..).trans hmem, fun i hi => ?_, ?_⟩
  · rw [ctx_bankWrites, hctx, if_neg hi]
  simp only [hme]
  refine ⟨fun hctl => ?_, fun hon => ?_, fun hon hctl => ?_⟩
  · by_cases hon : on = 0
    · rw [afterLanding_quiet hon]
      obtain ⟨-, -, -, -, -, hfl, hxf, -⟩ := landed_reads
        (landed_eq (raised c p rest).r p)
      obtain ⟨hfl', hxf'⟩ := applyAll_flight_xflags (ne_ctl_of_mem hctl) (raised c p rest).r
      exact ⟨hfl.trans hfl', hxf.trans hxf'⟩
    · rw [afterLanding_traps hon, postTrap_r]
      exact ⟨rfl, rfl⟩
  · rw [afterLanding_quiet hon]
    obtain ⟨hS, hV, hP, hN, hpat, hfl, hxf, hcnt, hst, hend⟩ := landed_reads
      (landed_eq (raised c p rest).r p)
    refine ⟨rfl, rfl, rfl, fun n v hw => ?_, fun n k v hw i hi => ?_, fun n n' k v v' hw hne i hi => ?_, fun n b hw hn => ?_,
      fun q b b' hq hw => ?_, fun q hq hw => ?_, fun n q hw => ?_, fun l k a e hw => ?_, fun hctl => ⟨fun n hn => ?_, fun n hn => ?_⟩,
      fun n v hw hfl hlatch => ⟨?_, fun hlo hhi => ?_⟩, fun l a hl ha => latchAt_landed hl ha⟩
    · rw [hS, hw]
      by_cases hn : n = 0
      · subst hn
        exact readS_zero _
      · rw [if_neg hn]
        exact readS_writeS_same _ v hn
    · rw [hV, hw]
      refine (congrArg (fun v => VVal.word v i) ((readV_writeV ..).trans (if_pos rfl))).trans ?_
      exact word_merge _ _ _ hi
    · rw [hV, hV, hw]
      refine ⟨?_, ?_⟩
      · refine (congrArg (fun v => VVal.word v i) ((readV_writeV ..).trans ((if_neg hne).trans
          ((readV_writeV ..).trans (if_pos rfl))))).trans ?_
        exact word_merge _ _ _ hi
      · refine (congrArg (fun v => VVal.word v i) ((readV_writeV ..).trans (if_pos rfl))).trans ?_
        rw [word_merge _ _ _ hi]
        exact congrArg (fun w => if i < k then v'.word i else w)
          (congrArg (fun v => VVal.word v i) ((readV_writeV ..).trans (if_neg hne.symm)))
    · rw [hP, hw]
      have h0 : n ≠ 0 := by rintro rfl; exact absurd hn (by decide)
      have h1 : n ≠ 1 := by rintro rfl; exact absurd hn (by decide)
      exact readPred_writeP_same _ _ h0 h1
    · rw [hP, hP, hN, hw]
      exact readPred_pair _ hq b b'
    · rw [hP, hP, hN, hw]
      exact readPred_pair_neither _ hq
    · simp only [hpat, hw]
      refine ⟨Vector.getElem_set_self n.isLt, fun m hm => Vector.getElem_set_ne n.isLt m.isLt fun h => hm ?_⟩
      exact (BitVec.eq_of_toNat_eq h).symm
    · rw [hcnt, hst, hend, hw]
      exact ⟨rfl, rfl, rfl⟩
    · rw [hS, readS_applyAll (ne_ctl_of_mem hctl) hn]
      rfl
    · rw [hV, readV_applyAll (ne_ctl_of_mem hctl) hn]
      rfl
    · have hxflags : c.r.xflags ||| (0 : BitVec 8) = c.r.xflags := BitVec.or_zero
      simp only [landed, hlatch, hw, hfl, raised, hxflags]
      rfl
    · have hbind : (u.ctx cid).bind = c.bind := by
        rw [hctx, if_pos rfl]
        exact afterLanding_bind ..
      have hmod : (n.setWidth 4).toNat = n.toNat % 16 := BitVec.toNat_setWidth 4 n
      rw [hw, bankWrites_ctl u cid v hlo hhi, bankFmt_writeBankfmt, hbind, hmod]
      rw [bankFmt_congr hbind (hcore _)]
  · rw [afterLanding_traps hon]
    refine ⟨postTrap_r .., fun hst hin => ?_, fun hst hin => ?_, fun hst => ?_⟩
    · rw [postTrap_outside (c := raised c p rest) hst hin]
      exact ⟨rfl, rfl⟩
    · rw [postTrap_inside (c := raised c p rest) hst hin nine_ne_ten]
      exact ⟨rfl, rfl⟩
    · rw [postTrap_ending (c := raised c p rest) hst nine_ne_ten]
      rfl

end Sys2Proof.Claims


namespace Sys2Proof.Claims

open Sys2Proof.Machine

/-! ### What the issue of an access changes: its context, micro-TLBs and misses -/

/-- The state t is s after an issue that leaves the executing context as c: nothing else differs but micro-TLBs, misses and
the walks of the dies. -/
structure Issued (s t : State) (c : Ctx) : Prop where
  mem : t.mem = s.mem
  ctx : ∀ i, t.ctx i = if i = s.cur.cid then c else s.ctx i
  core : ∀ l, t.core l = { s.core l with tlb := (t.core l).tlb, misses := (t.core l).misses }
  clus : t.clus = s.clus
  hub : t.hub = s.hub
  issue : t.issue = s.issue
  cur : t.cur = s.cur

namespace Issued

variable {s t : State} {c : Ctx}

theorem refl (s : State) : Issued s s s.me :=
  ⟨rfl, fun i => by split <;> simp_all [State.me], fun _ => rfl, rfl, rfl, rfl, rfl⟩

theorem me (h : Issued s t c) : t.me = c := by rw [State.me, h.cur, h.ctx, if_pos rfl]

theorem now (h : Issued s t c) : t.now = (s.core (coreOf s.cur.cid)).cc := by rw [State.now, h.cur, h.core]

theorem beats (h : Issued s t c) (l : Nat) : (t.core l).beats = (s.core l).beats := by rw [h.core]

/-- A further change of the executing context. -/
theorem modCtx (h : Issued s t c) (f : Ctx → Ctx) : Issued s (t.modCtx s.cur.cid f) (f c) where
  mem := h.mem
  ctx i := by
    rw [ctx_modCtx, h.ctx, if_pos rfl, h.ctx]
    split <;> rfl
  core := h.core
  clus := h.clus
  hub := h.hub
  issue := h.issue
  cur := h.cur

theorem markCk (h : Issued s t c) (b : Bool) :
    Issued s (t.markCk b) { c with bun := { c.bun with ck := c.bun.ck || b } } := by
  cases b with
  | false =>
    rw [Bool.or_false]
    exact h
  | true =>
    rw [Bool.or_true, State.markCk, if_pos rfl, h.cur]
    exact h.modCtx fun c => { c with bun := { c.bun with ck := true } }

/-- The frame of an issue, where the context keeps its registers but the landing buffer, and its bundle but CK. -/
theorem frame (h : Issued s t c) (hr : c.r = { s.me.r with land := c.r.land })
    (hbun : c.bun = { s.me.bun with ck := c.bun.ck }) : IssueFrame s t := by
  have hme := h.me
  refine ⟨h.mem, fun i hi => by rw [h.ctx, if_neg hi], ?_, h.core, h.clus, h.hub, ?_, h.issue⟩
  · rw [hme]
    exact hr
  · rw [hme]
    exact hbun

end Issued

/-- A walk that an access asks for leaves the executing context as it is. -/
theorem issued_noteMiss {s t : State} {c : Ctx} (h : Issued s t c) (k i v : Nat) : Issued s (t.noteMiss k i v) c where
  mem := (mem_noteMiss ..).trans h.mem
  ctx j := (ctx_noteMiss ..).trans (h.ctx j)
  core l := by rw [core_noteMiss, h.core]
  clus := by
    rw [← h.clus]
    unfold State.noteMiss
    dsimp only
    repeat' split
    all_goals rfl
  hub := by
    rw [← h.hub]
    unfold State.noteMiss
    dsimp only
    repeat' split
    all_goals rfl
  issue := by
    rw [← h.issue]
    unfold State.noteMiss
    dsimp only
    repeat' split
    all_goals rfl
  cur := by
    rw [← h.cur]
    unfold State.noteMiss
    dsimp only
    repeat' split
    all_goals rfl

theorem issued_noteWalks (s : State) (cs : List Chunk) : Issued s (s.noteWalks cs) s.me := by
  have hfold : ∀ t : State, Issued s t s.me → Issued s (cs.foldl (fun t c => t.noteWalk t.cur.cid c.va) t) s.me := by
    induction cs with
    | nil => exact fun _ h => h
    | cons c cs ih => exact fun t h => ih _ (issued_noteMiss h ..)
  exact hfold s (Issued.refl s)

/-- The cycle before which data cannot arrive depends on the core's beats and on the accesses of the bundle. -/
theorem Issued.earliest {s t : State} {c : Ctx} (h : Issued s t c) (hmq : c.mq = s.me.mq) (hbun : c.bun = s.me.bun)
    (keys : List Nat) : t.earliest keys = s.earliest keys := by
  simp only [State.earliest, State.yields, h.me, h.cur, hmq, hbun, h.beats]
  rfl

/-- A request enters the landing buffer. -/
theorem Issued.addReq {s t : State} {c : Ctx} (h : Issued s t c) (hmq : c.mq = s.me.mq) (hbun : c.bun = s.me.bun)
    (delay : Nat) (dest : LandDest) (oks : List Bool) (bytes : List (Option Byte)) (arrived : Bool) (qn : Option Nat)
    (keys : List Nat) : Issued s (t.addReq delay dest oks bytes arrived qn keys)
      { c with nextId := c.nextId + 1,
               r := { c.r with land := c.r.land ++ [⟨c.nextId, s.cur.slot, (s.core (coreOf s.cur.cid)).cc + delay, dest, oks,
                 bytes, arrived, false, qn, s.earliest keys, c.seq⟩] } } := by
  rw [State.addReq, h.cur, h.now, h.earliest hmq hbun]
  exact h.modCtx _

/-! ### The accesses of a slot in the M queue (R163, R164) -/

/-- The accesses of a slot as they enter the queue: the first of a straddle marked, each with its place in the order. -/
def numbered (n : Nat) (accs : List MAcc) : List MAcc :=
  (List.range accs.length).zipWith (fun i a => { a with seq := n + i }) accs

theorem pushM_eq (c : Ctx) (accs : List MAcc) :
    c.pushM accs = { c with mq := c.mq ++ numbered c.seq accs, seq := c.seq + accs.length } := rfl

theorem map_markFirst {β : Type} (g : MAcc → β) (hg : ∀ a b, g { a with first := b } = g a) (k : Option Nat) (l : List MAcc) :
    (markFirst k l).map g = l.map g := by
  induction l generalizing k with
  | nil => rfl
  | cons a t ih => rw [markFirst, List.map_cons, List.map_cons, hg, ih]

theorem map_numbered {β : Type} (g : MAcc → β) (hg : ∀ a n, g { a with seq := n } = g a) (n : Nat) (l : List MAcc) :
    (numbered n l).map g = l.map g := by
  refine List.ext_getElem (by simp [numbered]) fun i _ _ => ?_
  simp [numbered, hg]

/-- What an access says but for its place and its mark stays through the numbering. -/
theorem map_numbered_markFirst {β : Type} (g : MAcc → β) (hseq : ∀ a n, g { a with seq := n } = g a)
    (hfirst : ∀ a b, g { a with first := b } = g a) (n : Nat) (l : List MAcc) :
    (numbered n (markFirst none l)).map g = l.map g := by
  rw [map_numbered g hseq, map_markFirst g hfirst]

theorem forall_numbered {β : Type} {g : MAcc → β} {x : β} {l : List MAcc} (hseq : ∀ a n, g { a with seq := n } = g a)
    (hfirst : ∀ a b, g { a with first := b } = g a) (hl : ∀ a ∈ l, g a = x) (n : Nat) :
    ∀ a ∈ numbered n (markFirst none l), g a = x := by
  intro a ha
  have hmem := List.mem_map_of_mem (f := g) ha
  rw [map_numbered_markFirst g hseq hfirst] at hmem
  obtain ⟨b, hb, hba⟩ := List.mem_map.mp hmem
  rw [← hba, hl b hb]

/-- The parts of an access hold all its bytes, in order. -/
theorem flatMap_accessParts {β : Type} (g : Nat × Loc → β) (ls : List (Nat × Loc)) :
    (accessParts ls).flatMap (fun p => p.map g) = ls.map g := by
  rw [List.flatMap_def, ← List.map_flatten, accessParts, List.flatten_splitBy]

/-! ### Loads at issue (R150 to R157) -/

/-- With no stretch an alignment says nothing. -/
theorem loadRun_nil (s : State) (kind : MKind) (reach : Reach) (lat : BitVec 8) (dest : LandDest) (oks : List Bool)
    (total align : Nat) : loadRun s kind reach lat dest oks total align [] = loadRun s kind reach lat dest oks total 1 [] := by
  simp only [loadRun, List.find?_nil]

theorem addrOf_eq (s : State) (f : MFld) (size : Nat) : addrOf s f size =
    ((s.me.r.readS f.base).bits + f.off.signExtend 64 * BitVec.ofNat 64 size).toNat := by
  rw [addrOf, BitVec.ofInt_add, BitVec.ofInt_toInt, BitVec.ofInt_mul, BitVec.signExtend]
  simp

theorem mAddr_eq (s : State) (f : MFld) (size : Nat) :
    mAddr s f size = if (s.me.r.readS f.base).ok = true then some (addrOf s f size) else none := by
  rw [mAddr, addrOf_eq]

section LoadForms

variable {f : MFld} {s : State}

theorem scalarLoad_run (hg : Enabled f.g s) (kind : MKind) (size : Nat) (sext : Bool) : scalarLoad kind size sext f s =
    .next (loadRun s kind .plain f.lat (.sreg f.data size sext) [(s.me.r.readS f.base).ok] size size (stretchOf s f size)) := by
  rw [scalarLoad, slotRun_on _ hg]
  simp only [mAddr_eq, stretchOf]
  cases (s.me.r.readS f.base).ok with
  | false => exact congrArg _ (loadRun_nil ..).symm
  | true => rfl

theorem vectorLoad_run (hg : Enabled f.g s) (reach : Reach) (align n : Nat) : vectorLoad reach align n f s =
    .next (loadRun s .load reach f.lat (.vreg (f.data.setWidth 5) n) (List.replicate n (s.me.r.readS f.base).ok) (4 * n) align
      (stretchOf s f (4 * n))) := by
  rw [vectorLoad, slotRun_on _ hg]
  simp only [mAddr_eq, stretchOf]
  cases (s.me.r.readS f.base).ok with
  | false => exact congrArg _ (loadRun_nil ..).symm
  | true => rfl

theorem indexAddr_eq (s : State) (f : MFld) (i : Nat) :
    indexAddr (s.me.r.readS f.base).bits (indexOf s f).1 (indexOf s f).2 i = gatherAddr s f i := by
  simp only [indexAddr, indexOf, gatherAddr, BitVec.toNat_add, BitVec.toNat_shiftLeft, BitVec.toNat_setWidth,
    Nat.shiftLeft_eq]
  rw [Nat.mod_eq_of_lt (Nat.lt_of_lt_of_le (BitVec.isLt _) (by decide)), Nat.add_mod_mod]

theorem exec_ldvs_run (hg : Enabled f.g s) : exec (.ldvs f) s = .next (loadRun s .load .plain f.lat
    (.vreg (f.data.setWidth 5) 32) (List.replicate 32 (s.me.r.readS f.base).ok) 128 4
    (if (s.me.r.readS f.base).ok = true then (List.range 32).map fun i => ⟨4 * i, addrOf s f (4 * i), 4⟩ else [])) := by
  rw [exec_ldvs, execLdvs, slotRun_on _ hg]
  simp only [addrOf_eq]
  by_cases hok : (s.me.r.readS f.base).ok = true
  · rw [if_pos hok, if_pos hok, hok]
  · rw [if_neg hok, if_neg hok, Bool.eq_false_of_not_eq_true hok, loadRun_nil (align := 4)]

theorem exec_ldvx_run (hg : Enabled f.g s) : exec (.ldvx f) s = .next (loadRun s .load .plain f.lat
    (.vreg (f.data.setWidth 5) 32) ((List.range 32).map (gatherOk s f)) 128 4
    ((List.range 32).filterMap fun i => if gatherOk s f i = true then some ⟨4 * i, gatherAddr s f i, 4⟩ else none)) := by
  have hgather (i : Nat) (hi : i ∈ List.range 32) :
      (if ((List.range 32).map (gatherOk s f)).getD i false = true then some (⟨4 * i, gatherAddr s f i, 4⟩ : Chunk) else none) =
        if gatherOk s f i = true then some ⟨4 * i, gatherAddr s f i, 4⟩ else none := by
    have hi := List.mem_range.mp hi
    simp [List.getD_eq_getElem?_getD, hi]
  rw [exec_ldvx, execLdvx, slotRun_on _ hg]
  simp only [indexAddr_eq]
  rw [← List.filterMap_congr hgather]
  rfl

theorem exec_loads (hg : Enabled f.g s) : ∀ x ∈ loads f s, exec x.instr s =
    .next (loadRun s x.kind x.reach f.lat x.dest x.oks (destBytes x.dest) x.align x.cs) := by
  simp only [loads, loadForms, vloadForms, List.forall_mem_append, List.forall_mem_map, List.forall_mem_cons]
  exact ⟨⟨⟨scalarLoad_run hg .., scalarLoad_run hg .., scalarLoad_run hg .., scalarLoad_run hg .., scalarLoad_run hg ..,
    scalarLoad_run hg .., scalarLoad_run hg .., scalarLoad_run hg .., scalarLoad_run hg .., fun _ h => nomatch h⟩,
    vectorLoad_run hg .., vectorLoad_run hg .., vectorLoad_run hg .., vectorLoad_run hg .., fun _ h => nomatch h⟩,
    exec_ldvs_run hg, exec_ldvx_run hg, fun _ h => nomatch h⟩

end LoadForms

section LoadOutcomes

variable {s : State} {kind : MKind} {reach : Reach} {lat : BitVec 8} {dest : LandDest} {oks : List Bool} {total align : Nat}
  {cs : List Chunk}

theorem loadRun_collides (h : s.collides (delayOf lat) dest.writes = true) :
    loadRun s kind reach lat dest oks total align cs = s.illegalSchedule := if_pos h

theorem find?_of_aligned (h : Aligned align cs) : cs.find? (fun c => c.va % align != 0) = none := by
  rw [List.find?_eq_none]
  exact fun c hc => by simp [h c hc]

theorem loadRun_misaligned (hfree : Free s (delayOf lat) dest.writes) {c : Chunk}
    (h : cs.find? (fun c => c.va % align != 0) = some c) :
    loadRun s kind reach lat dest oks total align cs = s.slotTrap 6 c.va := by
  rw [loadRun]
  dsimp only
  rw [if_neg (Bool.not_eq_true _ ▸ hfree), h]

theorem loadRun_faults (hfree : Free s (delayOf lat) dest.writes) (hal : Aligned align cs) {e : AFault}
    (h : locateChunks s s.cur.cid .read reach cs = .error e) :
    loadRun s kind reach lat dest oks total align cs = s.slotFault .read e := by
  rw [loadRun]
  dsimp only
  rw [if_neg (Bool.not_eq_true _ ▸ hfree), find?_of_aligned hal, h]

theorem loadRun_full (hfree : Free s (delayOf lat) dest.writes) (hal : Aligned align cs) {ls : List (Nat × Loc)}
    (h : locateChunks s s.cur.cid .read reach cs = .ok ls) (hfull : 32 ≤ landHeld s) :
    loadRun s kind reach lat dest oks total align cs = s.holdForLanding := by
  rw [loadRun]
  dsimp only
  rw [if_neg (Bool.not_eq_true _ ▸ hfree), find?_of_aligned hal, h]
  exact if_pos hfull

theorem any_walkerFull : (cs.any fun c => s.walkerFull s.cur.cid c.va) = true ↔ ¬ WalkerRoom s cs := by
  simp [WalkerRoom]

theorem loadRun_noRoom (hfree : Free s (delayOf lat) dest.writes) (hal : Aligned align cs) {ls : List (Nat × Loc)}
    (h : locateChunks s s.cur.cid .read reach cs = .ok ls) (hfull : landHeld s < 32) (hroom : ¬ WalkerRoom s cs) :
    loadRun s kind reach lat dest oks total align cs = s.hold none := by
  rw [loadRun]
  dsimp only
  rw [if_neg (Bool.not_eq_true _ ▸ hfree), find?_of_aligned hal, h]
  exact (if_neg (Nat.not_le.mpr hfull)).trans (if_pos (any_walkerFull.mpr hroom))

/-- The accesses of a load, one for each part. -/
def loadAccs (s : State) (kind : MKind) (cs : List Chunk) (ls : List (Nat × Loc)) : List MAcc :=
  (accessParts ls).map fun p =>
    { mkAcc s kind s.me.nextId p with va := partVa cs p, locs := p.map fun x => (x.1, x.2.key) }

theorem loadRun_goesOut (hfree : Free s (delayOf lat) dest.writes) (hal : Aligned align cs) {ls : List (Nat × Loc)}
    (h : locateChunks s s.cur.cid .read reach cs = .ok ls) (hfull : landHeld s < 32) (hroom : WalkerRoom s cs) :
    loadRun s kind reach lat dest oks total align cs =
      (((s.noteWalks cs).addReq (delayOf lat) dest oks
        ((List.range total).map fun i => if ls.any (fun x => x.1 == i) then none else some 0) ls.isEmpty none
        (ls.map (·.2.key))).modCtx s.cur.cid fun c => c.pushM (markFirst none (loadAccs s kind cs ls))).markCk (strange ls) := by
  have hroom' : ¬ (cs.any fun c => s.walkerFull s.cur.cid c.va) = true := fun h => any_walkerFull.mp h hroom
  rw [loadRun]
  dsimp only
  rw [if_neg (Bool.not_eq_true _ ▸ hfree), find?_of_aligned hal, h]
  exact (if_neg (Nat.not_le.mpr hfull)).trans (if_neg hroom')

/-- A load that goes out leaves a request for its bytes, and accesses for exactly those. -/
theorem loadIssued_loadRun (hfree : Free s (delayOf lat) dest.writes) (hal : Aligned align cs) {ls : List (Nat × Loc)}
    (h : locateChunks s s.cur.cid .read reach cs = .ok ls) (hfull : landHeld s < 32) (hroom : WalkerRoom s cs) :
    LoadIssued s (loadRun s kind reach lat dest oks total align cs) kind lat dest oks total ls := by
  rw [loadRun_goesOut hfree hal h hfull hroom]
  have hiss := (((issued_noteWalks s cs).addReq rfl rfl (delayOf lat) dest oks
    ((List.range total).map fun i => if ls.any (fun x => x.1 == i) then none else some 0) ls.isEmpty none
    (ls.map (·.2.key))).modCtx fun c => c.pushM (markFirst none (loadAccs s kind cs ls))).markCk (strange ls)
  refine ⟨hiss.frame rfl rfl, by rw [hiss.me]; rfl, numbered s.me.seq (markFirst none (loadAccs s kind cs ls)),
    by rw [hiss.me]; rfl, ?_, ?_⟩
  · rw [List.flatMap_def, map_numbered_markFirst _ (fun _ _ => rfl) fun _ _ => rfl, loadAccs, List.map_map]
    exact (List.flatMap_def ..).symm.trans (flatMap_accessParts _ ls)
  · have hparts : ∀ a ∈ loadAccs s kind cs ls, (a.kind, a.cells, a.req, a.cid) = (kind, [], s.me.nextId, s.cur.cid) := by
      intro a ha
      obtain ⟨p, _, rfl⟩ := List.mem_map.mp ha
      rfl
    intro a ha
    simpa using forall_numbered (fun _ _ => rfl) (fun _ _ => rfl) hparts s.me.seq a ha

end LoadOutcomes

/-- Settles O24: each load is the shared one with its bytes, which goes out. -/
theorem loadsIssue : Obligations.LoadsIssue :=
  fun _ _ _ x hx hg hfree hal hfull hroom hls => ⟨_, exec_loads hg x hx, loadIssued_loadRun hfree hal hls hfull hroom⟩

end Sys2Proof.Claims


namespace Sys2Proof.Claims

open Sys2Proof.Machine

/-! ### Stores at issue (R153 to R157) -/

section StoreOutcomes

variable {s : State} {kind : MKind} {reach : Reach} {align : Nat} {data : List Byte} {keep : Nat → Bool} {cs : List Chunk}

theorem storeRun_misaligned {c : Chunk} (h : cs.find? (fun c => c.va % align != 0) = some c) :
    storeRun s kind reach align data keep cs = s.slotTrap 6 c.va := by
  rw [storeRun, h]

theorem storeRun_faults (hal : Aligned align cs) {e : AFault} (h : locateChunks s s.cur.cid .write reach cs = .error e) :
    storeRun s kind reach align data keep cs = s.slotFault .write e := by
  rw [storeRun, find?_of_aligned hal, h]

theorem storeRun_noRoom (hal : Aligned align cs) {ls : List (Nat × Loc)}
    (h : locateChunks s s.cur.cid .write reach cs = .ok ls) (hroom : ¬ WalkerRoom s cs) :
    storeRun s kind reach align data keep cs = s.hold none := by
  rw [storeRun, find?_of_aligned hal, h]
  exact if_pos (any_walkerFull.mpr hroom)

/-- The bytes of a part of a store that are written, at their keys. -/
def storeCells (data : List Byte) (keep : Nat → Bool) (p : List (Nat × Loc)) : List Host.Cell :=
  p.filterMap fun x => if keep x.1 then some (x.2.key, data.getD x.1 0) else none

/-- The access of a part of a store, none where it writes nothing and is no release. -/
def storePart (s : State) (kind : MKind) (data : List Byte) (keep : Nat → Bool) (cs : List Chunk) (p : List (Nat × Loc)) :
    Option MAcc :=
  if (storeCells data keep p).isEmpty && kind != .release then none
  else some { mkAcc s kind 0 p with va := partVa cs p, cells := storeCells data keep p }

/-- The accesses of a store. -/
def storeAccs (s : State) (kind : MKind) (data : List Byte) (keep : Nat → Bool) (cs : List Chunk) (ls : List (Nat × Loc)) :
    List MAcc := (accessParts ls).filterMap (storePart s kind data keep cs)

theorem storeRun_goesOut (hal : Aligned align cs) {ls : List (Nat × Loc)}
    (h : locateChunks s s.cur.cid .write reach cs = .ok ls) (hroom : WalkerRoom s cs) :
    storeRun s kind reach align data keep cs =
      ((s.noteWalks cs).modCtx s.cur.cid fun c => (c.noteStores s.cur.slot
        (markFirst none (storeAccs s kind data keep cs ls))).pushM (markFirst none (storeAccs s kind data keep cs ls))).markCk
        (strange ls || (kind == .release && decide (0 < s.me.bun.scope))) := by
  have hroom' : ¬ (cs.any fun c => s.walkerFull s.cur.cid c.va) = true := fun h => any_walkerFull.mp h hroom
  rw [storeRun, find?_of_aligned hal, h]
  exact if_neg hroom'

theorem cells_storePart (p : List (Nat × Loc)) :
    ((storePart s kind data keep cs p).map (·.cells)).getD [] = storeCells data keep p := by
  unfold storePart
  split
  next h =>
    obtain ⟨hempty, _⟩ := Bool.and_eq_true_iff.mp h
    exact (List.isEmpty_iff.mp hempty).symm
  next => rfl

theorem flatMap_storeAccs (ls : List (Nat × Loc)) : (storeAccs s kind data keep cs ls).flatMap (·.cells) =
    storeCells data keep ls := by
  have hparts (l : List (List (Nat × Loc))) : (l.filterMap (storePart s kind data keep cs)).flatMap (·.cells) =
      l.flatMap (storeCells data keep) := by
    induction l with
    | nil => rfl
    | cons p t ih =>
      rw [List.filterMap_cons, List.flatMap_cons, ← ih, ← cells_storePart (s := s) (kind := kind) (cs := cs) p]
      cases storePart s kind data keep cs p <;> rfl
  have hflat (l : List (List (Nat × Loc))) : l.flatMap (storeCells data keep) = storeCells data keep l.flatten := by
    induction l with
    | nil => rfl
    | cons p t ih => rw [List.flatMap_cons, ih, List.flatten_cons, storeCells, storeCells, storeCells, List.filterMap_append]
  rw [storeAccs, hparts, hflat, accessParts, List.flatten_splitBy]

theorem storeIssued_storeRun (hal : Aligned align cs) {ls : List (Nat × Loc)}
    (h : locateChunks s s.cur.cid .write reach cs = .ok ls) (hroom : WalkerRoom s cs) :
    StoreIssued s (storeRun s kind reach align data keep cs) kind data keep ls := by
  rw [storeRun_goesOut hal h hroom]
  have hiss := ((issued_noteWalks s cs).modCtx fun c => (c.noteStores s.cur.slot
    (markFirst none (storeAccs s kind data keep cs ls))).pushM (markFirst none (storeAccs s kind data keep cs ls))).markCk
    (strange ls || (kind == .release && decide (0 < s.me.bun.scope)))
  refine ⟨hiss.frame rfl rfl, by rw [hiss.me]; rfl, numbered s.me.seq (markFirst none (storeAccs s kind data keep cs ls)),
    by rw [hiss.me]; rfl, ?_, ?_⟩
  · rw [List.flatMap_def, map_numbered_markFirst _ (fun _ _ => rfl) fun _ _ => rfl, ← List.flatMap_def, flatMap_storeAccs]
    rfl
  · have hparts : ∀ a ∈ storeAccs s kind data keep cs ls, (a.kind, a.locs, a.cid) = (kind, [], s.cur.cid) := by
      intro a ha
      obtain ⟨p, _, hp⟩ := List.mem_filterMap.mp ha
      unfold storePart at hp
      split at hp
      · cases hp
      · cases hp
        rfl
    intro a ha
    simpa using forall_numbered (fun _ _ => rfl) (fun _ _ => rfl) hparts s.me.seq a ha

/-- A store that asks for nothing leaves nothing. -/
theorem storeIssued_none (s : State) (kind : MKind) (data : List Byte) (keep : Nat → Bool) : StoreIssued s s kind data keep [] :=
  ⟨(Issued.refl s).frame rfl rfl, rfl, [], (List.append_nil _).symm, rfl, fun _ h => nomatch h⟩

end StoreOutcomes

/-- How a store executes: as the shared one, or not at all where its base is invalid. -/
def RunsStore (s : State) (x : StoreShape) : Prop :=
  exec x.instr s = .next (storeRun s x.kind x.reach x.align x.data x.keep x.cs) ∨ (x.cs = [] ∧ exec x.instr s = .next s)

section StoreForms

variable {f : MFld} {s : State}

theorem scalarStore_on (hg : Enabled f.g s) (hb : (s.me.r.readS f.base).ok = true) (kind : MKind) (size : Nat) :
    scalarStore kind size f s = .next (storeRun s kind .plain size (leBytes size (s.me.r.readS f.data).bits.toNat)
      (fun i => if i < 4 then (s.me.r.readS f.data).ok0 else (s.me.r.readS f.data).ok1) (stretchOf s f size)) := by
  rw [scalarStore, slotRun_on _ hg]
  simp only [mAddr_eq, if_pos hb, stretchOf]

theorem scalarStore_off (hg : Enabled f.g s) (hb : (s.me.r.readS f.base).ok = false) (kind : MKind) (size : Nat) :
    scalarStore kind size f s = .next s := by
  rw [scalarStore, slotRun_on _ hg]
  simp only [mAddr_eq, hb, Bool.false_eq_true, if_false]

theorem vectorStore_on (hg : Enabled f.g s) (hb : (s.me.r.readS f.base).ok = true) {v : VVal} (hv : s.me.r.vsrc f.data = some v)
    (reach : Reach) (align n : Nat) : vectorStore reach align n f s =
      .next (storeRun s .store reach align (vecBytes v n) (fun i => (v.word (i / 4)).ok) (stretchOf s f (4 * n))) := by
  rw [vectorStore, slotRun_on _ hg]
  simp only [mAddr_eq, if_pos hb, stretchOf, hv]
  rfl

theorem vectorStore_off (hg : Enabled f.g s) (hb : (s.me.r.readS f.base).ok = false) {v : VVal}
    (hv : s.me.r.vsrc f.data = some v) (reach : Reach) (align n : Nat) : vectorStore reach align n f s = .next s := by
  rw [vectorStore, slotRun_on _ hg]
  simp only [mAddr_eq, hb, Bool.false_eq_true, if_false, hv]

theorem vectorStore_illegal (hg : Enabled f.g s) (hv : s.me.r.vsrc f.data = none) (reach : Reach) (align n : Nat) :
    vectorStore reach align n f s = .next s.illegalSlot := by
  rw [vectorStore, slotRun_on _ hg]
  simp only [hv]

theorem stretchOf_off (hb : (s.me.r.readS f.base).ok = false) (n : Nat) : stretchOf s f n = [] :=
  if_neg (by rw [hb]; exact Bool.false_ne_true)

theorem runsStore_scalar (hg : Enabled f.g s) : ∀ x ∈ stores f s, RunsStore s x := by
  simp only [stores, List.forall_mem_map]
  intro e he
  have hexec : exec (e.1 f) s = scalarStore e.2.1 e.2.2 f s := by
    revert e
    simp only [storeForms, List.forall_mem_cons]
    exact ⟨rfl, rfl, rfl, rfl, rfl, rfl, fun _ h => nomatch h⟩
  by_cases hb : (s.me.r.readS f.base).ok = true
  · exact .inl (hexec.trans (scalarStore_on hg hb ..))
  · have hb := Bool.eq_false_of_not_eq_true hb
    exact .inr ⟨stretchOf_off hb _, hexec.trans (scalarStore_off hg hb ..)⟩

theorem exec_vstoreForms : ∀ e ∈ vstoreForms, exec (e.1 f) s = vectorStore e.2.1 e.2.2.1 e.2.2.2 f s := by
  simp only [vstoreForms, List.forall_mem_cons]
  exact ⟨rfl, rfl, rfl, rfl, fun _ h => nomatch h⟩

theorem runsStore_vector (hg : Enabled f.g s) {v : VVal} (hv : s.me.r.vsrc f.data = some v) :
    ∀ x ∈ vstores f s v, RunsStore s x := by
  simp only [vstores, List.forall_mem_append, List.forall_mem_map, List.forall_mem_cons]
  refine ⟨fun e he => ?_, .inl ?_, fun _ h => nomatch h⟩
  · by_cases hb : (s.me.r.readS f.base).ok = true
    · exact .inl ((exec_vstoreForms e he).trans (vectorStore_on hg hb hv ..))
    · have hb := Bool.eq_false_of_not_eq_true hb
      exact .inr ⟨stretchOf_off hb _, (exec_vstoreForms e he).trans (vectorStore_off hg hb hv ..)⟩
  · have hcond (i : Nat) : ((s.me.r.readS f.base).ok && ((indexOf s f).1.word i).ok && (v.word i).ok) = true ↔
        gatherOk s f i = true ∧ (v.word i).ok = true := Bool.and_eq_true_iff
    rw [exec_stvx, execStvx, slotRun_on _ hg]
    simp only [hv, indexAddr_eq, hcond]
    rfl

end StoreForms

/-- Settles O25: each store is the shared one with its bytes, which goes out, or does nothing. -/
theorem storesIssue : Obligations.StoresIssue := by
  have hissues {s : State} {x : StoreShape} (hx : RunsStore s x) {ls : List (Nat × Loc)} (hal : Aligned x.align x.cs)
      (hroom : WalkerRoom s x.cs) (hls : locateChunks s s.cur.cid .write x.reach x.cs = .ok ls) :
      ∃ t, exec x.instr s = .next t ∧ StoreIssued s t x.kind x.data x.keep ls := by
    rcases hx with hx | ⟨hcs, hx⟩
    · exact ⟨_, hx, storeIssued_storeRun hal hls hroom⟩
    · rw [hcs] at hls
      cases hls
      exact ⟨s, hx, storeIssued_none ..⟩
  exact fun f s ls hg => ⟨fun x hx hal hroom hls => hissues (runsStore_scalar hg x hx) hal hroom hls,
    fun v hv x hx hal hroom hls => hissues (runsStore_vector hg hv x hx) hal hroom hls⟩

/-! ### Accesses that do not go out (R62, R83, R152, R225, R284, R285) -/

/-- Settles O26: the checks of a load and of a store come in a fixed order, and each has its own answer. -/
theorem accessesThatDoNotGoOut : Obligations.AccessesThatDoNotGoOut := by
  refine ⟨fun f s x hx hg => ?_, fun f s hg => ?_, fun f s hg hb => ⟨fun e he => ?_, fun e he v hv => ?_⟩,
    fun f s hg hv => ⟨fun e he => ?_, ?_⟩⟩
  · rw [exec_loads hg x hx]
    exact ⟨fun h => congrArg _ (loadRun_collides h), fun hfree => ⟨fun c hc => congrArg _ (loadRun_misaligned hfree hc),
      fun hal => ⟨fun e he => congrArg _ (loadRun_faults hfree hal he), fun ls hls =>
        ⟨fun hfull => congrArg _ (loadRun_full hfree hal hls hfull),
          fun hfull hroom => congrArg _ (loadRun_noRoom hfree hal hls hfull hroom)⟩⟩⟩⟩
  · intro stops
    have hstops (x : StoreShape) (hx : RunsStore s x) : stops x := by
      rcases hx with hx | ⟨hcs, hx⟩
      · exact ⟨fun c hc => hx.trans (congrArg _ (storeRun_misaligned hc)), fun hal =>
          ⟨fun e he => hx.trans (congrArg _ (storeRun_faults hal he)),
            fun ls hls hroom => hx.trans (congrArg _ (storeRun_noRoom hal hls hroom))⟩⟩
      · refine ⟨fun c hc => ?_, fun _ => ⟨fun e he => ?_, fun ls _ hroom => absurd ?_ hroom⟩⟩
        · rw [hcs] at hc
          cases hc
        · rw [hcs] at he
          cases he
        · rw [WalkerRoom, hcs]
          exact fun _ h => nomatch h
    exact ⟨fun x hx => hstops x (runsStore_scalar hg x hx), fun v hv x hx => hstops x (runsStore_vector hg hv x hx)⟩
  · revert e
    simp only [storeForms, List.forall_mem_cons]
    exact ⟨scalarStore_off hg hb .., scalarStore_off hg hb .., scalarStore_off hg hb .., scalarStore_off hg hb ..,
      scalarStore_off hg hb .., scalarStore_off hg hb .., fun _ h => nomatch h⟩
  · exact (exec_vstoreForms e he).trans (vectorStore_off hg hb hv ..)
  · exact (exec_vstoreForms e he).trans (vectorStore_illegal hg hv ..)
  · rw [exec_stvx, execStvx, slotRun_on _ hg]
    simp only [hv]

/-! ### Fences (R158, R159) -/

/-- Settles O27: a fence enters the queue as one access of its own. -/
theorem fencesEnterTheQueue : Obligations.FencesEnterTheQueue := by
  intro i k f s hi hg
  have hiss := ((Issued.refl s).modCtx fun c => c.pushM [mkAcc s k 0 []]).markCk (decide (0 < s.me.bun.scope))
  refine ⟨fenceRun k s, { mkAcc s k 0 [] with seq := s.me.seq + 0 }, ?_, hiss.frame rfl rfl, ?_, ?_, ?_, rfl, rfl, rfl, rfl, rfl⟩
  · rcases hi with ⟨rfl, rfl⟩ | ⟨rfl, rfl⟩
    · exact slotRun_on _ hg
    · exact slotRun_on _ hg
  all_goals exact hiss.me ▸ rfl

end Sys2Proof.Claims


namespace Sys2Proof.Claims

open Sys2Proof.Machine

/-! ### Accumulator atomics at issue (R161) -/

theorem place_eq (ls : List (Nat × Loc)) (i : Nat) : (ls.getD i (0, ⟨0, 0, 0, 0, false⟩)).2.key = placeAt ls i := by
  rw [List.getD_eq_getElem?_getD, placeAt]
  cases ls[i]? <;> rfl

theorem head_place (ls : List (Nat × Loc)) : (ls.head?.map (·.2.key)).getD 0 = placeAt ls 0 := by
  cases ls <;> rfl

section Atomic

variable {s : State} {op size va : Nat} {isFp : Bool} {ops : List (Nat × BitVec 32)}

theorem atomicRun_misaligned (h : va % size ≠ 0) : atomicRun s op size va isFp ops = s.slotTrap 6 va :=
  if_pos (bne_iff_ne.mpr h)

theorem atomicRun_aligned (h : va % size = 0) : ¬ (va % size != 0) = true := by simp [h]

theorem atomicRun_faults (hal : va % size = 0) {e : AFault}
    (h : locateChunks s s.cur.cid .readWrite .atomic [⟨0, va, size⟩] = .error e) :
    atomicRun s op size va isFp ops = s.slotFault .atomic e := by
  rw [atomicRun, if_neg (atomicRun_aligned hal), h]

/-- The region check of an FP add in deterministic operation. -/
theorem farAdd_iff (s : State) (isFp : Bool) (ls : List (Nat × Loc)) :
    (isFp && s.me.bind.det && ls.any fun l => l.2.region == 5) = true ↔
      isFp = true ∧ s.me.bind.det = true ∧ ∃ x ∈ ls, x.2.region = 5 := by
  simp [and_assoc]

theorem atomicRun_far (hal : va % size = 0) {ls : List (Nat × Loc)}
    (h : locateChunks s s.cur.cid .readWrite .atomic [⟨0, va, size⟩] = .ok ls)
    (hfar : isFp = true ∧ s.me.bind.det = true ∧ ∃ x ∈ ls, x.2.region = 5) :
    atomicRun s op size va isFp ops = s.slotTrap 6 va := by
  rw [atomicRun, if_neg (atomicRun_aligned hal), h]
  exact if_pos ((farAdd_iff ..).mpr hfar)

/-- An atomic that goes out enters the queue as one access with its operands. -/
theorem atomicRun_goesOut (hal : va % size = 0) {ls : List (Nat × Loc)}
    (h : locateChunks s s.cur.cid .readWrite .atomic [⟨0, va, size⟩] = .ok ls)
    (hfar : ¬ (isFp = true ∧ s.me.bind.det = true ∧ ∃ x ∈ ls, x.2.region = 5)) :
    ∃ m, IssueFrame s (atomicRun s op size va isFp ops) ∧ (atomicRun s op size va isFp ops).me.r.land = s.me.r.land ∧
      (atomicRun s op size va isFp ops).me.mq = s.me.mq ++ [m] ∧ m.kind = .atomic op ∧ m.seq = s.me.seq ∧ m.cid = s.cur.cid ∧
      m.locs = [] ∧ m.operands = ops.map fun o => (placeAt ls o.1, o.2) := by
  have hrun : atomicRun s op size va isFp ops = s.modCtx s.cur.cid fun c => c.pushM
      [{ mkAcc s (.atomic op) 0 ls with va := va, operands := ops.map fun o => (placeAt ls o.1, o.2) }] := by
    rw [atomicRun, if_neg (atomicRun_aligned hal), h]
    simp only [place_eq]
    exact if_neg ((farAdd_iff ..).not.mpr hfar)
  have hiss := (Issued.refl s).modCtx fun c => c.pushM
    [{ mkAcc s (.atomic op) 0 ls with va := va, operands := ops.map fun o => (placeAt ls o.1, o.2) }]
  rw [hrun]
  exact ⟨_, hiss.frame rfl rfl, by rw [hiss.me]; rfl, by rw [hiss.me]; rfl, rfl, rfl, rfl, rfl, rfl⟩

end Atomic

section Fetch

variable {op : Nat} {f : MFld} {s : State}

/-- The entry of a fetch in the landing buffer. -/
def fetchEntry (s : State) (f : MFld) (oks : List Bool) (bs : List (Option Byte)) (arrived : Bool) (keys : List Nat) : MReq :=
  ⟨s.me.nextId, s.cur.slot, (s.core (coreOf s.cur.cid)).cc + delayOf f.lat, .sreg f.data 4 true, oks, bs, arrived,
    false, none, s.earliest keys, s.me.seq⟩

/-- A fetch that lands on nothing goes by its base. -/
theorem accFetch_off (hg : Enabled f.g s) (hfree : Free s (delayOf f.lat) [.sreg f.data (SVal.mkOk 0)])
    (hb : (s.me.r.readS f.base).ok = false) : accFetch op f s = .next (if 32 ≤ landHeld s then s.holdForLanding
      else s.addReq (delayOf f.lat) (.sreg f.data 4 true) [false] [] true none []) := by
  rw [accFetch, slotRun_on _ hg]
  refine congrArg _ ((if_neg (Bool.not_eq_true _ ▸ hfree)).trans ?_)
  simp only [mAddr_eq, hb, Bool.false_eq_true, if_false]
  rfl

theorem accFetch_waits (hg : Enabled f.g s) (hfree : Free s (delayOf f.lat) [.sreg f.data (SVal.mkOk 0)])
    (hb : (s.me.r.readS f.base).ok = false) (hroom : landHeld s < 32) :
    ∃ t, accFetch op f s = .next t ∧ IssueFrame s t ∧ t.me.mq = s.me.mq ∧
      t.me.r.land = s.me.r.land ++ [fetchEntry s f [false] [] true []] := by
  have hiss := (Issued.refl s).addReq rfl rfl (delayOf f.lat) (.sreg f.data 4 true) [false] [] true none []
  refine ⟨_, (accFetch_off hg hfree hb).trans (congrArg _ (if_neg (Nat.not_le.mpr hroom))), hiss.frame rfl rfl, ?_, ?_⟩
  · rw [hiss.me]
  · rw [hiss.me]
    rfl

theorem accFetch_misaligned (hg : Enabled f.g s) (hfree : Free s (delayOf f.lat) [.sreg f.data (SVal.mkOk 0)])
    (hb : (s.me.r.readS f.base).ok = true) (hal : addrOf s f 4 % 4 ≠ 0) :
    accFetch op f s = .next (s.slotTrap 6 (addrOf s f 4)) := by
  rw [accFetch, slotRun_on _ hg]
  refine congrArg _ ((if_neg (Bool.not_eq_true _ ▸ hfree)).trans ?_)
  simp only [mAddr_eq, if_pos hb]
  exact if_pos (bne_iff_ne.mpr hal)

theorem accFetch_faults (hg : Enabled f.g s) (hfree : Free s (delayOf f.lat) [.sreg f.data (SVal.mkOk 0)])
    (hb : (s.me.r.readS f.base).ok = true) (hal : addrOf s f 4 % 4 = 0) {e : AFault}
    (h : locateChunks s s.cur.cid .readWrite .atomic [⟨0, addrOf s f 4, 4⟩] = .error e) :
    accFetch op f s = .next (s.slotFault .atomic e) := by
  rw [accFetch, slotRun_on _ hg]
  refine congrArg _ ((if_neg (Bool.not_eq_true _ ▸ hfree)).trans ?_)
  simp only [mAddr_eq, if_pos hb]
  rw [if_neg (atomicRun_aligned hal), h]

theorem accFetch_full (hg : Enabled f.g s) (hfree : Free s (delayOf f.lat) [.sreg f.data (SVal.mkOk 0)])
    (hb : (s.me.r.readS f.base).ok = true) (hal : addrOf s f 4 % 4 = 0) {ls : List (Nat × Loc)}
    (h : locateChunks s s.cur.cid .readWrite .atomic [⟨0, addrOf s f 4, 4⟩] = .ok ls) (hfull : 32 ≤ landHeld s) :
    accFetch op f s = .next s.holdForLanding := by
  rw [accFetch, slotRun_on _ hg]
  refine congrArg _ ((if_neg (Bool.not_eq_true _ ▸ hfree)).trans ?_)
  simp only [mAddr_eq, if_pos hb]
  rw [if_neg (atomicRun_aligned hal), h]
  exact if_pos hfull

/-- The access of a fetch. -/
def fetchAcc (s : State) (op : Nat) (f : MFld) (ls : List (Nat × Loc)) : MAcc :=
  { mkAcc s (.atomic op) s.me.nextId ls with
    va := addrOf s f 4, locs := ls.map fun x => (x.1, x.2.key),
    operands := if (s.me.r.readS f.data).ok0 = true then [(placeAt ls 0, (s.me.r.readS f.data).bits.lo)] else [] }

theorem accFetch_goesOut (hg : Enabled f.g s) (hfree : Free s (delayOf f.lat) [.sreg f.data (SVal.mkOk 0)])
    (hb : (s.me.r.readS f.base).ok = true) (hal : addrOf s f 4 % 4 = 0) {ls : List (Nat × Loc)}
    (h : locateChunks s s.cur.cid .readWrite .atomic [⟨0, addrOf s f 4, 4⟩] = .ok ls) (hroom : landHeld s < 32) :
    ∃ t m, accFetch op f s = .next t ∧ IssueFrame s t ∧
      t.me.r.land = s.me.r.land ++ [fetchEntry s f [true] (List.replicate 4 none) false (ls.map (·.2.key))] ∧
      t.me.mq = s.me.mq ++ [m] ∧ m.kind = .atomic op ∧ m.req = s.me.nextId ∧ m.seq = s.me.seq ∧ m.cid = s.cur.cid ∧
      m.locs = ls.map (fun x => (x.1, x.2.key)) ∧
      m.operands = (if (s.me.r.readS f.data).ok0 = true then [(placeAt ls 0, (s.me.r.readS f.data).bits.lo)] else []) := by
  have hiss := ((Issued.refl s).addReq rfl rfl (delayOf f.lat) (.sreg f.data 4 true) [true] (List.replicate 4 none) false none
    (ls.map (·.2.key))).modCtx fun c => c.pushM [fetchAcc s op f ls]
  refine ⟨_, { fetchAcc s op f ls with seq := s.me.seq + 0 }, ?_, hiss.frame rfl rfl, ?_, ?_, rfl, rfl, rfl, rfl, rfl, rfl⟩
  · rw [accFetch, slotRun_on _ hg]
    refine congrArg _ ((if_neg (Bool.not_eq_true _ ▸ hfree)).trans ?_)
    simp only [mAddr_eq, if_pos hb]
    rw [if_neg (atomicRun_aligned hal), h]
    simp only [head_place]
    exact if_neg (Nat.not_le.mpr hroom)
  · rw [hiss.me]
    rfl
  · rw [hiss.me]
    rfl

end Fetch

theorem exec_addForms : ∀ e ∈ addForms, ∀ (f : MFld) (s : State), exec (e.1 f) s = accAdd e.2.1 e.2.2 f s := by
  simp only [addForms, List.forall_mem_cons]
  exact ⟨fun _ _ => rfl, fun _ _ => rfl, fun _ h => nomatch h⟩

theorem exec_fetchForms : ∀ e ∈ fetchForms, ∀ (f : MFld) (s : State), exec (e.1 f) s = accFetch e.2 f s := by
  simp only [fetchForms, List.forall_mem_cons]
  exact ⟨fun _ _ => rfl, fun _ _ => rfl, fun _ h => nomatch h⟩

section AddForms

variable {f : MFld} {s : State}

theorem accAdd_off (op : Nat) (isFp : Bool) (hg : Enabled f.g s) (hb : (s.me.r.readS f.base).ok = false) :
    accAdd op isFp f s = .next s := by
  rw [accAdd, slotRun_on _ hg]
  simp only [mAddr_eq, hb, Bool.false_eq_true, if_false]

theorem accAdd_on (op : Nat) (isFp : Bool) (hg : Enabled f.g s) (hb : (s.me.r.readS f.base).ok = true) :
    accAdd op isFp f s = .next (atomicRun s op 4 (addrOf s f 4) isFp
      (if (s.me.r.readS f.data).ok0 then [(0, (s.me.r.readS f.data).bits.lo)] else [])) := by
  rw [accAdd, slotRun_on _ hg]
  simp only [mAddr_eq, if_pos hb]

theorem accAddvF_off (hg : Enabled f.g s) {v : VVal} (hv : s.me.r.vsrc f.data = some v)
    (hb : (s.me.r.readS f.base).ok = false) : exec (.accAddvF f) s = .next s := by
  rw [exec_accAddvF, execAccAddvF, slotRun_on _ hg]
  simp only [mAddr_eq, hv, hb, Bool.false_eq_true, if_false]

theorem accAddvF_on (hg : Enabled f.g s) {v : VVal} (hv : s.me.r.vsrc f.data = some v)
    (hb : (s.me.r.readS f.base).ok = true) : exec (.accAddvF f) s = .next (atomicRun s 0x26 128 (addrOf s f 128) true
      ((List.range 32).filterMap fun i => if (v.word i).ok then some (4 * i, (v.word i).bits) else none)) := by
  rw [exec_accAddvF, execAccAddvF, slotRun_on _ hg]
  simp only [mAddr_eq, hv, if_pos hb]

end AddForms

/-- Settles O28: each atomic checks its base, its place and its area in turn, and then enters the queue. -/
theorem accumulatorAtomicsIssue : Obligations.AccumulatorAtomicsIssue := by
  refine ⟨fun e he f s hg => ?_, fun e he f s hg hfree => ?_, fun f s v hg hv => ?_⟩
  · intro va a
    rw [exec_addForms e he]
    refine ⟨accAdd_off _ _ hg, fun hb hal => ?_, fun hb hal => ⟨fun x hx => ?_, fun ls hls => ⟨fun hfar => ?_, fun hfar => ?_⟩⟩⟩
    · rw [accAdd_on _ _ hg hb, atomicRun_misaligned hal]
    · rw [accAdd_on _ _ hg hb, atomicRun_faults hal hx]
    · rw [accAdd_on _ _ hg hb, atomicRun_far hal hls hfar]
    · obtain ⟨m, hframe, hland, hmq, hkind, hseq, hcid, hlocs, hops⟩ := atomicRun_goesOut (op := e.2.1)
        (ops := if a.ok0 then [(0, a.bits.lo)] else []) hal hls hfar
      refine ⟨_, m, accAdd_on _ _ hg hb, hframe, hland, hmq, hkind, hseq, hcid, hlocs, hops.trans ?_⟩
      split <;> rfl
  · intro va d entry
    rw [exec_fetchForms e he]
    refine ⟨fun hb hroom => accFetch_waits hg hfree hb hroom, fun hb hal => accFetch_misaligned hg hfree hb hal,
      fun hb hal => ⟨fun x hx => accFetch_faults hg hfree hb hal hx, fun ls hls hfull => accFetch_full hg hfree hb hal hls hfull,
        fun ls hls hroom => accFetch_goesOut hg hfree hb hal hls hroom⟩, fun hfull hb => ?_⟩
    rw [accFetch_off hg hfree hb, if_pos hfull]
  · intro va
    refine ⟨accAddvF_off hg hv, fun hb hal => ?_, fun hb hal => ⟨fun x hx => ?_, fun ls hls => ⟨fun hfar => ?_, fun hfar => ?_⟩⟩⟩
    · rw [accAddvF_on hg hv hb, atomicRun_misaligned hal]
    · rw [accAddvF_on hg hv hb, atomicRun_faults hal hx]
    · rw [accAddvF_on hg hv hb, atomicRun_far hal hls ⟨rfl, hfar⟩]
    · obtain ⟨m, hframe, hland, hmq, hkind, hseq, hcid, hlocs, hops⟩ := atomicRun_goesOut (op := 0x26) (isFp := true)
        (ops := (List.range 32).filterMap fun i => if (v.word i).ok then some (4 * i, (v.word i).bits) else none) hal hls
        fun h => hfar h.2
      refine ⟨_, m, accAddvF_on hg hv hb, hframe, hland, hmq, hkind, hseq, hcid, hlocs, hops.trans ?_⟩
      rw [List.map_filterMap]
      refine List.filterMap_congr fun i _ => ?_
      split <;> rfl

end Sys2Proof.Claims


namespace Sys2Proof.Claims

open Sys2Proof.Machine

/-! ### Stream registers (R162, R247) -/

theorem stream_setStream (r : Regs) {n : Nat} (hn : n < 8) (v : Option Stream) (i : Nat) :
    (r.setStream n v).stream i = if i = n then v else r.stream i := by
  simp only [Regs.stream, Regs.setStream, hn, dite_true, Vector.toList_set, List.getD_eq_getElem?_getD, List.getElem?_set]
  by_cases h : i = n
  · simp [h, hn]
  · simp [h, Ne.symm h]

/-- Setting a stream register changes the stream registers alone. -/
theorem setStream_eq (r : Regs) (n : Nat) (v : Option Stream) :
    r.setStream n v = { r with streams := (r.setStream n v).streams } := by
  unfold Regs.setStream
  split <;> rfl

theorem land_setStream (r : Regs) (n : Nat) (v : Option Stream) : (r.setStream n v).land = r.land := by
  rw [setStream_eq]

/-- A request as the oldest element of a stream reaches it. -/
def popped (id : Nat) (e : List VWord) (y : MReq) : MReq :=
  if y.id = id then { y with bytes := e.flatMap fun w => (leBytes 4 w.bits.toNat).map some, arrived := true, qn := none } else y

theorem popInto_eq {r : Regs} {n id : Nat} {q : Stream} {e : List VWord} {es : List (List VWord)} (hq : r.stream n = some q)
    (he : q.elems = e :: es) : r.popInto n id = { r with land := r.land.map (popped id e) }.setStream n
      (if q.closed = true ∧ es = [] then none else some { q with elems := es }) := by
  unfold Regs.popInto
  rw [hq]
  simp only [he]
  cases es <;> simp [elemBytes] <;> rfl

theorem servePop_eq {s : State} {cid n : Nat} {x : MReq} {xs : List MReq} (hx : (s.ctx cid).r.pops n = x :: xs)
    (hb : s.blockedAt cid 1 x.seq false = false) : s.servePop cid n = s.modRegs cid fun r => r.popInto n x.id := by
  unfold State.servePop
  rw [hx]
  simp [hb]

theorem servePop_blocked {s : State} {cid n : Nat} {x : MReq} {xs : List MReq} (hx : (s.ctx cid).r.pops n = x :: xs)
    (hb : s.blockedAt cid 1 x.seq false = true) : s.servePop cid n = s := by
  unfold State.servePop
  rw [hx]
  simp [hb]

theorem servePop_none {s : State} {cid n : Nat} (h : (s.ctx cid).r.pops n = []) : s.servePop cid n = s := by
  unfold State.servePop
  rw [h]

/-! ### qrd and qwr -/

section

variable {f : MFld} {s : State} {q : Stream}

/-- The executing context's state after a pop has taken its place. -/
def popIssued (s : State) (f : MFld) : State :=
  (s.addReq (delayOf f.lat) (.vreg (f.data.setWidth 5) 32) (List.replicate 32 true) (List.replicate 128 none) false
    (some (f.base.toNat % 8)) []).modCtx s.cur.cid fun c => { c with seq := c.seq + 1 }

theorem exec_qrd_goesOut (hg : Enabled f.g s) (hq : s.me.r.stream (f.base.toNat % 8) = some q) (hin : q.output = false)
    (hleft : q.closed = true → (s.me.r.pops (f.base.toNat % 8)).length < q.elems.length) (hroom : landHeld s < 32)
    (hfree : Free s (delayOf f.lat) [.vreg (f.data.setWidth 5) 32 VVal.zero]) :
    exec (.qrd f) s = .next ((popIssued s f).servePop s.cur.cid (f.base.toNat % 8)) := by
  have hlast : ¬ (q.output || (q.closed && decide (q.elems.length ≤ (s.me.r.pops (f.base.toNat % 8)).length))) = true := by
    cases hc : q.closed
    · simp [hin]
    · simpa [hin] using hleft hc
  have hmeets : ¬ s.collides (landDelay f.lat) (LandDest.vreg (f.data.setWidth 5) 32).writes = true :=
    (Bool.not_eq_true _).mpr hfree
  rw [exec_qrd, execQrd, slotRun_on _ hg]
  simp only [hq]
  rw [if_neg hlast, if_neg hmeets, if_neg (Nat.not_le.mpr hroom)]
  rfl

theorem exec_qrd_unbound (hg : Enabled f.g s) (hq : s.me.r.stream (f.base.toNat % 8) = none) :
    exec (.qrd f) s = .next s.illegalSlot := by
  rw [exec_qrd, execQrd, slotRun_on _ hg]
  simp only [hq]

theorem exec_qrd_refused (hg : Enabled f.g s) (hq : s.me.r.stream (f.base.toNat % 8) = some q)
    (h : q.output = true ∨ (q.closed = true ∧ q.elems.length ≤ (s.me.r.pops (f.base.toNat % 8)).length)) :
    exec (.qrd f) s = .next s.illegalSlot := by
  rw [exec_qrd, execQrd, slotRun_on _ hg]
  simp only [hq]
  rw [if_pos (by simpa using h)]

/-- A place on a stream is taken behind what the context has sent, and its request waits for an element. -/
theorem issued_popIssued (s : State) (f : MFld) : Issued s (popIssued s f)
    { s.me with seq := s.me.seq + 1, nextId := s.me.nextId + 1, r := { s.me.r with land := s.me.r.land ++
        [⟨s.me.nextId, s.cur.slot, (s.core (coreOf s.cur.cid)).cc + delayOf f.lat, .vreg (f.data.setWidth 5) 32,
          List.replicate 32 true, List.replicate 128 none, false, false, some (f.base.toNat % 8), s.earliest [], s.me.seq⟩] } } :=
  ((Issued.refl s).addReq rfl rfl ..).modCtx _

/-- The executing context after a push: the value is the youngest element of its stream, at its place in the order. -/
def pushed (c : Ctx) (n : Nat) (q : Stream) (v : VVal) : Ctx :=
  { c with seq := c.seq + 1,
           r := c.r.setStream n (some { q with elems := q.elems ++ [v.toList], seqs := q.seqs ++ [c.seq] }) }

variable {v : VVal}

theorem exec_qwr_input (hg : Enabled f.g s) (hv : s.me.r.vsrc f.data = some v)
    (hq : s.me.r.stream (f.base.toNat % 8) = some q) (h : q.output = false) : exec (.qwr f) s = .next s.illegalSlot := by
  rw [exec_qwr, execQwr, slotRun_on _ hg]
  simp [hv, hq, h]

theorem exec_qwr_full (hg : Enabled f.g s) (hv : s.me.r.vsrc f.data = some v)
    (hq : s.me.r.stream (f.base.toNat % 8) = some q) (h : q.output = true) (hfull : 8 ≤ q.elems.length) :
    exec (.qwr f) s = .next (s.hold (some 12)) := by
  rw [exec_qwr, execQwr, slotRun_on _ hg]
  simp [hv, hq, h, hfull]

theorem exec_qwr_room (hg : Enabled f.g s) (hv : s.me.r.vsrc f.data = some v)
    (hq : s.me.r.stream (f.base.toNat % 8) = some q) (h : q.output = true) (hroom : q.elems.length < 8) :
    exec (.qwr f) s = .next (s.modCtx s.cur.cid fun c => pushed c (f.base.toNat % 8) q v) := by
  rw [exec_qwr, execQwr, slotRun_on _ hg]
  simp [hv, hq, h, Nat.not_le.mpr hroom, pushed]

end

/-- Settles O29: a pop takes its place in the issue and is served with the oldest element, a push takes its place with its
value. -/
theorem streamsPopAndPush : Obligations.StreamsPopAndPush := by
  refine ⟨?_, ?_, ?_, ?_, ?_⟩
  · intro f s q n hg hq hin hleft hroom hfree
    have hiss := issued_popIssued s f
    exact ⟨popIssued s f, exec_qrd_goesOut hg hq hin hleft hroom hfree, hiss.frame rfl rfl, hiss.me ▸ rfl, hiss.me ▸ rfl,
      hiss.me ▸ rfl⟩
  · exact fun f s hg => ⟨exec_qrd_unbound hg, fun q => exec_qrd_refused hg⟩
  · intro cid n s q x xs e es hn hq hx he t
    refine ⟨servePop_blocked hx, fun hb => ?_⟩
    have ht : t = s.modRegs cid fun r => r.popInto n x.id := servePop_eq hx hb
    have hr : (t.ctx cid).r = (s.ctx cid).r.popInto n x.id := by simp [ht]
    rw [hr, popInto_eq hq he]
    refine ⟨by rw [ht]; rfl, fun i hi => by simp [ht, hi], land_setStream .., ?_, fun i hi => ?_⟩
    · rw [stream_setStream _ hn, if_pos rfl]
    · rw [stream_setStream _ hn, if_neg hi]
      rfl
  · exact fun cid n s h => servePop_none h
  · intro f s v q n hg hv hq
    refine ⟨exec_qwr_input hg hv hq, exec_qwr_full hg hv hq, fun h hroom => ⟨_, exec_qwr_room hg hv hq h hroom, ?_⟩⟩
    have hn : n < 8 := Nat.mod_lt _ (by decide)
    have hme : (s.modCtx s.cur.cid fun c => pushed c n q v).me = pushed s.me n q v := me_modCtx ..
    have hr : (pushed s.me n q v).r =
      s.me.r.setStream n (some { q with elems := q.elems ++ [v.toList], seqs := q.seqs ++ [s.me.seq] }) := rfl
    refine ⟨⟨rfl, fun i hi => by simp [hi], ?_, rfl⟩, ?_, ?_, ?_, fun i hi => ?_⟩
    · rw [hme, hr, setStream_eq]
    · rw [hme, hr, setStream_eq]
    · rw [hme]
      rfl
    · rw [hme, hr, stream_setStream _ hn, if_pos rfl]
    · rw [hme, hr, stream_setStream _ hn, if_neg hi]

end Sys2Proof.Claims


namespace Sys2Proof.Claims

open Sys2Proof.Machine

/-! ### What the sending of a command leaves, before its unit has it -/

/-- The state t is s but for the executing context, which is c. -/
structure Own (s t : State) (c : Ctx) : Prop where
  mem : t.mem = s.mem
  ctx : ∀ i, t.ctx i = if i = s.cur.cid then c else s.ctx i
  cores : t.cores = s.cores
  clus : t.clus = s.clus
  dies : t.dies = s.dies
  hub : t.hub = s.hub
  cur : t.cur = s.cur
  issuing : t.issuing = s.issuing

namespace Own

variable {s t : State} {c : Ctx}

theorem refl (s : State) : Own s s s.me := ⟨rfl, fun i => by split <;> simp_all [State.me], rfl, rfl, rfl, rfl, rfl, rfl⟩

theorem me (h : Own s t c) : t.me = c := by rw [State.me, h.cur, h.ctx, if_pos rfl]

theorem now (h : Own s t c) : t.now = s.now := by rw [State.now, State.now, State.core, State.core, h.cur, h.cores]

theorem clu (h : Own s t c) (k : Nat) : t.clu k = s.clu k := by rw [State.clu, State.clu, h.clus]

theorem die (h : Own s t c) (d : Nat) : t.die d = s.die d := by rw [State.die, State.die, h.dies]

theorem core (h : Own s t c) (l : Nat) : t.core l = s.core l := by rw [State.core, State.core, h.cores]

/-- A further change of the executing context. -/
theorem modCtx (h : Own s t c) (f : Ctx → Ctx) : Own s (t.modCtx s.cur.cid f) (f c) where
  mem := h.mem
  ctx i := by
    rw [ctx_modCtx, h.ctx, if_pos rfl, h.ctx]
    split <;> rfl
  cores := h.cores
  clus := h.clus
  dies := h.dies
  hub := h.hub
  cur := h.cur
  issuing := h.issuing

/-- The frame of a sent command, where the context keeps its registers but the pending words and the streams. -/
theorem frame (h : Own s t c) (hr : c.r = { s.me.r with words := c.r.words, streams := c.r.streams }) : SendFrame s t :=
  ⟨h.mem, fun i hi => by rw [h.ctx, if_neg hi], by rw [h.me]; exact hr, h.hub⟩

end Own

/-- The fields of a command as its result word reads them: with sD a parameter there is no word (R194). -/
abbrev wordFld (f : TFld) (four : Bool) : TFld := if four then { f with d := 0 } else f

/-- The executing context after it has sent a command (R194, R326). -/
def sentCtx (s : State) (f : TFld) (four : Bool) (val : Option SVal) (wait : TWait) (b6 ck : Bool) : Ctx :=
  { s.me with seq := s.me.seq + 1, nextId := s.me.nextId + 1, bun := { s.me.bun with ck := s.me.bun.ck || ck },
              r := { s.me.r with words := wordsAfter s f four val wait b6 } }

/-- The state in which a sent command reaches its unit. -/
def sentState (s : State) (f : TFld) (four : Bool) (val : Option SVal) (wait : TWait) (b6 ck : Bool) : State :=
  (s.addWord (wordFld f four) s.me.nextId val wait b6).takeSeq.markCk ck

section

variable {s : State} {f : TFld} {four : Bool}

theorem own_addWord (s : State) (f : TFld) (four : Bool) (val : Option SVal) (wait : TWait) (b6 : Bool) :
    Own s (s.addWord (wordFld f four) s.me.nextId val wait b6)
      { s.me with r := { s.me.r with words := wordsAfter s f four val wait b6 } } := by
  have hnone (h : four = true ∨ f.d = 0) : wordsAfter s f four val wait b6 = s.me.r.words := by
    rw [wordsAfter, if_pos h, List.append_nil]
  unfold State.addWord
  cases four with
  | true =>
    rw [hnone (.inl rfl)]
    exact Own.refl s
  | false =>
    change Own s (if f.d = 0 then s else _) _
    by_cases hd : f.d = 0
    · rw [hnone (.inr hd), if_pos hd]
      exact Own.refl s
    · rw [if_neg hd, wordsAfter, if_neg (by simpa using hd)]
      exact (Own.refl s).modCtx _

theorem own_markCk {t : State} {c : Ctx} (h : Own s t c) (b : Bool) :
    Own s (t.markCk b) { c with bun := { c.bun with ck := c.bun.ck || b } } := by
  cases b with
  | false =>
    rw [Bool.or_false]
    exact h
  | true =>
    rw [Bool.or_true, State.markCk, if_pos rfl, h.cur]
    exact h.modCtx fun c => { c with bun := { c.bun with ck := true } }

theorem own_sentState (s : State) (f : TFld) (four : Bool) (val : Option SVal) (wait : TWait) (b6 ck : Bool) :
    Own s (sentState s f four val wait b6 ck) (sentCtx s f four val wait b6 ck) := by
  have h := own_addWord s f four val wait b6
  refine own_markCk (c := { sentCtx s f four val wait b6 ck with bun := s.me.bun }) ?_ ck
  rw [State.takeSeq, h.cur]
  exact h.modCtx fun c => { c with seq := c.seq + 1, nextId := c.nextId + 1 }

/-- The unit has a command whose sending the frame describes. -/
theorem sent_of_own {t : State} {c : Ctx} {wait : TWait} {b6 : Bool} (h : Own s t c)
    (hr : c.r = { s.me.r with words := wordsAfter s f four none wait b6, streams := c.r.streams }) :
    Sent s t f four wait b6 :=
  ⟨h.frame (hr.trans (by rw [hr])), by rw [h.me, hr]⟩

theorem clu_modClu_self (s : State) (k : Nat) (g : Cluster → Cluster) : (s.modClu k g).clu k = g (s.clu k) := by simp

theorem die_modDie_self (s : State) (d : Nat) (g : Die → Die) : (s.modDie d g).die d = g (s.die d) := by simp

/-- A further change of a cluster or a die leaves what the sending of a command says. -/
theorem sent_modClu {t : State} {wait : TWait} {b6 : Bool} (h : Sent s t f four wait b6) (k : Nat) (g : Cluster → Cluster) :
    Sent s (t.modClu k g) f four wait b6 := h

theorem sent_modDie {t : State} {wait : TWait} {b6 : Bool} (h : Sent s t f four wait b6) (d : Nat) (g : Die → Die) :
    Sent s (t.modDie d g) f four wait b6 := h

/-! ### What can become of a command (R62, R75, R83, R194, R195) -/

theorem wordTrouble_none (h : four = true ∨ f.d = 0) : s.wordTrouble (wordFld f four) = none := by
  cases four with
  | true => rfl
  | false => exact if_pos (h.resolve_left (by decide))

theorem wordTrouble_meets (hfour : four = false) (hd : f.d ≠ 0)
    (h : s.collides (16 * (f.m.toNat + 1)) [.sreg f.d (SVal.mkOk 0)] = true) :
    s.wordTrouble (wordFld f four) = some s.illegalSchedule := by
  subst hfour
  exact (if_neg hd).trans (if_pos h)

theorem wordTrouble_full (hfour : four = false) (hd : f.d ≠ 0)
    (h : s.collides (16 * (f.m.toNat + 1)) [.sreg f.d (SVal.mkOk 0)] = false) (hw : 8 ≤ s.me.r.words.length) :
    s.wordTrouble (wordFld f four) = some s.holdForLanding := by
  subst hfour
  exact (if_neg hd).trans ((if_neg ((Bool.not_eq_true _).mpr h)).trans (if_pos hw))

theorem wordTrouble_room (h : four = false ∧ f.d ≠ 0 →
    s.collides (16 * (f.m.toNat + 1)) [.sreg f.d (SVal.mkOk 0)] = false ∧ s.me.r.words.length < 8) :
    s.wordTrouble (wordFld f four) = none := by
  by_cases hw : four = true ∨ f.d = 0
  · exact wordTrouble_none hw
  · obtain ⟨hfour, hd⟩ := not_or.mp hw
    have hfour' := (Bool.not_eq_true _).mp hfour
    obtain ⟨hfree, hlt⟩ := h ⟨hfour', hd⟩
    subst hfour'
    exact (if_neg hd).trans ((if_neg ((Bool.not_eq_true _).mpr hfree)).trans (if_neg (Nat.not_le.mpr hlt)))

variable {x : TSpec} (hg : Enabled f.g s)

include hg

theorem tRun_invalid (hp : paramsOk s x.op f x.four = false) (hw : s.wordTrouble (wordFld f x.four) = none) :
    tRun x f s = .next (sentState s f x.four (some noValue) .command false false) := by
  rw [tRun, slotRun_on _ hg]
  simp only [hp, hw]
  rfl

theorem tRun_illegal (hp : paramsOk s x.op f x.four = true) (hok : x.ok (mkCmd s x.op f x.four) = false) :
    tRun x f s = .next s.illegalSlot := by
  rw [tRun, slotRun_on _ hg]
  simp [hp, hok]

theorem tRun_bad (hp : paramsOk s x.op f x.four = true) (hok : x.ok (mkCmd s x.op f x.four) = true) {va : Nat}
    (hbad : x.bad s (mkCmd s x.op f x.four) = some va) : tRun x f s = .next (s.slotTrap 6 va) := by
  rw [tRun, slotRun_on _ hg]
  simp [hp, hok, hbad]

/-- A command that would leave its slot, with a result word that cannot be pending. -/
theorem tRun_trouble (h : paramsOk s x.op f x.four = false ∨
      (x.ok (mkCmd s x.op f x.four) = true ∧ x.bad s (mkCmd s x.op f x.four) = none)) {e : State}
    (hw : s.wordTrouble (wordFld f x.four) = some e) : tRun x f s = .next e := by
  rw [tRun, slotRun_on _ hg]
  cases hp : paramsOk s x.op f x.four with
  | false => simp only [hw]; rfl
  | true =>
    obtain ⟨hok, hbad⟩ := h.resolve_left (by simp [hp])
    simp only [hok, hbad, hw]
    rfl

theorem tRun_busy (hp : paramsOk s x.op f x.four = true) (hok : x.ok (mkCmd s x.op f x.four) = true)
    (hbad : x.bad s (mkCmd s x.op f x.four) = none) (hw : s.wordTrouble (wordFld f x.four) = none)
    (hbusy : x.busy s (mkCmd s x.op f x.four) = true) :
    tRun x f s = .next (s.hold (if x.op < 0x10 then some 0xF else none)) := by
  rw [tRun, slotRun_on _ hg]
  simp only [hp, hok, hbad, hw, hbusy]
  rfl

theorem tRun_goesOut (hp : paramsOk s x.op f x.four = true) (hok : x.ok (mkCmd s x.op f x.four) = true)
    (hbad : x.bad s (mkCmd s x.op f x.four) = none) (hw : s.wordTrouble (wordFld f x.four) = none)
    (hbusy : x.busy s (mkCmd s x.op f x.four) = false) :
    tRun x f s = .next (x.put (sentState s f x.four none (x.wait (mkCmd s x.op f x.four)) (x.b6 (mkCmd s x.op f x.four)) x.ck)
      (mkCmd s x.op f x.four)) := by
  rw [tRun, slotRun_on _ hg]
  simp only [hp, hok, hbad, hw, hbusy]
  rfl

end

end Sys2Proof.Claims


namespace Sys2Proof.Claims

open Sys2Proof.Machine

/-! ### The commands of the T slot, unit by unit (R199 to R215, R241, R272, R297, R311) -/

theorem exec_engineForms : ∀ e ∈ engineForms, ∀ (f : TFld) (s : State), exec (e.1 f) s =
    tRun ⟨e.2.1, e.2.2, false, fun _ => .command, fun _ => false, engOk, engBusy, engPut, fun _ _ => none⟩ f s := by
  simp only [engineForms, List.forall_mem_cons]
  exact ⟨fun _ _ => rfl, fun _ _ => rfl, fun _ _ => rfl, fun _ _ => rfl, fun _ _ => rfl, fun _ _ => rfl, fun _ _ => rfl,
    fun _ _ => rfl, fun _ _ => rfl, fun _ _ => rfl, fun _ _ => rfl, fun _ _ => rfl, fun _ _ => rfl, nofun⟩

theorem exec_copyForms : ∀ e ∈ copyForms, ∀ (f : TFld) (s : State), exec (e.1 f) s = copyRun e.2 f s := by
  simp only [copyForms, List.forall_mem_cons]
  exact ⟨fun _ _ => rfl, fun _ _ => rfl, fun _ _ => rfl, nofun⟩

theorem exec_eqForms : ∀ e ∈ eqForms, ∀ (f : TFld) (s : State), exec (e.1 f) s = eqRun e.2 f s := by
  simp only [eqForms, List.forall_mem_cons]
  exact ⟨fun _ _ => rfl, fun _ _ => rfl, fun _ _ => rfl, fun _ _ => rfl, fun _ _ => rfl, fun _ _ => rfl, fun _ _ => rfl,
    fun _ _ => rfl, nofun⟩

theorem exec_pkForms : ∀ e ∈ pkForms, ∀ (f : TFld) (s : State), exec (e.1 f) s = pkIssue e.2 f s := by
  simp only [pkForms, List.forall_mem_cons]
  exact ⟨fun _ _ => rfl, fun _ _ => rfl, fun _ _ => rfl, nofun⟩

/-- The checks of a near-memory command with an opcode (R311 to R314, R334). -/
def nmChecks (s : State) (op : Nat) : Cmd → Bool := if op = 0x38 then nmAddOk s else nmOk

theorem exec_nmForms : ∀ e ∈ nmForms, ∀ (f : TFld) (s : State), exec (e.1 f) s =
    tRun ⟨e.2.1, e.2.2, true, fun _ => .command, fun _ => decide (e.2.1 = 0x39), nmChecks s e.2.1, nmBusy, nmPut,
      fun _ _ => none⟩ f s := by
  simp only [nmForms, List.forall_mem_cons]
  exact ⟨fun _ _ => rfl, fun _ _ => rfl, fun _ _ => rfl, nofun⟩

/-! ### Copies and streams bind -/

theorem bindsFor_sentState (s : State) (f : TFld) (four : Bool) (wait : TWait) (b6 ck : Bool) {c : Cmd}
    (hc : c.cid = s.cur.cid) : (sentState s f four none wait b6 ck).bindsFor c = s.bindsFor c := by
  simp only [State.bindsFor, hc, (own_sentState s f four none wait b6 ck).ctx, if_true]
  rfl

/-- A copy as it starts (R243, R247). -/
def firstCopy (c : Cmd) (bs : List (Nat × Nat)) : Copy :=
  ⟨c, if fieldN c.c.toNat 13 3 = 7 then c.rmode.toNat else fieldN c.c.toNat 13 3, 0, 0, bs.map (·.2), [], [], none⟩

/-- The executing context after a copy with the bindings `bs` has started. -/
def copyStarted (c : Cmd) (bs : List (Nat × Nat)) (x : Ctx) : Ctx :=
  { x with binds := bs.foldl (fun l b => l.erase b) x.binds, copies := x.copies ++ [firstCopy c bs] }

theorem copyPut_eq (s : State) (c : Cmd) : copyPut s c = s.modCtx c.cid (copyStarted c (s.bindsFor c)) := rfl

/-- The elements that wait in front of a new binding of a stream (R247). -/
def keptElems (r : Regs) (n : Nat) (out : Bool) : List (List VWord) :=
  ((r.stream n).map fun q => if out then [] else q.elems).getD []

/-- A stream as `cp.bind` binds it. -/
def newStream (c : Cmd) (r : Regs) : Stream :=
  ⟨decide (8 ≤ c.a.toNat), c.m, keptElems r (c.a.toNat % 8) (decide (8 ≤ c.a.toNat)), false, []⟩

/-- The executing context after `cp.bind`. -/
def streamBound (c : Cmd) (x : Ctx) : Ctx :=
  { x with binds := x.binds ++ [(c.m, c.a.toNat)], r := x.r.setStream (c.a.toNat % 8) (some (newStream c x.r)) }

theorem bindPut_eq (s : State) (c : Cmd) : bindPut s c = s.modCtx c.cid (streamBound c) := by
  unfold bindPut
  dsimp only
  refine congrArg (s.modCtx c.cid) (funext fun x => ?_)
  unfold streamBound newStream keptElems
  cases x.r.stream (c.a.toNat % 8) <;> rfl

/-- Settles O31: the command is sent, and its unit's change is one of the executing context. -/
theorem copiesStart : Obligations.CopiesStart := by
  refine ⟨?_, ?_⟩
  · intro e he f s c hsend hok hroom
    obtain ⟨hg, hp, hw⟩ := hsend
    have hown := (own_sentState s f true none .command false true).modCtx (copyStarted c (s.bindsFor c))
    have hrun := (exec_copyForms e he f s).trans (tRun_goesOut hg hp hok rfl hw (decide_eq_false (Nat.not_le.mpr hroom)))
    refine ⟨_, firstCopy c (s.bindsFor c), hrun.trans (congrArg _ ?_), sent_of_own hown rfl, hown.me ▸ rfl, rfl, rfl, rfl, rfl,
      rfl, rfl, rfl⟩
    exact (copyPut_eq ..).trans (congrArg (fun bs => State.modCtx _ _ (copyStarted c bs))
      (bindsFor_sentState s f true .command false true rfl))
  · intro f s c n hsend hok
    obtain ⟨hg, hp, hw⟩ := hsend
    have hn : n < 8 := Nat.mod_lt _ (by decide)
    have hown := (own_sentState s f true none .command false true).modCtx (streamBound c)
    have hrun := (tRun_goesOut hg hp hok rfl hw rfl : exec (.cpBind f) s = _).trans (congrArg _ (bindPut_eq ..))
    refine ⟨_, newStream c s.me.r, hrun, sent_of_own hown (setStream_eq ..), hown.me ▸ rfl, ?_, rfl, rfl, rfl, fun i hi => ?_⟩
    · exact hown.me ▸ (stream_setStream _ hn _ _).trans (if_pos rfl)
    · exact hown.me ▸ (stream_setStream _ hn _ _).trans (if_neg hi)

/-! ### Waits for units -/

/-- Settles O32: each wait is a command whose unit changes its context's count alone. -/
theorem waitsForUnits : Obligations.WaitsForUnits := by
  refine ⟨?_, ?_, ?_, ?_, ?_⟩
  · intro f s c hsend hpos hlt
    obtain ⟨hg, hp, hw⟩ := hsend
    have hok : copyWaitOk c = true := by
      have hne : c.a ≠ 0 := fun h => by rw [h] at hpos; exact absurd hpos (by decide)
      simp only [copyWaitOk, Bool.and_eq_true, decide_eq_true_eq, bne_iff_ne]
      exact ⟨hlt, hne⟩
    exact ⟨_, tRun_goesOut hg hp hok rfl hw rfl, sent_of_own (own_sentState s f false none (.copies c.a.toNat s.me.seq) false true) rfl⟩
  · intro f s hsend
    obtain ⟨hg, hp, hw⟩ := hsend
    exact ⟨_, tRun_goesOut hg hp rfl rfl hw rfl, sent_of_own (own_sentState s f false none (.eqFence s.me.seq) false true) rfl⟩
  · intro f s hsend
    obtain ⟨hg, hp, hw⟩ := hsend
    have hown := (own_sentState s f false none (.pkWait s.me.pkFrom s.me.seq s.me.pkCount) false true).modCtx
      fun y => { y with pkFrom := s.me.seq, pkCount := 0 }
    exact ⟨_, tRun_goesOut hg hp rfl rfl hw rfl, sent_of_own hown rfl, hown.me ▸ rfl, hown.me ▸ rfl⟩
  · intro f s hsend
    obtain ⟨hg, hp, hw⟩ := hsend
    have hown := (own_sentState s f false none (.nmFence s.me.seq s.me.nmCount) false true).modCtx
      fun y => { y with nmCount := 0 }
    exact ⟨_, tRun_goesOut hg hp rfl rfl hw rfl, sent_of_own hown rfl, hown.me ▸ rfl⟩
  · intro f s hsend
    obtain ⟨hg, hp, hw⟩ := hsend
    have hown := (own_sentState s f false none (.asWait s.me.seq s.me.asCount) false false).modCtx
      fun y => { y with asCount := 0 }
    exact ⟨_, tRun_goesOut hg hp rfl rfl hw rfl, sent_of_own hown rfl, hown.me ▸ rfl⟩

/-! ### Requests to the units -/

/-- The executing context after it has sent a command to the Catalogue; a streaming lookup binds its stream (R299). -/
def lookupSent (c : Cmd) (x : Ctx) : Ctx :=
  { x with pkOut := x.pkOut ++ [c.seq], pkCount := x.pkCount + 1,
           r := if c.pkStrm then x.r.setStream c.pkQn (some ⟨false, pkTag, ((x.r.stream c.pkQn).map (·.elems)).getD [], false, []⟩)
                else x.r }

theorem pkPut_eq (s : State) (c : Cmd) : pkPut s c = (s.modCtx c.cid (lookupSent c)).modDie (dieOf (coreOf c.cid))
    fun d => { d with pkQ := d.pkQ ++ [c] } := by
  have hsent (x : Ctx) : lookupSent c x = if c.pkStrm then
      { x with pkOut := x.pkOut ++ [c.seq], pkCount := x.pkCount + 1,
               r := x.r.setStream c.pkQn (some ⟨false, pkTag, ((x.r.stream c.pkQn).map (·.elems)).getD [], false, []⟩) }
      else { x with pkOut := x.pkOut ++ [c.seq], pkCount := x.pkCount + 1 } := by
    unfold lookupSent
    split <;> rfl
  unfold pkPut
  dsimp only
  refine congrArg (fun g => State.modDie (s.modCtx c.cid g) _ _) (funext fun x => ?_)
  rw [hsent]
  cases c.pkStrm with
  | false => rfl
  | true => cases x.r.stream c.pkQn <;> rfl

theorem lookupSent_r (c : Cmd) (x : Ctx) : (lookupSent c x).r = { x.r with streams := (lookupSent c x).r.streams } := by
  unfold lookupSent
  cases c.pkStrm with
  | false => rfl
  | true => exact setStream_eq ..

/-- Settles O33: the command is sent, and enters its unit's queue. -/
theorem unitCommandsQueue : Obligations.UnitCommandsQueue := by
  refine ⟨?_, ?_, ?_, ?_⟩
  · intro e he f s c hsend hok hbad hroom
    obtain ⟨hg, hp, hw⟩ := hsend
    have hown := (own_sentState s f false none .command false true).modCtx fun x => { x with eqOut := x.eqOut ++ [(c.seq, c.eqClu)] }
    have hrun : exec (e.1 f) s = .next (eqPut (sentState s f false none .command false true) c) :=
      (exec_eqForms e he f s).trans (tRun_goesOut hg hp hok hbad hw (decide_eq_false (Nat.not_le.mpr hroom)))
    refine ⟨_, hrun, sent_modClu (sent_of_own hown rfl) _ _, ?_, congrArg Ctx.eqOut hown.me⟩
    exact (congrArg Cluster.eqQ (clu_modClu_self ..)).trans (congrArg (fun k => k.eqQ ++ [c]) (hown.clu c.eqClu))
  · intro e he f s c d hsend hok hroom hq
    obtain ⟨hg, hp, hw⟩ := hsend
    have hown := (own_sentState s f false none .command false true).modCtx (lookupSent c)
    have hbusy : pkBusy s c = false := Bool.or_eq_false_iff.mpr
      ⟨decide_eq_false (Nat.not_le.mpr hroom), decide_eq_false (Nat.not_le.mpr hq)⟩
    have hrun : exec (e.1 f) s = .next (pkPut (sentState s f false none .command false true) c) :=
      (exec_pkForms e he f s).trans (tRun_goesOut hg hp hok rfl hw hbusy)
    rw [pkPut_eq] at hrun
    refine ⟨_, hrun, sent_modDie (sent_of_own hown (lookupSent_r ..)) _ _, ?_, congrArg Ctx.pkOut hown.me,
      congrArg Ctx.pkCount hown.me⟩
    exact (congrArg Die.pkQ (die_modDie_self ..)).trans (congrArg (fun k => k.pkQ ++ [c]) (hown.die d))
  · intro e he f s c hsend hok hdet hroom
    obtain ⟨hg, hp, hw⟩ := hsend
    have hchecks : nmChecks s e.2.1 c = true := by
      unfold nmChecks
      by_cases hop : e.2.1 = 0x38
      · rw [if_pos hop]
        have hfmt : ((s.ctx c.cid).bind.det && c.nmFmt != 4) = false := by
          cases hd : (s.ctx c.cid).bind.det
          · rfl
          · simp [hdet hop hd]
        simp [nmAddOk, hok, hfmt]
      · rw [if_neg hop]
        exact hok
    have hown := (own_sentState s f e.2.2 none .command (decide (e.2.1 = 0x39)) true)
    have hput := hown.modCtx fun x => { x with
      ncmds := x.ncmds ++ [⟨c, 0, 0, [], none, false, none,
        ((sentState s f e.2.2 none .command (decide (e.2.1 = 0x39)) true).core (coreOf s.cur.cid)).beats + 640⟩],
      nmCount := x.nmCount + (if c.returning then 0 else 1) }
    have hrun : exec (e.1 f) s = .next (nmPut (sentState s f e.2.2 none .command (decide (e.2.1 = 0x39)) true) c) :=
      (exec_nmForms e he f s).trans (tRun_goesOut hg hp hchecks rfl hw (decide_eq_false (Nat.not_le.mpr hroom)))
    exact ⟨_, _, hrun, sent_of_own hput rfl, congrArg Ctx.ncmds hput.me, rfl, rfl, rfl⟩
  · intro f s c hsend hok
    obtain ⟨hg, hp, hw⟩ := hsend
    have hown := (own_sentState s f false none .command false false).modCtx
      fun x => { x with asLds := x.asLds ++ [⟨c, 0, none, none⟩], asCount := x.asCount + 1 }
    exact ⟨_, _, tRun_goesOut hg hp hok rfl hw rfl, sent_of_own hown rfl, congrArg Ctx.asLds hown.me, rfl, rfl,
      congrArg Ctx.asCount hown.me⟩

/-! ### Barriers and gangs -/

/-- The executing context's pending words once the word of its `fuse` is ready (R253). -/
def fuseReady (x : Ctx) : Ctx :=
  { x with r := { x.r with words := x.r.words.map fun w =>
      if w.wait == .gang then { w with wait := .command, val := some (resultWord 0 x.bind.member) } else w } }

theorem fuseWord_eq (s : State) (cid : Nat) : fuseWord s cid = s.modCtx cid fuseReady := by
  unfold fuseWord State.modRegs State.modCtx fuseReady
  rfl

theorem fusePut_now {s : State} {c : Cmd} (h : (s.ctx c.cid).bind.gang = false ∨ (s.ctx c.cid).fused = true) :
    fusePut s c = (s.modCtx c.cid fuseReady).modCtx c.cid fun x => { x with fused := true } := by
  have hcond : (!(s.ctx c.cid).bind.gang || (s.ctx c.cid).fused) = true := by rcases h with h | h <;> simp [h]
  rw [← fuseWord_eq]
  exact if_pos hcond

theorem fusePut_waits {s : State} {c : Cmd} (hgang : (s.ctx c.cid).bind.gang = true) (hf : (s.ctx c.cid).fused = false) :
    fusePut s c = (s.modCtx c.cid fun x => { x with lineFuse := some x.bun.pc }).pause c.cid (slotsBelow 9) :=
  if_neg (by simp [hgang, hf])

theorem ctx_sentState (s : State) (f : TFld) (four : Bool) (val : Option SVal) (wait : TWait) (b6 ck : Bool) :
    (sentState s f four val wait b6 ck).ctx s.cur.cid = sentCtx s f four val wait b6 ck :=
  ((own_sentState s f four val wait b6 ck).ctx _).trans (if_pos rfl)

/-- A context whose bundle stops, with the done slots marked. -/
def pausedCtx (done : BitVec 10) (c : Ctx) : Ctx :=
  { c with bun := { c.bun with nextSkip := done, nextAft := c.bun.aft, nextRe := c.bun.re,
                               nextWord := some (c.bun.len, c.bun.zero, c.bun.word) } }

/-- Slots that leave the issue leave what the sending of a command says. -/
theorem sent_paused {s t : State} {f : TFld} {four : Bool} {wait : TWait} {b6 : Bool} (h : Sent s t f four wait b6)
    (l : List SlotWord) (k : List Nat) : Sent s { t with issue := l, issuing := k } f four wait b6 := h

theorem cbarPut_eq (s : State) (c : Cmd) {x : Ctx} (h : s.ctx c.cid = x) : cbarPut s c =
    (s.modCtx c.cid fun x => { x with barrier := some (c.a.toNat, none) }).modClu x.bind.barClu fun k =>
      { k with cbarQ := k.cbarQ ++ [{ c with c := BitVec.ofNat 64 x.r.frameTime }] } := by
  rw [cbarPut, h]

/-- Settles O34: the command is sent, and its line, its arrival or its mark is set. -/
theorem gangAndBarrierCommands : Obligations.GangAndBarrierCommands := by
  refine ⟨?_, ?_, ?_, ?_, ?_⟩
  · intro f s c k hsend ha hb hb'
    obtain ⟨hg, hp, hw⟩ := hsend
    have hown := (own_sentState s f false none .command false true).modCtx fun x => { x with barrier := some (c.a.toNat, none) }
    have hok : (decide (c.a.toNat < 16) && decide (1 ≤ c.b.toNat) && decide (c.b.toNat ≤ 32)) = true := by simp [ha, hb, hb']
    have hrun : exec (.cbar f) s = .next (cbarPut (sentState s f false none .command false true) c) :=
      tRun_goesOut hg hp hok rfl hw rfl
    rw [cbarPut_eq _ c (ctx_sentState ..)] at hrun
    refine ⟨_, hrun, sent_modClu (sent_of_own hown rfl) _ _, congrArg Ctx.barrier hown.me, ?_⟩
    exact (congrArg Cluster.cbarQ (clu_modClu_self ..)).trans (congrArg (fun x : Cluster => x.cbarQ ++ [_]) (hown.clu k))
  · intro f s hsend h
    obtain ⟨hg, hp, hw⟩ := hsend
    have hown := ((own_sentState s f false none .gang false false).modCtx fuseReady).modCtx fun x => { x with fused := true }
    have hrun : exec (.fuse f) s = .next (fusePut (sentState s f false none .gang false false) (mkCmd s 0x18 f false)) :=
      tRun_goesOut hg hp rfl rfl hw rfl
    have hnow : fusePut (sentState s f false none .gang false false) (mkCmd s 0x18 f false) =
        ((sentState s f false none .gang false false).modCtx s.cur.cid fuseReady).modCtx s.cur.cid
          fun x => { x with fused := true } := fusePut_now (by rw [show (mkCmd s 0x18 f false).cid = s.cur.cid from rfl, ctx_sentState]; exact h)
    exact ⟨_, hrun.trans (congrArg _ hnow), hown.frame rfl, congrArg Ctx.fused hown.me,
      (congrArg Ctx.lineFuse hown.me).trans rfl⟩
  · intro f s hsend hgang hf
    obtain ⟨hg, hp, hw⟩ := hsend
    have hown := ((own_sentState s f false none .gang false false).modCtx fun x => { x with lineFuse := some x.bun.pc }).modCtx
      (pausedCtx (slotsBelow 9))
    have hrun : exec (.fuse f) s = .next (fusePut (sentState s f false none .gang false false) (mkCmd s 0x18 f false)) :=
      tRun_goesOut hg hp rfl rfl hw rfl
    have hwaits := fusePut_waits (s := sentState s f false none .gang false false) (c := mkCmd s 0x18 f false)
      (by rw [show (mkCmd s 0x18 f false).cid = s.cur.cid from rfl, ctx_sentState]; exact hgang)
      (by rw [show (mkCmd s 0x18 f false).cid = s.cur.cid from rfl, ctx_sentState]; exact hf)
    refine ⟨_, hrun.trans (congrArg _ hwaits), sent_paused (sent_of_own hown rfl) _ _, congrArg Ctx.lineFuse hown.me, ?_⟩
    exact fun hmem => absurd (List.mem_filter.mp hmem).2 (by simp [mkCmd])
  · intro f s hsend
    obtain ⟨hg, hp, hw⟩ := hsend
    have hown := (own_sentState s f false none .command false false).modCtx
      fun x => { x with bun := { x.bun with aft := { x.bun.aft with dcpl := true } } }
    exact ⟨_, tRun_goesOut hg hp rfl rfl hw rfl, sent_of_own hown rfl, congrArg (·.bun.aft) hown.me,
      (congrArg Ctx.fused hown.me).trans rfl⟩
  · intro f s hsend
    obtain ⟨hg, hp, hw⟩ := hsend
    have hown := (own_sentState s f false none .command false false).modCtx fun x => { x with lineRejoin := x.bind.gang }
    exact ⟨_, tRun_goesOut hg hp rfl rfl hw rfl, sent_of_own hown rfl, congrArg Ctx.lineRejoin hown.me⟩

/-! ### The scheduler and the generator -/

/-- Settles O35: the command is sent and waits in its context; a seed sets the generator. -/
theorem schedulerAndGeneratorCommands : Obligations.SchedulerAndGeneratorCommands := by
  refine ⟨?_, ?_, ?_⟩
  · intro f s c hsend ha hb hc
    obtain ⟨hg, hp, hw⟩ := hsend
    have hown := (own_sentState s f false none .command false true).modCtx fun x => { x with hCmds := x.hCmds ++ [c] }
    have hok : graphGoOk c = true := by simp [graphGoOk, ha, hb, hc]
    exact ⟨_, tRun_goesOut hg hp hok rfl hw rfl, sent_of_own hown rfl, congrArg Ctx.hCmds hown.me⟩
  · intro f s hsend
    obtain ⟨hg, hp, hw⟩ := hsend
    have hown := (own_sentState s f false none .command false true).modCtx
      fun x => { x with hCmds := x.hCmds ++ [mkCmd s 0x49 f false] }
    exact ⟨_, tRun_goesOut hg hp rfl rfl hw rfl, sent_of_own hown rfl, congrArg Ctx.hCmds hown.me⟩
  · intro f s c hsend last
    obtain ⟨hg, hp, hw⟩ := hsend
    have hown := (own_sentState s f true none .command false false).modCtx fun x => { x with r := { x.r with
      g0 := c.a, g1 := c.b, g2 := c.c, g3 := last, rng := [], rngDue := 0 } }
    have hwords : wordsAfter s f true none .command false = s.me.r.words := List.append_nil _
    refine ⟨_, tRun_goesOut hg hp rfl rfl hw rfl, hown.mem, fun i hi => (hown.ctx i).trans (if_neg hi), ?_⟩
    refine (congrArg Ctx.r hown.me).trans ?_
    simp only [sentCtx, hwords]

/-! ### Commands that do not go out -/

/-- A command of the T slot is dealt with as its shape says. -/
structure SentAs (s : State) (x : SendShape) (t : TSpec) : Prop where
  op : t.op = x.op
  four : t.four = x.four
  ok : t.ok = x.ok s
  bad : t.bad = x.bad
  busy : ∀ c, c.cid = s.cur.cid → t.busy s c = x.full s c

theorem copyWaitOk_eq : copyWaitOk = fun c : Cmd => decide (0 < c.a.toNat) && decide (c.a.toNat < 2 ^ 16) := by
  funext c
  have hne : (c.a != 0) = decide (0 < c.a.toNat) := by
    rw [Bool.eq_iff_iff, bne_iff_ne, decide_eq_true_eq, Nat.pos_iff_ne_zero, ne_eq, ne_eq, ← BitVec.toNat_inj]
    rfl
  rw [copyWaitOk, hne, Bool.and_comm]

theorem sentAs_of_shape : ∀ x ∈ sendShapes, ∀ s, ∃ t, SentAs s x t ∧ ∀ f, exec (x.instr f) s = tRun t f s := by
  simp only [sendShapes, List.forall_mem_append, List.forall_mem_map, List.forall_mem_cons]
  refine ⟨⟨⟨⟨?_, ?_⟩, ?_⟩, ?_⟩, ?_⟩
  · exact fun e he s => ⟨_, ⟨rfl, rfl, rfl, rfl, fun c hc =>
      congrArg (fun i => decide (4 ≤ (s.core (coreOf i)).engQ.length)) hc.symm⟩, fun f => exec_engineForms e he f s⟩
  · exact fun e he s => ⟨_, ⟨rfl, rfl, rfl, rfl, fun c hc => rfl⟩, fun f => exec_copyForms e he f s⟩
  · exact fun e he s => ⟨_, ⟨rfl, rfl, rfl, rfl, fun c hc => rfl⟩, fun f => exec_eqForms e he f s⟩
  · exact fun e he s => ⟨_, ⟨rfl, rfl, rfl, rfl, fun c hc => rfl⟩, fun f => exec_pkForms e he f s⟩
  · refine ⟨?_, ?_, ?_, ?_, ?_, ?_, ?_, ?_, ?_, ?_, ?_, ?_, ?_, ?_, ?_, ?_, ?_, ?_, nofun⟩
    case refine_6 => exact fun s => ⟨_, ⟨rfl, rfl, copyWaitOk_eq, rfl, fun _ _ => rfl⟩, fun f => rfl⟩
    all_goals exact fun s => ⟨_, ⟨rfl, rfl, rfl, rfl, fun _ _ => rfl⟩, fun f => rfl⟩

theorem sendForms_eq : sendForms = sendShapes.map fun x => (x.instr, x.op, x.four) := rfl

/-- Settles O36: every command is dealt with as the T slot deals with its shape. -/
theorem commandsThatDoNotGoOut : Obligations.CommandsThatDoNotGoOut := by
  refine ⟨?_, ?_⟩
  · intro x hx f s hg c words meets goes
    obtain ⟨⟨op, four, ck, wait, b6, ok, busy, put, bad⟩, ⟨hop, hfour, hok, hbad, hbusy⟩, hrun⟩ := sentAs_of_shape x hx s
    subst hop hfour hok hbad
    rw [hrun f]
    let t : TSpec := ⟨x.op, x.four, ck, wait, b6, x.ok s, busy, put, x.bad⟩
    refine ⟨tRun_illegal (x := t) hg, fun va hp hok hbad => tRun_bad (x := t) hg hp hok hbad, fun h hw hmeets => ?_, fun h hw hmeets hfull => ?_,
      fun hp hok hbad hw hfull => ?_⟩
    · exact tRun_trouble (x := t) hg h (wordTrouble_meets hw.1 hw.2 hmeets)
    · exact tRun_trouble (x := t) hg h (wordTrouble_full hw.1 hw.2 hmeets hfull)
    · exact tRun_busy (x := t) hg hp hok hbad (wordTrouble_room hw) ((hbusy c rfl).trans hfull)
  · rw [sendForms_eq, List.forall_mem_map]
    intro x hx f s hg hp hw
    obtain ⟨⟨op, four, ck, wait, b6, ok, busy, put, bad⟩, ⟨hop, hfour, -, -, -⟩, hrun⟩ := sentAs_of_shape x hx s
    subst hop hfour
    have hown := own_sentState s f x.four (some noValue) .command false false
    refine ⟨_, (hrun f).trans (tRun_invalid hg hp hw), hown.frame rfl, congrArg (·.r.words) hown.me,
      (congrArg Ctx.copies hown.me).trans rfl, (congrArg Ctx.ncmds hown.me).trans rfl,
      (congrArg Ctx.asLds hown.me).trans rfl, (congrArg Ctx.hCmds hown.me).trans rfl, hown.cores, hown.clus, hown.dies,
      hown.hub⟩

end Sys2Proof.Claims


namespace Sys2Proof.Claims

open Sys2Proof.Machine

/-! ### Taking a trap (R224 to R227, R254) -/

/-- What no step of a list changes, the list does not change. -/
theorem foldl_keeps {σ α β : Type} (p : σ → β) {f : σ → α → σ} (h : ∀ s a, p (f s a) = p s) (l : List α) (s : σ) :
    p (l.foldl f s) = p s := by
  induction l generalizing s with
  | nil => rfl
  | cons a l ih => rw [List.foldl_cons, ih, h]

/-- A context whose bundle a trap stops. -/
def trapIn (t : TrapInfo) (done : BitVec 10) (c : Ctx) : Ctx := (pausedCtx done c).takeTrap t c.bun.pc done c.bun.aft

/-- One member of a gang takes a trap at issue. -/
def trapMember (t : TrapInfo) (done : BitVec 10) (s : State) (i : Nat) : State :=
  (s.pause i done).modCtx i fun d => d.takeTrap t (s.ctx i).bun.pc done (s.ctx i).bun.aft

theorem issueTrap_eq (s : State) (cid : Nat) (t : TrapInfo) (done : BitVec 10) :
    s.issueTrap cid t done = (s.gangOf cid).foldl (trapMember t done) s := rfl

theorem ctx_pause (s : State) (i j : Nat) (done : BitVec 10) :
    (s.pause i done).ctx j = if j = i then pausedCtx done (s.ctx i) else s.ctx j :=
  ctx_modCtx s i j (pausedCtx done)

theorem ctx_trapMember (t : TrapInfo) (done : BitVec 10) (s : State) (i j : Nat) :
    (trapMember t done s i).ctx j = if j = i then trapIn t done (s.ctx i) else s.ctx j := by
  rw [trapMember, ctx_modCtx, ctx_pause, ctx_pause, if_pos rfl]
  split <;> rfl

theorem ctx_foldl_trapMember_of_notMem {t : TrapInfo} {done : BitVec 10} {g : List Nat} {i : Nat} (hi : i ∉ g) (s : State) :
    (g.foldl (trapMember t done) s).ctx i = s.ctx i := by
  induction g generalizing s with
  | nil => rfl
  | cons j g ih =>
    obtain ⟨hne, hg⟩ := not_or.mp (mt List.mem_cons.mpr hi)
    rw [List.foldl_cons, ih hg, ctx_trapMember, if_neg hne]

theorem ctx_foldl_trapMember {t : TrapInfo} {done : BitVec 10} {g : List Nat} (hg : g.Nodup) {i : Nat} (hi : i ∈ g)
    (s : State) : (g.foldl (trapMember t done) s).ctx i = trapIn t done (s.ctx i) := by
  induction g generalizing s with
  | nil => cases hi
  | cons j g ih =>
    obtain ⟨hj, hg'⟩ := List.nodup_cons.mp hg
    rw [List.foldl_cons]
    by_cases h : i = j
    · subst h
      rw [ctx_foldl_trapMember_of_notMem hj, ctx_trapMember, if_pos rfl]
    · rw [ih hg' ((List.mem_cons.mp hi).resolve_left h), ctx_trapMember, if_neg h]

theorem issue_foldl_trapMember {t : TrapInfo} {done : BitVec 10} {g : List Nat} {s : State} {w : SlotWord}
    (hw : w ∈ (g.foldl (trapMember t done) s).issue) : w ∈ s.issue ∧ w.cid ∉ g := by
  induction g generalizing s with
  | nil => exact ⟨hw, List.not_mem_nil⟩
  | cons j g ih =>
    obtain ⟨hj, hg⟩ := ih hw
    obtain ⟨hs, hne⟩ := List.mem_filter.mp (hj : w ∈ s.issue.filter fun w => w.cid != j)
    exact ⟨hs, mt List.mem_cons.mp (not_or.mpr ⟨bne_iff_ne.mp hne, hg⟩)⟩

theorem issuing_foldl_trapMember {t : TrapInfo} {done : BitVec 10} {g : List Nat} {s : State} {i : Nat}
    (hi : i ∈ (g.foldl (trapMember t done) s).issuing) : i ∈ s.issuing ∧ i ∉ g := by
  induction g generalizing s with
  | nil => exact ⟨hi, List.not_mem_nil⟩
  | cons j g ih =>
    obtain ⟨hj, hg⟩ := ih hi
    obtain ⟨hs, hne⟩ := List.mem_filter.mp (hj : i ∈ s.issuing.filter fun i => i != j)
    exact ⟨hs, mt List.mem_cons.mp (not_or.mpr ⟨bne_iff_ne.mp hne, hg⟩)⟩

theorem takeTrap_handled {c : Ctx} (hv : c.r.trapvec ≠ 0) (hh : c.r.inHandler = false) (t : TrapInfo) (pc : Word)
    (done : BitVec 10) (aft : After) : c.takeTrap t pc done aft = { c with
      r := { c.r with
             trappc := pc, trapslot := BitVec.ofNat 4 t.slot, trapcause := t.causeReg, donemask := done,
             save := ⟨c.r.transfers, c.r.loops, aft, c.links⟩, transfers := [], loops := [], inHandler := true,
             pc := c.r.trapvec, waitTo := 0, waited := 0 }
      links := []
      bun := { c.bun with
        nextSkip := 0, nextAft := After.none, nextFree := false, nextPass := none, nextWord := none, nextRe := false } } :=
  if_neg (not_or.mpr ⟨hv, (Bool.not_eq_true _).mpr hh⟩)

theorem takeTrap_fatal {c : Ctx} (h : c.r.trapvec = 0 ∨ c.r.inHandler = true) (t : TrapInfo) (pc : Word)
    (done : BitVec 10) (aft : After) : c.takeTrap t pc done aft = c.fail t.cause.toNat t.slot t.addr pc := if_pos h

/-- A trap without flags and without a code gives its cause alone in TRAPCAUSE. -/
theorem causeReg_plain (cause : BitVec 5) (slot addr : Nat) :
    (TrapInfo.mk cause slot 0 0 addr).causeReg = BitVec.ofNat 64 cause.toNat := by
  simp [TrapInfo.causeReg]

/-- Settles O37: the gang's members take the trap one by one, and each changes its own context alone. -/
theorem takingATrap : Obligations.TakingATrap := by
  intro s cause va hcause hnodup g t
  let done := s.me.doneBefore s.cur.slot
  let f := trapMember ⟨cause, s.cur.slot, 0, 0, va⟩ done
  have ht : t = g.foldl f s := issueTrap_eq ..
  rw [ht]
  refine ⟨mem_foldl f (fun _ _ => rfl) g s, foldl_keeps (f := f) State.cores (fun _ _ => rfl) g s,
    foldl_keeps (f := f) State.clus (fun _ _ => rfl) g s, foldl_keeps (f := f) State.hub (fun _ _ => rfl) g s,
    fun i hi => ctx_foldl_trapMember_of_notMem hi s, fun w hw => (issue_foldl_trapMember hw).2,
    fun i hi hmem => (issuing_foldl_trapMember hmem).2 hi, fun i hi hv hh => ?_, fun i hi hfatal => ?_⟩
  · rw [ctx_foldl_trapMember hnodup hi, trapIn, takeTrap_handled (c := pausedCtx done (s.ctx i)) hv hh, causeReg_plain]
    exact ⟨rfl, rfl⟩
  · rw [ctx_foldl_trapMember hnodup hi, trapIn, takeTrap_fatal (c := pausedCtx done (s.ctx i)) hfatal]
    exact ⟨rfl, rfl, rfl⟩

/-! ### Returning from a handler (R105) -/

/-- Counting events changes counters alone. -/
theorem countLevel_eq (r : Regs) (n : Nat) : r.countLevel n = { r with perf := (r.countLevel n).perf } := by
  unfold Regs.countLevel
  split <;> rfl

theorem foldl_countLevel_eq (filled : BitVec 10) (l : List Nat) (r : Regs) :
    ∃ p, l.foldl (fun r i => if filled.getLsbD i then r.countLevel (1 + i) else r) r = { r with perf := p } := by
  induction l generalizing r with
  | nil => exact ⟨r.perf, rfl⟩
  | cons i l ih =>
    obtain ⟨p, hp⟩ := ih (if filled.getLsbD i then r.countLevel (1 + i) else r)
    refine ⟨p, ?_⟩
    rw [List.foldl_cons, hp]
    split
    · rw [countLevel_eq]
    · rfl

theorem countBundle_eq (r : Regs) (filled : BitVec 10) : ∃ p, r.countBundle filled = { r with perf := p } := by
  obtain ⟨p, hp⟩ := foldl_countLevel_eq filled (List.range 10) ((r.count 0x101 1).countLevel 0)
  exact ⟨p, hp.trans (by rw [countLevel_eq]; rfl)⟩

/-- Settles O38: the counting of the bundle and its end test leave what `eret` reads and what it does not restore. -/
theorem returnFromAHandler : Obligations.ReturnFromAHandler := by
  refine ⟨?_, ?_⟩
  · intro s cid heret hends c d
    have hd : d = (s.completeBundle cid).ctx cid := rfl
    rw [State.completeBundle, ctx_modCtx, if_pos rfl] at hd
    simp only [hends, heret, if_true] at hd
    obtain ⟨p, hp⟩ := countBundle_eq (s.ctx cid).r (s.ctx cid).bun.aft.filled
    rw [hp] at hd
    refine ⟨?_, ?_, ?_, ?_, ?_, ?_, ?_, ?_, ?_, ?_, ?_, rfl, fun i hi => (ctx_modCtx ..).trans (if_neg hi)⟩
    all_goals
      rw [hd]
      cases (s.ctx cid).bind.det && (s.ctx cid).bun.fs <;> rfl
  · intro c t pc done aft hv hh d
    have hd : d = (c.takeTrap t pc done aft).doEret := rfl
    rw [takeTrap_handled hv hh] at hd
    rw [hd]
    exact ⟨rfl, rfl, rfl, rfl, rfl, rfl, rfl, rfl, rfl, rfl, rfl⟩

end Sys2Proof.Claims


namespace Sys2Proof.Claims

open Sys2Proof.Machine

/-! ### What the helpers of the slots leave of memory -/

/-- An event that leaves memory as it is, whatever it does else. -/
def Leaves (e : Event) : Prop := ∀ s t, e s = .next t → t.mem = s.mem

/-- The work of a slot leaves memory. -/
abbrev Still (k : State → State) : Prop := ∀ s, (k s).mem = s.mem

/-- `mem_foldl` with what each step leaves as the last goal. -/
theorem mem_foldl_of {α : Type} {f : State → α → State} (l : List α) (s : State) (h : ∀ s a, (f s a).mem = s.mem) :
    (l.foldl f s).mem = s.mem := mem_foldl f h l s

section

variable (s : State)

@[simp] theorem mem_stopAt (i : Nat) (d : BitVec 10) : (s.stopAt i d).mem = s.mem := by
  unfold State.stopAt
  rw [mem_foldl_of]
  simp

@[simp] theorem mem_slotFault (k : AccessKind) (e : AFault) : (s.slotFault k e).mem = s.mem := by
  unfold State.slotFault
  split <;> simp

@[simp] theorem mem_noteWalks (cs : List Chunk) : (s.noteWalks cs).mem = s.mem := by
  unfold State.noteWalks
  rw [mem_foldl_of]
  simp

@[simp] theorem mem_markCk (b : Bool) : (s.markCk b).mem = s.mem := by
  unfold State.markCk
  split <;> rfl

@[simp] theorem mem_addReq (d : Nat) (dest : LandDest) (oks : List Bool) (bs : List (Option Byte)) (arrived : Bool)
    (qn : Option Nat) (keys : List Nat) : (s.addReq d dest oks bs arrived qn keys).mem = s.mem := rfl

@[simp] theorem mem_stretchCycle (l : Nat) : (s.stretchCycle l).mem = s.mem := by
  unfold State.stretchCycle
  dsimp only
  rw [mem_foldl_of, mem_foldl_of] <;> simp

@[simp] theorem mem_changePoint (l : Nat) : (s.changePoint l).mem = s.mem := by
  unfold State.changePoint
  dsimp only
  split
  · rfl
  · rw [mem_foldl_of] <;> simp

@[simp] theorem mem_endCycle (l : Nat) : (s.endCycle l).mem = s.mem := by
  unfold State.endCycle
  simp only [mem_syncPtb, mem_tickBound, mem_changePoint, modCore_mem]
  rw [mem_foldl_of, mem_foldl_of] <;> simp

@[simp] theorem mem_idleCycle (ls : List Nat) : (s.idleCycle ls).mem = s.mem := by
  unfold State.idleCycle
  rw [mem_foldl_of]
  simp

@[simp] theorem mem_landingCycle (l : Nat) : (s.landingCycle l).mem = s.mem := by
  unfold State.landingCycle
  rw [mem_foldl_of] <;> simp

@[simp] theorem mem_holdForLanding : s.holdForLanding.mem = s.mem := by
  unfold State.holdForLanding
  split
  · exact mem_hold ..
  · rw [mem_markFreeze, mem_foldl_of] <;> simp

@[simp] theorem mem_servePop (i n : Nat) : (s.servePop i n).mem = s.mem := by
  unfold State.servePop
  split
  · split <;> rfl
  · rfl

@[simp] theorem mem_loadRun (kind : MKind) (reach : Reach) (lat : BitVec 8) (dest : LandDest) (oks : List Bool)
    (total align : Nat) (cs : List Chunk) : (loadRun s kind reach lat dest oks total align cs).mem = s.mem := by
  unfold loadRun
  dsimp only
  repeat' split
  all_goals simp

@[simp] theorem mem_storeRun (kind : MKind) (reach : Reach) (align : Nat) (data : List Byte) (keep : Nat → Bool)
    (cs : List Chunk) : (storeRun s kind reach align data keep cs).mem = s.mem := by
  unfold storeRun
  dsimp only
  repeat' split
  all_goals simp

@[simp] theorem mem_atomicRun (op size va : Nat) (isFp : Bool) (ops : List (Nat × BitVec 32)) :
    (atomicRun s op size va isFp ops).mem = s.mem := by
  unfold atomicRun
  dsimp only
  repeat' split
  all_goals simp

@[simp] theorem mem_fenceRun (kind : MKind) : (fenceRun kind s).mem = s.mem := mem_markCk ..

@[simp] theorem mem_cwrOp (r : BitVec 6) (n : BitVec 14) : (cwrOp r n s).mem = s.mem := by
  unfold cwrOp
  dsimp only
  split <;> simp

@[simp] theorem mem_addWord (f : TFld) (id : Nat) (val : Option SVal) (wait : TWait) (b6 : Bool) :
    (s.addWord f id val wait b6).mem = s.mem := by
  unfold State.addWord
  split <;> rfl

theorem mem_wordTrouble {f : TFld} {e : State} (h : s.wordTrouble f = some e) : e.mem = s.mem := by
  unfold State.wordTrouble at h
  split at h
  · cases h
  · split at h
    · cases h
      exact mem_illegalSchedule s
    · split at h
      · cases h
        exact mem_holdForLanding s
      · cases h

@[simp] theorem mem_fusePut (c : Cmd) : (fusePut s c).mem = s.mem := by
  unfold fusePut
  dsimp only
  split <;> rfl

theorem mem_pkPut (c : Cmd) : (pkPut s c).mem = s.mem := by rw [pkPut_eq]; rfl

theorem mem_bindPut (c : Cmd) : (bindPut s c).mem = s.mem := by rw [bindPut_eq]; rfl

@[simp] theorem mem_savPut (c : Cmd) : (savPut s c).mem = s.mem := by
  unfold savPut
  dsimp only
  repeat' split
  all_goals rfl

end

/-! ### Slots, by what they share -/

theorem leaves_slotRun {k : State → State} (g : BitVec 5) (hk : Still k) : Leaves fun s => slotRun g s k := by
  intro s t h
  rcases slotRun_cases h with rfl | rfl
  · exact hk s
  · rfl

theorem leaves_ctlRun {k : State → State} (g : BitVec 5) (hk : Still k) : Leaves fun s => ctlRun g s k := by
  intro s t h
  change (if s.cur.slot = 0 then slotRun g s k else .next s.illegalSlot) = _ at h
  split at h
  · exact leaves_slotRun g hk s t h
  · cases h
    exact mem_illegalSlot s

theorem leaves_fRun {k : State → State} (g : BitVec 5) (lat : Nat) (ws : List RWrite) (hk : Still k) :
    Leaves fun s => fRun g lat ws s k := by
  intro s t h
  change (if _ then _ else _) = _ at h
  split at h
  · cases h
    exact mem_illegalSchedule s
  · exact (leaves_slotRun g hk (s.modRegs s.cur.cid fun r => { r with fUntil := s.now + 4 }) t h).trans (modRegs_mem ..)

theorem leaves_vecRun {k : VVal → VVal → State → State} (f : VFld) (hk : ∀ a b, Still (k a b)) :
    Leaves fun s => vecRun f s k := by
  refine leaves_slotRun f.g fun s => ?_
  split
  · exact hk _ _ s
  · exact mem_illegalSlot s

theorem leaves_tRun (x : TSpec) (f : TFld) (hput : ∀ s c, (x.put s c).mem = s.mem) : Leaves (tRun x f) := by
  refine leaves_slotRun f.g fun s => ?_
  dsimp only
  split
  · split
    next h => exact mem_wordTrouble s h
    next => exact mem_addWord ..
  · split
    · exact mem_illegalSlot s
    · split
      next => exact mem_slotTrap ..
      next h => exact mem_wordTrouble s h
      next =>
        split
        · exact mem_hold ..
        · rw [hput, mem_markCk]
          exact mem_addWord ..

section

variable (f : VFld)

theorem still_vecResult (lat : Nat) (v : VVal) (fl : BitVec 8) : Still (vecResult lat f v fl) := fun _ => mem_launch ..

theorem still_pairResult (lat : Nat) (v v' : VVal) (fl : BitVec 8) : Still (pairResult lat f v v' fl) := fun _ => mem_launch ..

theorem leaves_fpBin (lat : Nat) (t : BitVec 2) (op : Fmt → RMode → Nat → Nat → FRes) : Leaves (fpBin lat t f op) :=
  leaves_vecRun f fun _ _ _ => mem_launch ..

theorem leaves_fpUn (lat : Nat) (t : BitVec 2) (op : Fmt → RMode → Nat → FRes) : Leaves (fpUn lat t f op) :=
  fun s u h => leaves_fpBin { f with b := f.a } lat t (fun fm rm x _ => op fm rm x) s u h

theorem leaves_wordBin (op : BitVec 32 → BitVec 32 → BitVec 32) : Leaves (wordBin f op) :=
  leaves_vecRun f fun _ _ _ => mem_launch ..

end

theorem leaves_vfsgn (t : BitVec 2) (f : VFld) : Leaves (execVfsgn t f) := by
  intro s u h
  by_cases hc : f.c = 2
  · exact leaves_fpBin f _ _ _ s u ((if_pos hc).symm.trans h)
  · exact leaves_fpUn f _ _ _ s u ((if_neg hc).symm.trans h)

theorem leaves_vcvt (f : VFld) : Leaves (execVcvt f) := by
  refine leaves_vecRun f fun a b s => ?_
  dsimp only
  repeat' split
  all_goals simp [vecResult]

theorem leaves_vsplat (f : VFld) : Leaves (execVsplat f) := leaves_slotRun f.g fun _ => mem_launch ..

theorem leaves_viota (f : VFld) : Leaves (execViota f) := leaves_slotRun f.g fun _ => mem_launch ..

theorem leaves_dwordBin (op : Word → Word → Word) (f : VFld) : Leaves (dwordBin f op) :=
  leaves_vecRun f fun _ _ _ => mem_launch ..

theorem leaves_wordCmp (c : BitVec 32 → BitVec 32 → Bool) (f : VFld) : Leaves (wordCmp f c) :=
  leaves_vecRun f fun _ _ _ => mem_launch ..

theorem leaves_reduce (op : BitVec 32 → BitVec 32 → BitVec 32) (f : VFld) : Leaves (reduce f op) :=
  leaves_vecRun f fun _ _ _ => mem_launch ..

theorem leaves_fnop (g : BitVec 5) : Leaves (execFnop g) := by
  intro s t h
  by_cases hg : g = 0 ∨ g = 16
  · cases (if_pos hg).symm.trans h
    rfl
  · exact leaves_fRun g _ _ (fun _ => rfl) s t ((if_neg hg).symm.trans h)

/-! ### Control and system slots (R94 to R108) -/

@[simp] theorem mem_modAft (s : State) (f : After → After) : (s.modAft f).mem = s.mem := rfl

@[simp] theorem mem_transfer (s : State) (a : Word) : (s.transfer a).mem = s.mem := rfl

theorem leaves_of_isControl {i : Instr} (hi : isControl i = true) : Leaves (exec i) := by
  unfold isControl at hi
  split at hi
  case h_21 => cases hi
  case h_12 | h_13 | h_14 | h_15 | h_16 => exact leaves_ctlRun _ fun s => mem_cwrOp ..
  case h_1 | h_6 | h_18 | h_20 => exact leaves_ctlRun _ fun _ => rfl
  case h_3 | h_8 | h_10 | h_19 =>
    refine leaves_ctlRun _ fun s => ?_
    repeat' split
    all_goals simp
  all_goals
    refine leaves_ctlRun _ fun s => ?_
    dsimp only
    repeat' split
    all_goals simp

/-! ### Memory slots -/

theorem leaves_scalarLoad (kind : MKind) (size : Nat) (sext : Bool) (f : MFld) : Leaves (scalarLoad kind size sext f) := by
  refine leaves_slotRun f.g fun s => ?_
  dsimp only
  split <;> exact mem_loadRun ..

theorem leaves_scalarStore (kind : MKind) (size : Nat) (f : MFld) : Leaves (scalarStore kind size f) := by
  refine leaves_slotRun f.g fun s => ?_
  dsimp only
  split
  · rfl
  · exact mem_storeRun ..

theorem leaves_vectorLoad (reach : Reach) (align n : Nat) (f : MFld) : Leaves (vectorLoad reach align n f) := by
  refine leaves_slotRun f.g fun s => ?_
  dsimp only
  split <;> exact mem_loadRun ..

theorem leaves_vectorStore (reach : Reach) (align n : Nat) (f : MFld) : Leaves (vectorStore reach align n f) := by
  refine leaves_slotRun f.g fun s => ?_
  split
  · exact mem_illegalSlot s
  · rfl
  · exact mem_storeRun ..

theorem leaves_ldvs (f : MFld) : Leaves (execLdvs f) := by
  refine leaves_slotRun f.g fun s => ?_
  dsimp only
  split <;> exact mem_loadRun ..

theorem leaves_ldvx (f : MFld) : Leaves (execLdvx f) := leaves_slotRun f.g fun _ => mem_loadRun ..

theorem leaves_stvx (f : MFld) : Leaves (execStvx f) := by
  refine leaves_slotRun f.g fun s => ?_
  split
  · exact mem_illegalSlot s
  · exact mem_storeRun ..

theorem leaves_accAdd (op : Nat) (isFp : Bool) (f : MFld) : Leaves (accAdd op isFp f) := by
  refine leaves_slotRun f.g fun s => ?_
  dsimp only
  split
  · rfl
  · exact mem_atomicRun ..

theorem leaves_accAddvF (f : MFld) : Leaves (execAccAddvF f) := by
  refine leaves_slotRun f.g fun s => ?_
  split
  · exact mem_illegalSlot s
  · rfl
  · exact mem_atomicRun ..

theorem leaves_accFetch (op : Nat) (f : MFld) : Leaves (accFetch op f) := by
  refine leaves_slotRun f.g fun s => ?_
  cases mAddr s f 4 with
  | none => simp [apply_ite State.mem]
  | some va =>
    cases h : locateChunks s s.cur.cid .readWrite .atomic [⟨0, va, 4⟩] <;> simp [h, apply_ite State.mem]

theorem leaves_qrd (f : MFld) : Leaves (execQrd f) := by
  refine leaves_slotRun f.g fun s => ?_
  dsimp only
  cases s.me.r.stream (f.base.toNat % 8) <;> simp [apply_ite State.mem]

theorem leaves_qwr (f : MFld) : Leaves (execQwr f) := by
  refine leaves_slotRun f.g fun s => ?_
  dsimp only
  split
  · simp [apply_ite State.mem]
  · exact mem_illegalSlot s

/-! ### The crossbar and the F unit -/

theorem leaves_xperm (f : XFld) : Leaves (execXperm f) := by
  refine leaves_slotRun f.g fun s => ?_
  dsimp only
  split
  · exact mem_illegalSchedule s
  · exact mem_launch ..

theorem leaves_xMove (f : XFld) (src : Nat → Nat) : Leaves (xMove f src) := leaves_slotRun f.g fun _ => mem_launch ..

theorem leaves_xcfg (f : XFld) : Leaves (execXcfg f) := by
  refine leaves_slotRun f.g fun s => ?_
  dsimp only
  split
  · exact mem_illegalSlot s
  · exact mem_launch ..

theorem leaves_of_isFFun {i : Instr} (hi : isFFun i = true) : Leaves (exec i) := by
  unfold isFFun at hi
  split at hi
  case h_1 g => exact leaves_fnop g
  case h_24 => cases hi
  all_goals exact leaves_fRun _ _ _ fun _ => mem_launch ..

/-! ### Scalar slots -/

section

variable (f : SReg)

theorem leaves_regOp (lat : Nat) (op : Word → Word → Word) : Leaves (regOp lat op f) := by
  refine leaves_slotRun f.g fun s => ?_
  split
  · exact mem_launch ..
  · exact mem_illegalSlot s

theorem leaves_regOpLow (op : Word → Word → Word) : Leaves (regOpLow op f) := by
  refine leaves_slotRun f.g fun s => ?_
  split
  · exact mem_launch ..
  · exact mem_illegalSlot s

theorem leaves_bfi : Leaves (execBfi f) := by
  refine leaves_slotRun f.g fun s => ?_
  split
  · exact mem_launch ..
  · exact mem_illegalSlot s

theorem leaves_immOp (op : Word → Word → Word) : Leaves (immOp op f) := by
  refine leaves_slotRun f.g fun s => ?_
  split
  · exact mem_launch ..
  · exact mem_illegalSlot s

end

theorem leaves_unOp (op : Word → Word) (f : SUn) : Leaves (unOp op f) := by
  refine leaves_slotRun f.g fun s => ?_
  split
  · exact mem_launch ..
  · exact mem_illegalSlot s

theorem leaves_shiftImm (op : Word → Word → Word) (f : SSh) : Leaves (shiftImm op f) := by
  refine leaves_slotRun f.g fun s => ?_
  split
  · exact mem_launch ..
  · exact mem_illegalSlot s

theorem leaves_cmpOp (c : Word → Word → Bool) (f : SCmp) : Leaves (cmpOp c f) := by
  refine leaves_slotRun f.g fun s => ?_
  split
  · exact mem_launch ..
  · exact mem_illegalSlot s

theorem leaves_cmpImm (c : Word → Word → Bool) (f : SCmp) : Leaves (cmpImm c f) := by
  refine leaves_slotRun f.g fun s => ?_
  split
  · exact mem_launch ..
  · exact mem_illegalSlot s

theorem leaves_movi (f : SImm) : Leaves (execMovi f) := leaves_slotRun f.g fun _ => mem_launch ..

theorem leaves_sli (f : SImm) : Leaves (execSli f) := leaves_slotRun f.g fun _ => mem_launch ..

theorem leaves_predOp (op : Bool → Bool → Bool) (f : SPred) : Leaves (predOp op f) :=
  leaves_slotRun f.g fun _ => mem_launch ..

/-! ### Every slot -/

/-- An instruction of neither the control slot nor the F slot. -/
theorem leaves_of_plain {i : Instr} {g : BitVec 5} (hg : guardField i = some g) (hc : isControl i = false)
    (hf : isFFun i = false) : Leaves (exec i) := by
  intro s t h
  delta exec at h
  cases i
  case add | sub | mul | mulh | mulhu | div | divu | rem | remu | and | or | xor | andn | min | max | minu | maxu =>
    exact leaves_regOp _ _ _ s t h
  case shl | shr | sra | rotl | bfx => exact leaves_regOpLow _ _ s t h
  case clz | popc => exact leaves_unOp _ _ s t h
  case addi | andi => exact leaves_immOp _ _ s t h
  case shli | shri | srai => exact leaves_shiftImm _ _ s t h
  case cmpEq | cmpNe | cmpLt | cmpLtu | cmpLe | cmpLeu => exact leaves_cmpOp _ _ s t h
  case cmpiEq | cmpiLt => exact leaves_cmpImm _ _ s t h
  case bfi => exact leaves_bfi _ s t h
  case nop | vnop | xnop | mnop | tnop => exact leaves_slotRun _ (fun _ => rfl) s t h
  case fnop => exact leaves_fnop _ s t h
  case vfadd | vfsub | vfmul | vfmin | vfmax | vfdivF32 | vfdivF64 => exact leaves_fpBin _ _ _ _ s t h
  case vfrnd | vfclass => exact leaves_fpUn _ _ _ _ s t h
  case vfsgn => exact leaves_vfsgn _ _ s t h
  case vcvt => exact leaves_vcvt _ s t h
  case vfma | vfcmp | vfsum | vbpk | vbupk | vsel | vvalid | vvmask | vmaskv | vext | vins | vscanAdd | vsort | vsegsum =>
    exact leaves_vecRun _ (fun _ _ _ => mem_launch ..) s t h
  case vadd | vsub | vmul | vmulh | vmin | vmax | vminu | vmaxu | vand | vor | vxor | vshl | vshr | vsra =>
    exact leaves_wordBin _ _ s t h
  case vaddD | vsubD => exact leaves_dwordBin _ _ s t h
  case vcmpEq | vcmpLt | vcmpLtu => exact leaves_wordCmp _ _ s t h
  case vredAdd | vredMax => exact leaves_reduce _ _ s t h
  case xperm => exact leaves_xperm _ s t h
  case xcfg => exact leaves_xcfg _ s t h
  case movi => exact leaves_movi _ s t h
  case sli => exact leaves_sli _ s t h
  case pand | por | pxor | pandn => exact leaves_predOp _ _ s t h
  case vsplat => exact leaves_vsplat _ s t h
  case viota => exact leaves_viota _ s t h
  case xbcast | xrotl | xdeal | xweave => exact leaves_xMove _ _ s t h
  case ldB | ldBu | ldH | ldHu | ldW | ldWu | ldD | ldAcq | ldAcqW => exact leaves_scalarLoad _ _ _ _ s t h
  case stB | stH | stW | stD | stRel | stRelW => exact leaves_scalarStore _ _ _ s t h
  case ldvW256 | ldvW512 | ldvW1024 | accLd => exact leaves_vectorLoad _ _ _ _ s t h
  case stvW256 | stvW512 | stvW1024 | accSt => exact leaves_vectorStore _ _ _ _ s t h
  case ldvs => exact leaves_ldvs _ s t h
  case ldvx => exact leaves_ldvx _ s t h
  case stvx => exact leaves_stvx _ s t h
  case fence | xfence => exact leaves_slotRun _ (fun _ => mem_fenceRun ..) s t h
  case accAddI | accAddF => exact leaves_accAdd _ _ _ s t h
  case accAddvF => exact leaves_accAddvF _ s t h
  case accFaddI | accXchg => exact leaves_accFetch _ _ s t h
  case qrd => exact leaves_qrd _ s t h
  case qwr => exact leaves_qwr _ s t h
  case rotSav => exact leaves_tRun _ _ mem_savPut s t h
  case fuse => exact leaves_tRun _ _ mem_fusePut s t h
  case pkCfg | pkLook | pkBack => exact leaves_tRun _ _ mem_pkPut s t h
  case cpBind => exact leaves_tRun _ _ mem_bindPut s t h
  case rotLd | rotApp | rotAppt | rotDrv | rotLin | rotGrad | rotSlv | rotRst | rotNrm | accSwap | accClr | seqLd | seqRun |
      cpGo | cpTr | cpFill | cpWait | cbar | dcpl | rejoin | eqInit | eqUnite | eqFind | eqSame | eqSize | eqRelabel | eqSnap |
      eqUndo | eqFence | pkWait | nmAdd | nmFai | nmOpt | nmFence | asLd | asWait | graphGo | taskSig | rngSeed =>
    exact leaves_tRun _ _ (fun _ _ => rfl) s t h
  case br | call | jr | loop | loopRearm | loopExit | dictLd | dictSw | trap | eret | crd | cwr | cwrXflags | cwrRmode |
      cwrBankfmt | cwrDeadline | wait | endTask | brk | yield => exact nomatch hc
  case fexpF32 | fexpF64 | flogF32 | flogF64 | ferfF32 | ferfF64 | ferfcF32 | ferfcF64 | frcpF32 | frcpF64 | fsqrtF32 | fsqrtF64 |
      frsqrtF32 | frsqrtF64 | fexp2F32 | flog2F32 | ftanhF32 | fsigmF32 | fangcsA32 | fangcsA64 | fangofA32 | fangofA64 =>
    exact nomatch hf
  all_goals exact nomatch hg

/-- An instruction with a guard leaves memory. -/
theorem leaves_of_guard {i : Instr} {g : BitVec 5} (hg : guardField i = some g) : Leaves (exec i) := by
  cases hc : isControl i with
  | true => exact leaves_of_isControl hc
  | false =>
    cases hf : isFFun i with
    | true => exact leaves_of_isFFun hf
    | false => exact leaves_of_plain hg hc hf

/-- Settles O45: a slot's work is an issue, a trap, a wait or a change of its context. -/
theorem slotsWriteNoMemory : Obligations.SlotsWriteNoMemory :=
  fun _ _ s t hg h => leaves_of_guard hg s t h

end Sys2Proof.Claims


namespace Sys2Proof.Claims

open Sys2Proof.Machine

/-! ### Helpers of the events that leave memory -/

section

variable (s : State)

@[simp] theorem mem_resumedTrap (i : Nat) (t : TrapInfo) : (s.resumedTrap i t).mem = s.mem := by
  unfold State.resumedTrap
  dsimp only
  rw [mem_foldl_of]
  simp

@[simp] theorem mem_fetchTrap (i : Nat) (t : TrapInfo) : (s.fetchTrap i t).mem = s.mem := by
  unfold State.fetchTrap
  split <;> simp

@[simp] theorem mem_fetchFault (i : Nat) (e : AFault) : (s.fetchFault i e).mem = s.mem := by
  simp [State.fetchFault]

@[simp] theorem mem_missStep (l : Nat) (m : Miss) : (s.missStep l m).mem = s.mem := by
  unfold State.missStep
  split <;> simp

@[simp] theorem mem_rebase (i : Nat) : (s.rebase i).mem = s.mem := rfl

@[simp] theorem mem_rebased (i : Nat) : (s.rebased i).mem = s.mem := by
  unfold State.rebased
  split <;> rfl

@[simp] theorem mem_thaw (ls : List Nat) : (s.thaw ls).mem = s.mem := by
  unfold State.thaw
  rw [mem_foldl_of]
  simp

@[simp] theorem mem_dropFences (i : Nat) : (s.dropFences i).mem = s.mem := rfl

@[simp] theorem mem_logRows (i : Nat) (cs : List Host.Cell) : (s.logRows i cs).mem = s.mem := by
  unfold State.logRows
  dsimp only
  repeat' split
  all_goals rfl

@[simp] theorem mem_shareAfter (ids : List Nat) : (s.shareAfter ids).mem = s.mem := by
  unfold State.shareAfter
  rw [mem_foldl_of]
  simp

@[simp] theorem mem_completeBundle (i : Nat) : (s.completeBundle i).mem = s.mem := rfl

@[simp] theorem mem_startIssue (base : State) (l : Nat) (fs : List (Nat × Fetch)) :
    (base.startIssue s l fs).mem = s.mem := by
  unfold State.startIssue
  dsimp only
  rw [mem_foldl_of, mem_foldl_of]
  · intro t x
    rw [mem_foldl_of] <;> simp
  · simp

theorem mem_issueOf {base : State} (h : base.mem = s.mem) (l : Nat) (fs : List (Nat × Fetch)) :
    (base.issueOf s l fs).mem = s.mem := by
  unfold State.issueOf
  split
  · exact mem_startIssue ..
  · rw [mem_foldl_of, h]
    simp

@[simp] theorem mem_mergeLoss (i : Nat) : (s.mergeLoss i).mem = s.mem := rfl

@[simp] theorem mem_setMerge (l : Nat) (b : Bool) (n : Nat) : (s.setMerge l b n).mem = s.mem := rfl

@[simp] theorem mem_mergeStage (l : Nat) (ta tb : Turn) : (mergeStage s l ta tb).mem = s.mem := by
  unfold mergeStage
  dsimp only
  repeat' split
  case h_4 => exact mem_idleCycle ..
  all_goals exact (mem_issueOf _ (by simp) ..).trans (by simp)

@[simp] theorem mem_dropM (i n : Nat) : (s.dropM i n).mem = s.mem := rfl

@[simp] theorem mem_dropStacks (p l n : Nat) : (dropStacks s p l n).mem = s.mem := rfl

@[simp] theorem mem_logRec (r : ErrRec) : (s.logRec r).mem = s.mem := rfl

@[simp] theorem mem_logError (p c i : Nat) : (s.logError p c i).mem = s.mem := rfl

@[simp] theorem mem_logCore (l c i : Nat) : (s.logCore l c i).mem = s.mem := rfl

@[simp] theorem mem_modGraph (p q : Nat) (f : Launch → Launch) : (s.modGraph p q f).mem = s.mem := rfl

@[simp] theorem mem_modNode (p q n : Nat) (f : Node → Node) : (s.modNode p q n f).mem = s.mem := rfl

@[simp] theorem mem_decDeps (p q i : Nat) : (decDeps s p q i).mem = s.mem := rfl

@[simp] theorem mem_performLoad (i : Nat) (a : MAcc) : (s.performLoad i a).mem = s.mem := by
  unfold State.performLoad
  dsimp only
  split <;> simp

@[simp] theorem mem_dropAtomic (i pos : Nat) (a : MAcc) : (s.dropAtomic i pos a).mem = s.mem := by
  unfold State.dropAtomic
  split <;> rfl

@[simp] theorem mem_setCopy (i pos : Nat) (k : Copy) : (setCopy s i pos k).mem = s.mem := rfl

@[simp] theorem mem_copyFault (i pos : Nat) (k : Copy) (w : Bool) (e : AFault) : (copyFault s i pos k w e).mem = s.mem := by
  unfold copyFault
  split <;> simp

@[simp] theorem mem_setAs (i pos : Nat) (a : AsLd) : (setAs s i pos a).mem = s.mem := rfl

@[simp] theorem mem_asFault (i pos : Nat) (a : AsLd) (e : AFault) : (asFault s i pos a e).mem = s.mem := by
  unfold asFault
  split <;> simp

theorem mem_enqueueLaunch {p scope q graph : Nat} {ovr : Option Nat} {notify n : Nat} {t : State}
    (h : enqueueLaunch s p scope q graph ovr notify = some (t, n)) : t.mem = s.mem := by
  unfold enqueueLaunch at h
  dsimp only at h
  split at h
  · cases h
  · cases h
    rfl

@[simp] theorem mem_graphGoDo (c : Cmd) : (graphGoDo s c).1.mem = s.mem := by
  unfold graphGoDo
  dsimp only
  split
  · rfl
  · split
    next => rfl
    next h => exact mem_enqueueLaunch s h

@[simp] theorem mem_taskSigDo (c : Cmd) : (taskSigDo s c).1.mem = s.mem := by
  unfold taskSigDo
  dsimp only
  repeat' split
  all_goals rfl

@[simp] theorem mem_hPerform (i : Nat) : (hPerform s i).mem = s.mem := by
  unfold hPerform
  dsimp only
  repeat' split
  all_goals simp

@[simp] theorem mem_seqLoad (c : Cmd) : (seqLoad s c).1.mem = s.mem := by
  unfold seqLoad
  dsimp only
  repeat' split
  all_goals rfl

@[simp] theorem mem_engDrop (c : Cmd) : (engDrop s c).mem = s.mem := rfl

@[simp] theorem mem_seqIllegal (i : Nat) : (seqIllegal s i).mem = s.mem := rfl

@[simp] theorem mem_retarget (c : Cmd) : (s.retarget c).mem = s.mem := rfl

@[simp] theorem mem_engDiscard (c : Cmd) (e : AFault) : (engDiscard s c e).mem = s.mem := rfl

@[simp] theorem mem_orFlags (o : EngOp) : (EngOp.orFlags s o).mem = s.mem := rfl

@[simp] theorem mem_pkDeliver (i q : Nat) : (pkDeliver s i q).mem = s.mem := by
  unfold pkDeliver
  dsimp only
  repeat' split
  all_goals rfl

@[simp] theorem mem_copyDeliver (i q n : Nat) (k : Copy) : (copyDeliver s i q n k).mem = s.mem := by
  unfold copyDeliver
  dsimp only
  split <;> rfl

@[simp] theorem mem_deliverElem (i q : Nat) (st : Stream) : (deliverElem s i q st).mem = s.mem := by
  unfold deliverElem
  dsimp only
  repeat' split
  all_goals simp

@[simp] theorem mem_syncCores (ids : List Nat) : (s.syncCores ids).mem = s.mem := by
  unfold State.syncCores
  dsimp only
  rw [mem_foldl_of]
  simp

@[simp] theorem mem_fuseWord (i : Nat) : (fuseWord s i).mem = s.mem := by rw [fuseWord_eq, modCtx_mem]

@[simp] theorem mem_fuseMember (leader : Ctx) (i : Nat) : (fuseMember leader s i).mem = s.mem := by
  simp [fuseMember]

@[simp] theorem mem_fuseTrap (i : Nat) : (fuseTrap s i).mem = s.mem := rfl

@[simp] theorem mem_relabelFault (c : Cmd) (st : State × Bool × Bool) (va : Nat) :
    (relabelFault c st va).1.mem = st.1.mem := by
  unfold relabelFault
  split <;> rfl

@[simp] theorem mem_pkPost (r : PkRun) (w : Bool) (e : AFault) : (pkPost s r w e).mem = s.mem := by
  rw [pkPost, mem_postFault, mem_noteWalk]

/-- The memory of a state in a pair, without the pair's evaluation. -/
theorem mem_pair {β : Type} {s t : State} (h : t.mem = s.mem) (b : β) : (t, b).1.mem = s.mem := h

@[simp] theorem mem_pkStart (r : PkRun) : (pkStart s r).1.mem = s.mem := by
  unfold pkStart
  dsimp only
  split
  · split
    · split
      · exact mem_pair (mem_pkPost ..) _
      · exact mem_pair rfl _
    · split
      · exact mem_pair rfl _
      · exact mem_pair ((modDie_mem ..).trans (mem_noteSpan ..)) _
  · split
    · exact mem_pair rfl _
    · split
      · exact mem_pair rfl _
      · split
        · split
          · exact mem_pair (mem_pkPost ..) _
          · exact mem_pair rfl _
        · split
          · exact mem_pair rfl _
          · split
            · exact mem_pair rfl _
            · split
              · exact mem_pair rfl _
              · refine mem_pair ?_ _
                split
                · exact mem_noteSpan ..
                · rfl

@[simp] theorem mem_setN (i pos : Nat) (n : NCmd) : (setN s i pos n).mem = s.mem := rfl

@[simp] theorem mem_nmStop (i pos : Nat) (n : NCmd) (c va : Nat) : (nmStop s i pos n c va).mem = s.mem := rfl

@[simp] theorem mem_enterHold (i : Nat) (t : TrapInfo) : (s.enterHold i t).mem = s.mem := by
  unfold State.enterHold
  split <;> rfl

@[simp] theorem mem_abandonAt (t : State) (i : Nat) : (t.abandonAt s i).mem = s.mem := rfl

@[simp] theorem mem_abandonSaved (b : Binding) : (s.abandonSaved b).mem = s.mem := rfl

@[simp] theorem mem_dropWaiter (i : Nat) : (dropWaiter s i).mem = s.mem := rfl

@[simp] theorem mem_modSaved (p i : Nat) (f : Saved → Saved) : (s.modSaved p i f).mem = s.mem := rfl

@[simp] theorem mem_wakeCore (l : Nat) : (wakeCore s l).mem = s.mem := by
  unfold wakeCore
  split <;> rfl

@[simp] theorem mem_newInterval (i : Nat) : (s.newInterval i).mem = s.mem := rfl

@[simp] theorem mem_refillWalks (d : Nat) : (refillWalks s d).mem = s.mem := by
  unfold refillWalks
  rw [mem_foldl_of]
  intro t x
  split <;> simp

@[simp] theorem mem_cacheFor (t : TlbEntry) (l : Nat) : (cacheFor t s l).mem = s.mem := rfl

@[simp] theorem mem_dropTranslations (p : Nat) (v : Nat × Nat × Bool) : (dropTranslations s p v).mem = s.mem := rfl

@[simp] theorem mem_resetBarriers (p l n k : Nat) : (resetBarriers p l n s k).mem = s.mem := by
  unfold resetBarriers
  split <;> rfl

@[simp] theorem mem_planFormats (i : Nat) (b : Binding) (fs : List Nat) : (planFormats s i b fs).mem = s.mem := rfl

@[simp] theorem mem_dataError (i : Nat) : (dataError s i).mem = s.mem := rfl

@[simp] theorem mem_rerunSignature (i : Nat) : (rerunSignature s i).2.mem = s.mem := rfl

@[simp] theorem mem_commitInterval (i : Nat) : (commitInterval s i).mem = s.mem := by
  unfold commitInterval
  dsimp only
  split <;> rfl

@[simp] theorem mem_resumeWaiter (va : Nat) (w : Nat × Nat) : (resumeWaiter va s w).mem = s.mem := by
  unfold resumeWaiter
  repeat' split
  all_goals rfl

@[simp] theorem mem_engGiveUp (i : Nat) : (engGiveUp s i).mem = s.mem := by
  unfold engGiveUp
  dsimp only
  rw [modCore_mem, mem_foldl_of]
  simp

@[simp] theorem mem_deliverWaiter (va : Nat) (w : Nat × Nat) : (deliverWaiter va s w).mem = s.mem := by
  unfold deliverWaiter
  dsimp only
  repeat' split
  all_goals simp

@[simp] theorem mem_sendTo (d : Dest) (m : List Byte) : (s.sendTo d m).mem = s.mem := rfl

@[simp] theorem mem_send (m : List Byte) : (s.send m).mem = s.mem := rfl

@[simp] theorem mem_notify (p : Nat) (m : List Byte) : (s.notify p m).mem = s.mem := rfl

@[simp] theorem mem_modDomain (d : Nat) (f : DebugDom → DebugDom) : (s.modDomain d f).mem = s.mem := rfl

@[simp] theorem mem_dropWrites (f : Nat → Bool) : (s.dropWrites f).mem = s.mem := rfl

@[simp] theorem mem_dropWork (f : Nat → Bool) : (s.dropWork f).mem = s.mem := by
  unfold State.dropWork
  dsimp only
  split <;> rfl

@[simp] theorem mem_fatal (c : Nat) : (fatal s c).mem = s.mem := by
  unfold fatal
  split
  · rfl
  · dsimp only
    rw [mem_foldl_of]
    simp

@[simp] theorem mem_editRecord (i f v : Nat) : (editRecord s i f v).mem = s.mem := rfl

@[simp] theorem mem_editQueued (i n f v : Nat) : (editQueued s i n f v).mem = s.mem := rfl

@[simp] theorem mem_heldPart (i p n f v : Nat) : (heldPart s i p n f v).mem = s.mem := by
  unfold heldPart
  repeat' split
  all_goals rfl

@[simp] theorem mem_finishDump : (finishDump s).mem = s.mem := rfl

@[simp] theorem mem_breakStop (n : Nat) : (breakStop s n).mem = s.mem := by
  unfold breakStop
  dsimp only
  split
  · rw [mem_foldl_of]
    simp
  · exact mem_issueTrap ..

@[simp] theorem mem_laneTrap : s.laneTrap.mem = s.mem := mem_issueTrap ..

@[simp] theorem mem_enqueueFault (f : FaultRec) : (s.enqueueFault f).mem = s.mem := by
  unfold State.enqueueFault
  dsimp only
  repeat' split
  all_goals rfl

end

end Sys2Proof.Claims


namespace Sys2Proof.Claims

open Sys2Proof.Machine

/-! ### Memory stays in its form: the primitive writes -/

/-- What every step of a list keeps, the list keeps. -/
theorem foldl_induct {σ α : Type} (P : σ → Prop) {f : σ → α → σ} (hf : ∀ s a, P s → P (f s a)) (l : List α) {s : σ}
    (h : P s) : P (l.foldl f s) := by
  induction l generalizing s with
  | nil => exact h
  | cons a l ih => exact ih (hf s a h)

theorem memOk_foldl {α : Type} {f : State → α → State} (hf : ∀ s a, MemOk s → MemOk (f s a)) (l : List α) {s : State}
    (h : MemOk s) : MemOk (l.foldl f s) := foldl_induct _ hf l h

theorem memOk_foldl_fst {α β : Type} {f : State × β → α → State × β} (hf : ∀ (x : State × β) a, MemOk x.1 → MemOk (f x a).1)
    (l : List α) {x : State × β} (h : MemOk x.1) : MemOk (l.foldl f x).1 := foldl_induct (fun x : State × β => MemOk x.1) hf l h

/-- A state whose memory is another's has the other's form. -/
theorem memOk_of_mem {s t : State} (h : MemOk s) (ht : t.mem = s.mem) : MemOk t := by
  rw [MemOk, ht]
  exact h

section

variable {s : State} (h : MemOk s)

include h

theorem memOk_putCells (cs : List Host.Cell) : MemOk (s.putCells cs) := memWf_memPutAll h cs

theorem memOk_putOwn (i : Nat) (cs : List Host.Cell) : MemOk (s.putOwn i cs) :=
  memOk_putCells (memOk_of_mem h (mem_logRows ..)) cs

theorem memOk_enter (l lvl : Nat) (w : BufWrite) : MemOk (s.enter l lvl w) := by
  unfold State.enter
  split
  · split
    · exact h
    · exact memOk_putCells h _
  · split <;> exact h

theorem memOk_wrWin (i n o : Nat) (bs : List Byte) : MemOk (wrWin s i n o bs) := by
  unfold wrWin
  dsimp only
  split
  · split
    · exact memOk_putOwn h ..
    · exact memOk_enter h ..
  · exact h

theorem memOk_savDo (i : Nat) (w : SavWrite) : MemOk (savDo s i w) := memOk_wrWin h ..

theorem memOk_savPerform (i : Nat) : MemOk (savPerform s i) := by
  unfold savPerform
  dsimp only
  repeat' split
  · exact h
  · exact h
  · exact memOk_savDo (s := (s.dropFences i).modCtx i _) h ..

theorem memOk_issueSav (i : Nat) : MemOk (s.issueSav i) := by
  unfold State.issueSav
  split
  · exact h
  · exact memOk_savPerform h i

theorem memOk_finishIssue : MemOk s.finishIssue := by
  unfold State.finishIssue
  dsimp only
  split
  · split
    · exact memOk_of_mem h (by simp)
    · refine memOk_foldl (fun _ _ h => memOk_of_mem h (mem_endCycle ..)) _ ?_
      refine memOk_foldl (fun _ _ h => memOk_of_mem h (mem_completeBundle ..)) _ ?_
      refine memOk_foldl (fun _ _ h => memOk_issueSav h _) _ ?_
      exact memOk_of_mem h (mem_shareAfter ..)
  · exact h

theorem memOk_enterRelease (i : Nat) (a : MAcc) : MemOk (s.enterRelease i a) := by
  unfold State.enterRelease
  split
  · exact memOk_putCells h _
  · exact memOk_enter h ..

theorem memOk_remoteTake (w : BufWrite) : MemOk (s.remoteTake w) := by
  unfold State.remoteTake
  split <;> exact memOk_putCells h _

theorem memOk_performAtomic (op : Nat) (a : MAcc) : MemOk (s.performAtomic op a) :=
  memOk_foldl (fun _ _ h => memOk_putCells h _) _ h

theorem memOk_keyedAtomic (i pos : Nat) : MemOk (s.keyedAtomic i pos) := by
  unfold State.keyedAtomic
  dsimp only
  repeat' split
  · exact memOk_performAtomic (memOk_of_mem h (by simp)) ..
  all_goals exact h

/-! ### Copies and the angle store -/

theorem memOk_enterPart (cls i n : Nat) (p : List (Loc × Option Byte)) : MemOk (enterPart cls i n s p) := by
  unfold enterPart
  dsimp only
  split
  · exact h
  · split
    · exact memOk_putOwn h ..
    · exact memOk_enter h ..

theorem memOk_copyWrite {cls i n : Nat} {p : Put} {t : State} (ht : copyWrite s cls i n p = .ok t) : MemOk t := by
  unfold copyWrite at ht
  split at ht
  · cases ht
  · split at ht
    · cases ht
      exact memOk_foldl (fun _ _ h => memOk_enterPart h ..) _ h
    · cases ht

theorem memOk_copyWrites {cls i n : Nat} {ps : List Put} {t : State} (ht : copyWrites s cls i n ps = .ok t) : MemOk t := by
  induction ps generalizing s with
  | nil =>
    cases ht
    exact h
  | cons p ps ih =>
    unfold copyWrites at ht
    split at ht
    next => cases ht
    next hp => exact ih (memOk_copyWrite h hp) ht

theorem memOk_copyElem (i pos : Nat) (k : Copy) : MemOk (copyElem s i pos k) := by
  unfold copyElem
  dsimp only
  split
  · exact memOk_of_mem h (mem_copyFault ..)
  · split
    · exact memOk_of_mem h (mem_copyFault ..)
    · split
      · exact memOk_of_mem h (by simp)
      · split
        · exact memOk_of_mem h (by simp)
        · split
          next => exact memOk_of_mem h (by simp)
          next ht =>
            refine memOk_of_mem (memOk_copyWrites ?_ ht) (mem_setCopy ..)
            exact memOk_of_mem h (mem_noteSpans ..)

theorem memOk_copyStep (i pos : Nat) (k : Copy) : MemOk (copyStep s i pos k) := by
  unfold copyStep
  split
  · exact h
  · exact memOk_copyElem h ..

theorem memOk_keyedCopy (i pos : Nat) : MemOk (keyedCopy s i pos) := by
  unfold keyedCopy
  split
  · exact h
  · split
    · exact memOk_copyStep h ..
    · exact h

theorem memOk_copyPerform (i pos : Nat) : MemOk (copyPerform s i pos) := by
  unfold copyPerform
  split
  · exact h
  · split
    · exact memOk_copyStep h ..
    · exact h

theorem memOk_asGranule (i pos : Nat) (a : AsLd) : MemOk (asGranule s i pos a) := by
  unfold asGranule
  dsimp only
  repeat' split
  · exact h
  · exact memOk_of_mem h (mem_asFault ..)
  · exact memOk_putCells h _
  · exact memOk_of_mem h (mem_asFault ..)

theorem memOk_asStep (i pos : Nat) (a : AsLd) : MemOk (asStep s i pos a) := by
  unfold asStep
  split
  · exact h
  · exact memOk_asGranule (memOk_of_mem h (mem_noteWalk ..)) ..

theorem memOk_keyedAs (i pos : Nat) : MemOk (keyedAs s i pos) := by
  unfold keyedAs
  split
  · exact h
  · split
    · exact memOk_asStep h ..
    · exact h

theorem memOk_asPerform (i pos : Nat) : MemOk (asPerform s i pos) := by
  unfold asPerform
  split
  · exact h
  · split
    · exact memOk_asStep h ..
    · exact h

end

/-! ### The rotation array -/

section

variable {s : State} (h : MemOk s)

include h

theorem memOk_panelPut (p : Panel) (n r c v : Nat) : MemOk (p.put n s r c v) := memOk_wrWin h ..

theorem memOk_putCol (p : Panel) (n c : Nat) (vs : List Nat) : MemOk (p.putCol n s c vs) :=
  memOk_foldl (fun _ _ h => memOk_panelPut h ..) _ h

theorem memOk_slvPut (c : Cmd) (d : SlvIn) (x : List Nat) : MemOk (slvPut s c d x).1 :=
  memOk_foldl_fst (fun _ _ h => memOk_panelPut h ..) _ h

theorem memOk_slvPark (o : EngOp) : MemOk (slvPark s o) := by
  unfold slvPark
  repeat' split
  · exact memOk_slvPut h ..
  all_goals exact h

theorem memOk_engHold (o : EngOp) (why : Nat) (b : Bool) : MemOk (engHold s o why b) := by
  unfold engHold
  split
  · exact h
  · exact memOk_slvPark (s := EngOp.orFlags s o) h o

theorem memOk_gangHold (o : EngOp) (why : Nat) (b : Bool) : MemOk (gangHold s o why b) := by
  refine memOk_foldl (fun t m ht => ?_) _ (memOk_engHold h o why b)
  split
  · exact ht
  · exact memOk_engHold ht ..

theorem memOk_engStepEnd (l : Nat) (o : EngOp) (b : Bool) : MemOk (engStepEnd s l o b) := by
  unfold engStepEnd
  dsimp only
  repeat' split
  · exact h
  · exact memOk_engHold h ..
  · exact memOk_gangHold h ..
  · exact memOk_gangHold h ..
  · exact memOk_gangHold h ..
  · exact memOk_gangHold h ..
  · exact h

theorem memOk_seqMove (l : Nat) (o : EngOp) (e : Nat) : MemOk (seqMove s l o e) := by
  unfold seqMove
  dsimp only
  split
  · split <;> exact h
  · split
    · exact h
    · by_cases hw : fieldN e 64 1 = 1
      · rw [if_pos hw]
        refine memOk_engStepEnd ?_ ..
        exact h
      · rw [if_neg hw]
        exact h

theorem memOk_engBegin (c : Cmd) (o : EngOp) : MemOk (engBegin s c o) := by
  unfold engBegin
  dsimp only
  repeat' split
  · refine memOk_wrWin ?_ ..
    exact h
  all_goals exact h

theorem memOk_restoreRows (i : Nat) : MemOk (restoreRows s i) :=
  memOk_foldl (fun _ _ h => memOk_putOwn h ..) _ h

theorem memOk_linReplay (o : EngOp) : MemOk (linReplay s o).1 := memOk_restoreRows h _

theorem memOk_gangReplay (c : Cmd) (k : Nat) : MemOk (gangReplay s c k) := by
  refine memOk_foldl (fun t m ht => ?_) _ h
  dsimp only
  repeat' split
  · exact memOk_linReplay ht _
  · exact ht
  · exact ht
  · exact memOk_linReplay ht _

end

end Sys2Proof.Claims


namespace Sys2Proof.Claims

open Sys2Proof.Machine

/-! ### The rotation array: its steps -/

section

variable {s : State} (h : MemOk s)

include h

theorem memOk_postFault (i n : Nat) (k : AccessKind) (p : Nat) (e : AFault) : MemOk (s.postFault i n k p e) :=
  memOk_of_mem h (mem_postFault ..)

theorem memOk_noteWalk (i va : Nat) : MemOk (s.noteWalk i va) := memOk_of_mem h (mem_noteWalk ..)

theorem memOk_engEffect (o : EngOp) : MemOk (engEffect s o).1 := by
  unfold engEffect
  dsimp only
  repeat' split
  · exact h
  · exact h
  · exact h
  · exact h
  · refine memOk_foldl (fun t n ht => ?_) _ h
    exact memOk_of_mem (memOk_putOwn ht ..) (modCtx_mem ..)
  · exact memOk_of_mem h (mem_seqLoad ..)
  · exact h
  · exact h

theorem memOk_seqInnerEnd (l : Nat) (o i : EngOp) : MemOk (seqInnerEnd s l o i) :=
  memOk_of_mem (memOk_engEffect (memOk_of_mem h (mem_orFlags ..)) i) rfl

theorem memOk_seqIssue {o : EngOp} {e : Nat} {t : State} (ht : seqIssue s o e = some t) : MemOk t := by
  unfold seqIssue at ht
  dsimp only at ht
  repeat' split at ht
  all_goals try cases ht
  · exact memOk_of_mem h (by simp)
  · refine memOk_engBegin ?_ ..
    exact memOk_of_mem h (by simp)
  · exact memOk_postFault (memOk_noteWalk (memOk_gangReplay h ..) ..) ..
  · exact memOk_of_mem h (by simp)
  all_goals exact memOk_of_mem h (by simp [mem_bindPut, copyPut])

theorem memOk_slvStop (o : EngOp) (d : SlvIn) (v : Solve) (st : Nat) (x : List Nat) (fl : BitVec 8) :
    MemOk (slvStop s o d v st x fl).1 := memOk_slvPut h ..

theorem memOk_slvTest (p : Bool) (o : EngOp) (d : SlvIn) (v : Solve) : MemOk (slvTest s p o d v).1 := by
  unfold slvTest
  dsimp only
  repeat' split
  all_goals first | exact h | exact memOk_slvStop h ..

theorem memOk_slvStep (p : Bool) (o : EngOp) : MemOk (slvStep s p o).1 := by
  unfold slvStep
  dsimp only
  repeat' split
  · exact memOk_slvTest h ..
  all_goals exact h

theorem memOk_engNext (l : Nat) (c : Cmd) (q : List Cmd) : MemOk (engNext s l c q) := by
  unfold engNext
  dsimp only
  split
  · refine memOk_engBegin ?_ ..
    exact memOk_of_mem h (by simp)
  · split
    · refine memOk_postFault (memOk_noteWalk ?_ ..) ..
      exact memOk_gangReplay h ..
    · exact memOk_of_mem h (by simp)

omit h in
theorem memOk_appBrick {c : Cmd} {p : Panel} {bs : List Brick} {col bi : Nat} {x : State × List Nat × BitVec 8}
    (hx : MemOk x.1) : MemOk (appBrick c p bs col x bi).1 := by
  unfold appBrick
  dsimp only
  refine memOk_of_mem ?_ (modRegs_mem ..)
  split
  · exact memOk_putCol hx ..
  · exact hx

theorem memOk_appStep (o : EngOp) : MemOk (appStep s o).1 := by
  unfold appStep
  dsimp only
  split
  · split
    · exact h
    · refine memOk_foldl_fst (fun x col hx => memOk_putCol ?_ ..) _ h
      exact foldl_induct (fun y : State × List Nat × BitVec 8 => MemOk y.1) (fun _ _ hy => memOk_appBrick hy) _ hx
  · exact h

theorem memOk_drvStep (o : EngOp) : MemOk (drvStep s o).1 := by
  unfold drvStep
  dsimp only
  split
  · exact h
  · split
    · exact h
    · split
      all_goals
        refine memOk_wrWin (memOk_foldl_fst (fun x col hx => ?_) _ ?_) ..
        · exact memOk_panelPut (memOk_panelPut hx ..) ..
        · exact memOk_panelPut (memOk_panelPut h ..) ..

theorem memOk_touchRow (i n r : Nat) : MemOk (touchRow s i n r) := by
  unfold touchRow
  split
  · exact h
  · refine memOk_putCells ?_ _
    exact memOk_of_mem h (modCtx_mem ..)

theorem memOk_wrAcc (i acc r w n v : Nat) : MemOk (wrAcc s i acc r w n v) := memOk_putOwn (memOk_touchRow h ..) ..

theorem memOk_linStep {o : EngOp} {r : State × EngOp} (hr : linStep s o = .ok r) : MemOk r.1 := by
  unfold linStep at hr
  dsimp only at hr
  split at hr
  · cases hr
  · rw [← Except.ok.inj hr]
    dsimp only
    exact memOk_foldl_fst (fun _ _ hx => memOk_wrAcc hx ..) _ h

omit h in
theorem memOk_gradScale {c : Cmd} {f : Fmt} {sig : List Nat} {acc co l : Nat} {x : State × List Nat × List Nat × BitVec 8}
    (hx : MemOk x.1) : MemOk (gradScale c f sig acc co x l).1 := memOk_wrAcc hx ..

omit h in
theorem memOk_gradPair {c : Cmd} {f : Fmt} {n acc co row : Nat} {p : Nat × Nat × Nat × Nat}
    {x : State × List Nat × List Nat × BitVec 8} (hx : MemOk x.1) : MemOk (gradPair c f n acc co row p x).1 := by
  unfold gradPair
  dsimp only
  split
  · exact memOk_wrAcc hx ..
  · exact hx

omit h in
theorem memOk_gradCol {c : Cmd} {f : Fmt} {b : Brick} {slots : List (List Nat)} {bi : Nat}
    {x : State × List Nat × List Nat × BitVec 8} (hx : MemOk x.1) : MemOk (gradCol c f b slots bi x).1 := by
  let P (y : State × List Nat × List Nat × BitVec 8) : Prop := MemOk y.1
  unfold gradCol
  dsimp only
  refine foldl_induct P (fun y i hy => foldl_induct P (fun _ _ hz => memOk_gradPair hz) _ hy) _ ?_
  split
  · exact hx
  · exact foldl_induct P (fun _ _ hy => memOk_gradScale hy) _ hx

omit h in
theorem memOk_gradBrick {c : Cmd} {p : Panel} {bs : List Brick} {col bi : Nat} {x : State × List Nat × List Nat × BitVec 8}
    (hx : MemOk x.1) : MemOk (gradBrick c p bs col x bi).1 := by
  unfold gradBrick
  dsimp only
  split
  all_goals exact memOk_gradCol hx

theorem memOk_gradStep (o : EngOp) : MemOk (gradStep s o).1 := by
  unfold gradStep
  dsimp only
  split
  · split
    · exact h
    · refine memOk_foldl_fst (fun x col hx => memOk_putCol (memOk_putCol ?_ ..) ..) _ h
      exact foldl_induct (fun y : State × List Nat × List Nat × BitVec 8 => MemOk y.1) (fun _ _ hy => memOk_gradBrick hy) _ hx
  · exact h

theorem memOk_nrmStep (o : EngOp) : MemOk (nrmStep s o).1 := by
  unfold nrmStep
  dsimp only
  split
  · exact h
  · refine memOk_foldl_fst (fun x col hx => ?_) _ h
    split
    · exact memOk_wrWin hx ..
    · exact memOk_putCol hx ..

theorem memOk_engWork {o : EngOp} {r : State × EngOp} (hr : engWork s o = .ok r) : MemOk r.1 := by
  unfold engWork at hr
  dsimp only at hr
  split at hr
  · cases hr
    exact memOk_appStep h o
  · split at hr
    · cases hr
      exact memOk_drvStep h o
    · split at hr
      · exact memOk_linStep h hr
      · split at hr
        · cases hr
          exact memOk_gradStep h o
        · split at hr
          · cases hr
            exact memOk_slvStep h ..
          · split at hr
            · cases hr
              exact memOk_nrmStep h o
            · cases hr
              exact h

theorem memOk_innerFault (i : Nat) (o : EngOp) (e : AFault) : MemOk (innerFault s i o e) := by
  have hr (k : Nat) : MemOk (linReplay (gangReplay s o.cmd k) o).1 := memOk_linReplay (memOk_gangReplay h ..) o
  unfold innerFault
  dsimp only
  split
  · refine memOk_postFault (memOk_noteWalk ?_ ..) ..
    exact hr _
  · exact hr _

theorem memOk_opFault (l : Nat) (o : EngOp) (e : AFault) : MemOk (opFault s l o e) := by
  have hr : MemOk (linReplay (gangReplay s o.cmd 0) o).1 := memOk_linReplay (memOk_gangReplay h ..) o
  unfold opFault
  dsimp only
  split
  · refine memOk_postFault (memOk_noteWalk ?_ ..) ..
    exact hr
  · exact memOk_of_mem hr (by simp)

end

end Sys2Proof.Claims


namespace Sys2Proof.Claims

open Sys2Proof.Machine

/-! ### The units of the dies and of memory -/

section

variable {s : State} (h : MemOk s)

include h

theorem memOk_relabelAdd (c : Cmd) (w x : Nat) : MemOk (relabelAdd s c w x) := memOk_putCells h _

omit h in
theorem memOk_relabelElem {c : Cmd} {roots : List Nat} {x : State × Bool × Bool} {e : Nat} (hx : MemOk x.1) :
    MemOk (relabelElem c roots x e).1 := by
  have hm (k : Cluster → Cluster) : MemOk (x.1.modClu c.eqClu k) := hx
  have hw : MemOk (match copyWrite (x.1.modClu c.eqClu fun _ => ((x.1.clu c.eqClu).find c.eqBase e).2) 3 c.cid c.seq
      (c.b.toNat + 4 * e, (leBytes 4 ((roots.findIdx? (· == ((x.1.clu c.eqClu).find c.eqBase e).1)).getD 0)).map some) with
      | .ok t => (t, x.2)
      | .error f => relabelFault c (x.1.modClu c.eqClu fun _ => ((x.1.clu c.eqClu).find c.eqBase e).2, x.2) f.va).1 := by
    split
    next ht => exact memOk_copyWrite (hm _) ht
    next => exact memOk_of_mem (hm _) (mem_relabelFault ..)
  unfold relabelElem
  dsimp only
  split
  · split
    · split
      · exact memOk_relabelAdd hw ..
      · exact memOk_of_mem hw (mem_relabelFault ..)
    · exact hw
  · exact hw

omit h in
theorem memOk_ite_fst {α : Type} {p : Prop} [Decidable p] {x y : State × α} (hx : MemOk x.1) (hy : MemOk y.1) :
    MemOk (if p then x else y).1 := by
  split
  · exact hx
  · exact hy

theorem memOk_eqDo (c : Cmd) : MemOk (eqDo s c).1 := by
  let P (y : State × Bool × Bool) : Prop := MemOk y.1
  have hu : MemOk (s.modClu c.eqClu fun k => k.use c.eqBase c.eqNe) := h
  unfold eqDo
  dsimp only
  refine memOk_ite_fst hu <| memOk_ite_fst hu <| memOk_ite_fst hu <| memOk_ite_fst hu <| memOk_ite_fst hu <|
    memOk_ite_fst hu <| memOk_ite_fst hu <| memOk_ite_fst ?_ <| memOk_ite_fst hu <| memOk_ite_fst hu hu
  exact foldl_induct P (fun _ _ hx => memOk_relabelElem hx) _ hu

theorem memOk_eqProcess (c : Cmd) : MemOk (eqProcess s c) := memOk_of_mem (memOk_eqDo h c) rfl

omit h in
theorem memOk_copyChunks {d i k : Nat} {l : List (Nat × Nat × Nat)} {s : State} {n : Nat} (h : MemOk s) :
    MemOk (copyChunks d i k l s n).1 := by
  induction l generalizing s n with
  | nil => exact h
  | cons x l ih =>
    unfold copyChunks
    split
    · exact h
    · exact ih (memOk_of_mem (memOk_putCells h _) (mem_noteSpan ..))

theorem memOk_pkCopyKeys (r : PkRun) (p : PkCfg) : MemOk (pkCopyKeys s r p).1 := by
  unfold pkCopyKeys
  dsimp only
  split
  · split
    · exact memOk_of_mem (memOk_copyChunks h) (mem_pkPost ..)
    · exact memOk_copyChunks h
  · exact memOk_copyChunks (s := s) h

theorem memOk_pkWrite {c : Cmd} {a : Nat} {bs : List Byte} {t : State} (ht : pkWrite s c a bs = .ok t) : MemOk t :=
  memOk_copyWrite h ht

theorem memOk_nmAddRow (k z : Nat) (f : Nat → Nat → Nat) (xs : List Nat) : MemOk (nmAddRow s k z f xs) := memOk_putCells h _

end

/-- A fold over results that may fail, whose good results all have memory in its form. -/
def ResOk (r : Except (Bool × AFault) (State × BitVec 8)) : Prop := ∀ x, r = .ok x → MemOk x.1

theorem resOk_pkDk {c : Cmd} {p : PkCfg} {a : Nat} {xh : List FVal} {r : Except (Bool × AFault) (State × BitVec 8)}
    {sg : Nat × FRes} (hr : ResOk r) : ResOk (pkDk c p a xh r sg) := by
  intro x hx
  unfold pkDk at hx
  dsimp only at hx
  split at hx
  · cases hx
  · split at hx
    · cases hx
    · split at hx
      · cases hx
      · cases hx
        exact memOk_pkWrite (hr _ rfl) ‹_›

section

variable {s : State} (h : MemOk s)

include h

/-- Memory after a row of the Catalogue, where the row is done, is in its form. -/
def OutOk : PkOut → Prop
  | .ok t _ _ => MemOk t
  | _ => True

theorem outOk_pkLookup (c : Cmd) (p : PkCfg) (n : Nat) : OutOk (pkLookup s c p n) := by
  have hs (k : List (Nat × Nat)) : MemOk (s.noteSpans c.cid k) := memOk_of_mem h (mem_noteSpans ..)
  unfold pkLookup
  extract_lets die z o
  split
  · trivial
  · extract_lets sel w row fl s0
    split
    · trivial
    · extract_lets sum
      split
      · trivial
      · split
        · trivial
        · split
          · split
            next => trivial
            next ht => exact memOk_pkWrite (hs _) ht
          · split
            · trivial
            · extract_lets sum2
              split
              next => trivial
              next ht =>
                split
                next => trivial
                next hu => exact memOk_pkWrite (memOk_pkWrite (hs _) ht) hu

omit h in
theorem resOk_ok {fl : BitVec 8} (h : MemOk s) : ResOk (.ok (s, fl)) := by
  intro x hx
  cases hx
  exact h

theorem outOk_pkBackward (c : Cmd) (p : PkCfg) (blk : List Byte) (n : Nat) : OutOk (pkBackward s c p blk n) := by
  unfold pkBackward
  extract_lets die k vz gvKey
  split
  case h_1 =>
    extract_lets bs g all es s0 prods tot xq yq dq
    split
    case h_1 =>
      split
      · trivial
      · split
        · trivial
        · extract_lets d grads sa bad sb fl wd sum ds fl2 byI byJ fl3 dqs dsAt
          have ha : MemOk sa := memOk_foldl (fun _ _ h => memOk_nmAddRow h ..) _ (memOk_of_mem h (mem_noteSpans ..))
          have hb : MemOk sb := by
            unfold sb
            generalize bad = b
            cases b with
            | none => exact ha
            | some g => exact ha
          split
          next => trivial
          next hf =>
            have hd := foldl_induct ResOk (fun r sg => resOk_pkDk (c := c) (p := p) (a := slice blk 32 8) (xh := xq) (r := r) (sg := sg))
              byI (resOk_ok (fl := fl3) hb)
            have he := foldl_induct ResOk (fun r sg => resOk_pkDk (c := c) (p := p) (a := slice blk 40 8) (xh := yq) (r := r) (sg := sg))
              byJ hd _ hf
            split
            next => trivial
            next h3 =>
              split
              next => trivial
              next h4 => exact memOk_pkWrite (memOk_pkWrite he h3) h4
    all_goals trivial
  all_goals trivial

theorem memOk_pkAdvance (r : PkRun) : MemOk (pkAdvance s r).1 := by
  have ho (p : PkCfg) : OutOk (if r.cmd.op = 0x31 then pkLookup s r.cmd p r.done else pkBackward s r.cmd p r.blk r.done) := by
    split
    · exact outOk_pkLookup h ..
    · exact outOk_pkBackward h ..
  unfold pkAdvance
  dsimp only
  split
  · split
    · exact memOk_pkCopyKeys h ..
    · exact h
  · split
    · exact h
    · split
      · exact h
      · split
        next p _ _ _ _ _ _ hk =>
          have := ho p
          rw [hk] at this
          exact this
        next => exact h
        next => exact h
        next =>
          split
          · exact memOk_of_mem h (mem_pkPost ..)
          · exact h

theorem memOk_nmFinish (i pos : Nat) (n : NCmd) (d : NmDone) : MemOk (nmFinish s i pos n d) := by
  unfold nmFinish
  dsimp only
  split
  all_goals exact memOk_of_mem (memOk_putCells h _) rfl

end

end Sys2Proof.Claims


namespace Sys2Proof.Claims

open Sys2Proof.Machine

/-! ### Tasks, graphs and errors -/

section

variable {s : State} (h : MemOk s)

include h

omit h in
theorem memOk_setMem {m : List Host.Cell} (hm : Memory.wf m = true) : MemOk (s.setMem m) := hm

omit h in
/-- A list of writes to memory keeps it in its form where each does. -/
theorem memWf_foldl {α : Type} {f : List Host.Cell → α → List Host.Cell} (hf : ∀ m a, Memory.wf m = true → Memory.wf (f m a) = true)
    (l : List α) {m : List Host.Cell} (hm : Memory.wf m = true) : Memory.wf (l.foldl f m) = true :=
  foldl_induct (fun m => Memory.wf m = true) hf l hm

omit h in
theorem memOk_ite {p : Prop} [Decidable p] {x y : State} (hx : MemOk x) (hy : MemOk y) : MemOk (if p then x else y) := by
  split
  · exact hx
  · exact hy

theorem memOk_modNode (p q n : Nat) (f : Node → Node) : MemOk (s.modNode p q n f) := memOk_of_mem h (mem_modNode ..)

theorem memOk_restore (x : Saved) (i : Nat) : MemOk (x.restore s i) := by
  have hb := memWf_foldl (f := fun m (e : Nat × List Byte) => memPutBytes m (kScratch (coreOf i)
    (((s.ctx i).bind.map.toList.getD (e.1 % 16) 0).toNat) 0) e.2) (fun m a hm => memWf_memPutBytes hm _ _) x.banks h
  have hm := memWf_memPutBytes (memWf_memPutBytes (memWf_memPutBytes hb (kOp i 0) x.opStore) (kAcc i 0 0 0) x.accs)
    (kShadow i 0) x.shadow
  unfold Saved.restore
  exact hm

theorem memOk_zeroFill (i : Nat) (b : Binding) : MemOk (zeroFill s i b) := by
  have hb := memWf_foldl (f := fun m (n : Nat) => memClear m (kScratch (coreOf i) (b.map.toList.getD n 0).toNat 0)
    (kScratch (coreOf i) (b.map.toList.getD n 0).toNat 0 + 2 ^ 14)) (fun m a hm => memWf_memClear hm _ _)
    ((List.range 16).filter fun n => b.used.getLsbD n) h
  have hm := memWf_memClear (memWf_memClear hb (kOp i 0) (kOp i 0 + 2 ^ 16)) (kAcc i 0 0 0) (kAcc i 0 0 0 + 2 ^ 17)
  unfold zeroFill
  dsimp only
  refine memOk_setMem ?_
  generalize ((s.ctx (if slotOf i = 0 then i + 1 else i - 1)).status != .free) = o
  split
  · exact hm
  · exact memWf_memClear hm _ _

theorem memOk_bindMember (part launch node tile : Nat) (n : Node) (leader : Nat) (d : DictBank) (mc : Nat × Nat) :
    MemOk (bindMember part launch node tile n leader d s mc) := by
  unfold bindMember
  dsimp only
  simp only [MemOk, setCtx_mem, mem_planFormats]
  refine memOk_zeroFill ?_ ..
  exact memOk_of_mem h (by simp)

theorem memOk_leavePkg (w : BufWrite) : MemOk (s.leavePkg w) := by
  unfold State.leavePkg
  split
  · exact h
  · exact memOk_putCells h _

theorem memOk_drainPkg (ks : List Nat) : MemOk (s.drainPkg ks) :=
  memOk_foldl (fun _ _ h => memOk_leavePkg h _) _ (s := s.modHub _) h

theorem memOk_hubWrite (part n va : Nat) (bs : List Byte) : MemOk (hubWrite s part n va bs).1 := by
  unfold hubWrite
  dsimp only
  split
  · exact h
  · dsimp only
    split
    · exact memOk_drainPkg h _
    · exact memOk_putCells (memOk_drainPkg h _) _

theorem memOk_recState (part q n st : Nat) : MemOk (recState s part q n st) := by
  have h1 : MemOk (if 2 ≤ st then hubWrite s part (recSeq (launchOf s part q) n) ((s.node part q n).ent.crec + 32)
      (leBytes 8 s.hub.ptb) else (s, true)).1 := memOk_ite_fst (memOk_hubWrite h ..) h
  unfold recState
  exact memOk_ite (memOk_hubWrite h1 ..) (memOk_of_mem (memOk_hubWrite h1 ..) (mem_modNode ..))

theorem memOk_recAdd (part q n o : Nat) : MemOk (recAdd s part q n o) := by
  unfold recAdd
  dsimp only
  split
  · exact memOk_of_mem h (by simp)
  · split
    · exact memOk_drainPkg h _
    · exact memOk_putCells (memOk_drainPkg h _) _

theorem memOk_recEntry (part q n x y z l : Nat) (e : EndInfo) : MemOk (recEntry s part q n x y z l e) := by
  unfold recEntry
  dsimp only
  split
  · exact memOk_recAdd (memOk_of_mem (memOk_hubWrite h ..) (mem_modNode ..)) ..
  · exact memOk_recAdd (memOk_of_mem h (mem_modNode ..)) ..

theorem memOk_abandonTile (q i part t : Nat) : MemOk (abandonTile q i part s t) :=
  memOk_recAdd (memOk_of_mem (memOk_recEntry h ..) (mem_modNode ..)) ..

theorem memOk_stopGraph (part q first : Nat) : MemOk (stopGraph s part q first) := by
  unfold stopGraph
  dsimp only
  split
  · exact memOk_of_mem h (mem_modGraph ..)
  · refine memOk_foldl (fun t i ht => ?_) _ (memOk_of_mem h (mem_modGraph ..))
    split
    · exact memOk_recState (memOk_of_mem ht (mem_modNode ..)) ..
    · split
      · exact memOk_foldl (fun _ _ h => memOk_abandonTile h ..) _ (memOk_of_mem ht (mem_modNode ..))
      · exact ht

theorem memOk_nodeCheck (part q i : Nat) : MemOk (nodeCheck s part q i) := by
  unfold nodeCheck
  dsimp only
  split
  · exact h
  · have hd (n : Nat) (st : NodeState) (k : Nat) :
        MemOk (recState ((dropStacks s part n i).modNode part q i fun n => { n with state := st }) part q i k) :=
      memOk_recState (memOk_modNode (memOk_of_mem h (mem_dropStacks ..)) ..) ..
    refine memOk_ite (memOk_ite ?_ ?_) ?_
    · exact memOk_stopGraph (memOk_modNode (hd ..) ..) ..
    · exact memOk_foldl (fun _ _ h => memOk_of_mem h (mem_decDeps ..)) _ (hd ..)
    · exact memOk_stopGraph (hd ..) ..

theorem memOk_graphRecord (part : Nat) (l : Launch) (st cause : Nat) : MemOk (graphRecord s part l st cause) := by
  unfold graphRecord
  split
  · exact h
  · exact memOk_hubWrite h ..

theorem memOk_graphCheck (part q : Nat) : MemOk (graphCheck s part q) := by
  unfold graphCheck
  dsimp only
  split
  · exact h
  next l _ =>
    have hp {t : State} (ht : MemOk t) : MemOk ((List.range l.nodes.length).foldl (fun s i => nodeCheck s part q i) t) :=
      memOk_foldl (fun _ _ h => memOk_nodeCheck h ..) _ ht
    split
    · exact hp (hp h)
    · split
      · exact memOk_graphRecord (hp (hp h)) ..
      · exact hp (hp h)

theorem memOk_recMigration (i : Nat) : MemOk (recMigration s i) := by
  unfold recMigration
  dsimp only
  split
  · exact h
  · split
    · exact h
    · exact memOk_recAdd (memOk_of_mem (memOk_recEntry h ..) (mem_modNode ..)) ..

theorem memOk_migrateCtx (i : Nat) : MemOk (migrateCtx s i) :=
  memOk_of_mem (memOk_recMigration h i) ((modCtx_mem ..).trans (mem_commitInterval ..))

theorem memOk_retireCore (l : Nat) : MemOk (retireCore s l) := by
  unfold retireCore
  dsimp only
  refine memOk_foldl (fun _ _ h => memOk_migrateCtx (memOk_migrateCtx h _) _) _ ?_
  split
  · exact h
  · exact memOk_of_mem h (by simp)

theorem memOk_rollBack (i : Nat) : MemOk (rollBack s i) := by
  unfold rollBack
  dsimp only
  split
  · exact h
  · split
    · exact memOk_of_mem h (mem_dataError ..)
    · have hl {t : State} (ht : t.mem = s.mem) : MemOk t := memOk_of_mem h ht
      refine memOk_ite ?_ ?_
      · refine memOk_retireCore (hl ?_) _
        rw [mem_logRec, modCtx_mem, mem_rerunSignature, mem_rerunSignature]
      · refine hl ?_
        rw [mem_commitInterval, mem_logRec, modCtx_mem, mem_rerunSignature, mem_rerunSignature]

theorem memOk_clusterError (k : Nat) : MemOk (clusterError s k) := by
  unfold clusterError
  dsimp only
  refine memOk_foldl (fun _ _ h => memOk_retireCore h _) _ ?_
  exact memOk_foldl (fun _ _ h => memOk_of_mem h (modCtx_mem ..)) _ (memOk_of_mem h (mem_logError ..))

theorem memOk_engineRemoteError (i u va : Nat) : MemOk (engineRemoteError s i u va) := by
  have hm {t : State} (ht : t.mem = s.mem) : MemOk t := memOk_of_mem h ht
  unfold engineRemoteError
  dsimp only
  refine memOk_ite ?_ (memOk_ite ?_ (memOk_ite ?_ (memOk_ite ?_ ?_)))
  · split
    · refine memOk_ite h (memOk_ite ?_ (memOk_opFault h ..))
      split
      · exact memOk_ite h (memOk_innerFault h ..)
      · exact h
    · exact h
  · exact hm (modDie_mem ..)
  · split
    · exact memOk_ite h (hm (mem_copyFault ..))
    · exact h
  · split
    · exact memOk_ite h (hm (mem_asFault ..))
    · exact h
  · split
    · exact memOk_ite h (hm (mem_nmStop ..))
    · exact h

theorem memOk_recRefused (w : BufWrite) : MemOk (recRefused s w) := by
  unfold recRefused
  dsimp only
  split
  · exact h
  · refine memOk_graphCheck ?_ ..
    split
    · exact memOk_stopGraph (memOk_of_mem h (by simp)) ..
    · exact h

theorem memOk_formClear (part : Nat) (ds : List Nat) (cap : Nat) : MemOk (formClear s part ds cap) := by
  have hm := memWf_foldl (f := fun m d => memClear m (kAngle d 0) (kAngle d 0 + 2 ^ 31)) (fun m d hm => memWf_memClear hm _ _)
    (ds ++ (List.range 8).map fun d => 8 * (part + 1) + d) (memWf_memClear h (kStack part 0) (kStack part (256 * cap)))
  unfold formClear
  exact hm

end

end Sys2Proof.Claims


namespace Sys2Proof.Claims

open Sys2Proof.Machine

/-! ### Events: what each leaves of memory's form -/

/-- An outcome whose next state, where there is one, has memory in its form. -/
def Good (o : Host.Outcome State Fault Refusal) : Prop := ∀ t, o = .next t → MemOk t

/-- An event that keeps memory in its form. -/
def Keeps (e : State → Host.Outcome State Fault Refusal) : Prop := ∀ s, MemOk s → Good (e s)

theorem good_next {s : State} (h : MemOk s) : Good (.next s) := by
  intro t ht
  cases ht
  exact h

theorem good_of_mem {s t : State} (h : MemOk s) (ht : t.mem = s.mem) : Good (.next t) := good_next (memOk_of_mem h ht)

theorem good_ite {p : Prop} [Decidable p] {x y : Host.Outcome State Fault Refusal} (hx : Good x) (hy : Good y) :
    Good (if p then x else y) := by
  split
  · exact hx
  · exact hy

theorem keeps_of_leaves {e : State → Host.Outcome State Fault Refusal} (he : Leaves e) : Keeps e :=
  fun s h t ht => memOk_of_mem h (he s t ht)

theorem good_eventRun {s t : State} {b : Bool} (h : MemOk s) (ht : t.mem = s.mem) : Good (eventRun b s t) :=
  good_ite (good_of_mem h ht) (good_next h)

theorem good_signedRun {s : State} {kind sig : Nat} {ws : List Nat} {k : State → State} (h : MemOk s)
    (hk : ∀ t, MemOk t → MemOk (k t)) : Good (signedRun s kind ws sig k) :=
  good_ite (good_next h) (good_ite (good_next (hk s h)) (good_next h))

theorem good_inbound {s : State} {q : Requester} {k : Host.Outcome State Fault Refusal} (h : MemOk s) (hk : Good k) :
    Good (inbound s q k) := good_ite (good_next h) (good_ite (good_of_mem h (mem_logError ..)) hk)

/-! ### Events that write no memory -/

theorem keeps_acquirePerform (cid pos : Nat) : Keeps (execAcquirePerform cid pos) := by
  intro s h
  unfold execAcquirePerform
  dsimp only
  repeat' split
  · exact good_of_mem h (by simp)
  all_goals exact good_next h

theorem keeps_agePromotion (part queue node : Nat) : Keeps (execAgePromotion part queue node) := by
  intro s h
  unfold execAgePromotion
  dsimp only
  repeat' split
  all_goals exact good_next h

theorem keeps_asLdComplete (cid pos : Nat) : Keeps (execAsLdComplete cid pos) := by
  intro s h
  unfold execAsLdComplete
  dsimp only
  repeat' split
  all_goals exact good_next h

theorem keeps_attestationRequest (nonce : List Byte) : Keeps (execAttestationRequest nonce) := by
  intro s h
  unfold execAttestationRequest
  dsimp only
  exact good_next h

theorem keeps_ballastPeriod (cluster busy : Nat) : Keeps (execBallastPeriod cluster busy) := by
  intro s h
  unfold execBallastPeriod
  dsimp only
  repeat' split
  all_goals exact good_next h

theorem keeps_breakpointComparatorSet (cid n addr mask : Nat) : Keeps (execBreakpointComparatorSet cid n addr mask) := by
  intro s h
  unfold execBreakpointComparatorSet
  dsimp only
  repeat' split
  all_goals exact good_eventRun h (by simp)

theorem keeps_cbarArrival (cid : Nat) : Keeps (execCbarArrival cid) := by
  intro s h
  unfold execCbarArrival
  dsimp only
  repeat' split
  all_goals exact good_next h

theorem keeps_cbarRelease (cid : Nat) : Keeps (execCbarRelease cid) := by
  intro s h
  unfold execCbarRelease
  dsimp only
  repeat' split
  all_goals exact good_next h

theorem keeps_checkpointTake (cid : Nat) : Keeps (execCheckpointTake cid) := by
  intro s h
  unfold execCheckpointTake
  exact good_eventRun h (by simp)

theorem keeps_copyComplete (cid pos : Nat) : Keeps (execCopyComplete cid pos) := by
  intro s h
  unfold execCopyComplete
  dsimp only
  repeat' split
  all_goals exact good_next h

theorem keeps_correctedError (core kind : Nat) : Keeps (execCorrectedError core kind) := by
  intro s h
  unfold execCorrectedError
  dsimp only
  repeat' split
  all_goals exact good_next h

theorem keeps_currentLimitFall (cluster : Nat) : Keeps (execCurrentLimitFall cluster) := by
  intro s h
  unfold execCurrentLimitFall
  dsimp only
  exact good_eventRun h (by simp)

theorem keeps_deadlineEvent (cid : Nat) : Keeps (execDeadlineEvent cid) := by
  intro s h
  unfold execDeadlineEvent
  dsimp only
  refine good_ite (good_next h) (good_ite (good_next h) (good_ite (good_next h) ?_))
  exact good_of_mem h ((mem_foldl_of _ _ fun _ _ => mem_abandonAt ..).trans (mem_abandonSaved ..))

theorem keeps_debugChallengeRequest (domain : Nat) : Keeps (execDebugChallengeRequest domain) := by
  intro s h
  unfold execDebugChallengeRequest
  dsimp only
  repeat' split
  all_goals exact good_next h

theorem keeps_debugKeyInstall (domain key sig : Nat) : Keeps (execDebugKeyInstall domain key sig) := by
  intro s h
  unfold execDebugKeyInstall
  refine good_signedRun h fun t ht => ?_
  exact memOk_of_mem ht (modHub_mem ..)

theorem keeps_debugRelock (domain : Nat) : Keeps (execDebugRelock domain) := by
  intro s h
  unfold execDebugRelock
  dsimp only
  repeat' split
  all_goals exact good_next h

theorem keeps_debugSessionResume (cid : Nat) : Keeps (execDebugSessionResume cid) := by
  intro s h
  unfold execDebugSessionResume
  repeat' split
  all_goals exact good_next h

theorem keeps_debugUnlockAnswer (domain sig : Nat) : Keeps (execDebugUnlockAnswer domain sig) := by
  intro s h
  unfold execDebugUnlockAnswer
  dsimp only
  repeat' split
  all_goals exact good_next h

theorem keeps_dictLoadEnd (cid : Nat) : Keeps (execDictLoadEnd cid) := by
  intro s h
  unfold execDictLoadEnd
  dsimp only
  repeat' split
  · exact good_next h
  · exact good_of_mem h (by simp)
  · exact good_next h
  · exact good_of_mem h (by simp)

theorem keeps_droopDetect (cluster core : Nat) : Keeps (execDroopDetect cluster core) := by
  intro s h
  unfold execDroopDetect
  dsimp only
  exact good_eventRun h (by simp)

theorem keeps_dumpClear (die : Nat) : Keeps (execDumpClear die) := by
  intro s h
  unfold execDumpClear
  exact good_eventRun h (by simp)

theorem keeps_fatalError (cause : Nat) : Keeps (execFatalError cause) := by
  intro s h
  unfold execFatalError
  repeat' split
  all_goals exact good_of_mem h (by simp)

theorem keeps_faultReply (part : Nat) (msg : List Byte) : Keeps (execFaultReply part msg) := by
  intro s h
  unfold execFaultReply
  dsimp only
  split
  · exact good_next h
  · refine good_ite (good_next h) ?_
    refine good_of_mem h ((mem_foldl_of _ _ fun _ _ => mem_enqueueFault ..).trans ?_)
    refine (mem_foldl_of _ _ fun t w => ?_).trans (modPart_mem ..)
    split
    · exact mem_resumeWaiter ..
    · exact mem_deliverWaiter ..

theorem keeps_firmwareImage (image : ImageFile) (version sig : Nat) : Keeps (execFirmwareImage image version sig) := by
  intro s h
  unfold execFirmwareImage
  dsimp only
  repeat' split
  all_goals exact good_next h

theorem keeps_gangFusion (leader : Nat) : Keeps (execGangFusion leader) := by
  intro s h
  unfold execGangFusion
  dsimp only
  refine good_ite (good_next h) (good_ite ?_ ?_)
  · exact good_of_mem h ((mem_syncCores ..).trans (mem_foldl_of _ _ fun _ _ => mem_fuseMember ..))
  · exact good_of_mem h (mem_foldl_of _ _ fun _ _ => mem_fuseTrap ..)

theorem keeps_gangRejoin (leader : Nat) : Keeps (execGangRejoin leader) := by
  intro s h
  unfold execGangRejoin
  dsimp only
  refine good_ite (good_next h) ?_
  exact good_of_mem h (mem_foldl_of _ _ fun _ _ => modCtx_mem ..)

theorem keeps_hostLaunch (part : Nat) (msg : List Byte) : Keeps (execHostLaunch part msg) := by
  intro s h
  unfold execHostLaunch
  dsimp only
  refine good_ite (good_next h) (good_ite (good_next h) ?_)
  split
  next => exact good_next h
  next hq => exact good_of_mem h ((mem_send ..).trans (mem_enqueueLaunch _ hq))

theorem keeps_inboundRmaRead (q : Requester) (addr len : Nat) : Keeps (execInboundRmaRead q addr len) := by
  intro s h
  unfold execInboundRmaRead
  refine good_inbound h (good_ite (good_next h) ?_)
  split
  · exact good_next h
  · exact good_next h

theorem keeps_intervalUnprotected (cid : Nat) : Keeps (execIntervalUnprotected cid) := by
  intro s h
  unfold execIntervalUnprotected
  exact good_eventRun h (by simp)

theorem keeps_invalidation (part : Nat) (msg : List Byte) : Keeps (execInvalidation part msg) := by
  intro s h
  unfold execInvalidation
  exact good_eventRun h (by simp)

theorem keeps_invalidationDone (part pos : Nat) : Keeps (execInvalidationDone part pos) := by
  intro s h
  unfold execInvalidationDone
  dsimp only
  repeat' split
  all_goals exact good_next h

theorem keeps_launchPolicyChange (part require : Nat) (keys : List Nat) (sig : Nat) : Keeps (execLaunchPolicyChange part require keys sig) := by
  intro s h
  unfold execLaunchPolicyChange
  exact good_signedRun h fun t ht => ht

theorem keeps_loadPerform (cid pos : Nat) : Keeps (execLoadPerform cid pos) := by
  intro s h
  unfold execLoadPerform
  dsimp only
  repeat' split
  · exact good_of_mem h (by simp)
  all_goals exact good_next h

theorem keeps_mDataArrival (cid req : Nat) : Keeps (execMDataArrival cid req) := by
  intro s h
  unfold execMDataArrival
  dsimp only
  refine good_next (memOk_of_mem (t := State.modRegs _ _ _) h ((modRegs_mem ..).trans ?_))
  repeat' split
  · exact mem_servePop ..
  all_goals rfl

theorem keeps_mLandingDue (cid : Nat) : Keeps (execMLandingDue cid) := by
  intro s h
  unfold execMLandingDue
  dsimp only
  repeat' split
  · exact good_next h
  · exact good_next h
  · exact good_next h
  all_goals exact good_of_mem h (by simp)

theorem keeps_nmAcknowledge (cid pos : Nat) : Keeps (execNmAcknowledge cid pos) := by
  intro s h
  unfold execNmAcknowledge
  dsimp only
  repeat' split
  all_goals exact good_next h

theorem keeps_ownerKeyInstall (key sig : Nat) : Keeps (execOwnerKeyInstall key sig) := by
  intro s h
  unfold execOwnerKeyInstall
  split
  · exact good_ite (good_next h) (good_next h)
  · exact good_signedRun h fun t ht => ht

theorem keeps_partitionDissolution (part sig : Nat) : Keeps (execPartitionDissolution part sig) := by
  intro s h
  unfold execPartitionDissolution
  refine good_signedRun h fun t ht => ?_
  exact memOk_of_mem ht (mem_dropWork ..)

theorem keeps_peerTableChange (part slot valid addr sig : Nat) : Keeps (execPeerTableChange part slot valid addr sig) := by
  intro s h
  unfold execPeerTableChange
  exact good_signedRun h fun t ht => ht

theorem keeps_pkCommandEnd (die : Nat) : Keeps (execPkCommandEnd die) := by
  intro s h
  unfold execPkCommandEnd
  dsimp only
  repeat' split
  all_goals exact good_next h

theorem keeps_preemptionRequest (part : Nat) : Keeps (execPreemptionRequest part) := by
  intro s h
  unfold execPreemptionRequest
  dsimp only
  repeat' split
  all_goals exact good_next h

theorem keeps_preemptionStop (cid : Nat) : Keeps (execPreemptionStop cid) := by
  intro s h
  unfold execPreemptionStop
  dsimp only
  refine good_ite (good_ite (good_next h) ?_) (good_ite (good_next h) (good_next h))
  exact good_of_mem h (mem_foldl_of _ _ fun _ _ => (modCtx_mem ..).trans (mem_dropWaiter ..))

theorem keeps_pushConsumed (cid q : Nat) : Keeps (execPushConsumed cid q) := by
  intro s h
  unfold execPushConsumed
  dsimp only
  repeat' split
  all_goals exact good_next h

theorem keeps_reservationGrant (part cid : Nat) : Keeps (execReservationGrant part cid) := by
  intro s h
  unfold execReservationGrant
  dsimp only
  repeat' split
  all_goals exact good_next h

theorem keeps_resultLanding (cid : Nat) : Keeps (execResultLanding cid) := by
  intro s h
  unfold execResultLanding
  dsimp only
  repeat' split
  · exact good_next h
  · exact good_of_mem h (by simp)

theorem keeps_resultWordDue (cid : Nat) : Keeps (execResultWordDue cid) := by
  intro s h
  unfold execResultWordDue
  dsimp only
  repeat' split
  · exact good_next h
  · exact good_next h
  · exact good_next h
  · exact good_of_mem h (by simp)

theorem keeps_retirementTableClear (sig : Nat) : Keeps (execRetirementTableClear sig) := by
  intro s h
  unfold execRetirementTableClear
  exact good_signedRun h fun t ht => ht

theorem keeps_rngPush (cid : Nat) : Keeps (execRngPush cid) := by
  intro s h
  unfold execRngPush
  exact good_eventRun h (by simp)

theorem keeps_settleWindowEnd (core : Nat) : Keeps (execSettleWindowEnd core) := by
  intro s h
  unfold execSettleWindowEnd
  exact good_eventRun h (by simp)

theorem keeps_streamElementDeliver (cid q : Nat) : Keeps (execStreamElementDeliver cid q) := by
  intro s h
  unfold execStreamElementDeliver
  dsimp only
  repeat' split
  · exact good_next h
  · exact good_next h
  all_goals exact good_of_mem h (by simp)

theorem keeps_taskStart (cid : Nat) : Keeps (execTaskStart cid) := by
  intro s h
  unfold execTaskStart
  dsimp only
  refine good_ite (good_next h) ?_
  exact good_of_mem h ((mem_syncCores ..).trans (mem_foldl_of _ _ fun _ _ => (mem_newInterval ..).trans (modCtx_mem ..)))

theorem keeps_tlbWalkComplete (die pos : Nat) : Keeps (execTlbWalkComplete die pos) := by
  intro s h
  unfold execTlbWalkComplete
  dsimp only
  split
  · exact good_next h
  · split
    · exact good_of_mem h ((mem_refillWalks ..).trans ((mem_foldl_of _ _ fun _ _ => mem_cacheFor ..).trans (modDie_mem ..)))
    all_goals exact good_of_mem h (by simp)

theorem keeps_trapAtBoundary (cid : Nat) : Keeps (execTrapAtBoundary cid) := by
  intro s h
  unfold execTrapAtBoundary
  dsimp only
  refine good_ite (good_next h) ?_
  split
  · exact good_of_mem h (mem_foldl_of _ _ fun _ _ => modCtx_mem ..)
  · refine good_of_mem h ((mem_placeTrap ..).trans ((mem_foldl_of _ _ fun _ _ => ?_).trans (modCtx_mem ..)))
    exact mem_enterHold ..
  · exact good_next h

theorem keeps_unknownLaunchMessage (part : Nat) (msg : List Byte) : Keeps (execUnknownLaunchMessage part msg) := by
  intro s h
  unfold execUnknownLaunchMessage
  dsimp only
  repeat' split
  all_goals exact good_next h

theorem keeps_unsupportedPacket (part answered : Nat) : Keeps (execUnsupportedPacket part answered) := by
  intro s h
  unfold execUnsupportedPacket
  repeat' split
  all_goals exact good_next h

theorem keeps_waitExpiry (cid : Nat) : Keeps (execWaitExpiry cid) := by
  intro s h
  unfold execWaitExpiry
  exact good_eventRun h (by simp)

theorem keeps_watchdogExpiry : Keeps execWatchdogExpiry := by
  intro s h
  unfold execWatchdogExpiry
  exact good_of_mem h (by simp)

theorem keeps_thermalReading (die : Nat) (temps : List Nat) : Keeps (execThermalReading die temps) := by
  intro s h
  unfold execThermalReading
  dsimp only
  refine good_ite (good_of_mem h ((mem_fatal ..).trans ((modDie_mem ..).trans (mem_foldl_of _ _ fun t i => ?_))))
    (good_of_mem h ((modDie_mem ..).trans (mem_foldl_of _ _ fun t i => ?_)))
  all_goals
    split
    · exact (mem_logError ..).trans (modClu_mem ..)
    · exact modClu_mem ..

end Sys2Proof.Claims


namespace Sys2Proof.Claims

open Sys2Proof.Machine

/-! ### Events that write memory -/

section

variable {s : State} (h : MemOk s)

include h

theorem memOk_modCtx (i : Nat) (f : Ctx → Ctx) : MemOk (s.modCtx i f) := memOk_of_mem h (modCtx_mem ..)

theorem memOk_modCore (l : Nat) (f : Core → Core) : MemOk (s.modCore l f) := memOk_of_mem h (modCore_mem ..)

theorem memOk_modDie (d : Nat) (f : Die → Die) : MemOk (s.modDie d f) := memOk_of_mem h (modDie_mem ..)

theorem memOk_modPart (p : Nat) (f : Part → Part) : MemOk (s.modPart p f) := memOk_of_mem h (modPart_mem ..)

theorem memOk_tick (n : Nat) : MemOk { s with tick := n } := h

theorem memOk_engDrop (c : Cmd) : MemOk (engDrop s c) := memOk_of_mem h (mem_engDrop ..)

theorem memOk_recordFetches (i : Nat) (fs : List (Nat × Nat)) : MemOk (s.recordFetches i fs) :=
  memOk_of_mem h (mem_recordFetches ..)

theorem memOk_newInterval (i : Nat) : MemOk (s.newInterval i) := memOk_of_mem h (mem_newInterval ..)

end

theorem keeps_bundleIssue (core : Nat) : Keeps (execBundleIssue core) := by
  intro s h
  unfold execBundleIssue
  split
  · exact good_of_mem h (mem_missStep ..)
  · refine good_ite (good_next h) ?_
    split
    · exact good_next h
    · exact good_next h
    · exact good_of_mem h (mem_fetchTrap ..)
    · exact good_of_mem h (mem_fetchFault ..)
    · exact good_of_mem h (mem_fetchTrap ..)
    · exact good_of_mem h (mem_fetchFault ..)
    · exact good_next (memOk_finishIssue (memOk_of_mem h (mem_mergeStage ..)))

theorem keeps_detStampIssue (cid : Nat) : Keeps (execDetStampIssue cid) := by
  intro s h
  unfold execDetStampIssue
  refine good_ite (good_next h) ?_
  split
  · exact good_next (memOk_finishIssue (memOk_of_mem h (mem_issueOf s rfl ..)))
  · exact good_of_mem h (mem_placeTrap ..)
  · exact good_next h

theorem keeps_emptyBundle (cid : Nat) : Keeps (execEmptyBundle cid) := by
  intro s h
  unfold execEmptyBundle
  split
  · exact good_ite (keeps_bundleIssue _ s h) (good_next h)
  · exact good_ite (keeps_detStampIssue _ s h) (good_next h)
  · exact good_next h

theorem keeps_storeLeaveQueue (cid pos : Nat) : Keeps (execStoreLeaveQueue cid pos) := by
  intro s h
  have hd : MemOk (s.dropFences cid) := h
  unfold execStoreLeaveQueue
  dsimp only
  split
  · exact good_next hd
  next a _ =>
    have hl : MemOk (if a.q = 0 then ((s.dropFences cid).dropM cid a.seq).logRows cid a.cells
        else (s.dropFences cid).dropM cid a.seq) := memOk_ite (memOk_of_mem hd (mem_logRows ..)) hd
    refine good_ite (good_next hd) ?_
    split
    · exact good_ite (good_next hd) (good_next hd)
    · exact good_next (memOk_enterRelease hl ..)
    · exact good_next (memOk_enter hl ..)

theorem keeps_writeMoveOutward (level unit pos : Nat) : Keeps (execWriteMoveOutward level unit pos) := by
  intro s h
  unfold execWriteMoveOutward
  dsimp only
  split
  case h_4 => exact good_next h
  all_goals
    split
    · exact good_next h
    · refine good_next (memOk_enter ?_ ..)
      exact h

theorem keeps_writeToMemory (pos : Nat) : Keeps (execWriteToMemory pos) := by
  intro s h
  unfold execWriteToMemory
  split
  · exact good_next h
  · refine good_ite (good_next h) (good_next (memOk_putCells ?_ _))
    exact h

theorem keeps_remoteAcknowledge (pos : Nat) : Keeps (execRemoteAcknowledge pos) := by
  intro s h
  unfold execRemoteAcknowledge
  dsimp only
  split
  · exact good_next h
  next w rest _ =>
    have ht : MemOk ((s.modHub fun h => { h with bridge := rest }).remoteTake w) :=
      memOk_remoteTake (memOk_of_mem h (modHub_mem ..)) w
    refine good_ite (good_next ht) (good_ite (good_next h) ?_)
    split
    · exact good_next (memOk_graphCheck ht ..)
    · exact good_next ht

theorem keeps_atomicPerform (cid pos : Nat) : Keeps (execAtomicPerform cid pos) := by
  intro s h
  have hd : MemOk (s.dropFences cid) := h
  unfold execAtomicPerform
  dsimp only
  repeat' split
  · exact good_next (memOk_performAtomic (memOk_of_mem hd (mem_dropAtomic ..)) ..)
  all_goals exact good_next hd

theorem keeps_keyedPerform (cid pos : Nat) : Keeps (execKeyedPerform cid pos) := fun _ h =>
  good_ite (good_next (memOk_keyedAtomic h ..))
    (good_ite (good_next (memOk_keyedCopy h ..)) (good_next (memOk_keyedAs h ..)))

theorem keeps_engineAccessPerform (cid cls pos : Nat) : Keeps (execEngineAccessPerform cid cls pos) := fun _ h =>
  good_ite (good_next (memOk_copyPerform h ..)) <| good_ite (good_next (memOk_savPerform h _)) <|
    good_ite (good_next (memOk_asPerform h ..)) <| good_ite (good_of_mem h (mem_hPerform ..)) (good_next h)

theorem keeps_seqTransition (core : Nat) : Keeps (execSeqTransition core) := by
  intro s h
  unfold execSeqTransition
  dsimp only
  split
  · exact good_next h
  · refine good_ite (good_next h) ?_
    split
    · exact good_next (memOk_seqInnerEnd h ..)
    · exact good_next h
    · refine good_ite (good_next (memOk_seqMove h ..)) ?_
      split
      · exact good_next h
      next t ht =>
        have ht : MemOk t := by
          split at ht
          · cases ht
            exact h
          · exact memOk_seqIssue h ht
        refine good_ite (good_next ht) (good_next (memOk_seqMove ?_ ..))
        exact ht

theorem keeps_engineOpStart (core : Nat) : Keeps (execEngineOpStart core) := by
  intro s h
  have ht (f : Core → Core) : MemOk (s.modCore core f) := h
  unfold execEngineOpStart
  dsimp only
  split
  · exact good_next h
  · refine good_ite (good_next (memOk_engDrop (memOk_ite (ht _) ?_) _)) (good_ite ?_ (good_ite (good_next h) ?_))
    · exact memOk_modCtx (ht _) ..
    · exact good_next (memOk_modCtx (memOk_engDrop (ht _) _) ..)
    · exact good_ite (good_next (memOk_engNext (ht _) ..)) (good_next (memOk_modCore (ht _) ..))
  · split
    · exact good_next h
    · exact good_ite (good_next (memOk_engDrop (ht _) _)) (good_ite (good_next h) (good_next (memOk_engNext h ..)))

theorem keeps_engineInterruptibleStep (core : Nat) : Keeps (execEngineInterruptibleStep core) := by
  intro s h
  unfold execEngineInterruptibleStep
  dsimp only
  split
  · exact good_next h
  · refine good_ite ?_ (good_ite (good_next h) ?_)
    · split
      · exact good_next h
      · refine good_ite (good_next h) ?_
        split
        next hw =>
          have ht := memOk_engWork h hw
          exact good_next (memOk_modCtx (memOk_ite (memOk_recordFetches ht ..) ht) ..)
        next => exact good_next (memOk_innerFault h ..)
    · split
      next hw =>
        have ht := memOk_engWork h hw
        exact good_next (memOk_engStepEnd (memOk_ite (memOk_recordFetches ht ..) ht) ..)
      next => exact good_next (memOk_opFault h ..)

theorem keeps_engineOpEnd (core : Nat) : Keeps (execEngineOpEnd core) := by
  intro s h
  unfold execEngineOpEnd
  dsimp only
  split
  · exact good_next h
  next o _ =>
    refine good_ite (good_next h) ?_
    exact good_next (memOk_modCore (memOk_modCtx (memOk_engEffect (memOk_of_mem h (mem_orFlags s o)) o) ..) ..)

theorem keeps_eqRequestProcess (cluster : Nat) : Keeps (execEqRequestProcess cluster) := by
  intro s h
  unfold execEqRequestProcess
  split
  · exact good_next h
  · exact good_of_mem (memOk_eqProcess h _) rfl

theorem keeps_pkCommandProcess (die : Nat) : Keeps (execPkCommandProcess die) := by
  intro s h
  unfold execPkCommandProcess
  dsimp only
  split
  · split
    · exact good_next h
    · exact good_next (memOk_modDie (memOk_of_mem (memOk_tick (memOk_modDie h ..) _) (mem_pkStart ..)) ..)
  next r _ =>
    refine good_ite (good_next h) ?_
    have hx : MemOk (if r.blk.isEmpty then pkStart s r else pkAdvance s r).1 :=
      memOk_ite_fst (memOk_of_mem h (mem_pkStart ..)) (memOk_pkAdvance h r)
    exact good_next (memOk_modDie hx ..)

theorem keeps_nmRowPerform (cid pos : Nat) : Keeps (execNmRowPerform cid pos) := by
  intro s h
  unfold execNmRowPerform
  dsimp only
  split
  · exact good_next h
  · refine good_ite (good_next h) ?_
    split
    · exact good_next h
    · exact good_next (memOk_nmFinish (memOk_of_mem h (mem_noteSpans ..)) ..)
    · refine good_ite (good_of_mem h ?_) (good_of_mem h (mem_nmStop ..))
      simp

theorem keeps_contextResume (save cid : Nat) : Keeps (execContextResume save cid) := by
  intro s h
  unfold execContextResume
  dsimp only
  split
  · exact good_next h
  · refine good_ite (good_next h) ?_
    split
    · exact good_next h
    · refine good_ite (good_next h) (good_next (memOk_of_mem ?_ ((mem_syncCores ..).trans (modPart_mem ..))))
      refine memOk_foldl (fun t e ht => ?_) _ h
      split
      · exact ht
      · refine memOk_tick (memOk_newInterval (memOk_restore ?_ ..) _) _
        exact memOk_of_mem ht ((setCtx_mem ..).trans (mem_wakeCore ..))

theorem keeps_graphStart (part queue : Nat) : Keeps (execGraphStart part queue) := by
  intro s h
  unfold execGraphStart
  dsimp only
  split
  · exact good_next h
  · refine good_ite (good_next h) ?_
    split
    · exact good_next h
    · exact good_of_mem (memOk_graphRecord h ..) (modPart_mem ..)

theorem keeps_nodeRelease (part queue node : Nat) : Keeps (execNodeRelease part queue node) := by
  intro s h
  unfold execNodeRelease
  split
  · exact good_next h
  · extract_lets
    refine good_ite (good_next h) ?_
    extract_lets
    exact good_next (memOk_recState (memOk_modNode (memOk_modPart (memOk_tick h _) ..) ..) ..)

theorem keeps_taskBind (part queue node cid : Nat) : Keeps (execTaskBind part queue node cid) := by
  intro s h
  have hn (f : Node → Node) : MemOk (s.modNode part queue node f) := memOk_modNode h ..
  unfold execTaskBind
  dsimp only
  split
  · exact good_next h
  · split
    · exact good_next h
    · split
      · exact good_next h
      · refine good_ite (good_next h) (good_ite ?_ ?_)
        · exact good_next (memOk_graphCheck (memOk_recAdd (memOk_modNode (memOk_recEntry (hn _) ..) ..) ..) ..)
        · refine good_next (memOk_foldl (fun _ _ h => memOk_bindMember h ..) _ ?_)
          refine memOk_of_mem (memOk_ite ?_ (hn _)) ((modPart_mem ..).trans (mem_modNode ..))
          exact memOk_foldl (fun _ _ h => memOk_of_mem h (mem_resetBarriers ..)) _ (hn _)

theorem keeps_taskEndComplete (cid : Nat) : Keeps (execTaskEndComplete cid) := by
  intro s h
  have hf (l : List Nat) : MemOk (l.foldl (fun s i => s.setCtx i Ctx.reset) s) :=
    memOk_foldl (fun _ _ h => memOk_of_mem h (setCtx_mem ..)) l h
  unfold execTaskEndComplete
  dsimp only
  refine good_ite (good_next h) ?_
  split
  · exact good_next (hf _)
  · split
    · exact good_next (memOk_graphCheck (memOk_recAdd (memOk_modNode (memOk_modNode (hf _) ..) ..) ..) ..)
    · exact good_next (memOk_graphCheck (memOk_recAdd (memOk_modNode (memOk_recEntry (memOk_modNode (hf _) ..) ..) ..) ..) ..)

theorem keeps_detectedError (w cid : Nat) : Keeps (execDetectedError w cid) := by
  intro s h
  unfold execDetectedError
  dsimp only
  refine good_ite (good_of_mem h (mem_logCore ..)) <| good_ite (good_next (memOk_rollBack h _)) <|
    good_ite (good_next (memOk_rollBack (memOk_rollBack h _) _)) <| good_ite (good_next (memOk_clusterError h _)) <|
    good_ite (good_next h) <| good_ite ?_ <| good_ite ?_ ?_
  · exact good_of_mem h ((modClu_mem ..).trans (mem_logCore ..))
  · exact good_next (memOk_foldl (fun _ _ h => memOk_rollBack h _) _ (memOk_of_mem h ((mem_logCore ..).trans (modHub_mem ..))))
  · exact good_of_mem h ((mem_logCore ..).trans (modHub_mem ..))

theorem keeps_inboundRmaWrite (q : Requester) (addr : Nat) (data : List Byte) : Keeps (execInboundRmaWrite q addr data) := by
  intro s h
  refine good_inbound h (good_ite (good_of_mem h (mem_send ..)) ?_)
  split
  · exact good_of_mem (memOk_putCells h _) (mem_send ..)
  · exact good_of_mem h (mem_send ..)

theorem keeps_inboundAtomic (q : Requester) (addr op size operand compare : Nat) :
    Keeps (execInboundAtomic q addr op size operand compare) := by
  intro s h
  refine good_inbound h (good_ite (good_of_mem h (mem_send ..)) ?_)
  split
  · exact good_of_mem h (mem_send ..)
  · exact good_of_mem (memOk_putCells h _) (mem_send ..)

theorem keeps_remoteErrorResponse (cid pos : Nat) : Keeps (execRemoteErrorResponse cid pos) := by
  intro s h
  have hm {t : State} (ht : t.mem = s.mem) : Good (.next t) := good_of_mem h ht
  unfold execRemoteErrorResponse
  dsimp only
  refine good_ite (good_ite (hm (modCtx_mem ..)) (good_next h)) <|
    good_ite (good_ite (hm (mem_placeTrap ..)) (good_next h)) <|
    good_ite (good_ite (good_next (memOk_engineRemoteError h ..)) (good_next h)) <| good_ite ?_ ?_
  · split
    · refine good_ite (hm ((modCtx_mem ..).trans (mem_dropM ..))) (good_ite (hm ?_) (good_next h))
      exact (modCtx_mem ..).trans (mem_dropM ..)
    · exact good_next h
  · split
    · refine good_ite (good_next (memOk_recRefused (memOk_of_mem h (modHub_mem ..)) _)) (good_ite (hm ?_) (good_next h))
      exact (modCtx_mem ..).trans (modHub_mem ..)
    · exact good_next h

theorem keeps_partitionForm (part dieMask root sig : Nat) : Keeps (execPartitionForm part dieMask root sig) := by
  intro s h
  unfold execPartitionForm
  dsimp only
  refine good_ite (good_next h) (good_signedRun h fun t ht => ?_)
  have hc : MemOk ((formClear t part (maskDies dieMask) (channelCap (maskDies dieMask).length)).setMem _) :=
    memWf_memPutBytes (memOk_formClear ht part (maskDies dieMask) (channelCap (maskDies dieMask).length))
      (kStack part (root % 2 ^ 64)) (leBytes ((root / 2 ^ 64).log2 / 8 + 1) (root / 2 ^ 64))
  exact memOk_of_mem hc ((modHub_mem ..).trans (modPart_mem ..))

theorem keeps_heldContextImageWrite (cid reg value : Nat) : Keeps (execHeldContextImageWrite cid reg value) := by
  intro s h
  unfold execHeldContextImageWrite
  dsimp only
  refine good_ite (good_next h) (good_ite ?_ (good_ite (good_of_mem h (mem_heldPart ..)) (good_next (memOk_ite ?_ ?_))))
  · split
    · exact good_next (memOk_putCells h _)
    · exact good_next h
  · exact memOk_of_mem h (by simp)
  · exact h

theorem keeps_moduleReset : Keeps execModuleReset := fun _ h => good_next (memWf_filter h _)

theorem keeps_powerOff : Keeps execPowerOff := fun _ h => good_next (memWf_filter h _)

end Sys2Proof.Claims


namespace Sys2Proof.Claims

open Sys2Proof.Machine

/-! ### Every step keeps memory's form -/

theorem keeps_event {i : Instr} (hg : guardField i = none) : Keeps (exec i) := by
  intro s h
  delta exec
  cases i
  case bundleIssue => exact keeps_bundleIssue _ s h
  case settleWindowEnd => exact keeps_settleWindowEnd _ s h
  case emptyBundle => exact keeps_emptyBundle _ s h
  case dictLoadEnd => exact keeps_dictLoadEnd _ s h
  case waitExpiry => exact keeps_waitExpiry _ s h
  case resultLanding => exact keeps_resultLanding _ s h
  case mDataArrival => exact keeps_mDataArrival _ _ s h
  case mLandingDue => exact keeps_mLandingDue _ s h
  case storeLeaveQueue => exact keeps_storeLeaveQueue _ _ s h
  case writeMoveOutward => exact keeps_writeMoveOutward _ _ _ s h
  case writeToMemory => exact keeps_writeToMemory _ s h
  case remoteAcknowledge => exact keeps_remoteAcknowledge _ s h
  case loadPerform => exact keeps_loadPerform _ _ s h
  case acquirePerform => exact keeps_acquirePerform _ _ s h
  case atomicPerform => exact keeps_atomicPerform _ _ s h
  case keyedPerform => exact keeps_keyedPerform _ _ s h
  case engineAccessPerform => exact keeps_engineAccessPerform _ _ _ s h
  case seqTransition => exact keeps_seqTransition _ s h
  case engineOpStart => exact keeps_engineOpStart _ s h
  case engineInterruptibleStep => exact keeps_engineInterruptibleStep _ s h
  case engineOpEnd => exact keeps_engineOpEnd _ s h
  case resultWordDue => exact keeps_resultWordDue _ s h
  case copyComplete => exact keeps_copyComplete _ _ s h
  case streamElementDeliver => exact keeps_streamElementDeliver _ _ s h
  case cbarArrival => exact keeps_cbarArrival _ s h
  case cbarRelease => exact keeps_cbarRelease _ s h
  case gangFusion => exact keeps_gangFusion _ s h
  case gangRejoin => exact keeps_gangRejoin _ s h
  case eqRequestProcess => exact keeps_eqRequestProcess _ s h
  case pkCommandProcess => exact keeps_pkCommandProcess _ s h
  case pkCommandEnd => exact keeps_pkCommandEnd _ s h
  case nmRowPerform => exact keeps_nmRowPerform _ _ s h
  case nmAcknowledge => exact keeps_nmAcknowledge _ _ s h
  case asLdComplete => exact keeps_asLdComplete _ _ s h
  case rngPush => exact keeps_rngPush _ s h
  case trapAtBoundary => exact keeps_trapAtBoundary _ s h
  case deadlineEvent => exact keeps_deadlineEvent _ s h
  case detStampIssue => exact keeps_detStampIssue _ s h
  case preemptionStop => exact keeps_preemptionStop _ s h
  case contextResume => exact keeps_contextResume _ _ s h
  case checkpointTake => exact keeps_checkpointTake _ s h
  case intervalUnprotected => exact keeps_intervalUnprotected _ s h
  case tlbWalkComplete => exact keeps_tlbWalkComplete _ _ s h
  case invalidationDone => exact keeps_invalidationDone _ _ s h
  case graphStart => exact keeps_graphStart _ _ s h
  case nodeRelease => exact keeps_nodeRelease _ _ _ s h
  case reservationGrant => exact keeps_reservationGrant _ _ s h
  case taskBind => exact keeps_taskBind _ _ _ _ s h
  case taskStart => exact keeps_taskStart _ s h
  case agePromotion => exact keeps_agePromotion _ _ _ s h
  case taskEndComplete => exact keeps_taskEndComplete _ s h
  case pushConsumed => exact keeps_pushConsumed _ _ s h
  case preemptionRequest => exact keeps_preemptionRequest _ s h
  case detectedError => exact keeps_detectedError _ _ s h
  case faultReply => exact keeps_faultReply _ _ s h
  case invalidation => exact keeps_invalidation _ _ s h
  case hostLaunch => exact keeps_hostLaunch _ _ s h
  case unknownLaunchMessage => exact keeps_unknownLaunchMessage _ _ s h
  case inboundRmaRead => exact keeps_inboundRmaRead _ _ _ s h
  case inboundRmaWrite => exact keeps_inboundRmaWrite _ _ _ s h
  case inboundAtomic => exact keeps_inboundAtomic _ _ _ _ _ _ s h
  case remoteErrorResponse => exact keeps_remoteErrorResponse _ _ s h
  case attestationRequest => exact keeps_attestationRequest _ s h
  case debugChallengeRequest => exact keeps_debugChallengeRequest _ s h
  case debugUnlockAnswer => exact keeps_debugUnlockAnswer _ _ s h
  case debugRelock => exact keeps_debugRelock _ s h
  case ownerKeyInstall => exact keeps_ownerKeyInstall _ _ s h
  case launchPolicyChange => exact keeps_launchPolicyChange _ _ _ _ s h
  case peerTableChange => exact keeps_peerTableChange _ _ _ _ _ s h
  case retirementTableClear => exact keeps_retirementTableClear _ s h
  case partitionForm => exact keeps_partitionForm _ _ _ _ s h
  case firmwareImage => exact keeps_firmwareImage _ _ _ s h
  case dumpClear => exact keeps_dumpClear _ s h
  case moduleReset => exact keeps_moduleReset s h
  case droopDetect => exact keeps_droopDetect _ _ s h
  case currentLimitFall => exact keeps_currentLimitFall _ s h
  case ballastPeriod => exact keeps_ballastPeriod _ _ s h
  case thermalReading => exact keeps_thermalReading _ _ s h
  case watchdogExpiry => exact keeps_watchdogExpiry s h
  case fatalError => exact keeps_fatalError _ s h
  case correctedError => exact keeps_correctedError _ _ s h
  case unsupportedPacket => exact keeps_unsupportedPacket _ _ s h
  case breakpointComparatorSet => exact keeps_breakpointComparatorSet _ _ _ _ s h
  case debugSessionResume => exact keeps_debugSessionResume _ s h
  case heldContextImageWrite => exact keeps_heldContextImageWrite _ _ _ s h
  case debugKeyInstall => exact keeps_debugKeyInstall _ _ _ s h
  case partitionDissolution => exact keeps_partitionDissolution _ _ s h
  case powerOff => exact keeps_powerOff s h
  all_goals cases hg

theorem keeps_exec (i : Instr) : Keeps (exec i) := by
  cases hg : guardField i with
  | some g => exact keeps_of_leaves (leaves_of_guard hg)
  | none => exact keeps_event hg

theorem keeps_runSlot (w : SlotWord) : Keeps fun s => runSlot s w := by
  intro s h
  have hc (w : SlotWord) : MemOk { s with cur := w } := h
  unfold runSlot
  dsimp only
  split
  · exact good_of_mem (hc w) (mem_breakStop ..)
  · exact good_of_mem (hc _) (mem_laneTrap ..)
  · split
    · exact good_of_mem (hc w) (mem_illegalSlot ..)
    · exact keeps_exec _ _ (hc w)

theorem keeps_runMember (w : SlotWord) : Keeps fun s => runMember s w := by
  intro s h
  unfold runMember
  dsimp only
  split
  · have hr := keeps_runSlot w _ (memOk_of_mem h (modRegs_mem s w.cid fun r => r.borrow (s.ctx (s.ctx w.cid).bind.leader).r))
    split
    next t ht => exact good_of_mem (hr t ht) (modRegs_mem ..)
    next => exact hr
  · exact keeps_runSlot w s h

theorem keeps_runAll (ws : List SlotWord) : Keeps fun s => runAll s ws := by
  induction ws with
  | nil => exact fun s h => good_next h
  | cons w ws ih =>
    intro s h
    have hr := keeps_runMember w s h
    unfold runAll
    dsimp only at hr ⊢
    split
    next t ht => exact ih t (hr t ht)
    next => exact hr

theorem keeps_runGang (ws : List SlotWord) : Keeps fun s => runGang s ws := by
  intro s h
  unfold runGang
  dsimp only
  split
  · exact keeps_runAll ws s h
  · exact keeps_runMember _ s h

theorem good_runIssue {s : State} (h : MemOk s) (w : SlotWord) (rest : List SlotWord) : Good (runIssue s w rest) := by
  have hi (l : List SlotWord) : MemOk { s with issue := l } := h
  have hr (b : Bool) (l ws : List SlotWord) :
      Good (if b then runSlot { s with issue := l } w else runGang { s with issue := l } ws) :=
    good_ite (keeps_runSlot w _ (hi l)) (keeps_runGang ws _ (hi l))
  unfold runIssue
  dsimp only
  split
  next t ht => exact good_next (memOk_finishIssue (hr _ _ _ t ht))
  next => exact hr _ _ _

theorem good_firstEvent {s : State} (h : MemOk s) (l : List Event) (hl : ∀ e ∈ l, Keeps e) : Good (firstEvent s l) := by
  induction l with
  | nil => exact good_next h
  | cons e l ih =>
    have he := hl e (List.mem_cons_self ..) s h
    unfold firstEvent
    split
    next t ht => exact good_ite (ih fun x hx => hl x (List.mem_cons_of_mem _ hx)) (good_next (he t ht))
    next => exact he

end Sys2Proof.Claims


namespace Sys2Proof.Claims

open Sys2Proof.Machine

/-! ### The lists of events -/

/-- A list of events that keep memory in its form. -/
def AllKeep (l : List Event) : Prop := ∀ e ∈ l, Keeps e

theorem allKeep_nil : AllKeep [] := fun _ he => nomatch he

theorem allKeep_cons {e : Event} {l : List Event} (he : Keeps e) (hl : AllKeep l) : AllKeep (e :: l) :=
  List.forall_mem_cons.mpr ⟨he, hl⟩

theorem allKeep_append {l m : List Event} (hl : AllKeep l) (hm : AllKeep m) : AllKeep (l ++ m) :=
  List.forall_mem_append.mpr ⟨hl, hm⟩

theorem allKeep_map {α : Type} {f : α → Event} (hf : ∀ a, Keeps (f a)) (l : List α) : AllKeep (l.map f) := by
  intro e he
  obtain ⟨a, -, rfl⟩ := List.mem_map.mp he
  exact hf a

theorem allKeep_flatMap {α : Type} {f : α → List Event} (hf : ∀ a, AllKeep (f a)) (l : List α) : AllKeep (l.flatMap f) := by
  intro e he
  obtain ⟨a, -, ha⟩ := List.mem_flatMap.mp he
  exact hf a e ha

theorem allKeep_positions (n : Nat) {f : Nat → Event} (hf : ∀ i, Keeps (f i)) : AllKeep (positions n f) := allKeep_map hf _

theorem allKeep_pathEvents (s : State) (cid : Nat) : AllKeep (pathEvents s cid) := by
  unfold pathEvents
  repeat' with_reducible apply allKeep_append
  · exact allKeep_positions _ fun _ => keeps_loadPerform _ _
  · exact allKeep_positions _ fun _ => keeps_acquirePerform _ _
  · exact allKeep_positions _ fun _ => keeps_atomicPerform _ _
  · exact allKeep_positions _ fun _ => keeps_atomicPerform _ _
  · exact allKeep_positions _ fun _ => keeps_keyedPerform _ _
  · exact allKeep_positions _ fun _ => keeps_keyedPerform _ _
  · exact allKeep_positions _ fun _ => keeps_storeLeaveQueue _ _
  · exact allKeep_positions _ fun _ => keeps_engineAccessPerform _ _ _
  · exact allKeep_positions _ fun _ => keeps_keyedPerform _ _
  · exact allKeep_positions _ fun _ => keeps_pushConsumed _ _
  · exact allKeep_positions _ fun _ => keeps_streamElementDeliver _ _
  · exact allKeep_positions _ fun _ => keeps_copyComplete _ _
  · exact allKeep_positions _ fun _ => keeps_nmRowPerform _ _
  · exact allKeep_positions _ fun _ => keeps_nmAcknowledge _ _
  · exact allKeep_positions _ fun _ => keeps_engineAccessPerform _ _ _
  · exact allKeep_positions _ fun _ => keeps_keyedPerform _ _
  · exact allKeep_positions _ fun _ => keeps_asLdComplete _ _
  · exact allKeep_cons (keeps_engineAccessPerform _ _ _) (allKeep_cons (keeps_engineAccessPerform _ _ _) allKeep_nil)
  · exact allKeep_map (fun _ => keeps_mDataArrival _ _) _

theorem allKeep_boundaryEvents (cid : Nat) : AllKeep (boundaryEvents cid) := by
  unfold boundaryEvents
  repeat' with_reducible apply allKeep_cons
  · exact keeps_rngPush cid
  · exact keeps_resultLanding cid
  · exact keeps_waitExpiry cid
  · exact keeps_dictLoadEnd cid
  · exact keeps_cbarArrival cid
  · exact keeps_cbarRelease cid
  · exact keeps_gangFusion cid
  · exact keeps_gangRejoin cid
  · exact keeps_deadlineEvent cid
  · exact keeps_preemptionStop cid
  · exact keeps_checkpointTake cid
  · exact keeps_intervalUnprotected cid
  · exact keeps_taskEndComplete cid
  · exact keeps_taskStart cid
  · exact allKeep_nil

theorem allKeep_bufferEvents (s : State) : AllKeep (bufferEvents s) := by
  unfold bufferEvents
  repeat' with_reducible apply allKeep_append
  · exact allKeep_flatMap (fun k => allKeep_positions _ fun _ => keeps_writeMoveOutward _ _ _) _
  · exact allKeep_flatMap (fun k => allKeep_positions _ fun _ => keeps_writeMoveOutward _ _ _) _
  · exact allKeep_flatMap (fun k => allKeep_positions _ fun _ => keeps_writeMoveOutward _ _ _) _
  · exact allKeep_positions _ keeps_writeToMemory
  · exact allKeep_positions _ keeps_remoteAcknowledge

theorem allKeep_engineEvents (s : State) : AllKeep (engineEvents s) := by
  unfold engineEvents
  repeat' with_reducible apply allKeep_append
  · exact allKeep_flatMap (fun k => allKeep_cons (keeps_engineOpStart _) <| allKeep_cons (keeps_engineInterruptibleStep _) <|
      allKeep_cons (keeps_seqTransition _) <| allKeep_cons (keeps_engineOpEnd _) allKeep_nil) _
  · exact allKeep_map (fun k => keeps_eqRequestProcess _) _
  · exact allKeep_flatMap (fun k => allKeep_append
      (allKeep_cons (keeps_pkCommandProcess _) <| allKeep_cons (keeps_pkCommandEnd _) allKeep_nil)
      (allKeep_positions _ fun _ => keeps_tlbWalkComplete _ _)) _

theorem allKeep_schedEvents (s : State) (p : Nat × Part) : AllKeep (schedEvents s p) := by
  unfold schedEvents
  extract_lets at_ hs ids binds
  have ha (q : Nat) : AllKeep (at_ q) := allKeep_append
    (allKeep_cons (keeps_graphStart _ _) (allKeep_positions _ fun _ => keeps_nodeRelease _ _ _))
    (allKeep_positions _ fun _ => keeps_agePromotion _ _ _)
  have hb (q : Nat) : AllKeep (binds q) := allKeep_flatMap (fun i => allKeep_map (fun c => keeps_taskBind _ _ _ _) _) _
  repeat' with_reducible apply allKeep_append
  · exact allKeep_positions _ fun _ => keeps_invalidationDone _ _
  · exact allKeep_flatMap ha _
  · exact allKeep_flatMap (fun i => allKeep_map (fun c => keeps_contextResume _ _) _) _
  · split
    · exact allKeep_nil
    · exact allKeep_map (fun c => keeps_reservationGrant _ _) _
  · exact allKeep_flatMap hb _
  · exact allKeep_cons (keeps_preemptionRequest _) allKeep_nil

theorem allKeep_timedEvents (s : State) : AllKeep (timedEvents s) :=
  allKeep_flatMap (fun l => allKeep_append
    (allKeep_flatMap (fun c => allKeep_cons (keeps_mLandingDue c) <| allKeep_cons (keeps_resultWordDue c) <|
      allKeep_cons (keeps_trapAtBoundary c) allKeep_nil) _)
    (allKeep_cons (keeps_settleWindowEnd l) <| allKeep_cons (keeps_bundleIssue l) <|
      allKeep_cons (keeps_detStampIssue _) <| allKeep_cons (keeps_detStampIssue _) allKeep_nil)) _

theorem allKeep_eventsOf (s : State) : AllKeep (eventsOf s) := by
  unfold eventsOf
  repeat' with_reducible apply allKeep_append
  · refine allKeep_flatMap (fun c => ?_) _
    split
    · exact allKeep_nil
    · exact allKeep_append (allKeep_boundaryEvents _) (allKeep_pathEvents s _)
  · exact allKeep_engineEvents s
  · exact allKeep_bufferEvents s
  · exact allKeep_map (fun k => keeps_currentLimitFall _) _
  · exact allKeep_flatMap (allKeep_schedEvents s) _
  · exact allKeep_timedEvents s

/-! ### The step -/

theorem good_stepRunning {s : State} (h : MemOk s) : Good (stepRunning s) := by
  unfold stepRunning
  split
  · exact good_runIssue h _ _
  · exact keeps_exec _ _ h
  · exact good_firstEvent h _ (allKeep_eventsOf s)

theorem good_stepStopped {s : State} (h : MemOk s) (f : Fault) : Good (stepStopped s f) := by
  unfold stepStopped
  split
  · exact good_ite (keeps_exec _ _ h) (good_next h)
  · refine good_ite (good_of_mem h (mem_finishDump ..)) ?_
    intro t ht
    cases ht

/-- Settles O42: every primitive write keeps the canonical form, and everything else a step does leaves memory. -/
theorem stepKeepsMemoryCanonical : Obligations.StepKeepsMemoryCanonical := by
  intro s t h
  exact good_ite (good_stepStopped h _) (good_ite (good_stepRunning h) (good_stepStopped h _)) t

end Sys2Proof.Claims


namespace Sys2Proof.Claims

open Sys2Proof.Machine

/-! ### The events, as `exec` dispatches to them -/

@[simp] theorem exec_bundleIssue core (s : State) : exec (.bundleIssue core) s = execBundleIssue core s := rfl
@[simp] theorem exec_settleWindowEnd core (s : State) : exec (.settleWindowEnd core) s = execSettleWindowEnd core s := rfl
@[simp] theorem exec_emptyBundle cid (s : State) : exec (.emptyBundle cid) s = execEmptyBundle cid s := rfl
@[simp] theorem exec_dictLoadEnd cid (s : State) : exec (.dictLoadEnd cid) s = execDictLoadEnd cid s := rfl
@[simp] theorem exec_waitExpiry cid (s : State) : exec (.waitExpiry cid) s = execWaitExpiry cid s := rfl
@[simp] theorem exec_resultLanding cid (s : State) : exec (.resultLanding cid) s = execResultLanding cid s := rfl
@[simp] theorem exec_mDataArrival cid req (s : State) : exec (.mDataArrival cid req) s = execMDataArrival cid req s := rfl
@[simp] theorem exec_mLandingDue cid (s : State) : exec (.mLandingDue cid) s = execMLandingDue cid s := rfl
@[simp] theorem exec_storeLeaveQueue cid pos (s : State) : exec (.storeLeaveQueue cid pos) s =
    execStoreLeaveQueue cid pos s := rfl
@[simp] theorem exec_writeMoveOutward level unit pos (s : State) : exec (.writeMoveOutward level unit pos) s =
    execWriteMoveOutward level unit pos s := rfl
@[simp] theorem exec_writeToMemory pos (s : State) : exec (.writeToMemory pos) s = execWriteToMemory pos s := rfl
@[simp] theorem exec_remoteAcknowledge pos (s : State) : exec (.remoteAcknowledge pos) s = execRemoteAcknowledge pos s := rfl
@[simp] theorem exec_loadPerform cid pos (s : State) : exec (.loadPerform cid pos) s = execLoadPerform cid pos s := rfl
@[simp] theorem exec_acquirePerform cid pos (s : State) : exec (.acquirePerform cid pos) s =
    execAcquirePerform cid pos s := rfl
@[simp] theorem exec_atomicPerform cid pos (s : State) : exec (.atomicPerform cid pos) s = execAtomicPerform cid pos s := rfl
@[simp] theorem exec_keyedPerform cid pos (s : State) : exec (.keyedPerform cid pos) s = execKeyedPerform cid pos s := rfl
@[simp] theorem exec_engineAccessPerform cid cls pos (s : State) : exec (.engineAccessPerform cid cls pos) s =
    execEngineAccessPerform cid cls pos s := rfl
@[simp] theorem exec_seqTransition core (s : State) : exec (.seqTransition core) s = execSeqTransition core s := rfl
@[simp] theorem exec_engineOpStart core (s : State) : exec (.engineOpStart core) s = execEngineOpStart core s := rfl
@[simp] theorem exec_engineInterruptibleStep core (s : State) : exec (.engineInterruptibleStep core) s =
    execEngineInterruptibleStep core s := rfl
@[simp] theorem exec_engineOpEnd core (s : State) : exec (.engineOpEnd core) s = execEngineOpEnd core s := rfl
@[simp] theorem exec_resultWordDue cid (s : State) : exec (.resultWordDue cid) s = execResultWordDue cid s := rfl
@[simp] theorem exec_copyComplete cid pos (s : State) : exec (.copyComplete cid pos) s = execCopyComplete cid pos s := rfl
@[simp] theorem exec_streamElementDeliver cid q (s : State) : exec (.streamElementDeliver cid q) s =
    execStreamElementDeliver cid q s := rfl
@[simp] theorem exec_cbarArrival cid (s : State) : exec (.cbarArrival cid) s = execCbarArrival cid s := rfl
@[simp] theorem exec_cbarRelease cid (s : State) : exec (.cbarRelease cid) s = execCbarRelease cid s := rfl
@[simp] theorem exec_gangFusion leader (s : State) : exec (.gangFusion leader) s = execGangFusion leader s := rfl
@[simp] theorem exec_gangRejoin leader (s : State) : exec (.gangRejoin leader) s = execGangRejoin leader s := rfl
@[simp] theorem exec_eqRequestProcess cluster (s : State) : exec (.eqRequestProcess cluster) s =
    execEqRequestProcess cluster s := rfl
@[simp] theorem exec_pkCommandProcess die (s : State) : exec (.pkCommandProcess die) s = execPkCommandProcess die s := rfl
@[simp] theorem exec_pkCommandEnd die (s : State) : exec (.pkCommandEnd die) s = execPkCommandEnd die s := rfl
@[simp] theorem exec_nmRowPerform cid pos (s : State) : exec (.nmRowPerform cid pos) s = execNmRowPerform cid pos s := rfl
@[simp] theorem exec_nmAcknowledge cid pos (s : State) : exec (.nmAcknowledge cid pos) s = execNmAcknowledge cid pos s := rfl
@[simp] theorem exec_asLdComplete cid pos (s : State) : exec (.asLdComplete cid pos) s = execAsLdComplete cid pos s := rfl
@[simp] theorem exec_rngPush cid (s : State) : exec (.rngPush cid) s = execRngPush cid s := rfl
@[simp] theorem exec_trapAtBoundary cid (s : State) : exec (.trapAtBoundary cid) s = execTrapAtBoundary cid s := rfl
@[simp] theorem exec_deadlineEvent cid (s : State) : exec (.deadlineEvent cid) s = execDeadlineEvent cid s := rfl
@[simp] theorem exec_detStampIssue cid (s : State) : exec (.detStampIssue cid) s = execDetStampIssue cid s := rfl
@[simp] theorem exec_preemptionStop cid (s : State) : exec (.preemptionStop cid) s = execPreemptionStop cid s := rfl
@[simp] theorem exec_contextResume save cid (s : State) : exec (.contextResume save cid) s =
    execContextResume save cid s := rfl
@[simp] theorem exec_checkpointTake cid (s : State) : exec (.checkpointTake cid) s = execCheckpointTake cid s := rfl
@[simp] theorem exec_intervalUnprotected cid (s : State) : exec (.intervalUnprotected cid) s =
    execIntervalUnprotected cid s := rfl
@[simp] theorem exec_tlbWalkComplete die pos (s : State) : exec (.tlbWalkComplete die pos) s =
    execTlbWalkComplete die pos s := rfl
@[simp] theorem exec_invalidationDone part pos (s : State) : exec (.invalidationDone part pos) s =
    execInvalidationDone part pos s := rfl
@[simp] theorem exec_graphStart part queue (s : State) : exec (.graphStart part queue) s = execGraphStart part queue s := rfl
@[simp] theorem exec_nodeRelease part queue node (s : State) : exec (.nodeRelease part queue node) s =
    execNodeRelease part queue node s := rfl
@[simp] theorem exec_reservationGrant part cid (s : State) : exec (.reservationGrant part cid) s =
    execReservationGrant part cid s := rfl
@[simp] theorem exec_taskBind part queue node cid (s : State) : exec (.taskBind part queue node cid) s =
    execTaskBind part queue node cid s := rfl
@[simp] theorem exec_taskStart cid (s : State) : exec (.taskStart cid) s = execTaskStart cid s := rfl
@[simp] theorem exec_agePromotion part queue node (s : State) : exec (.agePromotion part queue node) s =
    execAgePromotion part queue node s := rfl
@[simp] theorem exec_taskEndComplete cid (s : State) : exec (.taskEndComplete cid) s = execTaskEndComplete cid s := rfl
@[simp] theorem exec_pushConsumed cid q (s : State) : exec (.pushConsumed cid q) s = execPushConsumed cid q s := rfl
@[simp] theorem exec_preemptionRequest part (s : State) : exec (.preemptionRequest part) s =
    execPreemptionRequest part s := rfl
@[simp] theorem exec_detectedError w cid (s : State) : exec (.detectedError w cid) s = execDetectedError w cid s := rfl
@[simp] theorem exec_faultReply part msg (s : State) : exec (.faultReply part msg) s = execFaultReply part msg s := rfl
@[simp] theorem exec_invalidation part msg (s : State) : exec (.invalidation part msg) s = execInvalidation part msg s := rfl
@[simp] theorem exec_hostLaunch part msg (s : State) : exec (.hostLaunch part msg) s = execHostLaunch part msg s := rfl
@[simp] theorem exec_unknownLaunchMessage part msg (s : State) : exec (.unknownLaunchMessage part msg) s =
    execUnknownLaunchMessage part msg s := rfl
@[simp] theorem exec_inboundRmaRead q addr len (s : State) : exec (.inboundRmaRead q addr len) s =
    execInboundRmaRead q addr len s := rfl
@[simp] theorem exec_inboundRmaWrite q addr data (s : State) : exec (.inboundRmaWrite q addr data) s =
    execInboundRmaWrite q addr data s := rfl
@[simp] theorem exec_inboundAtomic q addr op size operand compare (s : State) : exec (.inboundAtomic q addr op size operand compare) s =
    execInboundAtomic q addr op size operand compare s := rfl
@[simp] theorem exec_remoteErrorResponse cid pos (s : State) : exec (.remoteErrorResponse cid pos) s =
    execRemoteErrorResponse cid pos s := rfl
@[simp] theorem exec_attestationRequest nonce (s : State) : exec (.attestationRequest nonce) s =
    execAttestationRequest nonce s := rfl
@[simp] theorem exec_debugChallengeRequest domain (s : State) : exec (.debugChallengeRequest domain) s =
    execDebugChallengeRequest domain s := rfl
@[simp] theorem exec_debugUnlockAnswer domain sig (s : State) : exec (.debugUnlockAnswer domain sig) s =
    execDebugUnlockAnswer domain sig s := rfl
@[simp] theorem exec_debugRelock domain (s : State) : exec (.debugRelock domain) s = execDebugRelock domain s := rfl
@[simp] theorem exec_ownerKeyInstall key sig (s : State) : exec (.ownerKeyInstall key sig) s =
    execOwnerKeyInstall key sig s := rfl
@[simp] theorem exec_launchPolicyChange part require keys sig (s : State) : exec (.launchPolicyChange part require keys sig) s =
    execLaunchPolicyChange part require keys sig s := rfl
@[simp] theorem exec_peerTableChange part slot valid addr sig (s : State) : exec (.peerTableChange part slot valid addr sig) s =
    execPeerTableChange part slot valid addr sig s := rfl
@[simp] theorem exec_retirementTableClear sig (s : State) : exec (.retirementTableClear sig) s =
    execRetirementTableClear sig s := rfl
@[simp] theorem exec_partitionForm part dieMask root sig (s : State) : exec (.partitionForm part dieMask root sig) s =
    execPartitionForm part dieMask root sig s := rfl
@[simp] theorem exec_firmwareImage image version sig (s : State) : exec (.firmwareImage image version sig) s =
    execFirmwareImage image version sig s := rfl
@[simp] theorem exec_dumpClear die (s : State) : exec (.dumpClear die) s = execDumpClear die s := rfl
@[simp] theorem exec_moduleReset (s : State) : exec .moduleReset s = execModuleReset s := rfl
@[simp] theorem exec_droopDetect cluster core (s : State) : exec (.droopDetect cluster core) s =
    execDroopDetect cluster core s := rfl
@[simp] theorem exec_currentLimitFall cluster (s : State) : exec (.currentLimitFall cluster) s =
    execCurrentLimitFall cluster s := rfl
@[simp] theorem exec_ballastPeriod cluster busy (s : State) : exec (.ballastPeriod cluster busy) s =
    execBallastPeriod cluster busy s := rfl
@[simp] theorem exec_thermalReading die temps (s : State) : exec (.thermalReading die temps) s =
    execThermalReading die temps s := rfl
@[simp] theorem exec_watchdogExpiry (s : State) : exec .watchdogExpiry s = execWatchdogExpiry s := rfl
@[simp] theorem exec_fatalError cause (s : State) : exec (.fatalError cause) s = execFatalError cause s := rfl
@[simp] theorem exec_correctedError core kind (s : State) : exec (.correctedError core kind) s =
    execCorrectedError core kind s := rfl
@[simp] theorem exec_unsupportedPacket part answered (s : State) : exec (.unsupportedPacket part answered) s =
    execUnsupportedPacket part answered s := rfl
@[simp] theorem exec_breakpointComparatorSet cid n addr mask (s : State) : exec (.breakpointComparatorSet cid n addr mask) s =
    execBreakpointComparatorSet cid n addr mask s := rfl
@[simp] theorem exec_debugSessionResume cid (s : State) : exec (.debugSessionResume cid) s =
    execDebugSessionResume cid s := rfl
@[simp] theorem exec_heldContextImageWrite cid reg value (s : State) : exec (.heldContextImageWrite cid reg value) s =
    execHeldContextImageWrite cid reg value s := rfl
@[simp] theorem exec_debugKeyInstall domain key sig (s : State) : exec (.debugKeyInstall domain key sig) s =
    execDebugKeyInstall domain key sig s := rfl
@[simp] theorem exec_partitionDissolution part sig (s : State) : exec (.partitionDissolution part sig) s =
    execPartitionDissolution part sig s := rfl
@[simp] theorem exec_powerOff (s : State) : exec .powerOff s = execPowerOff s := rfl

theorem eventRun_of {b : Bool} (hb : b = true) (s t : State) : eventRun b s t = .next t := if_pos hb

end Sys2Proof.Claims


namespace Sys2Proof.Claims

open Sys2Proof.Machine

/-! ### Events of one context that take no time -/

theorem settleWindowEnd_ends {core : Nat} {s : State} (h : (s.core core).settle = 1) :
    exec (.settleWindowEnd core) s = .next (s.modCore core fun k => { k with settle := 0 }) :=
  eventRun_of (by simp [h]) ..

theorem waitExpiry_ends {cid : Nat} {s : State} (hr : (s.ctx cid).status = .running) (hw : (s.ctx cid).r.waitTo ≠ 0)
    (hc : (s.ctx cid).r.waitTo ≤ (s.core (coreOf cid)).cc) :
    exec (.waitExpiry cid) s = .next (s.modRegs cid fun r => { r with waitTo := 0, waited := r.waitTo }) :=
  eventRun_of (by simp [State.waitOver, hr, hw, hc]) ..

theorem rngPush_steps {cid : Nat} {s : State} (h : 0 < (s.ctx cid).r.rngDue) :
    exec (.rngPush cid) s = .next (s.modRegs cid fun r => { r.rngStep with rngDue := r.rngDue - 1 }) :=
  eventRun_of (by simp [h]) ..

/-- A full queue of random words takes no further one, and the generator does not step. -/
theorem rngStep_full {r : Regs} (h : 64 ≤ r.rng.length) : r.rngStep = r := if_pos h

theorem rngPush_full {cid : Nat} {s : State} (h : 0 < (s.ctx cid).r.rngDue) (hl : 64 ≤ (s.ctx cid).r.rng.length) :
    exec (.rngPush cid) s = .next (s.modRegs cid fun r => { r with rngDue := r.rngDue - 1 }) := by
  rw [rngPush_steps h, modRegs_congr (g := fun r => { r with rngDue := r.rngDue - 1 })]
  rw [rngStep_full hl]

theorem rngStep_room {r : Regs} (h : r.rng.length < 64) : r.rngStep =
    { r with g0 := r.g0 ^^^ (r.g3 ^^^ r.g1), g1 := r.g1 ^^^ (r.g2 ^^^ r.g0), g2 := (r.g2 ^^^ r.g0) ^^^ (r.g1 <<< 17),
             g3 := (r.g3 ^^^ r.g1).rotateLeft 45,
             rng := r.rng ++ [((r.g1 * 5).rotateLeft 7 * 9).extractLsb' 32 32] } :=
  if_neg (Nat.not_le.mpr h)

@[simp] theorem ctx_noteSpan (s : State) (k c v n i : Nat) : (s.noteSpan k c v n).ctx i = s.ctx i :=
  foldl_keeps (fun t : State => t.ctx i) (fun _ _ => ctx_noteMiss ..) _ _

theorem dictLoadEnd_loaded {cid n : Nat} {es : List (BitVec 384)} {s : State} (hl : (s.ctx cid).r.dictLoad = .running)
    (hw : s.svcWaits cid 6 = false) (hd : dictRead s cid (s.ctx cid).r.dictAddr.toNat = .ok (n, es)) :
    exec (.dictLoadEnd cid) s = .next ((s.noteSpan 0 cid (s.ctx cid).r.dictAddr.toNat (16 + 48 * es.length)).modRegs cid
      fun r => { r.fillDict ⟨r.dictAddr, es⟩ with dictLoad := .loaded n }) := by
  simp [execDictLoadEnd, hl, hw, hd]

theorem dictLoadEnd_fails {cid : Nat} {e : AFault} {s : State} (hl : (s.ctx cid).r.dictLoad = .running)
    (hw : s.svcWaits cid 6 = false) (hd : dictRead s cid (s.ctx cid).r.dictAddr.toNat = .error e) :
    exec (.dictLoadEnd cid) s = .next (if e.trans then (s.noteMiss 0 cid e.va).postFault cid 6 .read 0 e
      else s.modCtx cid fun c => c.dictFault 6 e.va) := by
  cases ht : e.trans <;> simp [execDictLoadEnd, hl, hw, hd, ht]

theorem dictFault_dictLoad (c : Ctx) (cause va : Nat) : (c.dictFault cause va).r.dictLoad = .faulted cause va false := by
  unfold Ctx.dictFault
  dsimp only
  split
  · rw [dictUnmet_r]
  · rfl

theorem checkpointTake_begins {cid : Nat} {s : State} (hd : s.ckptDue cid = true) (hi : s.issueCores = []) :
    exec (.checkpointTake cid) s = .next (s.newInterval cid) := eventRun_of (by simp [hd, hi]) ..

theorem intervalUnprotected_ends {cid : Nat} {s : State} (hd : s.unprotDue cid = true) :
    exec (.intervalUnprotected cid) s = .next (s.modCtx cid Ctx.unprotect) := eventRun_of hd ..

theorem protected_of_unprotDue {cid : Nat} {s : State} (hd : s.unprotDue cid = true) :
    (s.ctx cid).ival.unprotected = false := by
  simp only [State.unprotDue, Bool.and_eq_true, Bool.not_eq_true'] at hd
  exact hd.1.2

/-- Settles O47: each clause is one of the equations above, read off the state it gives. -/
theorem contextEventsHappen : Obligations.ContextEventsHappen := by
  refine ⟨?_, ?_, ?_, ?_, ?_, ?_, ?_, ?_⟩
  · intro core s h
    exact ⟨_, settleWindowEnd_ends h, by simp, rfl, rfl⟩
  · exact fun cid s hr hw hc => waitExpiry_ends hr hw hc
  · exact fun cid s h hl => rngPush_full h hl
  · intro cid s h hl r x
    refine ⟨_, rngPush_steps h, ?_⟩
    simp [rngStep_room hl, r, x]
  · intro cid n es s hl hw hd
    refine ⟨_, dictLoadEnd_loaded hl hw hd, by simp, ?_⟩
    cases hb : (s.ctx cid).r.curBank <;> simp [Regs.fillDict, hb]
  · intro cid e s hl hw hd
    refine ⟨fun ht => ?_, fun ht => ⟨_, dictLoadEnd_fails hl hw hd, ?_⟩⟩
    · rw [dictLoadEnd_fails hl hw hd, if_pos ht]
    · rw [ht]
      simp [dictFault_dictLoad]
  · intro cid s hd hi
    exact ⟨_, checkpointTake_begins hd hi, by simp [State.newInterval]⟩
  · intro cid s hd
    exact ⟨_, intervalUnprotected_ends hd, by simp [Ctx.unprotect, protected_of_unprotDue hd]⟩

end Sys2Proof.Claims


namespace Sys2Proof.Claims

open Sys2Proof.Machine

/-! ### Debug domains -/

@[simp] theorem domain_modDomain (s : State) (d : Nat) (f : DebugDom → DebugDom) :
    (s.modDomain d f).hub.domain d = f (s.hub.domain d) := by
  unfold State.modDomain Hub.domain
  by_cases hd : d = 0
  · simp [hd]
  · simp [hd]

@[simp] theorem domain_send (s : State) (m : List Byte) (d : Nat) : (s.send m).hub.domain d = s.hub.domain d := rfl

theorem debugChallenge_made {d : Nat} {s : State} (hr : s.hub.recovery = false) (hf : (s.hub.domain d).fails < 8) :
    exec (.debugChallengeRequest d) s = .next (((s.modDomain d fun x => { x with challenge := some s.hub.nChallenge }).modHub
      fun h => { h with nChallenge := s.hub.nChallenge + 1 }).send (answerOk :: leBytes 64 (Config.challenge s.hub.nChallenge))) := by
  simp [execDebugChallengeRequest, hr, Nat.not_le.mpr hf]

theorem debugChallenge_refused {d : Nat} {s : State} (hr : s.hub.recovery = false) (hf : 8 ≤ (s.hub.domain d).fails) :
    exec (.debugChallengeRequest d) s = .next (s.send [answerAccess]) := by
  simp [execDebugChallengeRequest, hr, hf]

/-- A signature answers the challenge of a domain under one of its keys. -/
def Answers (s : State) (d sig : Nat) : Prop :=
  ∃ n, (s.hub.domain d).challenge = some n ∧ ∃ k ∈ (s.hub.domain d).keys, Config.sigVerifies k (unlockDigest d n) sig = true

theorem answers_iff {s : State} {d sig : Nat} : (((s.hub.domain d).challenge.any fun n => (s.hub.domain d).keys.any fun k =>
    Config.sigVerifies k (unlockDigest d n) sig) = true) ↔ Answers s d sig := by
  simp [Answers, Option.any_eq_true]

theorem debugUnlock_good {d sig : Nat} {s : State} (hr : s.hub.recovery = false) (ha : Answers s d sig) :
    exec (.debugUnlockAnswer d sig) s =
      .next ((s.modDomain d fun x => { x with challenge := none, fails := 0, unlocked := true }).send [answerOk]) := by
  simp only [exec_debugUnlockAnswer, execDebugUnlockAnswer, hr, Bool.false_eq_true, if_false, answers_iff, ha, if_true]

theorem debugUnlock_bad {d sig : Nat} {s : State} (hr : s.hub.recovery = false) (ha : ¬ Answers s d sig) :
    exec (.debugUnlockAnswer d sig) s =
      .next ((s.modDomain d fun x => { x with challenge := none, fails := x.fails + 1 }).send [answerSignature]) := by
  simp only [exec_debugUnlockAnswer, execDebugUnlockAnswer, hr, Bool.false_eq_true, if_false, answers_iff, ha]

/-- A context of a relocked domain, which no session holds any more. -/
def relocked (d : Nat) (c : Nat × Ctx) : Nat × Ctx :=
  if c.2.bind.part + 1 = d then (c.1, { c.2 with held := false, dbgStop := none }) else c

theorem debugRelock_locks {d : Nat} {s : State} : exec (.debugRelock d) s =
    .next (if d = 0 then s.modDomain d fun x => { x with unlocked := false, challenge := none }
      else { (s.modDomain d fun x => { x with unlocked := false, challenge := none }) with
        ctxs := (s.modDomain d fun x => { x with unlocked := false, challenge := none }).ctxs.map (relocked d) }) := by
  simp only [exec_debugRelock, execDebugRelock]
  split <;> rfl

theorem relocked_released {d : Nat} {c : Nat × Ctx} (h : (relocked d c).2.bind.part + 1 = d) :
    (relocked d c).2.held = false ∧ (relocked d c).2.dbgStop = none := by
  unfold relocked at h ⊢
  split
  · exact ⟨rfl, rfl⟩
  next hn =>
    rw [if_neg hn] at h
    exact absurd h hn

theorem comparatorSet_sets {cid n addr mask : Nat} {s : State} (ho : debugOpen s cid = true) (hn : n < 4)
    (hs : (s.ctx cid).status ≠ .free) : exec (.breakpointComparatorSet cid n addr mask) s = .next (s.modCtx cid fun c =>
      { c with brk := c.brk.set n (if mask % 1024 = 0 then none else some (BitVec.ofNat 64 addr, BitVec.ofNat 10 mask)) hn,
               held := true }) := by
  simp [execBreakpointComparatorSet, eventRun, ho, hn, hs]

theorem sessionResume_resumes {cid slot : Nat} {pc : Word} {code : BitVec 14} {s : State}
    (hs : (s.ctx cid).dbgStop = some (pc, slot, code)) (ho : debugOpen s cid = true) :
    exec (.debugSessionResume cid) s = .next (s.modCtx cid fun c =>
      { c with dbgStop := none,
               bun := if 0x3FFC ≤ code.toNat then { c.bun with nextPass := some slot } else c.bun }) := by
  simp [execDebugSessionResume, hs, ho]

/-! ### The register image of a held context -/

/-- The program counter and the scalar and vector registers of one file are another's. -/
def SameFile (r x : Regs) : Prop := x.pc = r.pc ∧ x.sreg = r.sreg ∧ x.vreg = r.vreg

theorem sameFile_writeDeadline (r : Regs) (v : Word) : SameFile r (r.writeDeadline v) := by
  unfold Regs.writeDeadline
  repeat' split
  all_goals exact ⟨rfl, rfl, rfl⟩

theorem sameFile_ite {r x y : Regs} {p : Prop} [Decidable p] (hx : SameFile r x) (hy : SameFile r y) :
    SameFile r (if p then x else y) := by
  split
  · exact hx
  · exact hy

theorem sameFile_dite {r y : Regs} {p : Prop} [Decidable p] {x : p → Regs} (hx : ∀ h, SameFile r (x h)) (hy : SameFile r y) :
    SameFile r (if h : p then x h else y) := by
  split
  · exact hx _
  · exact hy

/-- So does a write of a control register. -/
theorem sameFile_writeCtl (r : Regs) (n : Nat) (v : Word) : SameFile r (r.writeCtl n v) := by
  have hk : SameFile r r := ⟨rfl, rfl, rfl⟩
  unfold Regs.writeCtl
  refine sameFile_ite (sameFile_ite hk hk) <| sameFile_ite hk <| sameFile_ite hk <| sameFile_ite hk <| sameFile_ite hk <|
    sameFile_ite hk <| sameFile_ite hk <| sameFile_ite hk <| sameFile_ite (sameFile_writeDeadline r v) <| sameFile_ite hk <|
    sameFile_ite hk <| sameFile_ite hk <| sameFile_ite hk <|
    sameFile_dite (fun _ => hk) <| sameFile_dite (fun _ => hk) <| sameFile_dite (fun _ => hk) <| sameFile_ite hk hk

theorem sameFile_writeP (r : Regs) (p : BitVec 4) (b : Bool) : SameFile r (r.writeP p b) := by
  obtain ⟨x, y, h⟩ := writeP_eq r p b
  rw [h]
  exact ⟨rfl, rfl, rfl⟩

theorem sameFile_writeLatch (r : Regs) (n : Nat) (l : Latch) : SameFile r (r.writeLatch n l) := by
  unfold Regs.writeLatch
  split
  all_goals exact ⟨rfl, rfl, rfl⟩

theorem SameFile.readS {r x : Regs} (h : SameFile r x) (m : BitVec 6) : x.readS m = r.readS m := by
  simp only [Regs.readS, h.2.1]

theorem heldReg_scalar {r : Regs} {reg value : Nat} (h : reg < 64) :
    heldReg r reg value = r.writeS (BitVec.ofNat 6 reg) (heldVal value) := if_pos h

theorem heldReg_pc (r : Regs) (value : Nat) : heldReg r 80 value = { r with pc := BitVec.ofNat 64 value } := rfl

theorem heldReg_pred {r : Regs} {reg value : Nat} (h : 64 ≤ reg) (h' : reg < 80) :
    heldReg r reg value = r.writeP (BitVec.ofNat 4 reg) ((BitVec.ofNat 64 value).getLsbD 0) := by
  unfold heldReg
  rw [if_neg (by omega), if_pos h']

/-- A register number that names no register of the file leaves it. -/
theorem sameFile_heldReg {r : Regs} {reg value : Nat} (h : 64 ≤ reg) (hp : reg ≠ 80) (hv : ¬ (65536 ≤ reg ∧ reg < 65536 + 1024)) :
    SameFile r (heldReg r reg value) := by
  have hk : SameFile r r := ⟨rfl, rfl, rfl⟩
  have hn : ¬ reg < 64 := by omega
  unfold heldReg
  dsimp only
  rw [if_neg hn, if_neg hp, if_neg hv]
  refine sameFile_ite (sameFile_writeP ..) <| sameFile_ite hk <| sameFile_ite hk <| sameFile_ite hk <| sameFile_ite hk <|
    sameFile_ite hk <| sameFile_ite hk <| sameFile_ite hk <| sameFile_ite hk <| sameFile_ite (sameFile_writeLatch ..) <|
    sameFile_ite hk <| sameFile_ite (sameFile_writeCtl ..) <| sameFile_ite ?_ hk
  split
  all_goals exact sameFile_writeLatch ..

theorem heldReg_ctl {r : Regs} {reg value : Nat} (h : 256 ≤ reg) (h' : reg < 65536) :
    heldReg r reg value = r.writeCtl (reg - 256) (BitVec.ofNat 64 value) := by
  have hlt (k : Nat) (hk : k ≤ 256) : ¬ reg < k := by omega
  have hne (k : Nat) (hk : k < 256) : reg ≠ k := by omega
  unfold heldReg
  dsimp only
  rw [if_neg (hlt _ (by decide)), if_neg (hlt _ (by decide)), if_neg (hne _ (by decide)), if_neg (hne _ (by decide)),
    if_neg (hne _ (by decide)), if_neg (hne _ (by decide)), if_neg (hne _ (by decide)), if_neg (hne _ (by decide)),
    if_neg (hne _ (by decide)), if_neg (hne _ (by decide)), if_neg (hlt _ (by decide)), if_neg (hlt _ (by decide)),
    if_neg (by omega), if_pos ⟨h, h'⟩]

theorem heldReg_vector {r : Regs} {reg value : Nat} (h : 65536 ≤ reg) (h' : reg < 65536 + 1024) :
    heldReg r reg value = r.writeV (BitVec.ofNat 5 ((reg - 65536) / 32)) 32
      (heldWord (r.readV (BitVec.ofNat 5 ((reg - 65536) / 32))) (reg % 32) value) := by
  have hlt (k : Nat) (hk : k ≤ 65536) : ¬ reg < k := by omega
  have hne (k : Nat) (hk : k < 65536) : reg ≠ k := by omega
  unfold heldReg
  dsimp only
  rw [if_neg (hlt _ (by decide)), if_neg (hlt _ (by decide)), if_neg (hne _ (by decide)), if_neg (hne _ (by decide)),
    if_neg (hne _ (by decide)), if_neg (hne _ (by decide)), if_neg (hne _ (by decide)), if_neg (hne _ (by decide)),
    if_neg (hne _ (by decide)), if_neg (hne _ (by decide)), if_neg (hlt _ (by decide)), if_neg (hlt _ (by decide)),
    if_neg (by omega), if_neg (by omega), if_pos ⟨h, h'⟩]

theorem heldReg_readPc (r : Regs) (reg value : Nat) :
    (heldReg r reg value).pc = if reg = 80 then BitVec.ofNat 64 value else r.pc := by
  by_cases hs : reg < 64
  · obtain ⟨x, hx⟩ := writeS_eq r (BitVec.ofNat 6 reg) (heldVal value)
    rw [heldReg_scalar hs, hx, if_neg (by omega)]
  · by_cases hp : reg = 80
    · subst hp
      rfl
    · rw [if_neg hp]
      by_cases hv : 65536 ≤ reg ∧ reg < 65536 + 1024
      · rw [heldReg_vector hv.1 hv.2]
        rfl
      · exact (sameFile_heldReg (Nat.not_lt.mp hs) hp hv).1

theorem heldReg_readS (r : Regs) (reg value : Nat) (m : BitVec 6) : (heldReg r reg value).readS m =
    if reg < 64 ∧ m = BitVec.ofNat 6 reg ∧ m ≠ 0 then heldVal value else r.readS m := by
  by_cases hs : reg < 64
  · rw [heldReg_scalar hs]
    by_cases hm : m = BitVec.ofNat 6 reg
    · by_cases hz : m = 0
      · rw [if_neg fun h => h.2.2 hz, ← hm, hz, writeS_zero]
      · rw [if_pos ⟨hs, hm, hz⟩, ← hm, readS_writeS_same r _ hz]
    · rw [if_neg fun h => hm h.2.1, readS_writeS_ne r _ hm]
  · rw [if_neg fun h => hs h.1]
    by_cases hp : reg = 80
    · subst hp
      rfl
    · by_cases hv : 65536 ≤ reg ∧ reg < 65536 + 1024
      · rw [heldReg_vector hv.1 hv.2]
        rfl
      · exact (sameFile_heldReg (Nat.not_lt.mp hs) hp hv).readS m

theorem heldReg_readV {r : Regs} {reg value : Nat} (h : 65536 ≤ reg) (h' : reg < 65536 + 1024) (m : BitVec 5) {i : Nat}
    (hi : i < 32) : ((heldReg r reg value).readV m).word i =
      if m = BitVec.ofNat 5 ((reg - 65536) / 32) ∧ i = reg % 32 then ⟨BitVec.ofNat 32 value, !value.testBit 32⟩
      else (r.readV m).word i := by
  rw [heldReg_vector h h', readV_writeV]
  by_cases hm : m = BitVec.ofNat 5 ((reg - 65536) / 32)
  · rw [if_pos hm, word_merge _ _ _ hi, if_pos hi, heldWord, word_ofWords _ hi, ← hm]
    by_cases hr : i = reg % 32 <;> simp [hr]
  · rw [if_neg hm, if_neg fun h => hm h.1]

/-- The context after a write of one of its registers by the session that holds it. -/
def heldCtx (reg value : Nat) (c : Ctx) : Ctx :=
  let c := { c with r := heldReg c.r reg value }
  if reg = 80 then { c with bun := { c.bun with nextSkip := 0, nextAft := After.none, nextPass := none, nextWord := none } }
  else if 192 ≤ reg ∧ reg < 208 then { c with seqr := { c.seqr with sq := c.seqr.sq.set (reg - 192) (BitVec.ofNat 64 value) } }
  else if 208 ≤ reg ∧ reg < 212 then { c with seqr := { c.seqr with k := c.seqr.k.set (reg - 208) (BitVec.ofNat 64 value) } }
  else c

theorem heldCtx_r (reg value : Nat) (c : Ctx) : (heldCtx reg value c).r = heldReg c.r reg value := by
  unfold heldCtx
  dsimp only
  repeat' split
  all_goals rfl

theorem heldCtx_bun {reg : Nat} (value : Nat) (c : Ctx) (h : reg ≠ 80) : (heldCtx reg value c).bun = c.bun := by
  unfold heldCtx
  dsimp only
  rw [if_neg h]
  repeat' split
  all_goals rfl

section

variable {cid value : Nat} {s : State} (ho : debugOpen s cid = true) (hs : (s.ctx cid).dbgStop.isSome = true)

include ho hs

theorem heldWrite_register {reg : Nat} (h : reg < 2 ^ 24) : exec (.heldContextImageWrite cid reg value) s =
    .next (if 0x110 ≤ reg ∧ reg < 0x120 then (s.modCtx cid (heldCtx reg value)).writeBankfmt cid (BitVec.ofNat 4 (reg - 0x110))
      (BitVec.ofNat 64 value) else s.modCtx cid (heldCtx reg value)) := by
  simp only [exec_heldContextImageWrite, execHeldContextImageWrite, ho, hs, Bool.and_self, Bool.not_true, Bool.false_eq_true,
    if_false]
  rw [if_neg (by omega), if_neg (by omega)]
  rfl

theorem heldWrite_part {reg : Nat} (h : 2 ^ 24 ≤ reg) (h' : reg < 2 ^ 32) : exec (.heldContextImageWrite cid reg value) s =
    .next (heldPart s cid (reg / 2 ^ 24) (reg / 2 ^ 12 % 2 ^ 12) (reg % 2 ^ 12) value) := by
  simp only [exec_heldContextImageWrite, execHeldContextImageWrite, ho, hs, Bool.and_self, Bool.not_true, Bool.false_eq_true,
    if_false]
  rw [if_neg (by omega), if_pos h]

theorem heldWrite_byte {o k : Nat} (hk : imageKey s cid o = some k) : exec (.heldContextImageWrite cid (2 ^ 32 + o) value) s =
    .next (s.putCells [(k, BitVec.ofNat 8 value)]) := by
  simp only [exec_heldContextImageWrite, execHeldContextImageWrite, ho, hs, Bool.and_self, Bool.not_true, Bool.false_eq_true,
    if_false]
  rw [if_pos (by omega), Nat.add_sub_cancel_left, hk]

end

theorem sameFile_heldList (r : Regs) (cc part item field value : Nat) : SameFile r (heldList r cc part item field value) := by
  unfold heldList
  repeat' split
  all_goals exact ⟨rfl, rfl, rfl⟩

theorem ctx_editRecord (s : State) (i f v j : Nat) : (editRecord s i f v).ctx j = s.ctx j := rfl

theorem ctx_editQueued (s : State) (i n f v j : Nat) : (editQueued s i n f v).ctx j = s.ctx j := rfl

/-- An edit of a list of a context leaves its register file and its bundle. -/
theorem heldPart_keeps (s : State) (cid part item field value : Nat) :
    SameFile (s.ctx cid).r ((heldPart s cid part item field value).ctx cid).r ∧
      ((heldPart s cid part item field value).ctx cid).bun = (s.ctx cid).bun := by
  have hk : SameFile (s.ctx cid).r (s.ctx cid).r ∧ (s.ctx cid).bun = (s.ctx cid).bun := ⟨⟨rfl, rfl, rfl⟩, rfl⟩
  unfold heldPart
  split
  · simp only [ctx_modCtx, if_pos]
    rw [setStream_eq]
    exact ⟨⟨rfl, rfl, rfl⟩, trivial⟩
  · split
    · exact hk
    · exact hk
  · exact hk
  · simp only [ctx_modCtx, if_pos]
    exact ⟨hk.1, trivial⟩
  · simp only [ctx_modCtx, if_pos]
    exact ⟨hk.1, trivial⟩
  · simp only [ctx_modRegs, if_pos]
    exact ⟨sameFile_heldList .., trivial⟩

theorem heldWrite_register_keeps {cid reg value : Nat} {s : State} (ho : debugOpen s cid = true)
    (hs : (s.ctx cid).dbgStop.isSome = true) (h : reg < 2 ^ 24) :
    ∃ t, exec (.heldContextImageWrite cid reg value) s = .next t ∧ t.mem = s.mem ∧
      t.ctx cid = heldCtx reg value (s.ctx cid) := by
  refine ⟨_, heldWrite_register ho hs h, ?_⟩
  split <;> simp

/-- What a write of any part but memory leaves of the register file and the bundle. -/
theorem heldWrite_file {cid reg value : Nat} {s : State} (ho : debugOpen s cid = true)
    (hs : (s.ctx cid).dbgStop.isSome = true) (h : 2 ^ 24 ≤ reg) (h' : reg < 2 ^ 32) :
    ∃ t, exec (.heldContextImageWrite cid reg value) s = .next t ∧ t.mem = s.mem ∧
      SameFile (s.ctx cid).r (t.ctx cid).r ∧ (t.ctx cid).bun = (s.ctx cid).bun :=
  ⟨_, heldWrite_part ho hs h h', mem_heldPart .., heldPart_keeps ..⟩

theorem heldPart_transfer {s : State} {cid i value : Nat} {x : Transfer} (hx : (s.ctx cid).r.transfers[i]? = some x) :
    ((heldPart s cid 1 i 1 value).ctx cid).r = { (s.ctx cid).r with
      transfers := (s.ctx cid).r.transfers.set i { x with target := BitVec.ofNat 64 value } } := by
  have hi : i ≠ (s.ctx cid).r.transfers.length := fun h => by simp [h] at hx
  have he : editAt (s.ctx cid).r.transfers i 1 value (some ⟨0, 0⟩) (Transfer.edit 1 value) =
      (s.ctx cid).r.transfers.set i { x with target := BitVec.ofNat 64 value } := by
    rw [editAt, if_neg (by simp), if_neg hi, List.modify_eq_set_getElem?, hx]
    rfl
  simp only [heldPart, heldList, ctx_modRegs, if_pos]
  rw [he]

theorem heldPart_entry {s : State} {cid e value x : Nat} (hx : (s.ctx cid).seqr.table[e]? = some x) :
    ((heldPart s cid 14 e 0 value).ctx cid).r = (s.ctx cid).r ∧
      ((heldPart s cid 14 e 0 value).ctx cid).seqr.table =
        (s.ctx cid).seqr.table.set e (x / 2 ^ 64 * 2 ^ 64 + value % 2 ^ 64) := by
  have he : (s.ctx cid).seqr.table.modify e (fun e => e / 2 ^ 64 * 2 ^ 64 + value % 2 ^ 64) =
      (s.ctx cid).seqr.table.set e (x / 2 ^ 64 * 2 ^ 64 + value % 2 ^ 64) := by
    rw [List.modify_eq_set_getElem?, hx]
    rfl
  simp only [heldPart, ctx_modCtx, if_pos]
  exact ⟨trivial, he⟩

/-- Settles O59: each clause is one of the equations above; a register's write is read back through the register file. -/
theorem debugEventsAct : Obligations.DebugEventsAct := by
  refine ⟨?_, ?_, ?_, ?_, ?_, ?_, ?_, ?_, ?_, ?_⟩
  · intro d s hr
    refine ⟨fun hf => ⟨_, debugChallenge_made hr hf, ?_, rfl, rfl⟩, fun hf => debugChallenge_refused hr hf⟩
    exact (congrArg DebugDom.challenge (domain_modDomain s d _)).trans rfl
  · intro d sig n k s hr hc hk hv
    exact ⟨_, debugUnlock_good hr ⟨n, hc, k, hk, hv⟩, by simp⟩
  · intro d sig s hr hn
    have ha : ¬ Answers s d sig := by
      rintro ⟨n, hc, k, hk, hv⟩
      simp [hn n hc k hk] at hv
    exact ⟨_, debugUnlock_bad hr ha, by simp⟩
  · intro d s
    refine ⟨_, debugRelock_locks, ?_⟩
    split
    next hd => exact ⟨by simp, fun _ _ h => absurd hd h, rfl⟩
    next hd =>
      refine ⟨by simp, fun c hc _ hp => ?_, rfl⟩
      obtain ⟨x, -, rfl⟩ := List.mem_map.mp hc
      exact relocked_released hp
  · intro cid n addr mask s ho hn hs
    exact ⟨_, comparatorSet_sets ho hn hs, by simp [hn]⟩
  · intro cid slot pc code s hs ho
    refine ⟨_, sessionResume_resumes hs ho, ?_⟩
    by_cases hc : 0x3FFC ≤ code.toNat <;> simp [hc]
  · intro cid reg value s ho hs hr w r
    by_cases hl : reg < 2 ^ 24
    · obtain ⟨t, ht, hm, hc⟩ := heldWrite_register_keeps (value := value) ho hs hl
      have hrr : (t.ctx cid).r = heldReg r reg value := by rw [hc, heldCtx_r]
      refine ⟨t, ht, hm, ?_, ?_, ?_, ?_, ?_, ?_, ?_⟩
      · rw [hrr, heldReg_readPc]
      · rw [hc]
        split
        next h =>
          subst h
          rfl
        next h => rw [heldCtx_bun value _ h]
      · rw [hc]
        split
        next h =>
          subst h
          rfl
        next h => rw [heldCtx_bun value _ h]
      · exact fun m => (congrArg (Regs.readS · m) hrr).trans (heldReg_readS ..)
      · exact fun h h' => hrr.trans (heldReg_pred h h')
      · exact fun h h' => hrr.trans (heldReg_ctl h h')
      · intro h h' m i hi
        rw [hrr]
        exact heldReg_readV h h' m hi
    · obtain ⟨t, ht, hm, hf, hb⟩ := heldWrite_file (value := value) ho hs (Nat.not_lt.mp hl) hr
      refine ⟨t, ht, hm, ?_, ?_, ?_, ?_, ?_, ?_, ?_⟩
      · rw [if_neg (by omega)]
        exact hf.1
      · rw [if_neg (by omega), hb]
      · rw [if_neg (by omega), hb]
      · intro m
        rw [if_neg (by omega)]
        exact hf.readS m
      all_goals
        intros
        omega
  · intro cid i value x s ho hs hi hx
    refine ⟨_, heldWrite_part ho hs (by omega) (by omega), mem_heldPart .., ?_⟩
    have hp : (2 ^ 24 + i * 2 ^ 12 + 1) / 2 ^ 24 = 1 := by omega
    have hn : (2 ^ 24 + i * 2 ^ 12 + 1) / 2 ^ 12 % 2 ^ 12 = i := by omega
    have hf : (2 ^ 24 + i * 2 ^ 12 + 1) % 2 ^ 12 = 1 := by omega
    rw [hp, hn, hf]
    exact heldPart_transfer hx
  · intro cid e value x s ho hs he hx
    refine ⟨_, heldWrite_part ho hs (by omega) (by omega), mem_heldPart .., ?_⟩
    have hp : (14 * 2 ^ 24 + e * 2 ^ 12) / 2 ^ 24 = 14 := by omega
    have hn : (14 * 2 ^ 24 + e * 2 ^ 12) / 2 ^ 12 % 2 ^ 12 = e := by omega
    have hf : (14 * 2 ^ 24 + e * 2 ^ 12) % 2 ^ 12 = 0 := by omega
    rw [hp, hn, hf]
    exact heldPart_entry hx
  · intro cid o value k s ho hs hk
    exact ⟨_, heldWrite_byte ho hs hk, rfl, rfl⟩

end Sys2Proof.Claims


namespace Sys2Proof.Claims

open Sys2Proof.Machine

/-! ### What the scheduler's records leave alone: the contexts -/

theorem ctxs_foldl_of {α : Type} {f : State → α → State} (l : List α) (s : State) (h : ∀ s a, (f s a).ctxs = s.ctxs) :
    (l.foldl f s).ctxs = s.ctxs := foldl_keeps State.ctxs h l s

theorem ctx_of_ctxs {s t : State} (h : t.ctxs = s.ctxs) (i : Nat) : t.ctx i = s.ctx i := by
  unfold State.ctx
  rw [h]

section

variable (s : State)

@[simp] theorem ctxs_putCells (cs : List Host.Cell) : (s.putCells cs).ctxs = s.ctxs := rfl

@[simp] theorem ctxs_modNode (p q n : Nat) (f : Node → Node) : (s.modNode p q n f).ctxs = s.ctxs := rfl

@[simp] theorem ctxs_leavePkg (w : BufWrite) : (s.leavePkg w).ctxs = s.ctxs := by
  unfold State.leavePkg
  split <;> rfl

@[simp] theorem ctxs_drainPkg (ks : List Nat) : (s.drainPkg ks).ctxs = s.ctxs :=
  (ctxs_foldl_of _ _ fun _ _ => ctxs_leavePkg ..).trans rfl

@[simp] theorem ctxs_hubWrite (p n a : Nat) (bs : List Byte) : (hubWrite s p n a bs).1.ctxs = s.ctxs := by
  unfold hubWrite
  dsimp only
  split
  · rfl
  · dsimp only
    split
    · exact (modHub_ctxs ..).trans (ctxs_drainPkg ..)
    · exact ctxs_drainPkg ..

@[simp] theorem ctxs_recState (p q n st : Nat) : (recState s p q n st).ctxs = s.ctxs := by
  have h1 : (if 2 ≤ st then hubWrite s p (recSeq (launchOf s p q) n) ((s.node p q n).ent.crec + 32)
      (leBytes 8 s.hub.ptb) else (s, true)).1.ctxs = s.ctxs := by
    split
    · exact ctxs_hubWrite ..
    · rfl
  unfold recState
  dsimp only
  rw [apply_ite State.ctxs, ctxs_modNode, ctxs_hubWrite, ite_self, h1]

@[simp] theorem ctxs_recAdd (p q n o : Nat) : (recAdd s p q n o).ctxs = s.ctxs := by
  unfold recAdd
  dsimp only
  split
  · rfl
  · split
    · exact (modHub_ctxs ..).trans (ctxs_drainPkg ..)
    · exact ctxs_drainPkg ..

@[simp] theorem ctxs_recEntry (p q n x y z l : Nat) (e : EndInfo) : (recEntry s p q n x y z l e).ctxs = s.ctxs := by
  unfold recEntry
  dsimp only
  split <;> simp

@[simp] theorem ctxs_abandonTile (q i p t : Nat) : (abandonTile q i p s t).ctxs = s.ctxs := by
  unfold abandonTile
  dsimp only
  simp

@[simp] theorem ctxs_stopGraph (p q first : Nat) : (stopGraph s p q first).ctxs = s.ctxs := by
  unfold stopGraph
  dsimp only
  split
  · rfl
  · refine (ctxs_foldl_of _ _ fun t i => ?_).trans rfl
    split
    · simp
    · split
      · exact (ctxs_foldl_of _ _ fun _ _ => ctxs_abandonTile ..).trans rfl
      · rfl

@[simp] theorem ctxs_decDeps (p q i : Nat) : (decDeps s p q i).ctxs = s.ctxs := rfl

@[simp] theorem ctxs_dropStacks (p l n : Nat) : (dropStacks s p l n).ctxs = s.ctxs := rfl

@[simp] theorem ctxs_nodeCheck (p q i : Nat) : (nodeCheck s p q i).ctxs = s.ctxs := by
  unfold nodeCheck
  dsimp only
  rw [apply_ite State.ctxs, apply_ite State.ctxs, apply_ite State.ctxs]
  rw [ctxs_foldl_of _ _ fun _ _ => ctxs_decDeps ..]
  simp

@[simp] theorem ctxs_graphRecord (p : Nat) (l : Launch) (st c : Nat) : (graphRecord s p l st c).ctxs = s.ctxs := by
  unfold graphRecord
  split <;> simp

@[simp] theorem ctxs_graphCheck (p q : Nat) : (graphCheck s p q).ctxs = s.ctxs := by
  unfold graphCheck
  dsimp only
  split
  · rfl
  next l _ =>
    have hp (t : State) : ((List.range l.nodes.length).foldl (fun s i => nodeCheck s p q i) t).ctxs = t.ctxs :=
      ctxs_foldl_of _ _ fun _ _ => ctxs_nodeCheck ..
    split
    · rw [hp, hp]
    · split
      · rw [modPart_ctxs, ctxs_graphRecord, hp, hp]
      · rw [hp, hp]

end

end Sys2Proof.Claims


namespace Sys2Proof.Claims

open Sys2Proof.Machine

/-! ### Binding (R60, R344) -/

/-- The hub's time and the operating points of the cores, which fix the deadlines at binding, are another state's. -/
def SameClock (s t : State) : Prop := t.hub.ptb = s.hub.ptb ∧ ∀ l, (t.core l).op = (s.core l).op

theorem SameClock.trans {s t u : State} (h : SameClock s t) (h' : SameClock t u) : SameClock s u :=
  ⟨h'.1.trans h.1, fun l => (h'.2 l).trans (h.2 l)⟩

theorem sameClock_foldl {α : Type} {f : State → α → State} (hf : ∀ s a, SameClock s (f s a)) (l : List α) (s : State) :
    SameClock s (l.foldl f s) := by
  induction l generalizing s with
  | nil => exact ⟨rfl, fun _ => rfl⟩
  | cons a l ih => exact (hf s a).trans (ih _)

theorem bindDeadline_clock {s t : State} (h : SameClock s t) (e : NodeEnt) (op : Nat) :
    bindDeadline t e op = bindDeadline s e op := by
  unfold bindDeadline
  rw [h.1]

/-- A change of a core that keeps its operating point. -/
theorem sameClock_modCore {s : State} {l : Nat} {f : Core → Core} (hf : (f (s.core l)).op = (s.core l).op) :
    SameClock s (s.modCore l f) := by
  refine ⟨rfl, fun j => ?_⟩
  rw [core_modCore]
  split
  next h =>
    subst h
    exact hf
  next => rfl

theorem sameClock_wakeCore (s : State) (l : Nat) : SameClock s (wakeCore s l) := by
  unfold wakeCore
  split
  · exact sameClock_modCore rfl
  · exact ⟨rfl, fun _ => rfl⟩

theorem sameClock_planFormats (s : State) (cid : Nat) (b : Binding) (fs : List Nat) : SameClock s (planFormats s cid b fs) :=
  sameClock_modCore rfl

theorem sameClock_zeroFill (s : State) (cid : Nat) (b : Binding) : SameClock s (zeroFill s cid b) := ⟨rfl, fun _ => rfl⟩

theorem sameClock_modPart (s : State) (p : Nat) (f : Part → Part) : SameClock s (s.modPart p f) := ⟨rfl, fun _ => rfl⟩

theorem sameClock_modNode (s : State) (p q n : Nat) (f : Node → Node) : SameClock s (s.modNode p q n f) :=
  ⟨rfl, fun _ => rfl⟩

theorem sameClock_resetBarriers (p l n : Nat) (s : State) (k : Nat) : SameClock s (resetBarriers p l n s k) := by
  unfold resetBarriers
  split
  · exact ⟨rfl, fun _ => rfl⟩
  · exact ⟨rfl, fun _ => rfl⟩

theorem sameClock_plan (s : State) (l cid : Nat) (b : Binding) (fs : List Nat) :
    SameClock s (planFormats (zeroFill (wakeCore s l) cid b) cid b fs) :=
  ((sameClock_wakeCore s l).trans (sameClock_zeroFill ..)).trans (sameClock_planFormats ..)

theorem ctx_wakeCore (s : State) (l j : Nat) : (wakeCore s l).ctx j = s.ctx j := by
  unfold wakeCore
  split <;> rfl

theorem ctx_zeroFill (s : State) (cid : Nat) (b : Binding) (j : Nat) : (zeroFill s cid b).ctx j = s.ctx j := rfl

theorem ctx_planFormats (s : State) (cid : Nat) (b : Binding) (fs : List Nat) (j : Nat) :
    (planFormats s cid b fs).ctx j = s.ctx j := rfl

section

variable {part launch node tile : Nat} {n : Node} {leader : Nat} {dict : DictBank}

/-- The registers that a context of a tile starts with. -/
def boundRegs (tile : Nat) (n : Node) (dict : DictBank) (s : State) (cid : Nat) : Regs :=
  presetRegs n.ent n.zext (tile % n.ent.gx) (tile / n.ent.gx % n.ent.gy) (tile / n.ent.gx / n.ent.gy) dict
    ((bindDeadline s n.ent (s.core (coreOf cid)).op).getD 0) (s.core (coreOf cid)).op

theorem boundRegs_clock {s t : State} (h : SameClock s t) (cid : Nat) :
    boundRegs tile n dict t cid = boundRegs tile n dict s cid := by
  unfold boundRegs
  rw [bindDeadline_clock h, h.2]

theorem boundRegs_deadline (s : State) (cid : Nat) : (boundRegs tile n dict s cid).deadline =
    (bindDeadline s n.ent (s.core (coreOf cid)).op).getD 0 := rfl

theorem bindMember_ctx (s : State) (mc : Nat × Nat) :
    ((bindMember part launch node tile n leader dict s mc).ctx mc.2).status = .bound ∧
      ((bindMember part launch node tile n leader dict s mc).ctx mc.2).r = boundRegs tile n dict s mc.2 := by
  unfold bindMember
  dsimp only
  rw [ctx_with_tick, ctx_setCtx, if_pos rfl]
  exact ⟨rfl, rfl⟩

theorem bindMember_other (s : State) (mc : Nat × Nat) {j : Nat} (hj : j ≠ mc.2) :
    (bindMember part launch node tile n leader dict s mc).ctx j = s.ctx j := by
  unfold bindMember
  dsimp only
  rw [ctx_with_tick, ctx_setCtx, if_neg hj, ctx_planFormats, ctx_zeroFill, ctx_wakeCore, ctx_of_modCore]

theorem bindMember_clock (s : State) (mc : Nat × Nat) :
    SameClock s (bindMember part launch node tile n leader dict s mc) := by
  unfold bindMember
  dsimp only
  refine SameClock.trans (sameClock_modCore (l := coreOf mc.2) (f := fun k =>
    { k with corr := if (s.ctx (sibling mc.2)).status == .free then 0 else k.corr }) rfl) ⟨?_, fun l => ?_⟩
  · simp only [setCtx_hub]
    exact (sameClock_plan ..).1
  · rw [core_with_tick, core_of_setCtx]
    exact (sameClock_plan ..).2 l

theorem bindMembers_other (l : List (Nat × Nat)) (s : State) {j : Nat} (hj : j ∉ l.map (·.2)) :
    (l.foldl (bindMember part launch node tile n leader dict) s).ctx j = s.ctx j := by
  induction l generalizing s with
  | nil => rfl
  | cons mc l ih =>
    rw [List.map_cons, List.mem_cons, not_or] at hj
    rw [List.foldl_cons, ih _ hj.2, bindMember_other s mc hj.1]

theorem bindMembers_ctx (l : List (Nat × Nat)) (s : State) (hl : (l.map (·.2)).Nodup) {c : Nat} (hc : c ∈ l.map (·.2)) :
    ((l.foldl (bindMember part launch node tile n leader dict) s).ctx c).status = .bound ∧
      ((l.foldl (bindMember part launch node tile n leader dict) s).ctx c).r = boundRegs tile n dict s c := by
  induction l generalizing s with
  | nil => exact absurd hc List.not_mem_nil
  | cons mc l ih =>
    rw [List.map_cons, List.nodup_cons] at hl
    rw [List.foldl_cons]
    by_cases h : c ∈ l.map (·.2)
    · rw [← boundRegs_clock (bindMember_clock (part := part) (launch := launch) (node := node) (tile := tile) (n := n)
        (leader := leader) (dict := dict) s mc)]
      exact ih _ hl.2 h
    · have hm : c = mc.2 := (List.mem_cons.mp hc).resolve_right h
      subst hm
      rw [bindMembers_other l _ hl.1]
      exact bindMember_ctx s mc

end

theorem map_snd_zip_range (l : List Nat) : ((List.range l.length).zip l).map (·.2) = l :=
  List.map_snd_zip (by simp)

/-! ### The presets of launch (R60) -/

section

variable (e : NodeEnt) (zext x y z : Nat) (dict : DictBank) (dl : Word) (op : Nat)

/-- The scalar registers that name the tile, its arguments and its node's extents and record. -/
def presetScalars (r : Regs) : Regs :=
  (((((r.writeS 1 (SVal.mkOk (BitVec.ofNat 64 x))).writeS 2 (SVal.mkOk (BitVec.ofNat 64 y))).writeS 3
    (SVal.mkOk (BitVec.ofNat 64 z))).writeS 4 (SVal.mkOk (BitVec.ofNat 64 e.args))).writeS 5
    (SVal.mkOk (BitVec.ofNat 64 (e.gx + e.gy * 2 ^ 16 + zext * 2 ^ 32)))).writeS 6 (SVal.mkOk (BitVec.ofNat 64 e.crec))

omit dict dl op in
theorem presetScalars_readS (r : Regs) :
    (presetScalars e zext x y z r).readS 1 = SVal.mkOk (BitVec.ofNat 64 x) ∧
    (presetScalars e zext x y z r).readS 2 = SVal.mkOk (BitVec.ofNat 64 y) ∧
    (presetScalars e zext x y z r).readS 3 = SVal.mkOk (BitVec.ofNat 64 z) ∧
    (presetScalars e zext x y z r).readS 4 = SVal.mkOk (BitVec.ofNat 64 e.args) ∧
    (presetScalars e zext x y z r).readS 5 = SVal.mkOk (BitVec.ofNat 64 (e.gx + e.gy * 2 ^ 16 + zext * 2 ^ 32)) ∧
    (presetScalars e zext x y z r).readS 6 = SVal.mkOk (BitVec.ofNat 64 e.crec) ∧
    (presetScalars e zext x y z r).readS 7 = r.readS 7 := by
  unfold presetScalars
  generalize BitVec.ofNat 64 (e.gx + e.gy * 2 ^ 16 + zext * 2 ^ 32) = w
  refine ⟨?_, ?_, ?_, ?_, ?_, ?_, ?_⟩
  all_goals
    simp only [readS_writeS_ne, readS_writeS_same, ne_eq, BitVec.reduceEq, not_false_eq_true]

theorem presetRegs_sreg : (presetRegs e zext x y z dict dl op).sreg = (presetScalars e zext x y z Regs.reset).sreg := rfl

theorem readS_of_sreg {r x : Regs} (h : x.sreg = r.sreg) (m : BitVec 6) : x.readS m = r.readS m := by
  simp only [Regs.readS, h]

theorem readS_reset (m : BitVec 6) : Regs.reset.readS m = SVal.mkOk 0 := by
  simp [Regs.readS, Regs.reset]

theorem vreg_writeS (r : Regs) (n : BitVec 6) (v : SVal) : (r.writeS n v).vreg = r.vreg := by
  obtain ⟨x, hx⟩ := writeS_eq r n v
  rw [hx]

theorem presetRegs_vreg : (presetRegs e zext x y z dict dl op).vreg = Regs.reset.vreg := by
  unfold presetRegs
  show (Regs.writeS (Regs.writeS (Regs.writeS (Regs.writeS (Regs.writeS (Regs.writeS _ _ _) _ _) _ _) _ _) _ _) _ _).vreg = _
  rw [vreg_writeS, vreg_writeS, vreg_writeS, vreg_writeS, vreg_writeS, vreg_writeS]

theorem presetRegs_readV (m : BitVec 5) : (presetRegs e zext x y z dict dl op).readV m = VVal.zero := by
  simp only [Regs.readV, presetRegs_vreg]
  simp [Regs.reset]

end

/-! ### The events of a tile task -/

section

variable {part queue node cid tile : Nat} {rest ms : List Nat} {l : Launch} {s : State}
variable (hg : s.graph part queue = some l) (hu : (s.node part queue node).unbound = tile :: rest)
variable (hp : nextPlace s part l.seq node (s.node part queue node) tile = some ms) (hh : ms.head? = some cid)
variable (hs : l.stopped = false) (hr : (s.node part queue node).state = .released)
variable (hv : (s.node part queue node).ent.reserves = false →
  served s part (fun a => a.saved.isNone && a.queue == queue && a.node == node) = true)

include hh hs hr hv in
/-- Nothing keeps the tile from its place. -/
theorem taskBind_mayBind : ¬ (l.stopped = true ∨ (s.node part queue node).state ≠ .released ∨ ms.head? ≠ some cid ∨
    ((!(s.node part queue node).ent.reserves) = true ∧
      (!served s part fun a => a.saved.isNone && a.queue == queue && a.node == node) = true)) := by
  rintro (h | h | h | ⟨h, h'⟩)
  · simp [hs] at h
  · exact h hr
  · exact h hh
  · rw [hv (by simpa using h)] at h'
    simp at h'

include hg hu hp hh hs hr hv

theorem taskBind_binds (hd : deadlinesOk s (s.node part queue node).ent ms = true) :
    ∃ u dict, SameClock s u ∧ exec (.taskBind part queue node cid) s = .next (((List.range ms.length).zip ms).foldl
      (bindMember part l.seq node tile (s.node part queue node) cid dict) u) := by
  have hd' (f : Node → Node) : deadlinesOk (s.modNode part queue node f) (s.node part queue node).ent ms = true := hd
  simp only [exec_taskBind, execTaskBind, hg, hu, hp]
  rw [if_neg (taskBind_mayBind hh hs hr hv), hd']
  refine ⟨_, _, ?_, rfl⟩
  refine SameClock.trans ?_ (sameClock_modPart ..)
  refine SameClock.trans ?_ (sameClock_modNode ..)
  split
  · exact (sameClock_modNode ..).trans (sameClock_foldl (sameClock_resetBarriers part l.seq node) _ _)
  · exact sameClock_modNode ..

theorem taskBind_abandons (hd : deadlinesOk s (s.node part queue node).ent ms = false) :
    ∃ t, exec (.taskBind part queue node cid) s = .next t ∧ t.ctxs = s.ctxs := by
  have hd' (f : Node → Node) : deadlinesOk (s.modNode part queue node f) (s.node part queue node).ent ms = false := hd
  simp only [exec_taskBind, execTaskBind, hg, hu, hp]
  rw [if_neg (taskBind_mayBind hh hs hr hv), hd']
  exact ⟨_, rfl, by simp⟩

end

theorem taskStart_starts {cid : Nat} {s : State} (hb : (s.ctx cid).status = .bound)
    (hw : (s.ctx cid).bind.coRes = true ∨ (s.ctx cid).bind.det = true → (s.nodeOf (s.ctx cid).bind).unbound = [] ∧
      ∀ x ∈ (s.part (s.ctx cid).bind.part).saved, sameGroup x.ctx.bind (s.ctx cid).bind = false) :
    exec (.taskStart cid) s = .next (((startSet s cid).foldl (fun s i =>
      (s.modCtx i fun c => { c with status := .running }).newInterval i) s).syncCores (startSet s cid)) := by
  have hn : ¬ ((s.ctx cid).status ≠ .bound ∨ (((s.ctx cid).bind.coRes = true ∨ (s.ctx cid).bind.det = true) ∧
      (!((s.nodeOf (s.ctx cid).bind).unbound.isEmpty &&
        !((s.part (s.ctx cid).bind.part).saved.any fun x => sameGroup x.ctx.bind (s.ctx cid).bind))) = true)) := by
    rintro (h | ⟨h, h'⟩)
    · exact h hb
    · obtain ⟨hu, hs⟩ := hw h
      simp [hu] at h'
      obtain ⟨x, hx, hg⟩ := h'
      simp [hs x hx] at hg
  simp only [exec_taskStart, execTaskStart]
  rw [if_neg hn]

/-- A context starts to run, with a first interval. -/
def started (s : State) (i : Nat) : State := (s.modCtx i fun c => { c with status := .running }).newInterval i

theorem ctx_started (s : State) (i j : Nat) : ((started s i).ctx j).r = (s.ctx j).r ∧
    ((started s i).ctx j).status = if j = i then .running else (s.ctx j).status := by
  unfold started State.newInterval
  by_cases h : j = i <;> simp [h]

theorem ctx_started_foldl (l : List Nat) (s : State) (j : Nat) : ((l.foldl started s).ctx j).r = (s.ctx j).r ∧
    ((l.foldl started s).ctx j).status = if j ∈ l then .running else (s.ctx j).status := by
  induction l generalizing s with
  | nil => simp
  | cons i l ih =>
    obtain ⟨hr, hs⟩ := ih (started s i)
    rw [List.foldl_cons, hr, hs, (ctx_started s i j).1, (ctx_started s i j).2]
    by_cases hl : j ∈ l
    · simp [hl]
    · simp [hl]

@[simp] theorem ctx_syncCores (s : State) (ids : List Nat) (i : Nat) : (s.syncCores ids).ctx i = s.ctx i :=
  foldl_keeps (fun t : State => t.ctx i) (fun _ _ => ctx_of_modCore ..) _ _

theorem ctx_reset_foldl (l : List Nat) (s : State) {j : Nat} (h : j ∈ l ∨ (s.ctx j).status = .free) :
    ((l.foldl (fun s i => s.setCtx i Ctx.reset) s).ctx j).status = .free := by
  induction l generalizing s with
  | nil => exact h.resolve_left List.not_mem_nil
  | cons i l ih =>
    refine ih _ ?_
    rw [ctx_setCtx]
    by_cases hj : j = i
    · exact .inr (by rw [if_pos hj]; rfl)
    · rw [if_neg hj]
      exact h.imp_left fun h => (List.mem_cons.mp h).resolve_left hj

/-- The end of a task frees its contexts and writes records. -/
theorem taskEndComplete_frees {cid : Nat} {s : State} {ms : List Nat}
    (hm : ms = if (s.ctx cid).bind.gang = true then s.members cid else [cid]) (he : (s.ctx cid).status = .ending)
    (hl : ms.length = (s.ctx cid).bind.gangW * (s.ctx cid).bind.gangH)
    (ha : ∀ i ∈ ms, (s.ctx i).status = .ending ∧ s.drained i = true) :
    ∃ t, exec (.taskEndComplete cid) s = .next t ∧ t.ctxs = (ms.foldl (fun s i => s.setCtx i Ctx.reset) s).ctxs := by
  have hb : (!(decide ((s.ctx cid).status = .ending) && decide (ms.length = (s.ctx cid).bind.gangW * (s.ctx cid).bind.gangH) &&
      ms.all fun i => (s.ctx i).status == .ending && s.drained i)) = false := by
    simp only [he, hl, decide_true, Bool.true_and, Bool.not_eq_false', List.all_eq_true, Bool.and_eq_true, beq_iff_eq]
    exact ha
  simp only [exec_taskEndComplete, execTaskEndComplete, ← hm]
  rw [hb]
  simp only [Bool.false_eq_true, if_false]
  split
  · exact ⟨_, rfl, rfl⟩
  · split
    · exact ⟨_, rfl, by simp⟩
    · exact ⟨_, rfl, by simp⟩

/-- Settles O56: what binding writes is read off `bindMember` one context at a time. -/
theorem tasksBindStartAndEnd : Obligations.TasksBindStartAndEnd := by
  refine ⟨?_, ?_, ?_⟩
  · intro part queue node cid tile rest ms l s n hg hu hp hh hn hs hr hv
    refine ⟨fun hd => ?_, fun hd => taskBind_abandons hg hu hp hh hs hr hv hd⟩
    obtain ⟨u, dict, hc, he⟩ := taskBind_binds hg hu hp hh hs hr hv hd
    refine ⟨_, he, fun c hcm => ?_⟩
    have hb := bindMembers_ctx (part := part) (launch := l.seq) (node := node) (tile := tile) (n := s.node part queue node)
      (leader := cid) (dict := dict) ((List.range ms.length).zip ms) u (by rwa [map_snd_zip_range]) (c := c)
      (by rwa [map_snd_zip_range])
    obtain ⟨hst, hrg⟩ := hb
    rw [boundRegs_clock hc] at hrg
    obtain ⟨dl, hdl⟩ := Option.isSome_iff_exists.mp (List.all_eq_true.mp hd c hcm)
    obtain ⟨r1, r2, r3, r4, r5, r6, r7⟩ := presetScalars_readS n.ent n.zext (tile % n.ent.gx) (tile / n.ent.gx % n.ent.gy)
      (tile / n.ent.gx / n.ent.gy) Regs.reset
    have hsr := readS_of_sreg (presetRegs_sreg n.ent n.zext (tile % n.ent.gx) (tile / n.ent.gx % n.ent.gy)
      (tile / n.ent.gx / n.ent.gy) dict ((bindDeadline s n.ent (s.core (coreOf c)).op).getD 0) (s.core (coreOf c)).op)
    refine ⟨hst, ?_⟩
    rw [hrg]
    refine ⟨rfl, hdl.trans ?_, (hsr 1).trans r1, (hsr 2).trans r2, (hsr 3).trans r3, (hsr 4).trans r4, (hsr 5).trans r5,
      (hsr 6).trans r6, (hsr 7).trans (r7.trans (readS_reset 7)), presetRegs_readV ..⟩
    rw [boundRegs_deadline, hdl]
    rfl
  · intro cid s hb hw
    refine ⟨_, taskStart_starts hb hw, ?_, fun i hi => ?_⟩
    · rw [mem_syncCores]
      exact mem_foldl_of _ _ fun _ _ => (mem_newInterval ..).trans (modCtx_mem ..)
    · rw [ctx_syncCores]
      obtain ⟨hr, hs⟩ := ctx_started_foldl (startSet s cid) s i
      rw [if_pos hi] at hs
      exact ⟨hs, hr⟩
  · intro cid s ms he hl ha
    obtain ⟨t, ht, hc⟩ := taskEndComplete_frees (ms := ms) rfl he hl ha
    refine ⟨t, ht, fun i hi => ?_⟩
    rw [ctx_of_ctxs hc]
    exact ctx_reset_foldl _ _ (.inl hi)

end Sys2Proof.Claims


namespace Sys2Proof.Claims

open Sys2Proof.Machine

/-! ### Streams (R162, R247) -/

theorem lt_of_stream {r : Regs} {q : Nat} {st : Stream} (h : r.stream q = some st) : q < 8 := by
  by_contra hq
  rw [Regs.stream, List.getD_eq_getElem?_getD, List.getElem?_eq_none (by simpa using hq)] at h
  cases h

theorem stream_streamElem {r : Regs} {q : Nat} {st : Stream} (h : r.stream q = some st) (e : List VWord) :
    (r.streamElem q e).stream q = some { st with elems := st.elems ++ [e] } := by
  simp only [Regs.streamElem, h]
  rw [stream_setStream _ (lt_of_stream h), if_pos rfl]

theorem stream_finishStream {r : Regs} {q : Nat} {st : Stream} (h : r.stream q = some st) (he : st.elems ≠ []) :
    (r.finishStream q).stream q = some { st with closed := true } := by
  simp only [Regs.finishStream, h]
  rw [stream_setStream _ (lt_of_stream h), if_pos rfl, if_neg (by simpa using he)]

/-! ### The events of copies -/

theorem copyComplete_ends {cid pos : Nat} {k : Copy} {s : State} (hk : (s.ctx cid).copies[pos]? = some k)
    (hw : workTotal k.cmd ≤ k.pos) (hb : k.bytes = [] ∨ k.fills = none) :
    exec (.copyComplete cid pos) s = .next (s.modCtx cid fun x =>
      { x with copies := x.copies.eraseIdx pos, copyFlags := x.copyFlags ++ [(k.cmd.m, k.cmd.seq, k.flags)],
               r := x.r.raise k.flags }) := by
  have hn : ¬ (k.pos < workTotal k.cmd ∨ (k.fills.isSome ∧ (!k.bytes.isEmpty) = true)) := by
    rintro (h | ⟨h, h'⟩)
    · omega
    · rcases hb with hb | hb
      · simp [hb] at h'
      · simp [hb] at h
  simp only [exec_copyComplete, execCopyComplete, hk]
  rw [if_neg hn]

/-- An input stream that takes an element takes it before a waiting `qrd` is served. -/
theorem streamElement_taken {cid q : Nat} {st : Stream} {s : State} (hq : (s.ctx cid).r.stream q = some st)
    (ho : st.output = false) (hr : st.elems.length < 8 ∨ (s.ctx cid).status = .stopped) :
    exec (.streamElementDeliver cid q) s = .next ((deliverElem s cid q st).servePop cid q) := by
  simp [execStreamElementDeliver, hq, ho, hr]

theorem streamElement_full {cid q : Nat} {st : Stream} {s : State} (hq : (s.ctx cid).r.stream q = some st)
    (ho : st.output = false) (hl : 8 ≤ st.elems.length) (hs : (s.ctx cid).status ≠ .stopped) :
    exec (.streamElementDeliver cid q) s = .next (s.servePop cid q) := by
  simp [execStreamElementDeliver, hq, ho, Nat.not_lt.mpr hl, hs]

theorem deliverElem_copy {cid q i : Nat} {k : Copy} {st : Stream} {s : State} (ht : st.tag < pkTag)
    (hi : (s.ctx cid).copies.findIdx? (fun k => k.streams.contains q) = some i) (hk : (s.ctx cid).copies[i]? = some k) :
    deliverElem s cid q st = copyDeliver s cid q i k := by
  simp only [deliverElem, hi, hk]
  rw [if_neg (Nat.not_le.mpr ht)]

/-- The next element of a copy leaves its bytes; the last one closes the stream. -/
theorem copyDeliver_eq {cid q i : Nat} {k : Copy} {s : State} (hb : k.bytes ≠ [])
    (hf : 128 ≤ finalBytes k ∨ workTotal k.cmd ≤ k.pos) :
    copyDeliver s cid q i k = (setCopy s cid i { k with bytes := k.bytes.drop 128 }).modRegs cid fun r =>
      if workTotal k.cmd ≤ k.pos ∧ k.bytes.length ≤ 128
      then (r.streamElem q (firstElem (k.bytes.map fun b => b.getD 0))).finishStream q
      else r.streamElem q (firstElem (k.bytes.map fun b => b.getD 0)) := by
  have hn : ¬ (k.bytes.isEmpty = true ∨ (!(decide (128 ≤ finalBytes k) || decide (workTotal k.cmd ≤ k.pos))) = true) := by
    rcases hf with hf | hf <;> simp [hb, hf]
  have hd : ((k.bytes.drop 128).isEmpty = true) ↔ k.bytes.length ≤ 128 := by simp
  simp only [copyDeliver]
  rw [if_neg hn]
  simp only [Bool.and_eq_true, decide_eq_true_eq, hd]

theorem copyDeliver_spec {cid q i : Nat} {k : Copy} {st : Stream} {s : State} (hq : (s.ctx cid).r.stream q = some st)
    (hk : (s.ctx cid).copies[i]? = some k) (hb : k.bytes ≠ []) (hf : 128 ≤ finalBytes k ∨ workTotal k.cmd ≤ k.pos) :
    ((copyDeliver s cid q i k).ctx cid).copies[i]?.map (·.bytes) = some (k.bytes.drop 128) ∧
      ((copyDeliver s cid q i k).ctx cid).r.stream q = some { st with
        elems := st.elems ++ [firstElem (k.bytes.map fun b => b.getD 0)]
        closed := st.closed || decide (workTotal k.cmd ≤ k.pos ∧ k.bytes.length ≤ 128) } := by
  have hlt : i < (s.ctx cid).copies.length := (List.getElem?_eq_some_iff.mp hk).1
  have he := stream_streamElem hq (firstElem (k.bytes.map fun b => b.getD 0))
  rw [copyDeliver_eq hb hf]
  simp only [ctx_modRegs, if_pos, setCopy, ctx_modCtx]
  refine ⟨by simp [hlt], ?_⟩
  by_cases hd : workTotal k.cmd ≤ k.pos ∧ k.bytes.length ≤ 128
  · rw [if_pos hd, stream_finishStream he (by simp)]
    simp [hd]
  · rw [if_neg hd, he]
    simp [hd]

theorem deliverElem_lookup {cid q : Nat} {st : Stream} {s : State} (ht : pkTag ≤ st.tag) :
    deliverElem s cid q st = pkDeliver s cid q := if_pos ht

theorem pkDeliver_eq {cid q : Nat} {r : PkRun} {s : State} (hr : (s.die (dieOf (coreOf cid))).pkRun = some r)
    (hc : r.cmd.cid = cid) (hs : r.cmd.pkStrm = true) (hq : r.cmd.pkQn = q) (ho : r.out ≠ [])
    (hl : 128 ≤ r.out.length ∨ r.finished = true) :
    pkDeliver s cid q = (s.modRegs cid fun g => g.streamElem q (firstElem r.out)).modDie (dieOf (coreOf cid)) fun d =>
      { d with pkRun := some { r with out := r.out.drop 128 } } := by
  have hn : ¬ (r.cmd.cid ≠ cid ∨ (!r.cmd.pkStrm) = true ∨ r.cmd.pkQn ≠ q ∨ r.out.isEmpty = true ∨
      (r.out.length < 128 ∧ (!r.finished) = true)) := by
    rintro (h | h | h | h | ⟨h, h'⟩)
    · exact h hc
    · simp [hs] at h
    · exact h hq
    · simp [ho] at h
    · rcases hl with hl | hl
      · omega
      · simp [hl] at h'
  simp only [pkDeliver, hr]
  rw [if_neg hn]

/-- The copy at the source of an output stream. -/
structure Pushing (s : State) (cid q i : Nat) (k : Copy) (st : Stream) : Prop where
  first : (s.ctx cid).copies.findIdx? (fun k => k.streams.contains (q + 8)) = some i
  copy : (s.ctx cid).copies[i]? = some k
  stream : (s.ctx cid).r.stream q = some st

theorem pushConsumed_unbinds {cid q i : Nat} {k : Copy} {st : Stream} {s : State} (h : Pushing s cid q i k st)
    (he : st.elems = []) (ht : srcTotal k.cmd = 0) :
    exec (.pushConsumed cid q) s = .next (s.modRegs cid fun r => r.setStream q none) := by
  simp only [exec_pushConsumed, execPushConsumed, h.first, h.stream, h.copy, he]
  rw [if_pos ht]

/-- A copy that wants more pushes has a source of its own. -/
theorem srcTotal_ne_of_wants {k : Copy} (h : pushesReady k = false) : srcTotal k.cmd ≠ 0 := by
  intro h0
  simp [pushesReady, h0] at h

theorem pushConsumed_takes {cid q i : Nat} {k : Copy} {st : Stream} {e : List VWord} {es : List (List VWord)} {s : State}
    (h : Pushing s cid q i k st) (he : st.elems = e :: es) (hp : pushesReady k = false) (hh : k.held = none)
    (hw : s.svcWaits cid (copyCls k.cmd) = false) (hb : s.blockedAt cid 1 k.cmd.seq false = false)
    (hb' : s.blockedAt cid 1 (st.seqs.headD 0) false = false) {bs : List (Option Byte)}
    (hbs : bs = k.pushed ++ e.flatMap fun w => (leBytes 4 w.bits.toNat).map fun b => if w.ok = true then some b else none) :
    exec (.pushConsumed cid q) s = .next ((setCopy s cid i { k with pushed := bs }).modRegs cid fun r =>
      r.setStream q (if srcTotal k.cmd ≤ bs.length then none else some { st with elems := es, seqs := st.seqs.drop 1 })) := by
  subst hbs
  simp only [exec_pushConsumed, execPushConsumed, h.first, h.stream, h.copy, he]
  rw [if_neg (srcTotal_ne_of_wants hp)]
  simp only [hp, hh, hw, hb, hb', Option.isSome_none, Bool.or_false, Bool.false_eq_true, if_false, decide_eq_true_eq]

/-- Settles O52: a stream's next element is appended to it, and closes it where its copy has nothing left. -/
theorem copyEventsHappen : Obligations.CopyEventsHappen := by
  refine ⟨?_, ?_, ?_, ?_, ?_, ?_⟩
  · intro cid pos k s hk hw hb
    exact ⟨_, copyComplete_ends hk hw hb, by simp [Regs.raise]⟩
  · intro cid q i k st s hq ho ht hi hk hb hf hr
    refine ⟨copyDeliver s cid q i k, ?_, mem_copyDeliver .., copyDeliver_spec hq hk hb hf⟩
    rw [streamElement_taken hq ho hr, deliverElem_copy ht hi hk]
  · intro cid q r st s hq ho ht hr hc hs hn he hl hroom
    refine ⟨pkDeliver s cid q, ?_, mem_pkDeliver .., ?_, ?_⟩
    · rw [streamElement_taken hq ho hroom, deliverElem_lookup ht]
    · simp [pkDeliver_eq hr hc hs hn he hl]
    · simp [pkDeliver_eq hr hc hs hn he hl, stream_streamElem hq]
  · exact fun cid q st s hq ho hl hs => streamElement_full hq ho hl hs
  · intro cid q i k st e es s hi hk hq he hp hh hw hb hb' bs
    refine ⟨_, pushConsumed_takes ⟨hi, hk, hq⟩ he hp hh hw hb hb' rfl, rfl, ?_, ?_⟩
    · simp [setCopy, (List.getElem?_eq_some_iff.mp hk).1, bs]
    · simp [stream_setStream _ (lt_of_stream hq), bs]
  · intro cid q i k st s hi hk hq he ht
    exact ⟨_, pushConsumed_unbinds ⟨hi, hk, hq⟩ he ht, rfl, by simp [stream_setStream _ (lt_of_stream hq)]⟩

end Sys2Proof.Claims


namespace Sys2Proof.Claims

open Sys2Proof.Machine

/-! ### A change of several contexts, one after another -/

section

variable {α : Type} {f : State → α → State} {key : α → Nat} (hkeep : ∀ s a j, j ≠ key a → (f s a).ctx j = s.ctx j)

include hkeep

theorem ctx_foldl_off (l : List α) (s : State) {j : Nat} (hj : j ∉ l.map key) : (l.foldl f s).ctx j = s.ctx j := by
  induction l generalizing s with
  | nil => rfl
  | cons a l ih =>
    rw [List.map_cons, List.mem_cons, not_or] at hj
    rw [List.foldl_cons, ih _ hj.2, hkeep s a j hj.1]

/-- What each change gives its context, every context of the list has at the end. -/
theorem ctx_foldl_sets {P : Ctx → Prop} (hset : ∀ s a, P ((f s a).ctx (key a))) (l : List α) (s : State) {j : Nat}
    (hj : j ∈ l.map key) : P ((l.foldl f s).ctx j) := by
  induction l generalizing s with
  | nil => exact absurd hj List.not_mem_nil
  | cons a l ih =>
    rw [List.foldl_cons]
    by_cases h : j ∈ l.map key
    · exact ih _ h
    · have ha : j = key a := (List.mem_cons.mp hj).resolve_right h
      rw [ctx_foldl_off hkeep l _ h, ha]
      exact hset s a

/-- So it is where each change gives its own context something of its own. -/
theorem ctx_foldl_sets_own {P : α → Ctx → Prop} (hset : ∀ s a, P a ((f s a).ctx (key a))) (l : List α) (s : State)
    (hl : (l.map key).Nodup) {a : α} (ha : a ∈ l) : P a ((l.foldl f s).ctx (key a)) := by
  induction l generalizing s with
  | nil => exact absurd ha List.not_mem_nil
  | cons b l ih =>
    rw [List.map_cons, List.nodup_cons] at hl
    rw [List.foldl_cons]
    rcases List.mem_cons.mp ha with rfl | h
    · rw [ctx_foldl_off hkeep l _ hl.1]
      exact hset s a
    · exact ih _ hl.2 h

end

theorem ctx_foldl_sets_id {f : State → Nat → State} {P : Ctx → Prop} (hkeep : ∀ s i j, j ≠ i → (f s i).ctx j = s.ctx j)
    (hset : ∀ s i, P ((f s i).ctx i)) (l : List Nat) (s : State) {j : Nat} (hj : j ∈ l) : P ((l.foldl f s).ctx j) :=
  ctx_foldl_sets (key := fun i => i) hkeep hset l s (by rwa [List.map_id'])

theorem ctx_modCtx_off {s : State} {i j : Nat} (f : Ctx → Ctx) (h : j ≠ i) : (s.modCtx i f).ctx j = s.ctx j := by
  rw [ctx_modCtx, if_neg h]

/-! ### Barriers (R249) -/

theorem arrive_eq {b b' : Barrier} {n t : Nat} (h : b.arrive n t = some b') :
    (b.arrivals + 1 = b'.expected → b'.gen = b.gen + 1 ∧ b'.arrivals = 0) ∧
      (b.arrivals + 1 ≠ b'.expected → b'.gen = b.gen ∧ b'.arrivals = b.arrivals + 1) := by
  unfold Barrier.arrive at h
  dsimp only at h
  generalize (if b.arrivals = 0 then n else b.expected) = e at h
  generalize (if b.arrivals = 0 then t else max b.last t) = l at h
  split at h
  · cases h
  · split at h
    next he =>
      cases h
      exact ⟨fun _ => ⟨rfl, rfl⟩, fun hn => absurd he hn⟩
    next he =>
      cases h
      exact ⟨fun h' => absurd h' he, fun _ => ⟨rfl, rfl⟩⟩

section

variable {cid : Nat} {c : Cmd} {rest : List Cmd} {s : State}
variable (hq : takeFirst (fun c => c.cid == cid) (s.clu (s.ctx cid).bind.barClu).cbarQ = some (c, rest))
variable (hr : cbarReady s c = true)

include hq hr

theorem cbarArrival_counts {b : Barrier} (hb : ((s.clu (s.ctx cid).bind.barClu).barriers[c.a.toNat % 16]'(Nat.mod_lt _
    (by decide))).arrive c.b.toNat c.c.toNat = some b) : exec (.cbarArrival cid) s = .next
      ((((s.modClu (s.ctx cid).bind.barClu fun k => { k with cbarQ := rest }).modClu (s.ctx cid).bind.barClu fun k =>
        { k with barriers := k.barriers.set (c.a.toNat % 16) b (Nat.mod_lt _ (by decide)) }).modCtx cid fun x =>
        { x with barrier := some (c.a.toNat % 16, some ((s.clu (s.ctx cid).bind.barClu).barriers[c.a.toNat % 16]'(Nat.mod_lt _
          (by decide))).gen) })) := by
  simp only [exec_cbarArrival, execCbarArrival, hq, hr, hb, Bool.not_true, Bool.false_eq_true, if_false]

theorem cbarArrival_disagrees (hb : ((s.clu (s.ctx cid).bind.barClu).barriers[c.a.toNat % 16]'(Nat.mod_lt _
    (by decide))).arrive c.b.toNat c.c.toNat = none) : exec (.cbarArrival cid) s = .next
      ((s.modClu (s.ctx cid).bind.barClu fun k => { k with cbarQ := rest }).modCtx cid fun x =>
        { x with barrier := none }.postTrap ⟨3, 9, 0, 0, 0⟩) := by
  simp only [exec_cbarArrival, execCbarArrival, hq, hr, hb, Bool.not_true, Bool.false_eq_true, if_false]

end

theorem cbarRelease_departs {cid n g : Nat} {s : State} (hb : (s.ctx cid).barrier = some (n, some g))
    (hg : ((s.clu (s.ctx cid).bind.barClu).barriers[n % 16]'(Nat.mod_lt _ (by decide))).gen ≠ g)
    (hd : (s.ctx cid).bind.det = true →
      ((s.clu (s.ctx cid).bind.barClu).barriers[n % 16]'(Nat.mod_lt _ (by decide))).doneAt ≤ (s.ctx cid).r.frameTime) :
    exec (.cbarRelease cid) s = .next (s.modCtx cid fun x => { x with barrier := none }) := by
  simp only [exec_cbarRelease, execCbarRelease, hb]
  refine if_neg ?_
  rintro (h | ⟨h, h'⟩)
  · exact hg h
  · exact absurd (hd h) (Nat.not_le.mpr h')

/-! ### Gangs (R253, R255) -/

theorem fuseWord_off {s : State} {i j : Nat} (h : j ≠ i) : (fuseWord s i).ctx j = s.ctx j := ctx_modCtx_off _ h

theorem lineFuse_takeTrap (c : Ctx) (t : TrapInfo) (pc : Word) (d : BitVec 10) (a : After) :
    (c.takeTrap t pc d a).lineFuse = c.lineFuse := by
  unfold Ctx.takeTrap
  split
  · rfl
  · rfl

theorem lineFuse_endHere (c : Ctx) : c.endHere.lineFuse = c.lineFuse := by
  show c.dictUnmet.lineFuse = _
  unfold Ctx.dictUnmet
  split <;> rfl

theorem lineFuse_trapAfter (c : Ctx) (t : BitVec 5 × BitVec 14) : (c.trapAfter t).lineFuse = c.lineFuse := by
  unfold Ctx.trapAfter
  split
  · rfl
  · exact lineFuse_takeTrap ..

theorem lineFuse_completeBundle (s : State) (i : Nat) : ((s.completeBundle i).ctx i).lineFuse = (s.ctx i).lineFuse := by
  unfold State.completeBundle
  rw [ctx_modCtx, if_pos rfl]
  dsimp only
  split
  · exact lineFuse_endHere _
  · split
    · rfl
    · split
      · exact lineFuse_trapAfter ..
      · rfl

theorem fuseMember_off (l : Ctx) (s : State) (i j : Nat) (h : j ≠ i) : (fuseMember l s i).ctx j = s.ctx j := by
  unfold fuseMember State.completeBundle
  rw [ctx_modCtx_off _ h, ctx_modCtx_off _ h, ctx_modCtx_off _ h, fuseWord_off h]

theorem fuseMember_fuses (l : Ctx) (s : State) (i : Nat) :
    ((fuseMember l s i).ctx i).lineFuse = none ∧ ((fuseMember l s i).ctx i).fused = true := by
  unfold fuseMember
  rw [ctx_modCtx, if_pos rfl]
  refine ⟨(lineFuse_completeBundle ..).trans ?_, rfl⟩
  rw [ctx_modCtx, if_pos rfl]

theorem fuseTrap_off (s : State) (i j : Nat) (h : j ≠ i) : (fuseTrap s i).ctx j = s.ctx j := ctx_modCtx_off _ h

theorem fuseTrap_lowers (s : State) (i : Nat) : ((fuseTrap s i).ctx i).lineFuse = none := by
  unfold fuseTrap
  rw [ctx_modCtx, if_pos rfl, lineFuse_takeTrap]

/-- A gang whose members have all raised a line. -/
structure GangAt (s : State) (leader : Nat) (p : Ctx → Prop) : Prop where
  gang : (s.ctx leader).bind.gang = true
  whole : (s.members leader).length = (s.ctx leader).bind.gangW * (s.ctx leader).bind.gangH
  raised : ∀ i ∈ s.members leader, p (s.ctx i) ∧ (s.ctx i).status = .running

theorem gangFusion_happens {leader : Nat} {s : State} (h : GangAt s leader fun c => c.lineFuse.isSome = true) :
    exec (.gangFusion leader) s = .next
      (if (s.members leader).all fun i => (s.ctx i).lineFuse == (s.ctx leader).lineFuse then
        ((s.members leader).foldl (fuseMember (s.ctx leader)) s).syncCores (s.members leader)
      else (s.members leader).foldl fuseTrap s) := by
  have hn : (!((s.ctx leader).bind.gang && decide ((s.members leader).length = (s.ctx leader).bind.gangW * (s.ctx leader).bind.gangH)
      && (s.members leader).all fun i => (s.ctx i).lineFuse.isSome && (s.ctx i).status == .running)) = false := by
    simp only [h.gang, h.whole, decide_true, Bool.true_and, Bool.not_eq_false', List.all_eq_true, Bool.and_eq_true, beq_iff_eq]
    exact h.raised
  simp only [exec_gangFusion, execGangFusion]
  rw [hn]
  simp only [Bool.false_eq_true, if_false]
  split <;> rfl

theorem gangRejoin_happens {leader : Nat} {s : State} (h : GangAt s leader fun c => c.lineRejoin = true) :
    exec (.gangRejoin leader) s = .next
      ((s.members leader).foldl (fun s i => s.modCtx i fun c => { c with lineRejoin := false, fused := false }) s) := by
  have hn : (!((s.ctx leader).bind.gang && decide ((s.members leader).length = (s.ctx leader).bind.gangW * (s.ctx leader).bind.gangH)
      && (s.members leader).all fun i => (s.ctx i).lineRejoin && (s.ctx i).status == .running)) = false := by
    simp only [h.gang, h.whole, decide_true, Bool.true_and, Bool.not_eq_false', List.all_eq_true, Bool.and_eq_true, beq_iff_eq]
    exact h.raised
  simp only [exec_gangRejoin, execGangRejoin]
  rw [hn]
  rfl

/-! ### Pre-emption (R221 to R223) -/

/-- A context of a victim stops. -/
def stopMember (s : State) (i : Nat) : State :=
  (dropWaiter s i).modCtx i fun c =>
    { c with status := .stopped, svcWait := none, r := if c.resumed then c.r else c.r.toOffsets c.bun.after }

theorem stopMember_off (s : State) (i j : Nat) (h : j ≠ i) : (stopMember s i).ctx j = s.ctx j :=
  (ctx_modCtx_off _ h).trans (ctx_of_modPart ..)

theorem stopMember_stops (s : State) (i : Nat) : ((stopMember s i).ctx i).status = .stopped := by
  unfold stopMember
  rw [ctx_modCtx, if_pos rfl]

theorem preemptionStop_stops {cid : Nat} {s : State} (hr : (s.ctx cid).status = .running) (hi : s.issueCores = [])
    (hg : ∀ i ∈ s.gangOf cid, s.stopsHere i = true ∧ (s.ctx i).r.rngDue = 0) :
    exec (.preemptionStop cid) s = .next ((s.gangOf cid).foldl stopMember s) := by
  have hn : (!(s.issueCores.isEmpty && (s.gangOf cid).all fun i => s.stopsHere i && (s.ctx i).r.rngDue == 0)) = false := by
    simp only [hi, List.isEmpty_nil, Bool.true_and, Bool.not_eq_false', List.all_eq_true, Bool.and_eq_true, beq_iff_eq]
    exact hg
  simp only [exec_preemptionStop, execPreemptionStop]
  rw [if_pos hr, hn]
  rfl

theorem preemptionStop_saves {cid : Nat} {s : State} (hs : (s.ctx cid).status = .stopped) (hi : s.imageReady cid = true) :
    exec (.preemptionStop cid) s = .next (((s.modCore (coreOf cid) fun k =>
      { k with engQ := k.engQ.filter (fun x => x.cid != cid), heldOps := k.heldOps.filter (fun o => o.cmd.cid != cid) }).modPart
        (s.ctx cid).bind.part fun p => { p with saved := p.saved ++ [saveImage s cid] }).setCtx cid Ctx.reset) := by
  simp only [exec_preemptionStop, execPreemptionStop]
  rw [if_neg (by simp [hs]), if_pos (.inl ⟨hs, hi⟩)]

/-- The context that a saved task of a group's place has as its leader's. -/
def leaderOf (p : Part) (ids places : List Nat) (x : Saved) (cid : Nat) : Nat :=
  match (ids.zip places).find? fun y => (p.saved[y.1]?).any fun z =>
      z.ctx.bind.sameTask x.ctx.bind && z.ctx.bind.member == 0 with
  | some y => y.2
  | none => cid

/-- A saved task comes back in its place. -/
def resumeOne (p : Part) (ids places : List Nat) (s : State) (e : Nat × Nat) : State :=
  match p.saved[e.1]? with
  | none => s
  | some x => { (x.restore ((wakeCore s (coreOf e.2)).setCtx e.2 (x.context (wakeCore s (coreOf e.2)) e.2
      (leaderOf p ids places x e.2) .running)) e.2).newInterval e.2 with
      tick := ((wakeCore s (coreOf e.2)).setCtx e.2 (x.context (wakeCore s (coreOf e.2)) e.2
        (leaderOf p ids places x e.2) .running)).tick + 1 }

theorem ctx_restore (x : Saved) (s : State) (i j : Nat) : (x.restore s i).ctx j = s.ctx j := by
  unfold Saved.restore
  rw [ctx_of_modCore, ctx_of_setMem]

theorem resumeOne_off (p : Part) (ids places : List Nat) (s : State) (e : Nat × Nat) (j : Nat) (h : j ≠ e.2) :
    (resumeOne p ids places s e).ctx j = s.ctx j := by
  unfold resumeOne
  split
  · rfl
  · rw [ctx_with_tick, State.newInterval, ctx_modCtx_off _ h, ctx_restore, ctx_setCtx, if_neg h, ctx_wakeCore]

/-- What a resumed context has of its image: its status, program counter and registers. -/
def Resumed (p : Part) (e : Nat × Nat) (c : Ctx) : Prop := ∀ x, p.saved[e.1]? = some x →
  c.status = (if x.ctx.status = .ending then .ending else .running) ∧ c.r.pc = x.ctx.r.pc ∧ c.r.sreg = x.ctx.r.sreg ∧
    c.r.vreg = x.ctx.r.vreg ∧ c.r.pred = x.ctx.r.pred

theorem rescaleDeadline_file (r : Regs) (k j : Nat) : SameFile r (r.rescaleDeadline k j) ∧ (r.rescaleDeadline k j).pred = r.pred := by
  unfold Regs.rescaleDeadline
  dsimp only
  split
  · exact ⟨⟨rfl, rfl, rfl⟩, rfl⟩
  · split
    all_goals exact ⟨⟨rfl, rfl, rfl⟩, rfl⟩

theorem context_resumed {p : Part} {e : Nat × Nat} {x : Saved} (h : p.saved[e.1]? = some x) (s : State) (cid l : Nat) :
    Resumed p e (x.context s cid l .running) := by
  intro y hy
  cases h.symm.trans hy
  unfold Saved.context
  dsimp only
  refine ⟨by simp, ?_⟩
  obtain ⟨⟨hpc, hsr, hvr⟩, hpr⟩ := rescaleDeadline_file
    (if decide (x.ctx.r.waitTo ≠ 0) = true then x.ctx.r.fromOffsets (s.core (coreOf cid)).cc else x.ctx.r)
    x.ctx.r.dlOp (s.core (coreOf cid)).op
  rw [hpc, hsr, hvr, hpr]
  split
  · exact ⟨rfl, rfl, rfl, rfl⟩
  · exact ⟨rfl, rfl, rfl, rfl⟩

theorem resumeOne_resumes (p : Part) (ids places : List Nat) (s : State) (e : Nat × Nat) :
    Resumed p e ((resumeOne p ids places s e).ctx e.2) := by
  unfold resumeOne
  split
  next h =>
    intro x hx
    rw [h] at hx
    cases hx
  next x h =>
    rw [ctx_with_tick, State.newInterval, ctx_modCtx, if_pos rfl, ctx_restore, ctx_setCtx, if_pos rfl]
    exact context_resumed h (wakeCore s (coreOf e.2)) e.2 (leaderOf p ids places x e.2)

section

variable {save cid part : Nat} {p : Part} {s : State}
variable (hp : s.hub.partOfDie (dieOf (coreOf cid)) = some (part, p))
variable (hv : served s part (fun a => a.saved == some save) = true)

include hp hv

theorem contextResume_resumes {ms : List Nat} (hr : resumePlace s part save = some ms) (hh : ms.head? = some cid) :
    exec (.contextResume save cid) s = .next (((((groupOf p save).zip ms).foldl (resumeOne p (groupOf p save) ms) s).modPart part
      fun q => { q with saved := ((List.range q.saved.length).filter fun i => !(groupOf p save).contains i).filterMap fun i => q.saved[i]?,
                        nBinds := q.nBinds + 1 }).syncCores ms) := by
  simp only [exec_contextResume, execContextResume, hp, hv, hr, Bool.not_true, Bool.false_eq_true, if_false]
  rw [if_neg (not_not.mpr hh)]
  rfl

theorem contextResume_tickets (hr : resumePlace s part save = none) :
    exec (.contextResume save cid) s = .next ((s.modSaved part save fun x => { x with resv := some (groupResv s part save) }).modPart
      part fun p => { p with nextTicket := p.nextTicket + 1 }) := by
  simp only [exec_contextResume, execContextResume, hp, hv, hr, Bool.not_true, Bool.false_eq_true, if_false]

end

theorem map_snd_zip_sublist {α β : Type} (as : List α) (bs : List β) : ((as.zip bs).map (·.2)).Sublist bs := by
  induction as generalizing bs with
  | nil => simp
  | cons a as ih =>
    cases bs with
    | nil => simp
    | cons b bs => simpa using ih bs

/-- Settles O54: each event's state is written out once, and what it does to several contexts is read off one at a time. -/
theorem gangAndPreemptionEventsHappen : Obligations.GangAndPreemptionEventsHappen := by
  refine ⟨?_, ?_, ?_, ?_, ?_, ?_, ?_, ?_⟩
  · intro cid c rest s k n old hq hr
    refine ⟨fun b hb => ⟨_, cbarArrival_counts hq hr hb, ?_, ?_, arrive_eq hb⟩, fun hb hs hi =>
      ⟨_, cbarArrival_disagrees hq hr hb, ?_, ?_⟩⟩
    · rw [ctx_modCtx, if_pos rfl]
    · simp [k, n]
    · rw [ctx_modCtx, if_pos rfl, postTrap_outside (by simp [hs]) (by simp [hi])]
    · rw [ctx_modCtx, if_pos rfl, postTrap_outside (by simp [hs]) (by simp [hi])]
      rfl
  · intro cid n g s b hb hg hd
    exact cbarRelease_departs hb hg hd
  · intro leader s l ms hg hw hl
    have h : GangAt s leader fun c => c.lineFuse.isSome = true := ⟨hg, hw, hl⟩
    refine ⟨_, gangFusion_happens h, ?_, fun i hi => ?_, fun ha i hi => ?_⟩
    · split
      · exact (mem_syncCores ..).trans (mem_foldl_of _ _ fun _ _ => mem_fuseMember ..)
      · exact mem_foldl_of _ _ fun _ _ => mem_fuseTrap ..
    · split
      · rw [ctx_syncCores]
        exact ctx_foldl_sets_id (P := fun c => c.lineFuse = none) (fuseMember_off l) (fun s i => (fuseMember_fuses l s i).1) ms s hi
      · exact ctx_foldl_sets_id (P := fun c => c.lineFuse = none) fuseTrap_off fuseTrap_lowers ms s hi
    · rw [if_pos (List.all_eq_true.mpr fun i hi => beq_iff_eq.mpr (ha i hi)), ctx_syncCores]
      exact ctx_foldl_sets_id (P := fun c => c.fused = true) (fuseMember_off l) (fun s i => (fuseMember_fuses l s i).2) ms s hi
  · intro leader s l ms hg hw hl
    refine ⟨_, gangRejoin_happens ⟨hg, hw, hl⟩, mem_foldl_of _ _ fun _ _ => modCtx_mem .., fun i hi => ?_⟩
    exact ctx_foldl_sets_id (P := fun c => c.fused = false ∧ c.lineRejoin = false) (fun _ _ _ h => ctx_modCtx_off _ h)
      (fun s i => by simp) ms s hi
  · intro cid s hr hi hg
    refine ⟨_, preemptionStop_stops hr hi hg, ?_, fun i hi => ?_⟩
    · exact mem_foldl_of _ _ fun _ _ => (modCtx_mem ..).trans (mem_dropWaiter ..)
    · exact ctx_foldl_sets_id (P := fun c => c.status = .stopped) stopMember_off stopMember_stops _ s hi
  · intro cid s hs hi p
    refine ⟨_, saveImage s cid, preemptionStop_saves hs hi, ?_, rfl, ?_, rfl⟩
    · rw [ctx_setCtx, if_pos rfl]
      rfl
    · simp [p]
  · intro save cid part p ms s hp hr hh hn hv
    refine ⟨_, contextResume_resumes hp hv hr hh, fun e he => ?_⟩
    rw [ctx_syncCores, ctx_of_modPart]
    refine ctx_foldl_sets_own (P := Resumed p) (key := (·.2)) (resumeOne_off p _ ms) (resumeOne_resumes p _ ms) _ s ?_ he
    exact (map_snd_zip_sublist _ ms).nodup hn
  · intro save cid part p s hp hr hv
    refine ⟨_, contextResume_tickets hp hv hr, rfl, rfl, ?_, fun x hx => ?_⟩
    · simp [State.modSaved]
    · simp only [State.modSaved, part_modPart, if_pos, List.getElem?_modify_eq] at hx
      obtain ⟨y, -, rfl⟩ := Option.map_eq_some_iff.mp hx
      rfl

end Sys2Proof.Claims


namespace Sys2Proof.Claims

open Sys2Proof.Machine

/-! ### Messages that the owner key signs -/

section

variable {s : State} {k : Nat} {ws : List Nat} {sig : Nat} {f : State → State}

theorem signedRun_done (hr : s.hub.recovery = false) (hs : s.hub.signed k ws sig = true) :
    signedRun s k ws sig f = .next ((f s).send [answerOk]) := by
  rw [signedRun, if_neg (by simp [hr]), if_pos hs]

theorem signedRun_refused (hr : s.hub.recovery = false) (hs : s.hub.signed k ws sig = false) :
    signedRun s k ws sig f = .next (s.send [answerSignature]) := by
  rw [signedRun, if_neg (by simp [hr]), if_neg (by simp [hs])]

theorem signedRun_recovery (hr : s.hub.recovery = true) : signedRun s k ws sig f = .next s := by
  rw [signedRun, if_pos hr]

theorem not_signed_of_recovery (hr : s.hub.recovery = true) : s.hub.signed k ws sig = false := by
  simp [Hub.signed, hr]

end

/-- An answer goes out behind what the hub had to send before. -/
theorem answered_send {s t : State} (b : Byte) (h : t.hub.out = s.hub.out) : Answered s (t.send [b]) b :=
  show t.hub.out ++ [⟨.sender, [b]⟩] = _ from congrArg (· ++ [⟨.sender, [b]⟩]) h

theorem part_send (s : State) (m : List Byte) (p : Nat) : (s.send m).part p = s.part p := rfl

section

variable {key sig : Nat} {s : State}

theorem ownerKey_first (hr : s.hub.recovery = false) (hk : s.hub.ownerKey = none) :
    exec (.ownerKeyInstall key sig) s = .next ((s.modHub fun h => { h with ownerKey := some key }).send [answerOk]) := by
  simp [execOwnerKeyInstall, hk, hr]

theorem ownerKey_later (hk : s.hub.ownerKey.isSome = true) : exec (.ownerKeyInstall key sig) s =
    signedRun s 1 [key] sig fun s => s.modHub fun h => { h with ownerKey := some key } := by
  obtain ⟨o, ho⟩ := Option.isSome_iff_exists.mp hk
  simp [execOwnerKeyInstall, ho]

theorem ownerKey_recovery (hr : s.hub.recovery = true) : exec (.ownerKeyInstall key sig) s = .next s := by
  cases hk : s.hub.ownerKey with
  | none => simp [execOwnerKeyInstall, hk, hr]
  | some o => exact (ownerKey_later (by simp [hk])).trans (signedRun_recovery hr)

end

theorem launchPolicyChange_run (part require sig : Nat) (keys : List Nat) (s : State) :
    exec (.launchPolicyChange part require keys sig) s = signedRun s 2 (part :: require :: keys) sig fun s =>
      s.modPart part fun p => { p with require := require.testBit 0, memSecure := require.testBit 1, keys := keys.take 8 } := rfl

theorem peerTableChange_run (part slot valid addr sig : Nat) (s : State) :
    exec (.peerTableChange part slot valid addr sig) s = signedRun s 3 [part, slot, valid, addr] sig fun s =>
      s.modPart part fun p =>
        if h : slot < 16 then { p with peers := p.peers.set slot (if valid = 1 then some addr else none) } else p := rfl

theorem retirementTableClear_run (sig : Nat) (s : State) :
    exec (.retirementTableClear sig) s = signedRun s 4 [] sig fun s => s.modHub Hub.clearTable := rfl

/-! ### Partitions -/

theorem getD_map_sparse {α β : Type} (m : Sparse α) (g : α → β) (k : Nat) (d : α) :
    Sparse.getD (m.map fun p => (p.1, g p.2)) k (g d) = g (Sparse.getD m k d) := by
  induction m with
  | nil => rfl
  | cons a m ih =>
    simp only [List.map_cons, Sparse.getD]
    split
    · rfl
    · exact ih

/-- With no retired core a partition's dies all host it. -/
theorem mapPart_hosts {h : Hub} {part : Nat} (hr : h.retireTable = []) :
    ((h.mapPart part).parts.getD part Part.reset).hosts = (h.parts.getD part Part.reset).dies := by
  unfold Hub.mapPart
  simp only [hr, List.foldl_nil, Sparse.getD_set, if_pos]
  exact congrArg Part.hosts (getD_map_sparse h.parts (fun p => { p with hosts := p.dies }) part Part.reset)

/-- The description of a partition just formed. -/
def newPart (part mask root : Nat) : Part :=
  { Part.reset with dies := maskDies mask, hosts := maskDies mask, host := Config.hostAddress part, root := root % 2 ^ 64,
                    cap := channelCap (maskDies mask).length }

/-- A state in which a partition is formed. -/
def formed (part mask root : Nat) (s : State) : State :=
  (((formClear s part (maskDies mask) (channelCap (maskDies mask).length)).setMem
    (memPutBytes (formClear s part (maskDies mask) (channelCap (maskDies mask).length)).mem (kStack part (root % 2 ^ 64))
      (leBytes ((root / 2 ^ 64).log2 / 8 + 1) (root / 2 ^ 64)))).modPart part fun _ => newPart part mask root).modHub fun h => h.mapPart part

section

variable {part mask root sig : Nat} {s : State}

theorem partitionForm_forms (hr : s.hub.recovery = false) (hp : part < 8) (hm : maskDies mask ≠ [])
    (hf : ∀ p ∈ s.hub.parts, p.2.dies = [] ∨ (p.1 ≠ part ∧ ∀ d ∈ p.2.dies, d ∉ maskDies mask))
    (hs : s.hub.signed 5 [part, mask, root % 2 ^ 64, root / 2 ^ 64] sig = true) :
    exec (.partitionForm part mask root sig) s = .next ((formed part mask root s).send [answerOk]) := by
  have hfree : (s.hub.parts.any fun p => !p.2.dies.isEmpty && (p.1 == part || p.2.dies.any (maskDies mask).contains)) = false := by
    refine List.any_eq_false.mpr fun p hpm => ?_
    obtain he | ⟨hne, hd⟩ := hf p hpm
    · simp [he]
    · simpa [hne] using fun _ => hd
  rw [exec_partitionForm, execPartitionForm, if_neg, signedRun_done hr hs]
  · rfl
  · simp [hfree, hm, hp]

theorem partitionForm_unsigned (hs : s.hub.signed 5 [part, mask, root % 2 ^ 64, root / 2 ^ 64] sig = false) :
    ∃ f, exec (.partitionForm part mask root sig) s = signedRun s 5 [part, mask, root % 2 ^ 64, root / 2 ^ 64] sig f := by
  rw [exec_partitionForm, execPartitionForm, if_neg fun h => absurd (hs.symm.trans h.1) Bool.false_ne_true]
  exact ⟨_, rfl⟩

end

theorem formClear_hub (s : State) (part : Nat) (dies : List Nat) (cap : Nat) :
    ∃ ps pk, (formClear s part dies cap).hub = { s.hub with poison := ps, pkgBuf := pk } := ⟨_, _, rfl⟩

theorem formed_hub (part mask root : Nat) (s : State) : ∃ ps pk, (formed part mask root s).hub =
    Hub.mapPart { s.hub with poison := ps, pkgBuf := pk, parts := s.hub.parts.set part (newPart part mask root) } part := by
  obtain ⟨ps, pk, h⟩ := formClear_hub s part (maskDies mask) (channelCap (maskDies mask).length)
  refine ⟨ps, pk, ?_⟩
  show Hub.mapPart { (formClear s part (maskDies mask) (channelCap (maskDies mask).length)).hub with parts := _ } part = _
  rw [h]
  rfl

theorem mapPart_part (h : Hub) (part : Nat) : ∃ hs, (h.mapPart part).parts.getD part Part.reset =
    { h.parts.getD part Part.reset with hosts := hs } := by
  unfold Hub.mapPart
  rw [Sparse.getD_set, if_pos rfl]
  exact ⟨_, rfl⟩

/-- What a context of a dissolved partition is replaced by. -/
def dissolved (part : Nat) (c : Nat × Ctx) : Nat × Ctx :=
  if c.2.bind.part = part ∧ c.2.status ≠ TStatus.free then (c.1, Ctx.reset) else c

theorem dissolved_free {part : Nat} {c : Nat × Ctx} (h : (dissolved part c).2.bind.part = part) :
    (dissolved part c).2.status = .free := by
  unfold dissolved at h ⊢
  split
  · rfl
  next hn =>
    rw [if_neg hn] at h
    exact not_not.mp fun hs => hn ⟨h, hs⟩

/-- A state whose partition is dissolved. -/
def dissolve (part : Nat) (s : State) : State :=
  let d := s.dropWork fun i => (s.ctx i).status != .free && (s.ctx i).bind.part == part
  { d with ctxs := d.ctxs.map (dissolved part) }.modHub fun h =>
      { h with parts := h.parts.filter (fun p => p.1 != part),
               kernelDebug := h.kernelDebug.map fun (d : Nat × DebugDom) =>
                 if d.1 = part then (d.1, { d.2 with unlocked := false, challenge := none }) else d }

theorem partitionDissolution_run (part sig : Nat) (s : State) :
    exec (.partitionDissolution part sig) s = signedRun s 6 [part] sig (dissolve part) := rfl

theorem dropWork_hub (s : State) (f : Nat → Bool) : (s.dropWork f).hub = s.hub := by
  unfold State.dropWork
  dsimp only
  split
  · rfl
  · rfl

theorem dissolve_out (part : Nat) (s : State) : (dissolve part s).hub.out = s.hub.out := by
  show (s.dropWork fun i => (s.ctx i).status != .free && (s.ctx i).bind.part == part).hub.out = _
  rw [dropWork_hub]

/-! ### Debug keys, images and the messages together -/

/-- A hub with one more debug key in a domain. -/
def keyAdded (domain key : Nat) (h : Hub) : Hub :=
  if domain = 0 then { h with firmDebug := { h.firmDebug with keys := h.firmDebug.keys ++ [key] } }
  else
    let d := h.kernelDebug.getD (domain - 1) DebugDom.reset
    { h with kernelDebug := h.kernelDebug.set (domain - 1) { d with keys := d.keys ++ [key] } }

theorem debugKeyInstall_run (domain key sig : Nat) (s : State) :
    exec (.debugKeyInstall domain key sig) s = signedRun s 7 [domain, key] sig fun s => s.modHub (keyAdded domain key) := rfl

theorem keyAdded_keys (domain key : Nat) (h : Hub) : ((keyAdded domain key h).domain domain).keys = (h.domain domain).keys ++ [key] := by
  unfold keyAdded Hub.domain
  by_cases hd : domain = 0
  · simp [hd]
  · simp [hd]

theorem keyAdded_out (domain key : Nat) (h : Hub) : (keyAdded domain key h).out = h.out := by
  unfold keyAdded
  split
  · rfl
  · rfl

theorem passes_iff {h : Hub} {f : FwImage} :
    h.passes f = true ↔ Config.sigVerifies Config.rootKey f.digest f.sig = true ∧ h.rollback ≤ f.version := by
  simp [Hub.passes]

section

variable {which version sig : Nat} {image : List Byte} {s : State} (hr : s.hub.recovery = true) (hw : which < 3)
include hr hw

theorem firmwareImage_accepted (hp : s.hub.passes ⟨Config.sha3 image, version % 2 ^ 16, sig⟩ = true) :
    exec (.firmwareImage ⟨which, image⟩ version sig) s = .next ((s.modHub fun h' =>
      { h' with images := h'.images.set which (some ⟨Config.sha3 image, version % 2 ^ 16, sig⟩) }).send [answerOk]) := by
  rw [exec_firmwareImage, execFirmwareImage, if_neg (by simp [hr]), dif_pos hw]
  exact if_pos hp

theorem firmwareImage_refused (hp : s.hub.passes ⟨Config.sha3 image, version % 2 ^ 16, sig⟩ = false) :
    exec (.firmwareImage ⟨which, image⟩ version sig) s = .next (s.send [answerSignature]) := by
  rw [exec_firmwareImage, execFirmwareImage, if_neg (by simp [hr]), dif_pos hw]
  exact if_neg (by rw [hp]; exact Bool.false_ne_true)

end

theorem peers_set {v : Vector (Option Nat) 16} {slot : Nat} (h : slot < 16) (x : Option Nat) : (v.set slot x).toList[slot]? = some x := by
  simp [h]

/-- Settles O58: every message but an attestation, a first key and an image runs through `signedRun`, which acts only under the
owner's signature. -/
theorem managementMessagesAct : Obligations.ManagementMessagesAct := by
  refine ⟨?_, ?_, ?_, ?_, ?_, ?_, ?_, ?_, ?_, ?_, ?_, ?_, ?_⟩
  · intro nonce s
    exact ⟨_, rfl, rfl, rfl, rfl⟩
  · intro key sig s hr hk
    exact ⟨_, ownerKey_first hr hk, rfl, answered_send _ rfl⟩
  · intro key sig s hr hk hs
    exact ⟨_, (ownerKey_later hk).trans (signedRun_done hr hs), rfl, answered_send _ rfl⟩
  · intro part require sig keys s hr hs
    refine ⟨_, (launchPolicyChange_run part require sig keys s).trans (signedRun_done hr hs), ?_, ?_, ?_, answered_send _ rfl⟩
    all_goals rw [part_send, part_modPart, if_pos rfl]
  · intro part slot valid addr sig s hr hs
    refine ⟨_, (peerTableChange_run part slot valid addr sig s).trans (signedRun_done hr hs), answered_send _ rfl, fun h => ?_, fun h => ?_⟩
    · rw [part_send, part_modPart, if_pos rfl, dif_pos h]
      exact peers_set h _
    · rw [part_send, part_modPart, if_pos rfl, dif_neg (by omega)]
  · intro sig s hr hs
    exact ⟨_, (retirementTableClear_run sig s).trans (signedRun_done hr hs), rfl, rfl, answered_send _ rfl⟩
  · intro part mask root sig s hr hp hm hf hs
    obtain ⟨ps, pk, hh⟩ := formed_hub part mask root s
    obtain ⟨hs', hmap⟩ := mapPart_part { s.hub with poison := ps, pkgBuf := pk, parts := s.hub.parts.set part (newPart part mask root) } part
    rw [← hh, Sparse.getD_set, if_pos rfl] at hmap
    refine ⟨_, partitionForm_forms hr hp hm hf hs, ?_, fun ht => ?_, ?_, answered_send _ (by rw [hh]; rfl)⟩
    · exact congrArg Part.dies hmap
    · show ((formed part mask root s).hub.parts.getD part Part.reset).hosts = _
      rw [hh]
      refine (mapPart_hosts (h := { s.hub with poison := ps, pkgBuf := pk, parts := _ }) ht).trans ?_
      rw [Sparse.getD_set, if_pos rfl]
      rfl
    · exact congrArg Part.root hmap
  · intro part mask root sig s hr hs
    obtain ⟨f, hf⟩ := partitionForm_unsigned hs
    exact hf.trans (signedRun_refused hr hs)
  · intro part sig s hr hs
    refine ⟨_, (partitionDissolution_run part sig s).trans (signedRun_done hr hs), fun p hp => ?_, fun c hc hpart => ?_,
      answered_send _ (dissolve_out part s)⟩
    · exact bne_iff_ne.mp (List.mem_filter.mp hp).2
    · obtain ⟨x, -, rfl⟩ := List.mem_map.mp hc
      exact dissolved_free hpart
  · intro domain key sig s hr hs
    exact ⟨_, (debugKeyInstall_run domain key sig s).trans (signedRun_done hr hs), keyAdded_keys domain key s.hub,
      answered_send _ (keyAdded_out domain key s.hub)⟩
  · rintro i k sig ws s hr hi hs
    obtain ⟨key, rfl, rfl, rfl, hk⟩ | ⟨part, require, keys, rfl, rfl, rfl⟩ | ⟨part, slot, valid, addr, rfl, rfl, rfl⟩ |
      ⟨rfl, rfl, rfl⟩ | ⟨part, rfl, rfl, rfl⟩ | ⟨domain, key, rfl, rfl, rfl⟩ := hi
    · exact (ownerKey_later hk).trans (signedRun_refused hr hs)
    · exact (launchPolicyChange_run part require sig keys s).trans (signedRun_refused hr hs)
    · exact (peerTableChange_run part slot valid addr sig s).trans (signedRun_refused hr hs)
    · exact (retirementTableClear_run sig s).trans (signedRun_refused hr hs)
    · exact (partitionDissolution_run part sig s).trans (signedRun_refused hr hs)
    · exact (debugKeyInstall_run domain key sig s).trans (signedRun_refused hr hs)
  · intro which image version sig s hr hw
    refine ⟨fun hv hsig => ?_, fun h => ?_⟩
    · exact ⟨_, firmwareImage_accepted hr hw (passes_iff.mpr ⟨hsig, hv⟩), by simp [State.send, State.sendTo, hw], rfl, rfl,
        answered_send _ rfl⟩
    · refine firmwareImage_refused hr hw (Bool.eq_false_iff.mpr fun hp => ?_)
      obtain ⟨hsig, hv⟩ := passes_iff.mp hp
      obtain h | h := h
      · exact absurd hv (Nat.not_le.mpr h)
      · exact absurd (hsig.symm.trans h) Bool.false_ne_true.symm
  · intro i sig s hr hi
    obtain ⟨key, rfl⟩ | ⟨part, require, keys, rfl⟩ | ⟨part, slot, valid, addr, rfl⟩ | rfl | ⟨part, mask, root, rfl⟩ |
      ⟨part, rfl⟩ | ⟨domain, key, rfl⟩ := hi
    · exact ownerKey_recovery hr
    · exact (launchPolicyChange_run part require sig keys s).trans (signedRun_recovery hr)
    · exact (peerTableChange_run part slot valid addr sig s).trans (signedRun_recovery hr)
    · exact (retirementTableClear_run sig s).trans (signedRun_recovery hr)
    · obtain ⟨f, hf⟩ := partitionForm_unsigned (part := part) (mask := mask) (root := root) (not_signed_of_recovery hr)
      exact hf.trans (signedRun_recovery hr)
    · exact (partitionDissolution_run part sig s).trans (signedRun_recovery hr)
    · exact (debugKeyInstall_run domain key sig s).trans (signedRun_recovery hr)

end Sys2Proof.Claims


namespace Sys2Proof.Claims

open Sys2Proof.Machine

/-! ### Droop, current limit, ballast (R352 to R354) -/

/-- The boost cycles of a cluster's window after a detection. -/
def boostWindow (now : Nat) (k : Cluster) : List Nat :=
  if (k.boosts.filter fun t => decide (now < t + 1024)).contains now = true ∨
      64 ≤ (k.boosts.filter fun t => decide (now < t + 1024)).length ∨ k.raised = some now then
    k.boosts.filter fun t => decide (now < t + 1024)
  else (k.boosts.filter fun t => decide (now < t + 1024)) ++ [now]

/-- A cluster after a droop detection. -/
def drooped (now : Nat) (k : Cluster) : Cluster :=
  if 64 ≤ (boostWindow now k).length ∧ k.lim < 3 then { k with boosts := [], lim := k.lim + 1, quietFrom := now + 1, raised := some now }
  else { k with boosts := boostWindow now k, quietFrom := max k.quietFrom (quietSince (boostWindow now k)) }

theorem droopDetect_run {k core : Nat} {s : State} (hc : core < 16) :
    exec (.droopDetect k core) s = .next (s.modClu k (drooped s.hub.ptb)) := eventRun_of (decide_eq_true hc) ..

theorem drooped_stays {now : Nat} {k : Cluster} (h : (boostWindow now k).length < 64 ∨ 3 ≤ k.lim) :
    drooped now k = { k with boosts := boostWindow now k, quietFrom := max k.quietFrom (quietSince (boostWindow now k)) } :=
  if_neg (by omega)

theorem drooped_rises {now : Nat} {k : Cluster} (h : 64 ≤ (boostWindow now k).length) (hl : k.lim < 3) :
    drooped now k = { k with boosts := [], lim := k.lim + 1, quietFrom := now + 1, raised := some now } := if_pos ⟨h, hl⟩

/-- The window holds more than 16 boost cycles until the 17th youngest has left it. -/
theorem le_quietSince {win : List Nat} {b : Nat} (hl : 16 < win.length) (hb : win.reverse[16]? = some b) : b + 1024 ≤ quietSince win := by
  rw [List.getElem?_reverse hl] at hb
  have h : win[win.length - 17]? = some b := by
    rw [← hb]
    congr 1
  rw [quietSince, if_pos hl, List.getD_eq_getElem?_getD, h, Option.getD_some]

theorem currentLimit_falls {k : Nat} {s : State} (ht : (s.clu k).thr < (s.clu k).lim) (hq : (s.clu k).quietFrom + 4096 ≤ s.hub.ptb) :
    exec (.currentLimitFall k) s = .next (s.modClu k fun k => { k with lim := k.lim - 1, quietFrom := s.hub.ptb }) :=
  eventRun_of (by simp [ht, hq]) ..

theorem activityLevel_idle : activityLevel 0 = 0 := by decide

/-! ### Fatal errors and the dump (R361, R362) -/

theorem fatal_halted (s : State) (c : Nat) : (fatal s c).halted = true := by
  unfold fatal
  split
  next h => exact h
  · rfl

theorem fatal_again {s : State} (h : s.halted = true) (c : Nat) : fatal s c = s.modHub fun h => { h with dumping := false } := if_pos h

theorem fatal_first {s : State} (h : s.halted = false) (c : Nat) : (fatal s c).hub.dumping = true ∧
    (fatal s c).dies = ((List.range 8).foldl (fun t d => t.modDie d fun x => { x with dump := some (dumpOf s c d) }) s).dies := by
  unfold fatal
  rw [if_neg (by simp [h])]
  exact ⟨rfl, rfl⟩

/-- Every die that the dumping visits holds an incomplete dump. -/
theorem dump_foldl (s : State) (c : Nat) (l : List Nat) (t : State) {d : Nat} (hd : d ∈ l) :
    ((l.foldl (fun t d => t.modDie d fun x => { x with dump := some (dumpOf s c d) }) t).die d).dump.map (·.complete) = some false := by
  induction l using List.reverseRecOn with
  | nil => exact absurd hd List.not_mem_nil
  | append_singleton l a ih =>
    rw [List.foldl_append, List.foldl_cons, List.foldl_nil, die_modDie]
    by_cases h : d = a
    · rw [if_pos h]
      rfl
    · rw [if_neg h]
      exact ih ((List.mem_append.mp hd).resolve_right fun h' => h (List.mem_singleton.mp h'))

theorem fatal_dumps {s : State} (h : s.halted = false) (c : Nat) {d : Nat} (hd : d < 8) :
    ((fatal s c).die d).dump.map (·.complete) = some false := by
  have hdie : (fatal s c).die d =
      ((List.range 8).foldl (fun t d => t.modDie d fun x => { x with dump := some (dumpOf s c d) }) s).die d :=
    congrArg (Sparse.getD · d Die.reset) (fatal_first h c).2
  rw [hdie]
  exact dump_foldl s c _ s (List.mem_range.mpr hd)

/-- What a fatal error or the watchdog does to a module that runs, or is halted already. -/
theorem fatalCause_run {i : Instr} (s : State) (hi : i = .watchdogExpiry ∨ ∃ c, i = .fatalError c) :
    ∃ t c, exec i s = .next (fatal t c) ∧ t.mem = s.mem ∧ t.halted = s.halted ∧ (s.halted = true → t = s) := by
  obtain rfl | ⟨c, rfl⟩ := hi
  · exact ⟨s, 5, rfl, rfl, rfl, fun _ => rfl⟩
  · refine ⟨_, c, rfl, ?_, ?_, fun h => if_neg (by simp [h])⟩
    · split
      · rfl
      · rfl
    · split
      · rfl
      · rfl

/-- A die with its dump whole. -/
def completed (d : Die) : Die := { d with dump := d.dump.map fun x => { x with complete := true } }

theorem finishDump_dump (s : State) (d : Nat) :
    ((finishDump s).die d).dump = (s.die d).dump.map fun x => { x with complete := true } :=
  congrArg Die.dump (getD_map_sparse s.dies completed d Die.reset)

section

variable {s : State} (hh : s.halted = true)
include hh

theorem step_finishes (ha : s.agenda = []) (hd : s.hub.dumping = true) : step s = .next (finishDump s) := by
  simp [step, hh, stepStopped, ha, hd]

theorem step_halted (ha : s.agenda = []) (hd : s.hub.dumping = false) : step s = .fault .halted := by
  simp [step, hh, stepStopped, ha, hd]

theorem step_drops {e : Instr} {rest : List Instr} (ha : s.agenda = e :: rest) (he : reachesHalted e = false)
    (hd : reachesDump e = false) : step s = .next { s with agenda := rest } := by
  simp [step, hh, stepStopped, ha, he, hd]

end

theorem step_poweredOff {s : State} (hh : s.halted = false) (ho : s.on = false) (ha : s.agenda = []) (hd : s.hub.dumping = false) :
    step s = .fault .poweredOff := by
  simp [step, hh, ho, stepStopped, ha, hd]

/-! ### Temperature (R355, R356) -/

/-- A sensor of a die is read. -/
def readSensor (die : Nat) (temps : List Nat) (s : State) (i : Nat) : State :=
  let s := s.modClu (die * 32 + i) fun k => k.reading (temps.getD i 256)
  if (s.clu (die * 32 + i)).noRead = 16 then s.logError (die * 32 + i) errSensor 0 else s

/-- A die with its sensors read and its maximum taken. -/
def readDie (die : Nat) (temps : List Nat) (s : State) : State :=
  let s := (List.range 32).foldl (readSensor die temps) s
  s.modDie die fun d => { d with dieMax := ((List.range 32).map fun i => (s.clu (die * 32 + i)).temp).foldl max 0 }

theorem thermalReading_run (die : Nat) (temps : List Nat) (s : State) : exec (.thermalReading die temps) s =
    if temps.any fun t => decide (110 ≤ t) && decide (t < 256) then .next (fatal (readDie die temps s) 1)
    else .next (readDie die temps s) := rfl

theorem readSensor_keeps (die : Nat) (temps : List Nat) (s : State) (i : Nat) :
    (readSensor die temps s i).mem = s.mem ∧ (readSensor die temps s i).halted = s.halted := by
  unfold readSensor
  dsimp only
  split
  · exact ⟨rfl, rfl⟩
  · exact ⟨rfl, rfl⟩

theorem foldl_readSensor_keeps (die : Nat) (temps : List Nat) (s : State) (l : List Nat) :
    (l.foldl (readSensor die temps) s).mem = s.mem ∧ (l.foldl (readSensor die temps) s).halted = s.halted := by
  induction l using List.reverseRecOn with
  | nil => exact ⟨rfl, rfl⟩
  | append_singleton l a ih =>
    obtain ⟨hm, hh⟩ := readSensor_keeps die temps (l.foldl (readSensor die temps) s) a
    rw [List.foldl_append, List.foldl_cons, List.foldl_nil, hm, hh]
    exact ih

theorem readDie_keeps (die : Nat) (temps : List Nat) (s : State) :
    (readDie die temps s).mem = s.mem ∧ (readDie die temps s).halted = s.halted := by
  unfold readDie
  dsimp only
  rw [modDie_mem, modDie_halted]
  exact foldl_readSensor_keeps die temps s _

theorem clu_readSensor (die : Nat) (temps : List Nat) (s : State) (i j : Nat) : (readSensor die temps s i).clu j =
    if j = die * 32 + i then (s.clu (die * 32 + i)).reading (temps.getD i 256) else s.clu j := by
  rw [← clu_modClu s (die * 32 + i) j fun k => k.reading (temps.getD i 256)]
  unfold readSensor
  dsimp only
  split
  · rfl
  · rfl

theorem clu_foldl_readSensor (die : Nat) (temps : List Nat) (l : List Nat) (hl : l.Nodup) (s : State) (i : Nat) :
    (l.foldl (readSensor die temps) s).clu (die * 32 + i) =
      if i ∈ l then (s.clu (die * 32 + i)).reading (temps.getD i 256) else s.clu (die * 32 + i) := by
  induction l generalizing s with
  | nil => rfl
  | cons a l ih =>
    obtain ⟨ha, hl⟩ := List.nodup_cons.mp hl
    rw [List.foldl_cons, ih hl, clu_readSensor]
    by_cases h : i = a
    · subst h
      simp [ha]
    · simp [h]

theorem clu_readDie {die : Nat} {temps : List Nat} {s : State} {i : Nat} (hi : i < 32) :
    (readDie die temps s).clu (die * 32 + i) = (s.clu (die * 32 + i)).reading (temps.getD i 256) := by
  unfold readDie
  dsimp only
  rw [clu_of_modDie, clu_foldl_readSensor die temps _ List.nodup_range, if_pos (List.mem_range.mpr hi)]

/-! ### Errors (R230, R231, R256, R257) -/

theorem toNat_satInc (w : BitVec 16) (n : Nat) : (satInc w n).toNat = min 65535 (w.toNat + n) := by
  rw [satInc, BitVec.toNat_ofNat]
  omega

theorem core_logCore (s : State) (l c i j : Nat) : (s.logCore l c i).core j = s.core j := rfl

theorem ctx_logRec (s : State) (r : ErrRec) (j : Nat) : (s.logRec r).ctx j = s.ctx j := rfl

/-- A corrected error is counted and dropped from the TLB that its kind names. -/
theorem correctedError_run (core kind : Nat) (s : State) : ∃ t, exec (.correctedError core kind) s = .next t ∧ t.mem = s.mem ∧
    t.ctxs = s.ctxs ∧ (t.core core).corr.toNat = min 65535 ((s.core core).corr.toNat + 1) ∧
    (t.core core).tlb = (if kind = 1 then (s.core core).tlb.drop 1 else (s.core core).tlb) ∧
    (t.clu (clusterOf core)).tlb = (if kind = 2 then (s.clu (clusterOf core)).tlb.drop 1 else (s.clu (clusterOf core)).tlb) := by
  have hcore : (((s.modCore core fun k => { k with corr := satInc k.corr 1 }).logCore core errCorrected kind).core core) =
      { s.core core with corr := satInc (s.core core).corr 1 } := by
    rw [core_logCore, core_modCore, if_pos rfl]
  simp only [exec_correctedError, execCorrectedError]
  by_cases h1 : kind = 1
  · rw [if_pos h1]
    refine ⟨_, rfl, rfl, rfl, ?_, ?_, ?_⟩
    · rw [core_modCore, if_pos rfl, hcore]
      exact toNat_satInc ..
    · rw [core_modCore, if_pos rfl, hcore, if_pos h1]
    · rw [if_neg (by omega)]
      rfl
  · rw [if_neg h1, if_neg h1]
    by_cases h2 : kind = 2
    · rw [if_pos h2, if_pos h2]
      refine ⟨_, rfl, rfl, rfl, ?_, ?_, ?_⟩
      · rw [core_of_modClu, hcore]
        exact toNat_satInc ..
      · rw [core_of_modClu, hcore]
      · rw [clu_modClu, if_pos rfl]
        rfl
    · rw [if_neg h2, if_neg h2]
      refine ⟨_, rfl, rfl, rfl, ?_, ?_, rfl⟩
      · rw [hcore]
        exact toNat_satInc ..
      · rw [hcore]

/-- What a recovery leaves of a context. -/
def SameRun (c d : Ctx) : Prop := d.status = c.status ∧ d.endInfo = c.endInfo ∧ d.r = c.r ∧ d.rerun = c.rerun

theorem SameRun.rfl' (c : Ctx) : SameRun c c := ⟨rfl, rfl, rfl, rfl⟩

theorem SameRun.trans {a b c : Ctx} (h : SameRun a b) (h' : SameRun b c) : SameRun a c :=
  ⟨h'.1.trans h.1, h'.2.1.trans h.2.1, h'.2.2.1.trans h.2.2.1, h'.2.2.2.trans h.2.2.2⟩

theorem sameRun_modCtx {s : State} {i j : Nat} {f : Ctx → Ctx} (h : SameRun (s.ctx i) (f (s.ctx i))) :
    SameRun (s.ctx j) ((s.modCtx i f).ctx j) := by
  rw [ctx_modCtx]
  split
  next hj => exact hj ▸ h
  · exact SameRun.rfl' _

theorem ctxs_recMigration (s : State) (i : Nat) : (recMigration s i).ctxs = s.ctxs := by
  unfold recMigration
  dsimp only
  split
  · rfl
  · split
    · rfl
    · rw [ctxs_recAdd, ctxs_modNode, ctxs_recEntry]

theorem commitInterval_sameRun (s : State) (i j : Nat) : SameRun (s.ctx j) ((commitInterval s i).ctx j) := by
  unfold commitInterval
  dsimp only
  split
  · exact (sameRun_modCtx ⟨rfl, rfl, rfl, rfl⟩).trans (sameRun_modCtx ⟨rfl, rfl, rfl, rfl⟩)
  · exact SameRun.rfl' _

theorem migrateCtx_sameRun (s : State) (i j : Nat) : SameRun (s.ctx j) ((migrateCtx s i).ctx j) := by
  have h := commitInterval_sameRun (recMigration s i) i j
  rw [ctx_of_ctxs (ctxs_recMigration s i)] at h
  exact h.trans (sameRun_modCtx ⟨rfl, rfl, rfl, rfl⟩)

theorem sameRun_foldl {α : Type} {f : State → α → State} {j : Nat} (hf : ∀ s a, SameRun (s.ctx j) ((f s a).ctx j)) (l : List α)
    (s : State) : SameRun (s.ctx j) ((l.foldl f s).ctx j) := by
  induction l generalizing s with
  | nil => exact SameRun.rfl' _
  | cons a l ih => exact (hf s a).trans (ih _)

/-- A state with a core in the retirement table and the host told. -/
def retired (s : State) (l : Nat) : State :=
  let s := (s.logCore l errRetired 0).modHub fun h => h.retire l
  if s.hub.replSent then s else (s.modHub fun h => { h with replSent := true }).sendTo .management [answerOk]

theorem ctxs_retired (s : State) (l : Nat) : (retired s l).ctxs = s.ctxs := by
  unfold retired
  dsimp only
  split
  · rfl
  · rfl

theorem retireCore_eq (s : State) (l : Nat) : retireCore s l = (s.hub.carried (s.hub.physOf l)).foldl
    (fun s x => migrateCtx (migrateCtx s (2 * x)) (2 * x + 1)) (retired s l) := rfl

theorem retireCore_sameRun (s : State) (l j : Nat) : SameRun (s.ctx j) ((retireCore s l).ctx j) := by
  rw [retireCore_eq, ← ctx_of_ctxs (ctxs_retired s l) j]
  exact sameRun_foldl (fun _ _ => (migrateCtx_sameRun ..).trans (migrateCtx_sameRun ..)) _ _

/-- A context that its data error ends. -/
def Ended15 (c : Ctx) : Prop := c.status = .ending ∧ c.endInfo.map (·.cause) = some 15

theorem SameRun.ended {c d : Ctx} (h : SameRun c d) (hc : Ended15 c) : Ended15 d := by
  obtain ⟨hs, he, -, -⟩ := h
  rw [Ended15, hs, he]
  exact hc

theorem fail_ended {c : Ctx} (h : c.firstFail = none) (slot addr : Nat) (pc : Word) : Ended15 (c.fail 15 slot addr pc) := by
  unfold Ctx.fail
  rw [h]
  exact ⟨rfl, rfl⟩

section

variable {s : State} {cid : Nat}

theorem detectedError_own (hr : (s.ctx cid).status = .running) : exec (.detectedError 0 cid) s = .next (rollBack s cid) := by
  simp [execDetectedError, hr]

theorem rollBack_unprotected (hr : (s.ctx cid).status = .running) (hu : (s.ctx cid).ival.unprotected = true) :
    rollBack s cid = dataError s cid := by
  simp [rollBack, hr, hu]

theorem dataError_ends (hf : (s.ctx cid).firstFail = none) : Ended15 ((dataError s cid).ctx cid) := by
  unfold dataError
  rw [ctx_modCtx, if_pos rfl]
  exact fail_ended hf ..

/-- A protected context runs on as before, with two reruns counted. -/
theorem rollBack_protected (hr : (s.ctx cid).status = .running) (hu : (s.ctx cid).ival.unprotected = false) :
    SameRun { s.ctx cid with rerun := satInc (s.ctx cid).rerun 2 } ((rollBack s cid).ctx cid) := by
  unfold rollBack
  dsimp only
  rw [if_neg (by simp [hr]), if_neg (by simp [hu])]
  have hbase : ∀ (t : State) (n : Nat) (r : ErrRec), t.ctxs = s.ctxs → SameRun { s.ctx cid with rerun := satInc (s.ctx cid).rerun 2 }
      (((t.modCtx cid fun c => { c with rerun := satInc c.rerun 2, ival := { c.ival with errors := n } }).logRec r).ctx cid) := by
    intro t n r ht
    rw [ctx_logRec, ctx_modCtx, if_pos rfl, ctx_of_ctxs ht]
    exact ⟨rfl, rfl, rfl, rfl⟩
  have hchoices : (rerunSignature (rerunSignature s cid).2 cid).2.ctxs = s.ctxs := rfl
  generalize (rerunSignature (rerunSignature s cid).2 cid).2 = t at hchoices ⊢
  split
  · exact (hbase t _ _ hchoices).trans (retireCore_sameRun _ _ _)
  · exact (hbase t _ _ hchoices).trans (commitInterval_sameRun _ _ _)

end

theorem mem_insertBy {α : Type} (le : α → α → Bool) (x : α) (l : List α) {a : α} : a ∈ insertBy le x l ↔ a = x ∨ a ∈ l := by
  induction l with
  | nil => simp [insertBy]
  | cons b l ih =>
    unfold insertBy
    split
    · exact List.mem_cons
    · rw [List.mem_cons, ih, List.mem_cons]
      tauto

theorem mem_sortBy {α : Type} (le : α → α → Bool) (l : List α) {a : α} : a ∈ sortBy le l ↔ a ∈ l := by
  induction l with
  | nil => rfl
  | cons b l ih => rw [sortBy, mem_insertBy, ih, List.mem_cons]

theorem sameTask_refl (b : Binding) : b.sameTask b = true := by simp [Binding.sameTask]

theorem mem_members {s : State} {c : Nat} (hm : (c, s.ctx c) ∈ s.ctxs) (hf : (s.ctx c).status ≠ .free) : c ∈ s.members c := by
  unfold State.members
  rw [mem_sortBy]
  exact List.mem_map.mpr ⟨(c, s.ctx c), List.mem_filter.mpr ⟨hm, by simp [hf, sameTask_refl]⟩, rfl⟩

/-- A task in a failing cluster ends. -/
theorem ended_foldl_fail (l : List Nat) (s : State) {c : Nat} (hc : c ∈ l) (hf : (s.ctx c).firstFail = none) :
    Ended15 ((l.foldl (fun s i => s.modCtx i fun c => c.fail 15 0 0 c.bun.pc) s).ctx c) := by
  induction l generalizing s with
  | nil => exact absurd hc List.not_mem_nil
  | cons a l ih =>
    rw [List.foldl_cons]
    by_cases h : c ∈ l
    · refine ih _ h ?_
      rw [ctx_modCtx]
      split
      next hca => exact hca ▸ hf
      · exact hf
    · have ha : c = a := (List.mem_cons.mp hc).resolve_right h
      subst ha
      rw [ctx_foldl_off (key := fun i => i) (fun _ _ _ hj => ctx_modCtx_off _ hj) l _ (by rwa [List.map_id']), ctx_modCtx, if_pos rfl]
      exact fail_ended hf ..

theorem clusterError_ends {s : State} {k c : Nat} (hk : clusterOf (coreOf c) = k) (hm : (c, s.ctx c) ∈ s.ctxs)
    (hs : (s.ctx c).status ≠ .free) (hf : (s.ctx c).firstFail = none) : Ended15 ((clusterError s k).ctx c) := by
  unfold clusterError
  refine (sameRun_foldl (fun _ _ => retireCore_sameRun ..) _ _).ended (ended_foldl_fail _ _ ?_ hf)
  exact List.mem_dedup.mpr (List.mem_flatMap.mpr ⟨(c, s.ctx c), List.mem_filter.mpr ⟨hm, by simp [hk, hs]⟩, mem_members hm hs⟩)

section

variable (s : State) {w : Nat} (cid : Nat)

theorem detectedError_cluster (hw : w = 2 ∨ w = 3) :
    exec (.detectedError w cid) s = .next (clusterError s (clusterOf (coreOf cid))) := by
  simp only [exec_detectedError, execDetectedError]
  rw [if_neg (by omega), if_neg (by omega), if_neg (by omega), if_pos hw]

theorem detectedError_element (hw : 2 ^ 80 ≤ w) : exec (.detectedError w cid) s = .next
    ((s.logCore (coreOf cid) errDetected w).modClu (clusterOf (coreOf cid)) fun k => { k with bad := (w - 2 ^ 80) :: k.bad }) := by
  simp only [exec_detectedError, execDetectedError]
  rw [if_neg (by omega), if_neg (by omega), if_neg (by omega), if_neg (by omega), if_neg (by omega), if_pos hw]

theorem detectedError_granule (hw : 16 ≤ w) (hw' : w < 2 ^ 80) (hg : cluGranule (w - 16) = false) :
    exec (.detectedError w cid) s = .next ((s.modHub fun h =>
      { h with poison := if h.poison.contains (w - 16) then h.poison else (w - 16) :: h.poison }).logCore (coreOf cid) errPoison (w - 16)) := by
  simp only [exec_detectedError, execDetectedError]
  rw [if_neg (by omega), if_neg (by omega), if_neg (by omega), if_neg (by omega), if_neg (by omega), if_neg (by omega), if_neg (by simp [hg])]

end

theorem poison_logCore (s : State) (l c i : Nat) : (s.logCore l c i).hub.poison = s.hub.poison := by
  unfold State.logCore State.logRec
  rw [hub_modHub]
  dsimp only
  split
  · rfl
  · rfl

theorem mem_poisoned (l : List Nat) (g : Nat) : g ∈ (if l.contains g then l else g :: l) := by
  split
  next h => exact List.contains_iff_mem.mp h
  · exact List.mem_cons_self

/-! ### Reset and power (R288, R376) -/

theorem memGet_filter (m : List Host.Cell) (p : Nat → Bool) (a : Nat) :
    memGet (m.filter fun c => p c.1) a = if p a = true then memGet m a else memDefault a := by
  induction m with
  | nil =>
    split
    · rfl
    · rfl
  | cons c m ih =>
    rw [List.filter_cons]
    by_cases hc : p c.1 = true
    · rw [if_pos hc, memGet, memGet, ih]
      by_cases h : c.1 = a
      · rw [if_pos h, if_pos (h ▸ hc), if_pos h]
      · simp [h]
    · rw [if_neg hc, ih, memGet]
      by_cases h : c.1 = a
      · rw [if_neg (h ▸ hc), if_neg (h ▸ hc)]
      · rw [if_neg h]

theorem passes_all (h : Hub) : (!([h.image 0, h.image 1, h.image 2] : List FwImage).all h.passes) = false ↔
    ∀ i : Fin 3, h.rollback ≤ (h.image i).version ∧ Config.sigVerifies Config.rootKey (h.image i).digest (h.image i).sig = true := by
  simp only [Bool.not_eq_false', List.all_cons, List.all_nil, Bool.and_eq_true, passes_iff, Fin.forall_fin_succ, Fin.forall_fin_zero]
  tauto

/-- Settles O60: one clause for each event, from the state it leaves. -/
theorem powerAndErrorEventsAct : Obligations.PowerAndErrorEventsAct := by
  refine ⟨⟨?_, ?_, ?_, ?_, ?_, ?_, ?_, ?_, ?_, ?_, ?_, ?_, ?_, ?_, ?_, ?_, ?_⟩, fun _ => step_halted, fun _ => step_poweredOff,
    fun _ _ _ h => step_drops h⟩
  · intro k core s hc old win
    refine ⟨_, droopDetect_run hc, rfl, fun h => ?_, fun h hl => ?_⟩
    · rw [clu_modClu, if_pos rfl, drooped_stays h]
      exact ⟨rfl, rfl, fun hw b hb => (le_quietSince hw hb).trans (Nat.le_max_right ..)⟩
    · rw [clu_modClu, if_pos rfl, drooped_rises h hl]
      exact ⟨rfl, rfl, rfl⟩
  · intro k s ht hq
    refine ⟨_, currentLimit_falls ht hq, ?_⟩
    rw [clu_modClu, if_pos rfl]
    exact ⟨rfl, rfl⟩
  · intro k busy s
    refine ⟨_, rfl, ?_, fun h => ?_⟩
    · rw [clu_modClu, if_pos rfl]
      dsimp only
      omega
    · rw [clu_modClu, if_pos rfl, if_pos h]
      exact activityLevel_idle
  · intro d temps s h
    obtain ⟨x, hx, hlo, hhi⟩ := h
    exact ⟨_, (thermalReading_run d temps s).trans (if_pos (List.any_eq_true.mpr ⟨x, hx, by simp [hlo, hhi]⟩)), fatal_halted ..⟩
  · intro d temps s h
    refine ⟨_, (thermalReading_run d temps s).trans (if_neg ?_), (readDie_keeps ..).2, (readDie_keeps ..).1, fun i hi => clu_readDie hi⟩
    simp only [List.any_eq_true, Bool.and_eq_true, decide_eq_true_eq, not_exists]
    intro x hx
    have := h x hx.1
    omega
  · intro i s hi
    obtain ⟨t, c, he, hm, hh, ht⟩ := fatalCause_run s hi
    refine ⟨_, he, fatal_halted .., (mem_fatal ..).trans hm, fun h => ?_, fun h => ?_⟩
    · exact ⟨(fatal_first (hh.trans h) c).1, fun d hd => fatal_dumps (hh.trans h) c hd⟩
    · obtain rfl := ht h
      rw [fatal_again h]
      exact ⟨rfl, rfl⟩
  · intro s hh ha hd
    exact ⟨_, step_finishes hh ha hd, hh, rfl, rfl, finishDump_dump s⟩
  · intro d s hr
    refine ⟨_, eventRun_of (by simp [hr]) .., rfl, ?_⟩
    rw [die_modDie, if_pos rfl]
  · intro d s hr
    simp [execDumpClear, eventRun, hr]
  · exact correctedError_run
  · intro cid s hr hu hf
    exact ⟨_, detectedError_own hr, by rw [rollBack_unprotected hr hu]; exact dataError_ends hf⟩
  · intro cid s hr hu
    obtain ⟨hs, -, hregs, hrerun⟩ := rollBack_protected hr hu
    refine ⟨_, detectedError_own hr, hs.trans hr, congrArg Regs.pc hregs, congrArg Regs.sreg hregs, ?_⟩
    rw [hrerun]
    exact toNat_satInc ..
  · intro w g cid s hw hlt hg
    obtain rfl : w - 16 = g := by omega
    refine ⟨_, detectedError_granule s cid (by omega) hlt hg, ?_, rfl, rfl⟩
    rw [poison_logCore]
    exact mem_poisoned ..
  · intro e cid s
    refine ⟨_, detectedError_element s cid (Nat.le_add_right ..), ?_, rfl, rfl⟩
    rw [clu_modClu, if_pos rfl, Nat.add_sub_cancel_left]
    exact List.mem_cons_self
  · intro w cid c s hw hc hm hs hf
    exact ⟨_, detectedError_cluster s cid hw, clusterError_ends hc hm hs hf⟩
  · intro s
    exact ⟨_, rfl, rfl, rfl, rfl, rfl, rfl, passes_all s.hub, memGet_filter s.mem keptByReset⟩
  · intro s
    exact ⟨_, rfl, rfl, rfl, rfl, memGet_filter s.mem remoteKey⟩

end Sys2Proof.Claims


namespace Sys2Proof.Claims

open Sys2Proof.Machine

/-! ### Partitions under the hub's writes -/

theorem parts_foldl_of {α : Type} {f : State → α → State} (l : List α) (s : State)
    (h : ∀ s a, (f s a).hub.parts = s.hub.parts) : (l.foldl f s).hub.parts = s.hub.parts := by
  induction l generalizing s with
  | nil => rfl
  | cons a l ih => exact (ih _).trans (h s a)

theorem part_of_parts {s t : State} (h : t.hub.parts = s.hub.parts) (p : Nat) : t.part p = s.part p :=
  congrArg (Sparse.getD · p Part.reset) h

theorem parts_logRec (s : State) (r : ErrRec) : (s.logRec r).hub.parts = s.hub.parts := by
  unfold State.logRec
  rw [hub_modHub]
  dsimp only
  split
  · rfl
  · rfl

theorem parts_leavePkg (s : State) (w : BufWrite) : (s.leavePkg w).hub.parts = s.hub.parts := by
  unfold State.leavePkg
  split
  · rfl
  · rfl

theorem parts_drainPkg (s : State) (ks : List Nat) : (s.drainPkg ks).hub.parts = s.hub.parts :=
  (parts_foldl_of _ _ fun _ _ => parts_leavePkg ..).trans rfl

theorem parts_hubWrite (s : State) (p n a : Nat) (bs : List Byte) : (hubWrite s p n a bs).1.hub.parts = s.hub.parts := by
  unfold hubWrite
  split
  · exact parts_logRec ..
  · dsimp only
    split
    · exact parts_drainPkg ..
    · exact parts_drainPkg ..

theorem parts_graphRecord (s : State) (p : Nat) (l : Launch) (st c : Nat) : (graphRecord s p l st c).hub.parts = s.hub.parts := by
  unfold graphRecord
  dsimp only
  split
  · rfl
  · exact parts_hubWrite ..

/-- A node's record changes no partition but for the mark of a record that failed. -/
theorem recState_cases (s : State) (p q n st : Nat) : ∃ t : State, t.hub.parts = s.hub.parts ∧
    (recState s p q n st = t ∨ recState s p q n st = t.modNode p q n fun x => { x with recFailed := true }) := by
  have h1 : (if 2 ≤ st then hubWrite s p (recSeq (launchOf s p q) n) ((s.node p q n).ent.crec + 32)
      (leBytes 8 s.hub.ptb) else (s, true)).1.hub.parts = s.hub.parts := by
    split
    · exact parts_hubWrite ..
    · rfl
  unfold recState
  dsimp only
  generalize (if 2 ≤ st then hubWrite s p (recSeq (launchOf s p q) n) ((s.node p q n).ent.crec + 32)
    (leBytes 8 s.hub.ptb) else (s, true)) = r at h1 ⊢
  split
  · refine ⟨_, ?_, .inl rfl⟩
    exact (parts_hubWrite ..).trans h1
  · refine ⟨_, ?_, .inr rfl⟩
    exact (parts_hubWrite ..).trans h1

/-! ### Queues, graphs and nodes -/

theorem queue_setQueue {q : Nat} (hq : q < 16) (p : Part) (l : List Launch) : (p.setQueue q l).queue q = l := by
  unfold Part.setQueue Part.queue
  rw [dif_pos hq]
  simp [hq]

theorem setQueue_same (p : Part) (q : Nat) (l : List Launch) :
    (p.setQueue q l).nextTicket = p.nextTicket ∧ (p.setQueue q l).saved = p.saved := by
  unfold Part.setQueue
  split
  · exact ⟨rfl, rfl⟩
  · exact ⟨rfl, rfl⟩

theorem graph_eq {s : State} {p q : Nat} {l : Launch} (h : s.graph p q = some l) : ∃ t, (s.part p).queue q = l :: t := by
  unfold State.graph at h
  exact ⟨_, (List.head?_eq_some_iff.mp h).choose_spec⟩

theorem part_modGraph (s : State) (p q : Nat) (f : Launch → Launch) : ((s.modGraph p q f).part p).nextTicket = (s.part p).nextTicket ∧
    ((s.modGraph p q f).part p).saved = (s.part p).saved := by
  unfold State.modGraph
  rw [part_modPart, if_pos rfl]
  split
  · exact ⟨rfl, rfl⟩
  · exact setQueue_same ..

section

variable {s : State} {p q : Nat} {l : Launch} (hq : q < 16) (hg : s.graph p q = some l)
include hq hg

theorem graph_modGraph (f : Launch → Launch) : (s.modGraph p q f).graph p q = some (f l) := by
  obtain ⟨t, ht⟩ := graph_eq hg
  unfold State.modGraph State.graph
  rw [part_modPart, if_pos rfl, ht]
  dsimp only
  rw [queue_setQueue hq]
  rfl

theorem node_modNode {n : Nat} (hn : n < l.nodes.length) (f : Node → Node) : (s.modNode p q n f).node p q n = f (s.node p q n) := by
  unfold State.node State.modNode
  rw [graph_modGraph hq hg, hg]
  simp [hn]

/-- The record of a node leaves the node as it is, but for the mark of a record that failed. -/
theorem node_recState {n : Nat} (hn : n < l.nodes.length) (st : Nat) :
    ∃ b, (recState s p q n st).node p q n = { s.node p q n with recFailed := b } := by
  obtain ⟨t, ht, h⟩ := recState_cases s p q n st
  have hgraph : t.graph p q = s.graph p q := by unfold State.graph; rw [part_of_parts ht]
  have hnode : t.node p q n = s.node p q n := by unfold State.node; rw [hgraph]
  obtain h | h := h
  · rw [h, hnode]
    exact ⟨_, rfl⟩
  · rw [h, node_modNode hq (hgraph.trans hg) hn, hnode]
    exact ⟨_, rfl⟩

theorem node_recState_modNode {n : Nat} (hn : n < l.nodes.length) (f : Node → Node) (st : Nat) :
    ∃ b, (recState (s.modNode p q n f) p q n st).node p q n = { f (s.node p q n) with recFailed := b } := by
  rw [← node_modNode hq hg hn f]
  exact node_recState hq (graph_modGraph hq hg fun x => { x with nodes := x.nodes.modify n f }) (by simpa using hn) st

end

theorem nextTicket_recState (s : State) (p q n st : Nat) : ((recState s p q n st).part p).nextTicket = (s.part p).nextTicket := by
  obtain ⟨t, ht, h | h⟩ := recState_cases s p q n st
  · rw [h, part_of_parts ht]
  · rw [h, State.modNode, (part_modGraph ..).1, part_of_parts ht]

/-! ### The events of the scheduler -/

section

variable {s : State} {p q : Nat} {l : Launch} (hg : s.graph p q = some l)
include hg

theorem graphStart_starts (hs : l.started = false) {ns : List Node} (hc : checkGraph s p q l = .ok ns) :
    exec (.graphStart p q) s = .next (s.modGraph p q fun l => { l with started := true, nodes := ns }) := by
  simp [execGraphStart, hg, hs, hc]

theorem graphStart_refuses (hs : l.started = false) {cause first : Nat} (hc : checkGraph s p q l = .error (cause, first)) :
    exec (.graphStart p q) s = .next ((graphRecord s p { l with first := first } 2 cause).modPart p
      fun p => p.setQueue q ((p.queue q).drop 1)) := by
  simp [execGraphStart, hg, hs, hc]

end

/-- A node as it is released, without its reservation. -/
def releasedNode (tick : Nat) (n : Node) : Node :=
  { n with state := .released, zext := n.ent.zChoice tick,
           unbound := List.range ({ n with state := .released, zext := n.ent.zChoice tick } : Node).tiles }

/-- A node as it is released. -/
def withResv (s : State) (p launch node : Nat) (n : Node) : Node :=
  if n.ent.reserves then { n with resv := some (reserve s p launch node n n.unbound) } else n

/-- A partition that has given out a ticket where a node reserves. -/
def ticketed (s : State) (p : Nat) (b : Bool) : State :=
  ({ s with tick := s.tick + 1 } : State).modPart p fun p => if b then { p with nextTicket := p.nextTicket + 1 } else p

theorem nodeRelease_releases {s : State} {p q node : Nat} {l : Launch} (hg : s.graph p q = some l) (hr : (s.node p q node).state = .ready)
    (hv : served s p (fun a => a.saved.isNone && a.queue == q && a.node == node) = true) :
    exec (.nodeRelease p q node) s = .next (recState ((ticketed s p (s.node p q node).ent.reserves).modNode p q node fun _ =>
      withResv s p l.seq node (releasedNode s.tick (s.node p q node))) p q node 1) := by
  simp only [exec_nodeRelease, execNodeRelease, hg]
  rw [if_neg (by simp [hr, hv])]
  cases hres : (s.node p q node).ent.reserves with
  | true => simp [withResv, releasedNode, ticketed, hres]
  | false => simp [withResv, releasedNode, ticketed, hres]

theorem zChoice_whole {e : NodeEnt} (h : e.flag 4 = false ∨ e.det = true) (tick : Nat) : e.zChoice tick = e.gz := by
  unfold NodeEnt.zChoice
  rw [if_neg]
  obtain h | h := h
  · simp [h]
  · simp [h]

theorem zChoice_split {e : NodeEnt} (h : e.flag 4 = true) (hd : e.det = false) (hz : 0 < e.gz) (tick : Nat) :
    1 ≤ e.zChoice tick ∧ e.zChoice tick ≤ e.gz := by
  unfold NodeEnt.zChoice
  rw [if_pos (by simp [h, hd])]
  have := Nat.mod_lt (Config.splitZ tick) hz
  omega

theorem reserve_ticket (s : State) (p launch node : Nat) (n : Node) (tiles : List Nat) :
    (reserve s p launch node n tiles).ticket = (s.part p).nextTicket := by
  unfold reserve
  dsimp only
  split
  · rfl
  · split
    · rfl
    · split
      · rfl
      · rfl

theorem withResv_keeps (s : State) (p launch node : Nat) (n : Node) : (withResv s p launch node n).state = n.state ∧
    (withResv s p launch node n).unbound = n.unbound ∧ (withResv s p launch node n).zext = n.zext := by
  unfold withResv
  split
  · exact ⟨rfl, rfl, rfl⟩
  · exact ⟨rfl, rfl, rfl⟩

theorem withResv_ticket {s : State} {p launch node : Nat} {n : Node} (h : n.ent.reserves = true) :
    (withResv s p launch node n).resv.map (·.ticket) = some (s.part p).nextTicket := by
  rw [withResv, if_pos h]
  exact congrArg some (reserve_ticket ..)

theorem graph_ticketed (s : State) (p q : Nat) (b : Bool) : (ticketed s p b).graph p q = s.graph p q := by
  unfold ticketed State.graph
  rw [part_modPart, if_pos rfl]
  split
  · rfl
  · rfl

/-- A released node, with its ticket where it reserves. -/
theorem nodeRelease_node {s : State} {p q node : Nat} {l : Launch} (hq : q < 16) (hg : s.graph p q = some l) (hn : node < l.nodes.length) :
    ∃ b, (recState ((ticketed s p (s.node p q node).ent.reserves).modNode p q node fun _ =>
      withResv s p l.seq node (releasedNode s.tick (s.node p q node))) p q node 1).node p q node =
      { withResv s p l.seq node (releasedNode s.tick (s.node p q node)) with recFailed := b } := by
  have hg' := (graph_ticketed s p q (s.node p q node).ent.reserves).trans hg
  exact node_recState_modNode hq hg' hn _ 1

/-- Who gets a context that a reservation lacks. -/
def grantTo (s : State) (p cid : Nat) (h : Holder) : State :=
  match h.saved with
  | none => s.modNode p h.queue h.idx fun n => { n with resv := n.resv.map fun r => r.grant cid }
  | some i => s.modSaved p i fun x => { x with resv := x.resv.map fun r => r.grant cid }

theorem reservationGrant_grants {s : State} {p cid : Nat} {h : Holder} (hf : (heldBy (holders s p) cid).isSome = false)
    (hw : wantedBy s (holders s p) cid = some h)
    (hl : ∀ c ∈ slotOrder (partCores (s.part p)), c < cid → h.resv.cls c = h.resv.cls cid → (heldBy (holders s p) c).isNone = true →
      wantedBy s (holders s p) c ≠ some h) : exec (.reservationGrant p cid) s = .next (grantTo s p cid h) := by
  have hfirst : grantFirst s p (holders s p) h cid = true := by
    unfold grantFirst
    rw [Bool.not_eq_true', List.any_eq_false]
    intro c hc
    simp only [Bool.and_eq_true, decide_eq_true_eq, beq_iff_eq, not_and, and_imp]
    exact hl c hc
  simp only [exec_reservationGrant, execReservationGrant, hf, hw, hfirst, Bool.not_true, Bool.false_eq_true, if_false]
  rfl

theorem grantTo_keeps (s : State) (p cid : Nat) (h : Holder) : (grantTo s p cid h).mem = s.mem ∧ (grantTo s p cid h).ctxs = s.ctxs := by
  unfold grantTo
  split
  · exact ⟨rfl, rfl⟩
  · exact ⟨rfl, rfl⟩

/-- The saved tasks of a node rise with age. -/
def agedSaved (s : State) (p q node : Nat) (x : Saved) : Saved :=
  if x.ctx.bind.node = node ∧ queueOf s p x.ctx.bind.launch = some q then x.promote (s.node p q node).cls (s.part p).age s.hub.ptb else x

/-- A partition whose saved tasks of a node have risen. -/
def agedPart (s : State) (p q node : Nat) : State :=
  s.modPart p fun x => { x with saved := x.saved.map (agedSaved s p q node) }

/-- Whether a node waits long enough to rise. -/
def rises (s : State) (p q node : Nat) : Bool :=
  ((s.node p q node).state == .ready || ((s.node p q node).state == .released && !(s.node p q node).unbound.isEmpty)) &&
    decide (2 ≤ (s.node p q node).cls) && decide ((s.node p q node).since + (s.part p).age ≤ s.hub.ptb)

/-- A node that has risen. -/
def promoted (ptb : Nat) (n : Node) : Node := { n with cls := n.cls - 1, since := ptb }

theorem agePromotion_run (p q node : Nat) (s : State) : exec (.agePromotion p q node) s =
    .next (if rises s p q node then (agedPart s p q node).modNode p q node (promoted s.hub.ptb) else agedPart s p q node) := by
  show (if rises s p q node then _ else _) = _
  split
  · rfl
  · rfl

theorem node_agedPart (s : State) (p q node : Nat) : (agedPart s p q node).graph p q = s.graph p q ∧
    (agedPart s p q node).node p q node = s.node p q node := by
  have h : (agedPart s p q node).graph p q = s.graph p q := by
    unfold agedPart State.graph
    rw [part_modPart, if_pos rfl]
    rfl
  refine ⟨h, ?_⟩
  unfold State.node
  rw [h]

theorem saved_agedPart (s : State) (p q node i : Nat) :
    ((agedPart s p q node).part p).saved[i]? = ((s.part p).saved[i]?).map (agedSaved s p q node) := by
  unfold agedPart
  rw [part_modPart, if_pos rfl]
  exact List.getElem?_map ..

/-- Whether a victim takes a context along when it stops. -/
def preempted (b : Binding) (x : Nat × Ctx) : Nat × Ctx :=
  if (x.2.status == .running || (x.2.status == .ending && x.2.bind.gang)) && sameGroup x.2.bind b then
    (x.1, { x.2 with preempt := true }) else x

theorem preempted_group {b : Binding} {x : Nat × Ctx} (hr : (preempted b x).2.status = .running)
    (hg : sameGroup (preempted b x).2.bind b = true) : (preempted b x).2.preempt = true := by
  unfold preempted at hr hg ⊢
  split
  · rfl
  next hn =>
    rw [if_neg hn] at hr hg
    exact absurd (by simp [hr, hg]) hn

/-- Settles O55: each event's state is written out, and read at the graph, the node or the saved task that it changes. -/
theorem graphEventsHappen : Obligations.GraphEventsHappen := by
  refine ⟨?_, ?_, ?_, ?_, ?_, ?_⟩
  · intro part queue l ns s hq hg hs hc
    exact ⟨_, graphStart_starts hg hs hc, rfl, graph_modGraph hq hg _⟩
  · intro part queue cause first l s hq hg hs hc
    refine ⟨_, graphStart_refuses hg hs hc, ?_⟩
    rw [part_modPart, if_pos rfl, queue_setQueue hq, part_of_parts (parts_graphRecord ..)]
  · intro part queue node l s n hq hg hn hr hv
    obtain ⟨b, hb⟩ := nodeRelease_node (s := s) hq hg hn
    obtain ⟨hst, hun, hz⟩ := withResv_keeps s part l.seq node (releasedNode s.tick (s.node part queue node))
    refine ⟨_, nodeRelease_releases hg hr hv, ?_⟩
    rw [hb]
    refine ⟨hst, ?_, fun h => ?_, fun h hd hgz => ?_, fun h => ⟨withResv_ticket h, ?_⟩⟩
    · show (withResv s part l.seq node _).unbound = List.range (_ * (withResv s part l.seq node _).zext)
      rw [hun, hz]
      rfl
    · exact hz.trans (zChoice_whole h _)
    · show 1 ≤ (withResv s part l.seq node _).zext ∧ (withResv s part l.seq node _).zext ≤ _
      rw [hz]
      exact zChoice_split h hd hgz _
    · rw [nextTicket_recState, State.modNode, (part_modGraph ..).1, ticketed, part_modPart, if_pos rfl, if_pos h]
      rfl
  · intro part cid h s hs hf hw hq hl
    refine ⟨_, reservationGrant_grants hf hw hl, (grantTo_keeps ..).1, (grantTo_keeps ..).2, fun hn hr he => ?_, fun i x hi hx hr => ?_⟩
    · obtain ⟨l, hg, hlt⟩ := he
      unfold grantTo
      rw [hn]
      dsimp only
      rw [node_modNode hq hg hlt, hr]
      rfl
    · unfold grantTo
      rw [hi]
      simp [State.modSaved, hx, hr, Resv.grant]
  · intro part queue node l s n hq hg hn
    obtain ⟨hgr, hno⟩ := node_agedPart s part queue node
    refine ⟨_, agePromotion_run part queue node s, ?_, fun hw hc ha => ?_, fun i x hx hnode hqueue hc ha => ?_⟩
    · split
      · rfl
      · rfl
    · have hrise : rises s part queue node = true := by
        unfold rises
        simp only [Bool.and_eq_true, Bool.or_eq_true, beq_iff_eq, decide_eq_true_eq]
        exact ⟨⟨hw.imp id fun h => ⟨h.1, by simpa using h.2⟩, hc⟩, ha⟩
      rw [if_pos hrise, node_modNode hq (hgr.trans hg) hn, hno]
      exact ⟨rfl, rfl⟩
    · have hsaved : ((if rises s part queue node then (agedPart s part queue node).modNode part queue node (promoted s.hub.ptb)
          else agedPart s part queue node).part part).saved[i]? = some (agedSaved s part queue node x) := by
        have h := saved_agedPart s part queue node i
        rw [hx] at h
        split
        · rw [State.modNode, (part_modGraph ..).2, h]
          rfl
        · exact h
      rw [hsaved, agedSaved, if_pos ⟨hnode, hqueue⟩, Saved.promote, if_pos ⟨hc, ha⟩]
      rfl
  · intro part v s items going lacks cands hv
    refine ⟨{ s with ctxs := s.ctxs.map (preempted (s.ctx v).bind) }, ?_, rfl, fun x hx hr hg => ?_⟩
    · simp only [exec_preemptionRequest, execPreemptionRequest]
      rw [show List.find? _ _ = some v from hv]
      rfl
    · obtain ⟨y, -, rfl⟩ := List.mem_map.mp hx
      exact preempted_group hr hg

end Sys2Proof.Claims


namespace Sys2Proof.Claims

open Sys2Proof.Machine

/-! ### Result words -/

theorem readyWord_ready (r : Regs) (id : Nat) (v : SVal) {w : TWord} (hw : w ∈ (r.readyWord id v).words) (hid : w.id = id) :
    w.val.isSome = true := by
  obtain ⟨x, -, rfl⟩ := List.mem_map.mp hw
  by_cases h : x.id = id
  · rw [if_pos h]
    rfl
  · rw [if_neg h] at hid
    exact absurd hid h

theorem finishStream_keeps (r : Regs) (n : Nat) : (r.finishStream n).words = r.words ∧ (r.finishStream n).xflags = r.xflags := by
  unfold Regs.finishStream
  split
  · exact ⟨rfl, rfl⟩
  · dsimp only
    unfold Regs.setStream
    split
    · exact ⟨rfl, rfl⟩
    · exact ⟨rfl, rfl⟩

theorem mem_unqueued {q : List Cmd} {c x : Cmd} (h : x ∈ q.filter fun x => !(x.cid == c.cid && x.seq == c.seq)) (hc : x.cid = c.cid) :
    x.seq ≠ c.seq := by
  have := (List.mem_filter.mp h).2
  simpa [hc] using this

/-! ### The Asterism (R268, R273) -/

/-- The context of a request that the Asterism has processed. -/
def eqAnswered (c : Cmd) (st v : Nat) (x : Ctx) : Ctx :=
  let x := { x with eqOut := x.eqOut.filter (fun y => y.1 != c.seq),
                    r := x.r.readyWord c.req (resultWord 0 (st * 2 ^ 28 + v % 2 ^ 28)) }
  if st = 5 then x.postTrap ⟨6, 9, 0, 0, 0⟩ else if st = 2 then x.postTrap ⟨14, 9, 0, 0, 0⟩ else x

theorem postTrap_eqOut (c : Ctx) (t : BoundaryTrap) : (c.postTrap t).eqOut = c.eqOut := by
  unfold Ctx.postTrap
  split
  · split
    · rfl
    · rfl
  · split
    · rfl
    · rfl

theorem eqAnswered_fields (c : Cmd) (st v : Nat) (x : Ctx) :
    (eqAnswered c st v x).r = x.r.readyWord c.req (resultWord 0 (st * 2 ^ 28 + v % 2 ^ 28)) ∧
      (eqAnswered c st v x).eqOut = x.eqOut.filter fun y => y.1 != c.seq := by
  unfold eqAnswered
  dsimp only
  split
  · exact ⟨postTrap_r .., postTrap_eqOut ..⟩
  · split
    · exact ⟨postTrap_r .., postTrap_eqOut ..⟩
    · exact ⟨rfl, rfl⟩

theorem eqProcess_eq (s : State) (c : Cmd) : eqProcess s c =
    ((eqDo s c).1.modClu c.eqClu fun k => { k with eqQ := k.eqQ.filter fun x => !(x.cid == c.cid && x.seq == c.seq) }).modCtx c.cid
      (eqAnswered c (eqDo s c).2.1 (eqDo s c).2.2) := rfl

theorem eqRequestProcess_run {s : State} {k : Nat} {c : Cmd} (h : pickFree (s.tick * 4096) (eqNextCands s k) = some c) :
    exec (.eqRequestProcess k) s = .next { eqProcess s c with tick := s.tick + 1 } := by
  simp only [exec_eqRequestProcess, execEqRequestProcess, h]

/-! ### The Catalogue (R302, R303) -/

/-- What starting a Catalogue command leaves alone. -/
def PkKept (s : State) (r : PkRun) (x : State × PkRun) : Prop := (∀ d, (x.1.die d).pkQ = (s.die d).pkQ) ∧ x.2.cmd = r.cmd

section

variable (s : State)

theorem pkQ_modDie {d : Nat} {f : Die → Die} (h : (f (s.die d)).pkQ = (s.die d).pkQ) (j : Nat) :
    ((s.modDie d f).die j).pkQ = (s.die j).pkQ := by
  rw [die_modDie]
  split
  next hj => exact hj ▸ h
  · rfl

theorem pkQ_noteMiss (k c v d : Nat) : ((s.noteMiss k c v).die d).pkQ = (s.die d).pkQ := by
  unfold State.noteMiss
  dsimp only
  split
  · rfl
  · split
    · rfl
    · split
      · exact pkQ_modDie s rfl d
      · split
        · exact pkQ_modDie s rfl d
        · split
          · exact pkQ_modDie s rfl d
          · split
            · rfl
            · rfl

theorem pkQ_noteSpan (k c v n d : Nat) : ((s.noteSpan k c v n).die d).pkQ = (s.die d).pkQ :=
  foldl_keeps (fun t : State => (t.die d).pkQ) (fun _ _ => pkQ_noteMiss ..) _ _

theorem dies_enqueueFault (f : FaultRec) : (s.enqueueFault f).dies = s.dies := by
  unfold State.enqueueFault
  dsimp only
  split
  · rfl
  · split
    · rfl
    · rfl

theorem pkQ_pkPost (r : PkRun) (w : Bool) (e : AFault) (d : Nat) : ((pkPost s r w e).die d).pkQ = (s.die d).pkQ :=
  (congrArg (fun l => (Sparse.getD l d Die.reset).pkQ) (dies_enqueueFault ..)).trans (pkQ_noteMiss ..)

theorem pkQ_dropSlot (d : Die) (n : Nat) : (d.dropSlot n).pkQ = d.pkQ := rfl

theorem pkKept_of {s t : State} {r r' : PkRun} (h : ∀ d, (t.die d).pkQ = (s.die d).pkQ) (h' : r'.cmd = r.cmd) :
    PkKept s r (t, r') := ⟨h, h'⟩

theorem pkStart_kept (r : PkRun) : PkKept s r (pkStart s r) := by
  unfold pkStart
  dsimp only
  split
  · split
    · split
      · exact pkKept_of (fun _ => pkQ_pkPost ..) rfl
      · exact pkKept_of (fun _ => rfl) rfl
    · split
      · exact pkKept_of (fun _ => rfl) rfl
      · exact pkKept_of (fun _ => (pkQ_modDie _ (pkQ_dropSlot ..) _).trans (pkQ_noteSpan ..)) rfl
  · split
    · exact pkKept_of (fun _ => rfl) rfl
    · split
      · exact pkKept_of (fun _ => rfl) rfl
      · split
        · split
          · exact pkKept_of (fun _ => pkQ_pkPost ..) rfl
          · exact pkKept_of (fun _ => rfl) rfl
        · split
          · exact pkKept_of (fun _ => rfl) rfl
          · split
            · exact pkKept_of (fun _ => rfl) rfl
            · split
              · exact pkKept_of (fun _ => rfl) rfl
              · refine pkKept_of (fun d => ?_) rfl
                split
                · exact pkQ_noteSpan ..
                · rfl

end

/-- A state in which a die's Catalogue unit has taken a command from its queue. -/
def pkTaken (s : State) (die : Nat) (c : Cmd) : State :=
  { s.modDie die fun d => { d with pkQ := d.pkQ.filter fun x => !(x.cid == c.cid && x.seq == c.seq) } with tick := s.tick + 1 }

section

variable {s : State} {die : Nat}

theorem pkCommandProcess_takes {c : Cmd} (hr : (s.die die).pkRun = none)
    (hc : pickFree (s.tick * 4096) (pkNextCands s die) = some c) : exec (.pkCommandProcess die) s =
      .next ((pkStart (pkTaken s die c) (PkRun.start c)).1.modDie die
        fun d => { d with pkRun := some (pkStart (pkTaken s die c) (PkRun.start c)).2 }) := by
  simp only [exec_pkCommandProcess, execPkCommandProcess, hr, hc]
  rfl

theorem pkTaken_queue (c : Cmd) : ((pkTaken s die c).die die).pkQ =
    (s.die die).pkQ.filter fun x => !(x.cid == c.cid && x.seq == c.seq) := by
  unfold pkTaken
  rw [die_with_tick, die_modDie, if_pos rfl]

theorem pkCommandProcess_goes {r : PkRun} (hr : (s.die die).pkRun = some r) (hf : r.finished = false)
    (hw : s.svcWaits r.cmd.cid 4 = false) (hp : pkPaused s r = false) : exec (.pkCommandProcess die) s =
      .next ((if r.blk.isEmpty then pkStart s r else pkAdvance s r).1.modDie die
        fun d => { d with pkRun := some (if r.blk.isEmpty then pkStart s r else pkAdvance s r).2 }) := by
  simp only [exec_pkCommandProcess, execPkCommandProcess, hr, hf, hw, hp, Bool.or_false, Bool.false_eq_true, if_false]

end

/-- The word of a Catalogue command at its end. -/
def pkWord (r : PkRun) : SVal :=
  if r.status = 16 then SVal.whole 0 false
  else if r.status = 17 then SVal.whole (resultWord r.flags r.info).bits false
  else resultWord r.flags r.info

/-- The registers of a context whose Catalogue command has ended. -/
def pkRegs (r : PkRun) (x : Regs) : Regs :=
  if r.cmd.pkStrm then ((x.raise r.flags).readyWord r.cmd.req (pkWord r)).finishStream r.cmd.pkQn
  else (x.raise r.flags).readyWord r.cmd.req (pkWord r)

/-- A context whose Catalogue command has ended. -/
def pkEnded (r : PkRun) (x : Ctx) : Ctx :=
  let y := { x with r := pkRegs r x.r, pkOut := x.pkOut.filter fun y => y != r.cmd.seq, pkDone := x.pkDone ++ [(r.cmd.seq, r.flags)] }
  if r.status = 16 ∨ r.status = 17 then y.postTrap ⟨6, 9, 0, 0, r.addr⟩
  else if r.status = 2 then y.postTrap ⟨5, 9, 0, 0, r.addr⟩
  else if r.status = 3 then y.postTrap ⟨13, 9, 0, 0, r.addr⟩
  else y

theorem pkEnded_r (r : PkRun) (x : Ctx) : (pkEnded r x).r = pkRegs r x.r := by
  unfold pkEnded
  dsimp only
  split
  · exact postTrap_r ..
  · split
    · exact postTrap_r ..
    · split
      · exact postTrap_r ..
      · rfl

theorem pkRegs_fields (r : PkRun) (x : Regs) : (pkRegs r x).words = ((x.raise r.flags).readyWord r.cmd.req (pkWord r)).words ∧
    (pkRegs r x).xflags = x.xflags ||| r.flags := by
  unfold pkRegs
  split
  · exact finishStream_keeps ..
  · exact ⟨rfl, rfl⟩

theorem pkCommandEnd_ends {s : State} {die : Nat} {r : PkRun} (hr : (s.die die).pkRun = some r) (hf : r.finished = true) (ho : r.out = []) :
    exec (.pkCommandEnd die) s = .next ((s.modCtx r.cmd.cid (pkEnded r)).modDie die fun d => { d with pkRun := none }) := by
  simp only [exec_pkCommandEnd, execPkCommandEnd, hr, hf, ho, List.isEmpty_nil, Bool.not_true, Bool.or_false, Bool.false_eq_true, if_false]
  rfl

/-! ### The near-memory units (R309, R310, R313) -/

theorem ctx_noteSpans (s : State) (c : Nat) (l : List (Nat × Nat)) (i : Nat) : (s.noteSpans c l).ctx i = s.ctx i :=
  foldl_keeps (fun t : State => t.ctx i) (fun _ _ => ctx_noteSpan ..) _ _

section

variable {s : State} {cid pos : Nat} {n : NCmd}

theorem nmRowPerform_does {d : NmDone} (hn : (s.ctx cid).ncmds[pos]? = some n) (ho : n.over = false) (hh : n.held = none)
    (hb : s.blockedAt cid 5 n.cmd.seq false = false) (hold : nmOlder s ((s.ctx cid).ncmds.take pos) n = false) (ht : nmTry s n = .done d) :
    exec (.nmRowPerform cid pos) s = .next (nmFinish (s.noteSpans cid (nmSpans s n n.row)) cid pos n d) := by
  simp only [exec_nmRowPerform, execNmRowPerform, hn, ho, hh, hb, hold, ht, Option.isSome_none, Bool.or_false, Bool.false_eq_true, if_false]

/-- A context whose near-memory command has done a row. -/
def rowDone (n : NCmd) (pos : Nat) (d : NmDone) (x : Ctx) : Ctx :=
  let y := { x with ncmds := x.ncmds.set pos { n with row := n.row + 1, blk := d.blk, old := d.old } }
  match d.poisoned with
  | none => y
  | some va => { y with nmPoison := if n.cmd.returning then y.nmPoison
                   else some (min (y.nmPoison.getD n.cmd.seq) n.cmd.seq) }.postTrap ⟨13, 9, 0, 0, va⟩

theorem ctx_nmFinish (d : NmDone) : (nmFinish s cid pos n d).ctx cid = rowDone n pos d (s.ctx cid) := by
  unfold nmFinish rowDone
  dsimp only
  cases d.poisoned with
  | none => rw [setN, ctx_modCtx, if_pos rfl, ctx_of_ctxs (ctxs_putCells s d.cells)]
  | some va => rw [ctx_modCtx, if_pos rfl, setN, ctx_modCtx, if_pos rfl, ctx_of_ctxs (ctxs_putCells s d.cells)]

theorem mem_nmFinish (d : NmDone) : (nmFinish s cid pos n d).mem = memPutAll s.mem d.cells := by
  unfold nmFinish
  split
  · rfl
  · rfl

theorem postTrap_ncmds (c : Ctx) (t : BoundaryTrap) : (c.postTrap t).ncmds = c.ncmds := by
  unfold Ctx.postTrap
  split
  · split
    · rfl
    · rfl
  · split
    · rfl
    · rfl

theorem rowDone_ncmds (d : NmDone) (x : Ctx) :
    (rowDone n pos d x).ncmds = x.ncmds.set pos { n with row := n.row + 1, blk := d.blk, old := d.old } := by
  unfold rowDone
  dsimp only
  split
  · rfl
  · exact postTrap_ncmds ..

theorem rowDone_traps {d : NmDone} {x : Ctx} {va : Nat} (hd : d.poisoned = some va) (hs : x.status = .running)
    (hi : x.r.inHandler = false) : (rowDone n pos d x).traps = x.traps ++ [⟨13, 9, 0, 0, va⟩] := by
  unfold rowDone
  rw [hd]
  dsimp only
  rw [postTrap_outside]
  · exact fun h => TStatus.noConfusion (hs.symm.trans h)
  · exact hi

/-- The row acknowledgements of a command, one more if one is out. -/
def ackOnce (n : NCmd) : Nat := if n.acked < n.row then n.acked + 1 else n.acked

/-- The registers of a context whose command's rows are all acknowledged. -/
def nmAcked (n : NCmd) (r : Regs) : Regs :=
  match n.old with
  | some v => if n.cmd.returning then r.readyWord n.cmd.req v else r
  | none => r

theorem nmAcknowledge_run (hn : (s.ctx cid).ncmds[pos]? = some n) : exec (.nmAcknowledge cid pos) s =
    if n.over && decide (n.row ≤ ackOnce n) && n.wordFree s cid then
      .next (s.modCtx cid fun x => { x with ncmds := x.ncmds.eraseIdx pos, r := nmAcked n x.r })
    else .next (setN s cid pos { n with acked := ackOnce n }) := by
  simp only [exec_nmAcknowledge, execNmAcknowledge, hn]
  rfl

theorem row_le_ackOnce : n.row ≤ ackOnce n ↔ n.row ≤ n.acked + 1 := by
  unfold ackOnce
  split
  · rfl
  · omega

theorem setN_get (hn : (s.ctx cid).ncmds[pos]? = some n) (m : NCmd) : ((setN s cid pos m).ctx cid).ncmds[pos]? = some m := by
  rw [setN, ctx_modCtx, if_pos rfl]
  simp [(List.getElem?_eq_some_iff.mp hn).1]

/-! ### The angle store (R289) -/

theorem asLdComplete_ends {a : AsLd} (ha : (s.ctx cid).asLds[pos]? = some a) (h : a.total ≤ a.granules ∨ a.status = some 1) :
    exec (.asLdComplete cid pos) s = .next (s.modCtx cid fun x => { x with
      asLds := x.asLds.eraseIdx pos, r := x.r.readyWord a.cmd.req (resultWord 0 (a.status.getD 0 * 2 ^ 28 + a.granules % 2 ^ 28)) }) := by
  simp only [exec_asLdComplete, execAsLdComplete, ha]
  rw [if_neg]
  rintro ⟨hlt, hne⟩
  exact h.elim (fun hle => absurd hlt (Nat.not_lt.mpr hle)) hne

end

/-- Settles O53: the state each unit leaves, and what its context and its queue hold then. -/
theorem unitEventsHappen : Obligations.UnitEventsHappen := by
  refine ⟨?_, ?_, ?_, ?_, ?_, ?_, ?_⟩
  · intro k c s hc
    refine ⟨_, eqRequestProcess_run hc, fun w hw hid => ?_, fun x hx hxc => ?_, fun x hx => ?_⟩
    · rw [ctx_with_tick, eqProcess_eq, ctx_modCtx, if_pos rfl, (eqAnswered_fields ..).1] at hw
      exact readyWord_ready _ _ _ hw hid
    · rw [clu_with_tick, eqProcess_eq, clu_of_modCtx, clu_modClu, if_pos rfl] at hx
      exact mem_unqueued hx hxc
    · rw [ctx_with_tick, eqProcess_eq, ctx_modCtx, if_pos rfl, (eqAnswered_fields ..).2] at hx
      exact bne_iff_ne.mp (List.mem_filter.mp hx).2
  · intro die c s hr hc
    obtain ⟨hq, hcmd⟩ := pkStart_kept (pkTaken s die c) (PkRun.start c)
    refine ⟨_, _, pkCommandProcess_takes hr hc, ?_, hcmd, fun x hx hxc => ?_⟩
    · rw [die_modDie, if_pos rfl]
    · rw [die_modDie, if_pos rfl] at hx
      exact mem_unqueued (pkTaken_queue c ▸ hq die ▸ hx) hxc
  · intro die r s hr hf hw hp
    refine ⟨_, pkCommandProcess_goes hr hf hw hp, ?_⟩
    rw [die_modDie, if_pos rfl]
    cases r.blk with
    | nil => rfl
    | cons b bs => rfl
  · intro die r s hr hf ho
    have hctx : ((s.modCtx r.cmd.cid (pkEnded r)).ctx r.cmd.cid).r = pkRegs r (s.ctx r.cmd.cid).r := by
      rw [ctx_modCtx, if_pos rfl, pkEnded_r]
    refine ⟨_, pkCommandEnd_ends hr hf ho, ?_, fun w hw hid => ?_, ?_, rfl⟩
    · rw [die_modDie, if_pos rfl]
    · rw [ctx_of_modDie, hctx, (pkRegs_fields ..).1] at hw
      exact readyWord_ready _ _ _ hw hid
    · rw [ctx_of_modDie, hctx, (pkRegs_fields ..).2]
  · intro cid pos n d s hn ho hh hb hold ht
    refine ⟨_, nmRowPerform_does hn ho hh hb hold ht, ?_, ?_, fun va hd hs hi => ?_⟩
    · exact (mem_nmFinish d).trans (congrArg (memPutAll · d.cells) (mem_noteSpans ..))
    · rw [ctx_nmFinish, ctx_noteSpans, rowDone_ncmds]
      simp [(List.getElem?_eq_some_iff.mp hn).1]
    · rw [ctx_nmFinish, ctx_noteSpans, rowDone_traps hd hs hi]
  · intro cid pos n s hn
    refine ⟨_, (nmAcknowledge_run hn).trans (apply_ite Host.Outcome.next ..).symm, ?_, fun ho hle hf => ?_, fun h => ?_⟩
    · split
      · rfl
      · rfl
    · rw [if_pos (by simp [ho, row_le_ackOnce.mpr hle, hf]), ctx_modCtx, if_pos rfl]
    · rw [if_neg, setN_get hn]
      · rfl
      · simp only [Bool.and_eq_true, decide_eq_true_eq, row_le_ackOnce]
        rintro ⟨⟨ho, hle⟩, hf⟩
        obtain h | h | h := h
        · exact absurd (ho.symm.trans h) Bool.noConfusion
        · omega
        · exact absurd (hf.symm.trans h) Bool.noConfusion
  · intro cid pos a s ha h
    refine ⟨_, asLdComplete_ends ha h, ?_, fun w hw hid => ?_, rfl⟩
    · rw [ctx_modCtx, if_pos rfl]
    · rw [ctx_modCtx, if_pos rfl] at hw
      exact readyWord_ready _ _ _ hw hid

end Sys2Proof.Claims


namespace Sys2Proof.Claims

open Sys2Proof.Machine

/-- A release of system scope to the remote side whose level of coherence lies above every level that a write has. -/
def farRelease : MAcc where
  cid := 0
  seq := 0
  kind := .release
  scope := 4
  ord := 0
  q := 5
  host := true
  va := 0
  cells := [(0, 1)]
  locs := []
  req := 0
  operands := []
  key := ⟨0, 0, 0, 0⟩
  first := true
  mates := (0, 0)

/-- The state after reset with that release alone in the M queue of context 0. -/
def farReleaseState : State := State.reset.modCtx 0 fun c => { c with mq := [farRelease] }

theorem farRelease_queued : ((farReleaseState.dropFences 0).ctx 0).mq[0]? = some farRelease := rfl

theorem farRelease_mayLeave : (farReleaseState.dropFences 0).mayLeave 0 farRelease = true := by decide

/-- It acts on the remote side at once, since its scope reaches there. -/
theorem farRelease_leaves : exec (.storeLeaveQueue 0 0) farReleaseState =
    .next (((farReleaseState.dropFences 0).dropM 0 0).putCells [(0, 1)]) := by
  simp only [exec_storeLeaveQueue, execStoreLeaveQueue, farRelease_queued, farRelease_mayLeave]
  rfl

/-- Refutes O49: the clause of a release short of its point of coherence does not bound that point, and with scope 4 and
`a.q = 5` a release to the remote side is there at once instead of in the package's buffer. -/
theorem not_writesMoveOutward : ¬ Obligations.WritesMoveOutward := by
  rintro ⟨-, hrelease, -⟩
  obtain ⟨t, ht, -, -, -, -, hshort⟩ := hrelease 0 0 farRelease farReleaseState farRelease_queued rfl farRelease_mayLeave
  obtain rfl := Host.Outcome.next.inj (farRelease_leaves.symm.trans ht)
  have hbuf := (hshort (by decide)).2.2.2.2 (by decide)
  exact absurd hbuf (by decide)

end Sys2Proof.Claims


namespace Sys2Proof.Claims

open Sys2Proof.Machine

/-! ### Walks (R282, R284) -/

theorem mem_pushCap {α : Type} [BEq α] (n : Nat) (l : List α) (x : α) (hn : 0 < n) : x ∈ pushCap n l x := by
  unfold pushCap
  dsimp only
  rw [List.drop_append_of_le_length (by simp; omega)]
  exact List.mem_append_right _ (List.mem_singleton.mpr rfl)

theorem tlb_cacheFor (e : TlbEntry) (s : State) (c l : Nat) :
    ((cacheFor e s c).core l).tlb = if l = c then pushCap 64 (s.core c).tlb e else (s.core l).tlb := by
  unfold cacheFor
  rw [core_of_modClu, core_modCore]
  split
  · rfl
  · rfl

theorem tlb_foldl_cacheFor (e : TlbEntry) (cs : List Nat) (s : State) {l : Nat} (hl : l ∈ cs) :
    e ∈ ((cs.foldl (cacheFor e) s).core l).tlb := by
  induction cs using List.reverseRecOn with
  | nil => exact absurd hl List.not_mem_nil
  | append_singleton cs c ih =>
    rw [List.foldl_append, List.foldl_cons, List.foldl_nil, tlb_cacheFor]
    split
    · exact mem_pushCap _ _ _ (by decide)
    next h => exact ih ((List.mem_append.mp hl).resolve_right fun h' => h (List.mem_singleton.mp h'))

theorem cacheFor_keeps (e : TlbEntry) (cs : List Nat) (s : State) : (cs.foldl (cacheFor e) s).mem = s.mem ∧
    (cs.foldl (cacheFor e) s).ctxs = s.ctxs ∧ (cs.foldl (cacheFor e) s).dies = s.dies :=
  ⟨foldl_keeps State.mem (fun _ _ => by rfl) _ _, foldl_keeps State.ctxs (fun _ _ => by rfl) _ _, foldl_keeps State.dies (fun _ _ => by rfl) _ _⟩

/-- No core of a die waits for room in the walker's queue. -/
def NoMisses (s : State) (die : Nat) : Prop := ∀ k ∈ s.cores, dieOf k.1 = die → k.2.misses = []

theorem mem_set {α : Type} {m : Sparse α} {k : Nat} {v : α} {x : Nat × α} (h : x ∈ m.set k v) : x = (k, v) ∨ x ∈ m := by
  induction m with
  | nil => exact .inl (List.mem_singleton.mp h)
  | cons a m ih =>
    unfold Sparse.set at h
    split at h
    · rcases List.mem_cons.mp h with h | h
      · exact .inl h
      · exact .inr (List.mem_cons_of_mem _ h)
    · rcases List.mem_cons.mp h with h | h
      · exact .inr (h ▸ List.mem_cons_self)
      · exact (ih h).imp id (List.mem_cons_of_mem _)

theorem getD_cases {α : Type} (m : Sparse α) (k : Nat) (d : α) : m.getD k d = d ∨ (k, m.getD k d) ∈ m := by
  induction m with
  | nil => exact .inl rfl
  | cons a m ih =>
    unfold Sparse.getD
    split
    next h => exact .inr (h ▸ List.mem_cons_self)
    · exact ih.imp id (List.mem_cons_of_mem _)

theorem NoMisses.core {s : State} {die l : Nat} (h : NoMisses s die) (hl : dieOf l = die) : (s.core l).misses = [] := by
  obtain hc | hc := getD_cases s.cores l Core.reset
  · rw [State.core, hc]
    rfl
  · exact h _ hc hl

theorem NoMisses.cacheFor {s : State} {die : Nat} (h : NoMisses s die) (e : TlbEntry) (c : Nat) : NoMisses (cacheFor e s c) die := by
  intro k hk hd
  obtain rfl | hk := mem_set hk
  · exact h.core hd
  · exact h k hk hd

theorem NoMisses.foldl {die : Nat} (e : TlbEntry) (cs : List Nat) {s : State} (h : NoMisses s die) :
    NoMisses (cs.foldl (Machine.cacheFor e) s) die := by
  induction cs generalizing s with
  | nil => exact h
  | cons c cs ih => exact ih (h.cacheFor e c)

/-- With no miss waiting, nothing enters the walker's queue. -/
theorem refillWalks_none {s : State} {die : Nat} (h : NoMisses s die) : refillWalks s die = s := by
  unfold refillWalks
  rw [List.flatMap_eq_nil_iff.mpr]
  · rfl
  · intro k hk
    obtain ⟨hm, hd⟩ := List.mem_filter.mp hk
    rw [h k hm (beq_iff_eq.mp hd)]
    rfl

/-- A die whose walk is over, with the next one begun. -/
def walked (die pos : Nat) (w : WalkReq) (s : State) : State := s.modDie die fun d => { d with
  walks := d.walks.eraseIdx pos ++ d.walkQ.take 1, walkQ := d.walkQ.drop 1,
  wcache := (walkTables s w.part w.page 3 0 (s.part w.part).root).foldl (pushCap 256) d.wcache }

/-- What a walk that is over caches. -/
def walkCached (w : WalkReq) (s : State) : State :=
  match walk s w.part w.page with
  | .page p e => w.cores.foldl (cacheFor ⟨w.part, p.base, p.size, e, p.key⟩) s
  | .transFault _ _ => s
  | .accessFault _ _ => s

section

variable {s : State} {die pos : Nat} {w : WalkReq}

theorem tlbWalkComplete_run (hw : (s.die die).walks[pos]? = some w) : exec (.tlbWalkComplete die pos) s =
    .next (refillWalks (walkCached w (walked die pos w s)) die) := by
  simp only [exec_tlbWalkComplete, execTlbWalkComplete, hw]
  unfold walkCached walked
  generalize s.modDie die _ = u
  cases walk u w.part w.page with
  | page p e => rfl
  | transFault a b => rfl
  | accessFault a b => rfl

theorem walkCached_keeps (w : WalkReq) (s : State) : (walkCached w s).mem = s.mem ∧ (walkCached w s).ctxs = s.ctxs ∧
    (walkCached w s).dies = s.dies := by
  unfold walkCached
  split
  · exact cacheFor_keeps ..
  · exact ⟨rfl, rfl, rfl⟩
  · exact ⟨rfl, rfl, rfl⟩

theorem NoMisses.walkCached {die : Nat} {s : State} (h : NoMisses s die) (w : WalkReq) : NoMisses (walkCached w s) die := by
  unfold Claims.walkCached
  split
  · exact h.foldl _ _
  · exact h
  · exact h

end

/-! ### Fault replies (R285, R370) -/

theorem hub_engGiveUp (s : State) (c : Nat) : (engGiveUp s c).hub = s.hub := by
  unfold engGiveUp
  dsimp only
  rw [modCore_hub]
  exact foldl_keeps State.hub (fun _ _ => by rfl) _ _

theorem hub_deliverWaiter (va : Nat) (s : State) (w : Nat × Nat) : (deliverWaiter va s w).hub = s.hub := by
  unfold deliverWaiter
  dsimp only
  split
  · split
    · split
      · exact foldl_keeps State.hub (fun _ _ => by rfl) _ _
      · exact foldl_keeps State.hub (fun _ _ => by rfl) _ _
    · rfl
  · split
    · rw [modCtx_hub]
      split
      · exact hub_engGiveUp ..
      · rfl
    · split
      · split
        · rfl
        · rfl
      · repeat' split
        all_goals rfl

theorem hub_resumeWaiter (va : Nat) (s : State) (w : Nat × Nat) : (resumeWaiter va s w).hub = s.hub := by
  unfold resumeWaiter
  split
  · rfl
  · split
    · rfl
    · rfl

theorem svcWait_resumeWaiter (va : Nat) (s : State) (w : Nat × Nat) (c : Nat) :
    ((resumeWaiter va s w).ctx c).svcWait = if w.2 = 0 ∧ c = w.1 then none else (s.ctx c).svcWait := by
  unfold resumeWaiter
  by_cases h0 : w.2 = 0
  · rw [if_pos h0, ctx_modCtx]
    by_cases hc : c = w.1
    · rw [if_pos hc, if_pos ⟨h0, hc⟩]
    · rw [if_neg hc, if_neg fun h => hc h.2]
  · rw [if_neg h0, if_neg (show ¬ (w.2 = 0 ∧ c = w.1) from fun h => h0 h.1)]
    split
    · rw [ctx_modCtx]
      split
      next hc => rw [hc]
      · rfl
    · rfl

theorem svcWait_foldl_resumeWaiter (va : Nat) (ws : List (Nat × Nat)) (s : State) {w : Nat × Nat} (hw : w ∈ ws) (h0 : w.2 = 0) :
    ((ws.foldl (resumeWaiter va) s).ctx w.1).svcWait = none := by
  induction ws using List.reverseRecOn with
  | nil => exact absurd hw List.not_mem_nil
  | append_singleton ws x ih =>
    rw [List.foldl_append, List.foldl_cons, List.foldl_nil, svcWait_resumeWaiter]
    split
    · rfl
    next h => exact ih ((List.mem_append.mp hw).resolve_right fun h' => h (List.mem_singleton.mp h' ▸ ⟨h0, rfl⟩))

theorem ctxs_enqueueFault (s : State) (f : FaultRec) : (s.enqueueFault f).ctxs = s.ctxs := by
  unfold State.enqueueFault
  dsimp only
  split
  · rfl
  · split
    · rfl
    · rfl

/-- A state without the record that a fault reply names. -/
def faultFreed (part num : Nat) (s : State) : State :=
  s.modPart part fun p => { p with faults := p.faults.filter (fun x => x.num != num), faultWaiting := [] }

/-- What a fault reply does to the waiters of its record. -/
def answerWaiters (resume : Bool) (f : FaultRec) (s : State) : State :=
  f.waiters.foldl (if resume then resumeWaiter f.va else deliverWaiter f.va) s

theorem faultReply_run {part : Nat} {msg : List Byte} {f : FaultRec} {s : State}
    (hf : (s.part part).faults.find? (fun f => f.num == slice msg 8 8) = some f) (h2 : slice msg 0 2 = 2) (h1 : slice msg 2 1 ≤ 1) :
    exec (.faultReply part msg) s = .next ((s.part part).faultWaiting.foldl (fun s w => s.enqueueFault w)
      (answerWaiters (decide (slice msg 2 1 = 0)) f (faultFreed part f.num s))) := by
  simp only [exec_faultReply, execFaultReply, hf]
  rw [if_neg (by omega)]
  unfold answerWaiters
  simp only [decide_eq_true_eq]
  rfl

theorem answerWaiters_keeps (b : Bool) (f : FaultRec) (s : State) : (answerWaiters b f s).mem = s.mem ∧
    (answerWaiters b f s).hub = s.hub := by
  unfold answerWaiters
  cases b with
  | true => exact ⟨mem_foldl_of _ _ fun _ _ => mem_resumeWaiter .., foldl_keeps State.hub (hub_resumeWaiter _) _ _⟩
  | false => exact ⟨mem_foldl_of _ _ fun _ _ => mem_deliverWaiter .., foldl_keeps State.hub (hub_deliverWaiter _) _ _⟩

theorem deliverWaiter_engine (va : Nat) {s : State} {c : Nat} (hs : (s.ctx c).status = .running) :
    deliverWaiter va s (c, 1) = s.modCtx c fun c => c.postTrap ⟨5, 9, 0, 0, va⟩ := by
  unfold deliverWaiter
  dsimp only
  rw [if_neg (by decide), if_pos rfl, if_neg (by simp [hs])]

/-! ### Launches and invalidations (R286, R370, R371) -/

section

variable {s : State} {part : Nat} {msg : List Byte}

theorem formed_iff : s.formed part = true ↔ (s.part part).dies ≠ [] := by
  simp [State.formed]

theorem invalidation_begins (hd : (s.part part).dies ≠ []) (h : slice msg 0 2 = 3) : exec (.invalidation part msg) s =
    .next (s.modPart part fun p =>
      { p with invals := p.invals ++ [(slice msg 8 8, slice msg 16 8, slice msg 2 1 % 2 == 1)] }) :=
  eventRun_of (by simp [formed_iff.mpr hd, h]) ..

theorem invalidationDone_completes {pos : Nat} {v : Nat × Nat × Bool} (hv : (s.part part).invals[pos]? = some v)
    (hp : translatedPending s part = false) : exec (.invalidationDone part pos) s =
      .next (((dropTranslations s part v).modPart part fun p => { p with invals := p.invals.eraseIdx pos }).notify part
        (leBytes 2 0x8003 ++ leBytes 6 0 ++ leBytes 8 v.1 ++ leBytes 8 v.2.1 ++ leBytes 40 0)) := by
  simp [execInvalidationDone, hv, hp]

theorem kept_of_filter {l : List TlbEntry} {v : Nat × Nat × Bool} {e : TlbEntry} (h : e ∈ l.filter fun t => !invalHits part v t) :
    invalHits part v e = false := by
  simpa using (List.mem_filter.mp h).2

theorem dropTranslations_cores {v : Nat × Nat × Bool} {k : Nat × Core} (hk : k ∈ (dropTranslations s part v).cores) {e : TlbEntry}
    (he : e ∈ k.2.tlb) : invalHits part v e = false := by
  obtain ⟨x, -, rfl⟩ := List.mem_map.mp hk
  exact kept_of_filter he

theorem dropTranslations_clus {v : Nat × Nat × Bool} {k : Nat × Cluster} (hk : k ∈ (dropTranslations s part v).clus) {e : TlbEntry}
    (he : e ∈ k.2.tlb) : invalHits part v e = false := by
  obtain ⟨x, -, rfl⟩ := List.mem_map.mp hk
  exact kept_of_filter he

/-- A launch as its message asks for it. -/
def launchOfMsg (s : State) (part : Nat) (msg : List Byte) : Launch :=
  ⟨(s.part part).nextSeq, slice msg 8 8, if (slice msg 3 1).testBit 2 then some (slice msg 3 1 % 4) else none, slice msg 16 8,
    false, false, 0xFFFFFFFF, [], 4⟩

/-- A state with that launch in its queue. -/
def launched (s : State) (part : Nat) (msg : List Byte) : State :=
  s.modPart part fun p => { p.setQueue (slice msg 2 1) (p.queue (slice msg 2 1) ++
    [⟨p.nextSeq, slice msg 8 8, if (slice msg 3 1).testBit 2 then some (slice msg 3 1 % 4) else none, slice msg 16 8,
      false, false, 0xFFFFFFFF, [], 4⟩]) with nextSeq := p.nextSeq + 1 }

theorem part_launched : (launched s part msg).part part = { (s.part part).setQueue (slice msg 2 1)
    ((s.part part).queue (slice msg 2 1) ++ [launchOfMsg s part msg]) with nextSeq := (s.part part).nextSeq + 1 } := by
  unfold launched
  rw [part_modPart, if_pos rfl]
  rfl

theorem queue_launched (hq : slice msg 2 1 < 16) : ((launched s part msg).part part).queue (slice msg 2 1) =
    (s.part part).queue (slice msg 2 1) ++ [launchOfMsg s part msg] := by
  rw [part_launched]
  exact queue_setQueue hq ..

theorem launch_queue_of_good (h : launchBad s part msg = false) : slice msg 2 1 < 16 := by
  unfold launchBad at h
  simp only [Bool.or_eq_false_iff, decide_eq_false_iff_not, Nat.not_le] at h
  tauto

section

variable (hd : (s.part part).dies ≠ []) (h1 : slice msg 0 2 = 1)
include hd h1

theorem hostLaunch_bad (hb : launchBad s part msg = true) : exec (.hostLaunch part msg) s =
    .next (s.send (launchReply 2 0 (slice msg 24 8))) := by
  simp [execHostLaunch, formed_iff.mpr hd, h1, hb]

theorem hostLaunch_full (hb : launchBad s part msg = false) (hq : 64 ≤ ((s.part part).queue (slice msg 2 1)).length) :
    exec (.hostLaunch part msg) s = .next (s.send (launchReply 1 0 (slice msg 24 8))) := by
  simp [execHostLaunch, formed_iff.mpr hd, h1, hb, enqueueLaunch, hq]

theorem hostLaunch_enters (hb : launchBad s part msg = false) (hq : ((s.part part).queue (slice msg 2 1)).length < 64) :
    exec (.hostLaunch part msg) s =
      .next ((launched s part msg).send (launchReply 0 (s.part part).nextSeq (slice msg 24 8))) := by
  simp only [exec_hostLaunch, execHostLaunch, formed_iff.mpr hd, h1, hb, enqueueLaunch, if_neg (Nat.not_le.mpr hq)]
  rfl

end

theorem unknownLaunchMessage_answers (h : slice msg 0 2 ∉ [1, 2, 3]) (hd : (s.part part).dies ≠ []) :
    exec (.unknownLaunchMessage part msg) s = .next (s.send (leBytes 2 0x80FF ++ leBytes 62 0)) := by
  simp only [List.mem_cons, List.not_mem_nil, or_false, not_or] at h
  simp [execUnknownLaunchMessage, formed_iff.mpr hd, h]

/-- A partition that is not formed takes no message of its launch endpoint. -/
theorem launch_unformed (hd : (s.part part).dies = []) : exec (.hostLaunch part msg) s = .next s ∧
    exec (.invalidation part msg) s = .next s ∧ exec (.unknownLaunchMessage part msg) s = .next s := by
  refine ⟨?_, ?_, ?_⟩
  · simp [execHostLaunch, State.formed, hd]
  · simp [execInvalidation, State.formed, hd, eventRun]
  · simp [execUnknownLaunchMessage, State.formed, hd]

end

/-! ### Inbound accesses (R318, R368, R372) -/

section

variable {s : State} {q : Requester} {k : Host.Outcome State Fault Refusal}

theorem inbound_takes (hd : (s.part q.part).dies ≠ []) (ht : (s.part q.part).takes q.src q.secured = true) : inbound s q k = k := by
  simp [inbound, formed_iff.mpr hd, ht]

theorem inbound_unformed (hd : (s.part q.part).dies = []) : inbound s q k = .next s := by
  simp [inbound, State.formed, hd]

theorem inbound_refuses (hd : (s.part q.part).dies ≠ []) (ht : (s.part q.part).takes q.src q.secured = false) :
    inbound s q k = .next (s.logError q.part errPacket 1) := by
  simp [inbound, formed_iff.mpr hd, ht]

theorem out_logError (s : State) (p c i : Nat) : (s.logError p c i).hub.out = s.hub.out := by
  unfold State.logError State.logRec
  rw [hub_modHub]
  dsimp only
  split
  · rfl
  · rfl

end

theorem takes_false {p : Part} {src : Option Nat} {secured : Bool}
    (h : (secured = false ∧ p.memSecure = true) ∨ (∃ a, src = some a ∧ some a ∉ p.peers.toList)) : p.takes src secured = false := by
  unfold Part.takes
  obtain ⟨hs, hm⟩ | ⟨a, rfl, ha⟩ := h
  · simp [hs, hm]
  · simp only [Option.all_some, Bool.and_eq_false_iff]
    exact .inr (by simpa using ha)

section

variable {s : State} {q : Requester} {addr : Nat}

theorem rmaRead_run (len : Nat) : exec (.inboundRmaRead q addr len) s = inbound s q
    (if 2 ^ 32 < len then .next (s.send [answerUnsupported])
      else match inKeys s q.part true false addr len with
        | some ks => .next (s.send (answerOk :: ks.map (memGet s.mem)))
        | none => .next (s.send [answerAccess])) := rfl

theorem rmaWrite_run (data : List Byte) : exec (.inboundRmaWrite q addr data) s = inbound s q
    (if 2 ^ 32 < data.length then .next (s.send [answerUnsupported])
      else match inKeys s q.part false true addr data.length with
        | some ks => .next ((s.putCells (ks.zip data)).send [answerOk])
        | none => .next (s.send [answerAccess])) := rfl

end

end Sys2Proof.Claims


namespace Sys2Proof.Claims

open Sys2Proof.Machine

theorem part_notify (s : State) (p q : Nat) (m : List Byte) : (s.notify p m).part q = s.part q := rfl

/-! ### Inbound atomics (R318) -/

/-- Whether an inbound atomic is one that the module supports. -/
def AtomicOk (src : Option Nat) (addr op size : Nat) : Prop :=
  src = none ∧ op ≤ 4 ∧ (size = 4 ∨ size = 8) ∧ (op = 4 → size = 4) ∧ addr % size = 0

theorem atomicOk_iff {src : Option Nat} {addr op size : Nat} : AtomicOk src addr op size ↔
    ¬ (src.isSome = true ∨ 4 < op ∨ (size ≠ 4 ∧ size ≠ 8) ∨ (op = 4 ∧ size ≠ 4) ∨ addr % size ≠ 0) := by
  unfold AtomicOk
  cases src with
  | none => simp; omega
  | some a => simp

/-- The word that an inbound atomic leaves. -/
theorem inAtomNew_eq {op size : Nat} (old operand compare : Nat) (ho : op ≤ 4) (hs : op = 4 → size = 4) :
    inAtomNew op size old operand compare = if op < 2 then (old + operand) % 2 ^ (8 * size)
      else if op = 4 then (fAdd fmtF32 .rne (decodeF fmtF32 old) (decodeF fmtF32 (operand % 2 ^ (8 * size)))).bits
      else if op = 2 ∨ old = compare % 2 ^ (8 * size) then operand % 2 ^ (8 * size) else old := by
  unfold inAtomNew
  by_cases h1 : op ≤ 1
  · rw [if_pos h1, if_pos (show op < 2 by omega)]
  · rw [if_neg h1, if_neg (show ¬ op < 2 by omega)]
    by_cases h2 : op = 2
    · rw [if_pos h2, if_neg (show ¬ op = 4 by omega), if_pos (.inl h2)]
    · rw [if_neg h2]
      by_cases h3 : op = 3
      · rw [if_pos h3, if_neg (show ¬ op = 4 by omega)]
        exact if_congr (by simp [h2]) rfl rfl
      · have h4 : op = 4 := by omega
        rw [if_neg h3, if_pos h4, hs h4]
        rfl

section

variable {s : State} {q : Requester} {addr op size operand compare : Nat}

/-- An inbound atomic that its endpoint takes. -/
def atomicTaken (q : Requester) (addr op size operand compare : Nat) (s : State) : Host.Outcome State Fault Refusal :=
  if q.src.isSome = true ∨ 4 < op ∨ (size ≠ 4 ∧ size ≠ 8) ∨ (op = 4 ∧ size ≠ 4) ∨ addr % size ≠ 0 then .next (s.send [answerUnsupported])
  else
    match inKeys s q.part true true addr size with
    | none => .next (s.send [answerAccess])
    | some ks => .next ((s.putCells (ks.zip (leBytes size (inAtomNew op size (leNat (ks.map (memGet s.mem))) operand compare)))).send
        (answerOk :: (if op = 1 ∨ op = 4 then [] else leBytes size (leNat (ks.map (memGet s.mem))))))

theorem inboundAtomic_run : exec (.inboundAtomic q addr op size operand compare) s =
    inbound s q (atomicTaken q addr op size operand compare s) := rfl

theorem atomicTaken_unsupported (h : ¬ AtomicOk q.src addr op size) :
    atomicTaken q addr op size operand compare s = .next (s.send [answerUnsupported]) :=
  if_pos (not_not.mp (mt atomicOk_iff.mpr h))

theorem atomicTaken_refused (h : AtomicOk q.src addr op size) (hk : inKeys s q.part true true addr size = none) :
    atomicTaken q addr op size operand compare s = .next (s.send [answerAccess]) := by
  rw [atomicTaken, if_neg (atomicOk_iff.mp h), hk]

theorem atomicTaken_acts (h : AtomicOk q.src addr op size) {ks : List Nat} (hk : inKeys s q.part true true addr size = some ks) :
    atomicTaken q addr op size operand compare s =
      .next ((s.putCells (ks.zip (leBytes size (inAtomNew op size (leNat (ks.map (memGet s.mem))) operand compare)))).send
        (answerOk :: (if op = 1 ∨ op = 4 then [] else leBytes size (leNat (ks.map (memGet s.mem)))))) := by
  rw [atomicTaken, if_neg (atomicOk_iff.mp h), hk]

/-- An inbound access of any kind runs behind the checks of its endpoint. -/
theorem inbound_of_access {i : Instr} (h : (∃ a n, i = .inboundRmaRead q a n) ∨ (∃ a d, i = .inboundRmaWrite q a d) ∨
    ∃ a o z x c, i = .inboundAtomic q a o z x c) : ∃ k, exec i s = inbound s q k := by
  obtain ⟨a, n, rfl⟩ | ⟨a, d, rfl⟩ | ⟨a, o, z, x, c, rfl⟩ := h
  · exact ⟨_, rmaRead_run n⟩
  · exact ⟨_, rmaWrite_run d⟩
  · exact ⟨_, inboundAtomic_run⟩

end

/-! ### Error responses of the remote side (R374) -/

section

variable {s : State} {cid pos : Nat}

/-- The trap of a read that an error response ends. -/
def readTrap (s : State) (cid : Nat) (a : MAcc) : BoundaryTrap :=
  ⟨6, ((((s.dropM cid a.seq).ctx cid).r.land.find? fun q : MReq => q.id == a.req).map MReq.port).getD 6, 0, 0, a.va⟩

/-- A context whose read an error response ends. -/
def readFailed (s : State) (cid : Nat) (a : MAcc) (c : Ctx) : Ctx :=
  { c with r := { c.r with land := c.r.land.filter fun q => q.id != a.req } }.postTrap (readTrap s cid a)

section

variable {a : MAcc} (hp : pos < 1000) (ha : (s.ctx cid).mq[pos]? = some a) (hh : a.host = true)
include hp ha hh

theorem remoteError_queue : exec (.remoteErrorResponse cid pos) s =
    if s.mayPerform cid a then .next ((s.dropM cid a.seq).modCtx cid (readFailed s cid a))
    else if a.kind == .release && decide (4 ≤ a.scope) && s.mayLeave cid a then .next ((s.dropM cid a.seq).modCtx cid Ctx.writeFailed)
    else .next s := by
  simp only [exec_remoteErrorResponse, execRemoteErrorResponse]
  rw [if_neg (by omega), if_neg (by omega), if_neg (by omega), if_pos hp, ha]
  simp only [hh, Bool.true_and]
  rfl

theorem remoteError_load (hm : s.mayPerform cid a = true) : exec (.remoteErrorResponse cid pos) s =
    .next ((s.dropM cid a.seq).modCtx cid (readFailed s cid a)) :=
  (remoteError_queue hp ha hh).trans (if_pos hm)

theorem remoteError_early (hl : a.kind.isLoad = true) (hm : s.mayPerform cid a = false) :
    exec (.remoteErrorResponse cid pos) s = .next s := by
  rw [remoteError_queue hp ha hh, if_neg (by simp [hm]), if_neg]
  simp only [Bool.and_eq_true, beq_iff_eq, not_and]
  rintro ⟨hk, -⟩
  rw [hk] at hl
  exact absurd hl Bool.false_ne_true

theorem remoteError_release (hk : a.kind = .release) (hsc : 4 ≤ a.scope) (hm : s.mayLeave cid a = true) :
    exec (.remoteErrorResponse cid pos) s = .next ((s.dropM cid a.seq).modCtx cid Ctx.writeFailed) := by
  rw [remoteError_queue hp ha hh, if_neg (by simp [State.mayPerform, hk, MKind.isLoad]), if_pos (by simp [hk, hsc, hm])]

end

theorem ctx_dropM (s : State) (cid seq : Nat) : (s.dropM cid seq).ctx cid =
    { s.ctx cid with mq := (s.ctx cid).mq.filter fun a => a.seq != seq || a.kind.isFence } := by
  rw [State.dropM, ctx_modCtx, if_pos rfl]

theorem writeFailed_fatal {c : Ctx} (h : c.status ≠ .ending) : c.writeFailed.hTraps = c.hTraps ++ [⟨6, 9, 0, 0, 0⟩] := by
  rw [Ctx.writeFailed, if_neg h]

theorem writeFailed_ending {c : Ctx} (h : c.status = .ending) (hf : c.firstFail = none) :
    c.writeFailed.firstFail.map (fun e => (e.status, e.cause)) = some (2, 6) := by
  rw [Ctx.writeFailed, if_pos h, hf]
  rfl

/-- A copy that reads from the remote side is held with an access fault. -/
theorem remoteError_copy {va i : Nat} {k : Copy} (hv : va < 2 ^ 64) (hi : i < 2 ^ 60) (hr : remoteVa s cid va = true)
    (hk : (s.ctx cid).copies[i]? = some k) (hh : k.held = none) : exec (.remoteErrorResponse cid ((3 + 3 * i) * 2 ^ 64 + va)) s =
      .next ((setCopy s cid i { k with held := some (6, va) }).modCtx cid fun x => x.postTrap ⟨6, 9, 0, 0, va⟩) := by
  simp only [exec_remoteErrorResponse, execRemoteErrorResponse]
  have hm : ((3 + 3 * i) * 2 ^ 64 + va) % 2 ^ 64 = va := by omega
  have hd : ((3 + 3 * i) * 2 ^ 64 + va) / 2 ^ 64 - 1 = 3 * i + 2 := by omega
  rw [if_neg (by omega), if_neg (by omega), if_pos (by omega), hm, if_pos hr, hd, engineRemoteError]
  have hq : (3 * i + 2 - 2) / 3 = i := by omega
  rw [if_neg (by omega), if_neg (by omega), if_pos (by omega), hq, hk]
  dsimp only
  rw [hh]
  rfl

section

variable (hp : 1000 ≤ pos) (hp' : pos < 2 ^ 64)
include hp hp'

theorem remoteError_bridge_none (h : takeWrite s.hub.bridge (pos - 1000) = none) :
    exec (.remoteErrorResponse cid pos) s = .next s := by
  simp only [exec_remoteErrorResponse, execRemoteErrorResponse]
  rw [if_neg (by omega), if_neg (by omega), if_neg (by omega), if_neg (by omega), h]

theorem remoteError_bridge {w : BufWrite} {rest : List BufWrite} (h : takeWrite s.hub.bridge (pos - 1000) = some (w, rest))
    (hc : w.cid = cid) (ho : w.ofHub = false) : exec (.remoteErrorResponse cid pos) s =
      .next ((s.modHub fun h => { h with bridge := rest }).modCtx cid Ctx.writeFailed) := by
  simp only [exec_remoteErrorResponse, execRemoteErrorResponse]
  rw [if_neg (by omega), if_neg (by omega), if_neg (by omega), if_neg (by omega), h]
  dsimp only
  rw [if_neg (by simp [ho]), if_pos hc]

end

end

/-! ### Packets -/

theorem unsupportedPacket_recovery {part answered : Nat} {s : State} (h : s.hub.recovery = true) :
    exec (.unsupportedPacket part answered) s = .next s := by
  simp [execUnsupportedPacket, h]

theorem unsupportedPacket_run (part answered : Nat) {s : State} (h : s.hub.recovery = false) :
    exec (.unsupportedPacket part answered) s =
      .next (if answered = 1 then s.send [answerUnsupported] else s.logError part errPacket 0) := by
  simp only [exec_unsupportedPacket, execUnsupportedPacket, h, Bool.false_eq_true, if_false]
  split
  · rfl
  · rfl

/-- Settles O57: the state each message leaves, read at the units that it reaches. -/
theorem hostEventsHappen : Obligations.HostEventsHappen := by
  refine ⟨?_, ?_, ?_, ?_, ?_, ?_, ?_, ?_, ?_, ?_, ?_, ?_, ?_, ?_, ?_, ?_, ?_, ?_⟩
  · intro die pos w s hw hmiss u
    have hnone : NoMisses (walkCached w u) die := NoMisses.walkCached (s := u) hmiss w
    obtain ⟨hm, hc, hd⟩ := walkCached_keeps w u
    have hdie : (walkCached w u).die die = u.die die := congrArg (Sparse.getD · die Die.reset) hd
    refine ⟨walkCached w u, (tlbWalkComplete_run hw).trans (congrArg Host.Outcome.next (refillWalks_none hnone)), hm, hc, ?_, ?_,
      fun p e hwalk l hl => ?_⟩
    · rw [hdie, die_modDie, if_pos rfl]
    · rw [hdie, die_modDie, if_pos rfl]
    · rw [walkCached, hwalk]
      exact tlb_foldl_cacheFor _ _ _ hl
  · intro part msg f s hf h2 h1
    obtain ⟨hm, hh⟩ := answerWaiters_keeps (decide (slice msg 2 1 = 0)) f (faultFreed part f.num s)
    have hctxs (t : State) : ((s.part part).faultWaiting.foldl (fun s w => s.enqueueFault w) t).ctxs = t.ctxs :=
      ctxs_foldl_of _ _ fun _ _ => ctxs_enqueueFault ..
    refine ⟨_, faultReply_run hf h2 h1, ?_, fun hw => ?_, fun h0 w hw h => ?_, fun h c hc hs hi => ?_⟩
    · exact (mem_foldl_of _ _ fun _ _ => mem_enqueueFault ..).trans hm
    · rw [hw, List.foldl_nil, part_of_parts (congrArg Hub.parts hh), faultFreed, part_modPart, if_pos rfl]
    · rw [ctx_of_ctxs (hctxs _), answerWaiters, decide_eq_true h0, if_pos rfl]
      exact svcWait_foldl_resumeWaiter _ _ _ hw h
    · rw [ctx_of_ctxs (hctxs _), answerWaiters, hc, if_neg (by simp [h]), List.foldl_cons, List.foldl_nil,
        deliverWaiter_engine f.va (s := faultFreed part f.num s) hs, ctx_modCtx, if_pos rfl]
      exact congrArg Ctx.traps (postTrap_outside (fun h => TStatus.noConfusion (hs.symm.trans h)) hi)
  · intro part msg s hd h
    refine ⟨_, invalidation_begins hd h, rfl, ?_⟩
    rw [part_modPart, if_pos rfl]
  · intro part pos v s hv hp
    refine ⟨_, invalidationDone_completes hv hp, ?_, rfl, rfl, fun k hk e he => dropTranslations_cores hk he,
      fun k hk e he => dropTranslations_clus hk he⟩
    rw [part_notify, part_modPart, if_pos rfl]
    rfl
  · intro part msg s hd h1
    refine ⟨hostLaunch_bad hd h1, hostLaunch_full hd h1, fun hb hq => ?_⟩
    refine ⟨_, launchOfMsg s part msg, hostLaunch_enters hd h1 hb hq, rfl, queue_launched (launch_queue_of_good hb), rfl, rfl, rfl,
      ?_, rfl⟩
    exact congrArg Part.nextSeq part_launched
  · intro part msg s h hd
    exact ⟨_, unknownLaunchMessage_answers h hd, rfl, rfl⟩
  · intro part src secured addr len s hd ht
    have hrun := (rmaRead_run (s := s) (q := ⟨part, src, secured⟩) (addr := addr) len).trans (inbound_takes hd ht)
    by_cases hl : 2 ^ 32 < len
    · exact ⟨_, hrun.trans (if_pos hl), rfl, rfl, fun _ => answered_send _ rfl, fun h => absurd hl (Nat.not_lt.mpr h)⟩
    · rw [if_neg hl] at hrun
      cases hk : inKeys s part true false addr len with
      | none =>
        rw [hk] at hrun
        exact ⟨_, hrun, rfl, rfl, fun h => absurd h hl, fun _ => rfl⟩
      | some ks =>
        rw [hk] at hrun
        exact ⟨_, hrun, rfl, rfl, fun h => absurd h hl, fun _ => rfl⟩
  · intro part src secured addr data s hd ht
    have hrun := (rmaWrite_run (s := s) (q := ⟨part, src, secured⟩) (addr := addr) data).trans (inbound_takes hd ht)
    by_cases hl : 2 ^ 32 < data.length
    · exact ⟨_, hrun.trans (if_pos hl), rfl, fun _ => ⟨rfl, answered_send _ rfl⟩, fun _ h => absurd hl (Nat.not_lt.mpr h),
        fun h => absurd hl (Nat.not_lt.mpr h)⟩
    · rw [if_neg hl] at hrun
      cases hk : inKeys s part false true addr data.length with
      | none =>
        rw [hk] at hrun
        exact ⟨_, hrun, rfl, fun h => absurd h hl, (fun _ _ h => nomatch h), fun _ _ => ⟨rfl, answered_send _ rfl⟩⟩
      | some ks =>
        rw [hk] at hrun
        refine ⟨_, hrun, rfl, fun h => absurd h hl, fun _ _ h => ?_, (fun _ h => nomatch h)⟩
        cases h
        exact ⟨rfl, answered_send _ rfl⟩
  · intro part src secured addr op size operand compare s hd ht ok
    have hrun := (inboundAtomic_run (s := s) (q := ⟨part, src, secured⟩) (addr := addr) (op := op) (size := size) (operand := operand)
      (compare := compare)).trans (inbound_takes hd ht)
    by_cases h : AtomicOk src addr op size
    · cases hk : inKeys s part true true addr size with
      | none =>
        exact ⟨_, hrun.trans (atomicTaken_refused h hk), rfl, fun h' => absurd h h', fun _ _ => ⟨rfl, answered_send _ rfl⟩,
          (fun _ _ h => nomatch h)⟩
      | some ks =>
        refine ⟨_, hrun.trans (atomicTaken_acts h hk), rfl, fun h' => absurd h h', (fun _ h => nomatch h), fun _ _ h' => ?_⟩
        cases h'
        obtain ⟨-, ho, -, h4, -⟩ := h
        rw [inAtomNew_eq _ _ _ ho h4]
        exact ⟨rfl, rfl⟩
    · exact ⟨_, hrun.trans (atomicTaken_unsupported h), rfl, fun _ => ⟨rfl, answered_send _ rfl⟩, fun h' => absurd h' h,
        fun _ h' => absurd h' h⟩
  · intro i part src secured s hi
    obtain ⟨k, hk⟩ := inbound_of_access (s := s) hi
    refine ⟨fun hd => hk.trans (inbound_unformed hd), fun hd hr => ?_⟩
    exact ⟨_, hk.trans (inbound_refuses hd (takes_false hr)), rfl, rfl, out_logError ..⟩
  · rintro i part s hd ⟨m, rfl | rfl | rfl⟩
    · exact (launch_unformed hd).1
    · exact (launch_unformed hd).2.1
    · exact (launch_unformed hd).2.2
  · intro cid pos a s hp ha hh hl
    refine ⟨fun hm hs hi => ?_, remoteError_early hp ha hh hl⟩
    refine ⟨_, readTrap s cid a, remoteError_load hp ha hh hm, rfl, ?_, rfl, rfl⟩
    rw [ctx_modCtx, if_pos rfl, readFailed, postTrap_outside, ctx_dropM]
    · rw [ctx_dropM]
      exact fun h => TStatus.noConfusion (hs.symm.trans h)
    · rw [ctx_dropM]
      exact hi
  · intro cid pos a s hp ha hh hk hsc hm hs
    refine ⟨_, remoteError_release hp ha hh hk hsc hm, rfl, ?_⟩
    rw [ctx_modCtx, if_pos rfl, ctx_dropM, writeFailed_fatal]
    exact hs
  · intro cid va i k s hv hi hr hk hh hs hin
    refine ⟨_, remoteError_copy hv hi hr hk hh, rfl, ?_, ?_⟩
    · rw [ctx_modCtx, if_pos rfl, setCopy, ctx_modCtx, if_pos rfl, postTrap_outside]
      · exact fun h => TStatus.noConfusion (hs.symm.trans h)
      · exact hin
    · rw [ctx_modCtx, if_pos rfl, setCopy, ctx_modCtx, if_pos rfl, postTrap_outside]
      · simp [(List.getElem?_eq_some_iff.mp hk).1]
      · exact fun h => TStatus.noConfusion (hs.symm.trans h)
      · exact hin
  · intro cid pos s hp hp' h
    exact remoteError_bridge_none hp hp' h
  · intro cid pos w rest s hp hp' h hc ho
    refine ⟨_, remoteError_bridge hp hp' h hc ho, rfl, rfl, fun hs => ?_, fun hs hf => ?_⟩
    · rw [ctx_modCtx, if_pos rfl, ctx_of_modHub, writeFailed_fatal hs]
    · rw [ctx_modCtx, if_pos rfl, ctx_of_modHub, writeFailed_ending hs hf]
  · intro part answered s h
    exact unsupportedPacket_recovery h
  · intro part answered s h
    refine ⟨_, unsupportedPacket_run part answered h, ?_, ?_, fun ha => ?_, fun ha => ?_⟩
    · split
      · rfl
      · rfl
    · split
      · rfl
      · rfl
    · rw [if_pos ha]
      exact answered_send _ rfl
    · rw [if_neg ha]
      exact out_logError ..

end Sys2Proof.Claims


namespace Sys2Proof.Claims

open Sys2Proof.Machine

/-! ### A bundle begins in one context -/

theorem writeS_pc (r : Regs) (n : BitVec 6) (v : SVal) : (r.writeS n v).pc = r.pc := by
  unfold Regs.writeS
  split
  · rfl
  · rfl

theorem writeLatch_pc (r : Regs) (n : Nat) (v : Latch) : (r.writeLatch n v).pc = r.pc := by
  unfold Regs.writeLatch
  split
  · rfl
  · rfl

theorem fixLink_pc (r : Regs) (v : Word) (l : Link) : (r.fixLink v l).pc = r.pc := by
  have h : (if r.readS 63 = SVal.mkOk l.guess then r.writeS 63 (SVal.mkOk v) else r).pc = r.pc := by
    split
    · exact writeS_pc ..
    · rfl
  unfold Regs.fixLink
  dsimp only
  generalize (if r.readS 63 = SVal.mkOk l.guess then r.writeS 63 (SVal.mkOk v) else r) = r' at h ⊢
  split
  · exact (writeLatch_pc ..).trans h
  · exact h

theorem fixLinks_pc (c : Ctx) (v : Word) : (c.fixLinks v).r.pc = c.r.pc :=
  foldl_keeps Regs.pc (fun _ _ => fixLink_pc ..) _ _

section

variable (c : Ctx) (pc : Word) (op cc : Nat) (m : Bool) (f : Fetch)

theorem startBundle_bun : (c.startBundle pc op cc m f).bun.pc = pc ∧ (c.startBundle pc op cc m f).bun.len = f.len ∧
    (c.startBundle pc op cc m f).bun.skip = c.bun.nextSkip := ⟨rfl, rfl, rfl⟩

theorem startBundle_rest : (c.startBundle pc op cc m f).fused = c.fused ∧ (c.startBundle pc op cc m f).bind = c.bind ∧
    (c.startBundle pc op cc m f).brk = c.brk := ⟨rfl, rfl, rfl⟩

theorem startBundle_r (h : pc = c.r.pc) : (c.startBundle pc op cc m f).r = (c.fixLinks (pc + BitVec.ofNat 64 f.len)).r := by
  show { (c.fixLinks (pc + BitVec.ofNat 64 f.len)).r with pc := pc } = _
  have hpc := (fixLinks_pc c (pc + BitVec.ofNat 64 f.len)).trans h.symm
  generalize (c.fixLinks (pc + BitVec.ofNat 64 f.len)).r = r at hpc ⊢
  rw [← hpc]

end

theorem matching_unset {c : Ctx} (h : c.brk = Vector.replicate 4 none) (pc : Word) (n : Nat) : c.matching pc n = none := by
  unfold Ctx.matching
  rw [h, List.find?_eq_none]
  intro i hi
  have hi4 : i < 4 := List.mem_range.mp hi
  interval_cases i
  all_goals simp

theorem gangOf_single {s : State} {cid : Nat} (h : Single s cid) : s.gangOf cid = [cid] := by
  unfold State.gangOf
  dsimp only
  rw [if_neg]
  obtain h | h := h
  · simp [h]
  · simp [Nat.not_lt.mpr h]

theorem fetcher_single {s : State} {cid : Nat} (h : Single s cid) : s.fetcher cid = cid := by
  unfold State.fetcher
  rw [if_neg]
  obtain h | h := h
  · simp [h]
  · simp [Nat.not_lt.mpr h]

theorem single_of_ctx {s t : State} {cid : Nat} (h : Single s cid) (hf : (t.ctx cid).fused = (s.ctx cid).fused)
    (hb : (t.ctx cid).bind = (s.ctx cid).bind) : Single t cid := by
  unfold Single
  rw [hf, hb]
  exact h

/-! ### The start of an issue -/

/-- A bundle begins to issue in a context and its gang. -/
def startOne (core n : Nat) (s : State) (x : Nat × Fetch) : State :=
  let pc := (s.ctx (s.fetcher x.1)).r.pc
  let s := s.noteSpan 0 (s.fetcher x.1) (2 * pc.toNat % 2 ^ 64) (2 * x.2.len)
  (s.gangOf x.1).foldl (fun s i => s.modCtx i fun c =>
    c.startBundle pc (s.core core).op (s.core (coreOf i)).cc (slotOf i == 1 && decide (1 < n)) x.2) s

theorem mem_startOne (core n : Nat) (s : State) (x : Nat × Fetch) : (startOne core n s x).mem = s.mem := by
  unfold startOne
  exact (foldl_keeps State.mem (fun _ _ => by rfl) _ _).trans (mem_noteSpan ..)

/-- The state in which a context's bundle has been fetched. -/
def fetched (s : State) (cid : Nat) (f : Fetch) : State :=
  s.noteSpan 0 (s.fetcher cid) (2 * (s.ctx (s.fetcher cid)).r.pc.toNat % 2 ^ 64) (2 * f.len)

theorem ctx_fetched (s : State) (cid : Nat) (f : Fetch) (j : Nat) : (fetched s cid f).ctx j = s.ctx j := ctx_noteSpan ..

/-- What a context alone has once its bundle has begun; every other context is as before. -/
theorem ctx_startOne {s : State} {cid : Nat} (h : Single s cid) (core n : Nat) (f : Fetch) (j : Nat) :
    (startOne core n s (cid, f)).ctx j = if j = cid then (s.ctx cid).startBundle (s.ctx cid).r.pc ((fetched s cid f).core core).op
      ((fetched s cid f).core (coreOf cid)).cc (slotOf cid == 1 && decide (1 < n)) f else s.ctx j := by
  have hs : Single (fetched s cid f) cid :=
    single_of_ctx h (congrArg Ctx.fused (ctx_fetched ..)) (congrArg Ctx.bind (ctx_fetched ..))
  show State.ctx (List.foldl _ (fetched s cid f) ((fetched s cid f).gangOf cid)) j = _
  rw [gangOf_single hs, List.foldl_cons, List.foldl_nil, ctx_modCtx, ctx_fetched, ctx_fetched, fetcher_single h]

/-- The slots that wait once some bundles have begun. -/
def waitingSlots (t : State) (fs : List (Nat × Fetch)) : List SlotWord :=
  fs.flatMap fun x => (List.range 10).flatMap fun n => (t.gangOf x.1).filterMap fun i => (t.ctx i).slotWord i x.2 n

theorem gangOf_of_ctxs {s t : State} (h : t.ctxs = s.ctxs) (i : Nat) : t.gangOf i = s.gangOf i := by
  unfold State.gangOf
  rw [h, ctx_of_ctxs h]

theorem waitingSlots_of_ctxs {s t : State} (h : t.ctxs = s.ctxs) (fs : List (Nat × Fetch)) : waitingSlots t fs = waitingSlots s fs := by
  unfold waitingSlots
  simp only [gangOf_of_ctxs h, ctx_of_ctxs h]

section

variable (base s : State) (core : Nat) (fs : List (Nat × Fetch))

theorem startIssue_ctxs : (base.startIssue s core fs).ctxs = (fs.foldl (startOne core fs.length) s).ctxs :=
  foldl_keeps State.ctxs (fun _ _ => by rfl) _ _

theorem startIssue_issue : (base.startIssue s core fs).issue = waitingSlots (fs.foldl (startOne core fs.length) s) fs :=
  waitingSlots_of_ctxs (startIssue_ctxs base s core fs) fs

theorem startIssue_issuing : (base.startIssue s core fs).issuing = fs.flatMap fun x => (fs.foldl (startOne core fs.length) s).gangOf x.1 := by
  have h := fun i => gangOf_of_ctxs (startIssue_ctxs base s core fs) i
  exact List.flatMap_congr fun x _ => h x.1

end

section

variable {s t : State} {cid : Nat} (h : Alone s cid) {f : Fetch} {op cc : Nat} {m : Bool}
variable (ht : t.ctx cid = (s.ctx cid).startBundle (s.ctx cid).r.pc op cc m f)
include h ht

theorem gangOf_begun : t.gangOf cid = [cid] := by
  obtain ⟨hf, hb, -⟩ := startBundle_rest (s.ctx cid) (s.ctx cid).r.pc op cc m f
  exact gangOf_single (single_of_ctx h.1 ((congrArg Ctx.fused ht).trans hf) ((congrArg Ctx.bind ht).trans hb))

theorem slotWord_begun (n : Nat) : (t.ctx cid).slotWord cid f n =
    if (s.ctx cid).bun.nextSkip.getLsbD n = false ∧ f.slot n ≠ 0 then some ⟨cid, n, f.slot n⟩ else none := by
  obtain ⟨-, -, hskip⟩ := startBundle_bun (s.ctx cid) (s.ctx cid).r.pc op cc m f
  obtain ⟨-, -, hbrk⟩ := startBundle_rest (s.ctx cid) (s.ctx cid).r.pc op cc m f
  unfold Ctx.slotWord
  rw [matching_unset ((congrArg Ctx.brk ht).trans (hbrk.trans h.2.2)), ht, hskip]
  cases (s.ctx cid).bun.nextSkip.getLsbD n with
  | true => simp
  | false => simp

/-- The slots of a context alone, once its bundle has begun. -/
theorem slots_begun : ((List.range 10).flatMap fun n => (t.gangOf cid).filterMap fun i => (t.ctx i).slotWord i f n) =
    slotsOf cid f (s.ctx cid).bun.nextSkip := by
  unfold slotsOf
  rw [List.filterMap_eq_flatMap_toList, gangOf_begun h ht]
  refine List.flatMap_congr fun n _ => ?_
  rw [← slotWord_begun h ht n]
  cases hw : (t.ctx cid).slotWord cid f n with
  | none => simp [hw]
  | some w => simp [hw]

omit h in
theorem starts_begun {u : State} (hu : u.ctx cid = t.ctx cid) : Starts s u cid f := by
  obtain ⟨hpc, hlen, -⟩ := startBundle_bun (s.ctx cid) (s.ctx cid).r.pc op cc m f
  rw [Starts, hu, ht]
  exact ⟨hpc, hlen, startBundle_r _ _ _ _ _ _ rfl⟩

end

/-- The bundle of a context alone begins. -/
theorem startIssue_begins {base s s' : State} {cid : Nat} (core : Nat) (h : Alone s cid) (f : Fetch) (hc : s'.ctxs = s.ctxs) (hm : s'.mem = s.mem) :
    Begins s (base.startIssue s' core [(cid, f)]) cid f := by
  have hctx := ctx_of_ctxs hc cid
  have hs : Single s' cid := single_of_ctx h.1 (congrArg Ctx.fused hctx) (congrArg Ctx.bind hctx)
  have ht := (ctx_startOne hs core 1 f cid).trans (if_pos rfl)
  rw [hctx] at ht
  have hb := startIssue_ctxs base s' core [(cid, f)]
  refine ⟨?_, ?_, ?_, starts_begun ht (ctx_of_ctxs hb cid)⟩
  · rw [startIssue_issue]
    exact (List.flatMap_cons ..).trans ((List.append_nil _).trans (slots_begun h ht))
  · rw [startIssue_issuing]
    exact (List.flatMap_cons ..).trans ((List.append_nil _).trans (gangOf_begun h ht))
  · exact (mem_startIssue ..).trans hm

theorem single_of_ctxs {s t : State} (h : t.ctxs = s.ctxs) {cid : Nat} (hs : Single s cid) : Single t cid :=
  single_of_ctx hs (congrArg Ctx.fused (ctx_of_ctxs h cid)) (congrArg Ctx.bind (ctx_of_ctxs h cid))

/-- The bundles of both contexts of a core begin, merged. -/
theorem startIssue_merges {base s s' : State} {a b : Nat} (core : Nat) (hab : a ≠ b) (ha : Alone s a) (hb : Alone s b) (fa fb : Fetch)
    (hc : s'.ctxs = s.ctxs) (hm : s'.mem = s.mem) :
    (base.startIssue s' core [(a, fa), (b, fb)]).issue = slotsOf a fa (s.ctx a).bun.nextSkip ++ slotsOf b fb (s.ctx b).bun.nextSkip ∧
      (base.startIssue s' core [(a, fa), (b, fb)]).issuing = [a, b] ∧ (base.startIssue s' core [(a, fa), (b, fb)]).mem = s.mem ∧
      Starts s (base.startIssue s' core [(a, fa), (b, fb)]) a fa ∧ Starts s (base.startIssue s' core [(a, fa), (b, fb)]) b fb := by
  have h1 := ctx_startOne (single_of_ctxs hc ha.1) core 2 fa
  have hb1 : (startOne core 2 s' (a, fa)).ctx b = s.ctx b := (h1 b).trans ((if_neg hab.symm).trans (ctx_of_ctxs hc b))
  have hs1 : Single (startOne core 2 s' (a, fa)) b := single_of_ctx hb.1 (congrArg Ctx.fused hb1) (congrArg Ctx.bind hb1)
  have h2 := ctx_startOne hs1 core 2 fb
  have hta := (h2 a).trans ((if_neg hab).trans ((h1 a).trans (if_pos rfl)))
  have htb := (h2 b).trans (if_pos rfl)
  rw [ctx_of_ctxs hc] at hta
  rw [hb1] at htb
  have hctx := startIssue_ctxs base s' core [(a, fa), (b, fb)]
  refine ⟨?_, ?_, ?_, starts_begun hta (ctx_of_ctxs hctx a), starts_begun htb (ctx_of_ctxs hctx b)⟩
  · rw [startIssue_issue]
    exact congrArg₂ (· ++ ·) (slots_begun ha hta) ((List.append_nil _).trans (slots_begun hb htb))
  · rw [startIssue_issuing]
    exact congrArg₂ (· ++ ·) (gangOf_begun ha hta) ((List.append_nil _).trans (gangOf_begun hb htb))
  · exact (mem_startIssue ..).trans hm

/-! ### Which issue a core chooses -/

section

variable {s : State} {core : Nat}

theorem missCycle_of_mayIssue (h : s.mayIssue core = true) : s.missCycle core = none := by
  unfold State.mayIssue at h
  simp only [Bool.and_eq_true, Option.isNone_iff_eq_none] at h
  obtain ⟨⟨-, hmiss⟩, -⟩ := h
  unfold State.missCycle
  rw [hmiss, ite_self]

theorem issue_of_mayIssue (h : s.mayIssue core = true) : s.issue = [] ∧ s.issueCores = [] := by
  unfold State.mayIssue at h
  simp only [Bool.and_eq_true, List.isEmpty_iff] at h
  obtain ⟨⟨⟨⟨⟨hi, hc⟩, -⟩, -⟩, -⟩, -⟩ := h
  exact ⟨hi, hc⟩

section

variable (h : s.mayIssue core = true)
include h

theorem bundleIssue_a {f : Fetch} (ha : s.turnOf (2 * core) = .issue f) (hb : s.turnOf (2 * core + 1) = .idle) :
    exec (.bundleIssue core) s = .next (s.issueOf s core [(2 * core, f)]).finishIssue := by
  simp only [exec_bundleIssue, execBundleIssue, missCycle_of_mayIssue h, h, ha, hb]
  rfl

theorem bundleIssue_b {f : Fetch} (ha : s.turnOf (2 * core) = .idle) (hb : s.turnOf (2 * core + 1) = .issue f) :
    exec (.bundleIssue core) s = .next (s.issueOf (s.setMerge core false 0) core [(2 * core + 1, f)]).finishIssue := by
  simp only [exec_bundleIssue, execBundleIssue, missCycle_of_mayIssue h, h, ha, hb]
  rfl

theorem bundleIssue_both {fa fb : Fetch} (ha : s.turnOf (2 * core) = .issue fa) (hb : s.turnOf (2 * core + 1) = .issue fb)
    (hf : (s.core core).forced = false) (hc : s.conflict (2 * core) (2 * core + 1) fa fb = false) :
    exec (.bundleIssue core) s =
      .next (s.issueOf (s.setMerge core false 0) core [(2 * core, fa), (2 * core + 1, fb)]).finishIssue := by
  simp only [exec_bundleIssue, execBundleIssue, missCycle_of_mayIssue h, h, ha, hb, mergeStage, hf, hc]
  rfl

end

theorem detStampIssue_issues {cid : Nat} (h : s.mayIssue (coreOf cid) = true) {f : Fetch} (ht : s.turnOf cid = .stamped f) :
    exec (.detStampIssue cid) s = .next (s.issueOf s (coreOf cid) [(cid, f)]).finishIssue := by
  simp [execDetStampIssue, h, ht]

theorem detStampIssue_late {cid : Nat} (h : s.mayIssue (coreOf cid) = true) (ht : s.turnOf cid = .late) :
    exec (.detStampIssue cid) s = .next (s.placeTrap cid ⟨7, 0, 0, 0, 0⟩) := by
  simp [execDetStampIssue, h, ht]

theorem emptyBundle_issues {f : Fetch} (ht : s.turnOf (2 * core) = .issue f) (hf : f.word % 2 ^ 352 = 0) :
    exec (.emptyBundle (2 * core)) s = exec (.bundleIssue core) s := by
  have he : f.empty = true := beq_iff_eq.mpr hf
  have hcore : coreOf (2 * core) = core := Nat.mul_div_cancel_left core (by decide)
  simp only [exec_emptyBundle, execEmptyBundle, ht, he, if_true, hcore, exec_bundleIssue]

theorem issueOf_alone {s' : State} {cid : Nat} (h : Single s cid) (hr : (s.ctx cid).resumed = false) (f : Fetch) :
    s.issueOf s' core [(cid, f)] = s.startIssue s' core [(cid, f)] := by
  unfold State.issueOf
  simp [gangOf_single h, hr]

theorem issueOf_merged {s' : State} {a b : Nat} (ha : Single s a) (hb : Single s b) (hra : (s.ctx a).resumed = false)
    (hrb : (s.ctx b).resumed = false) (fa fb : Fetch) :
    s.issueOf s' core [(a, fa), (b, fb)] = s.startIssue s' core [(a, fa), (b, fb)] := by
  unfold State.issueOf
  simp [gangOf_single ha, gangOf_single hb, hra, hrb]

theorem issueOf_resumed {s' : State} {cid : Nat} (h : Single s cid) (hr : (s.ctx cid).resumed = true) (f : Fetch) :
    s.issueOf s' core [(cid, f)] = s.rebase cid := by
  unfold State.issueOf
  simp [gangOf_single h, hr]

end

theorem slot_empty {f : Fetch} (hf : f.word % 2 ^ 352 = 0) {n : Nat} (hn : n < 10) : f.slot n = 0 := by
  obtain ⟨k, hk⟩ := Nat.dvd_of_mod_eq_zero hf
  unfold Fetch.slot fieldN
  rw [hk]
  interval_cases n
  all_goals simp only [slotField]; omega

theorem slotsOf_empty {f : Fetch} (hf : f.word % 2 ^ 352 = 0) (cid : Nat) (done : BitVec 10) : slotsOf cid f done = [] := by
  unfold slotsOf
  rw [List.filterMap_eq_nil_iff]
  intro n hn
  simp [slot_empty hf (List.mem_range.mp hn)]

/-- A deterministic task without its turn, or a frame ahead, holds its core's issue. -/
theorem not_mayIssue {s : State} {cid : Nat} (h : Single s (2 * coreOf cid)) (hr : (s.ctx cid).status = .running)
    (ha : s.detAhead cid = true) : s.mayIssue (coreOf cid) = false := by
  have hd : s.domain (coreOf cid) = [coreOf cid] := by
    unfold State.domain
    dsimp only
    rw [if_neg]
    obtain h | h := h
    · simp [h]
    · simp [Binding.gang, Nat.not_lt.mpr h]
  have hlive : cid ∈ liveCtxs s (coreOf cid) := by
    refine List.mem_filter.mpr ⟨?_, by simp [hr]⟩
    have : cid = 2 * coreOf cid ∨ cid = 2 * coreOf cid + 1 := by unfold coreOf; omega
    simpa using this
  have hany : (liveCtxs s (coreOf cid)).any s.detAhead = true := List.any_eq_true.mpr ⟨cid, hlive, ha⟩
  unfold State.mayIssue
  rw [hd]
  simp [hany]

theorem detAhead_of {s : State} {cid : Nat} {x : Nat × Ctx} (hr : (s.ctx cid).status = .running) (hd : (s.ctx cid).bind.det = true)
    (h : s.hasTurn cid = false ∨ ((s.ctx cid).preempt = false ∧ x ∈ s.detRunning cid ∧
      x.2.r.frameTime / (s.ctx cid).bind.frame < (s.ctx cid).r.frameTime / (s.ctx cid).bind.frame)) : s.detAhead cid = true := by
  unfold State.detAhead
  obtain ht | ⟨hp, hx, hlt⟩ := h
  · simp [hr, hd, ht]
  · have hany : ((s.detRunning cid).any fun x =>
        decide (x.2.r.frameTime / (s.ctx cid).bind.frame < (s.ctx cid).r.frameTime / (s.ctx cid).bind.frame)
          || (decide (x.2.r.frameTime < (s.ctx cid).r.frameTime) && s.hasTurn x.1)) = true :=
      List.any_eq_true.mpr ⟨x, hx, by simp [hlt]⟩
    simp only [hr, hd, hp, hany, BEq.rfl, Bool.true_or, Bool.not_false, Bool.and_true, Bool.or_true]

/-- Settles O46: the merge stage's choice, and what the start of an issue gives each context. -/
theorem bundlesBeginToIssue : Obligations.BundlesBeginToIssue := by
  refine ⟨?_, ?_, ?_, ?_, ?_, ?_, ?_⟩
  · intro core cid f s hm ha ht hcase
    obtain ⟨rfl, hi⟩ | ⟨rfl, hi⟩ := hcase
    · refine ⟨_, (bundleIssue_a hm ht hi).trans ?_, startIssue_begins (base := s) core ha f rfl rfl⟩
      rw [issueOf_alone ha.1 ha.2.1]
    · refine ⟨_, (bundleIssue_b hm hi ht).trans ?_, startIssue_begins (base := s) (s' := s.setMerge core false 0) core ha f rfl rfl⟩
      rw [issueOf_alone ha.1 ha.2.1]
  · intro core fa fb s hm ha hb hta htb hf hc
    refine ⟨_, (bundleIssue_both hm hta htb hf hc).trans ?_,
      startIssue_merges (base := s) (s' := s.setMerge core false 0) core (by omega) ha hb fa fb rfl rfl⟩
    rw [issueOf_merged ha.1 hb.1 ha.2.1 hb.2.1]
  · intro core f s hm hs hr ht hi
    obtain ⟨hi1, hi2⟩ := issue_of_mayIssue hm
    rw [bundleIssue_a hm ht hi, issueOf_resumed hs hr, State.rebase, show coreOf (2 * core) = core from
      Nat.mul_div_cancel_left core (by decide)]
    unfold State.finishIssue
    rw [if_neg]
    simp [hi2]
  · intro cid f s hm ha ht
    refine ⟨_, (detStampIssue_issues hm ht).trans ?_, startIssue_begins (base := s) (coreOf cid) ha f rfl rfl⟩
    rw [issueOf_alone ha.1 ha.2.1]
  · intro cid x s hs hmiss hr hd h
    have hno := not_mayIssue hs hr (detAhead_of hr hd h)
    refine ⟨?_, ?_⟩
    · simp [execBundleIssue, hmiss, hno]
    · simp [execDetStampIssue, hno]
  · intro cid s hm ht
    exact detStampIssue_late hm ht
  · intro core f s hm ha hf ht hi
    obtain ⟨hissue, hissuing, hmem, hstarts⟩ := startIssue_begins (base := s) (s' := s) core ha f rfl rfl
    refine ⟨_, (emptyBundle_issues ht hf).trans ((bundleIssue_a hm ht hi).trans ?_), hissue.trans (slotsOf_empty hf _ _), hissuing,
      hmem, hstarts⟩
    rw [issueOf_alone ha.1 ha.2.1]

end Sys2Proof.Claims


namespace Sys2Proof.Claims

open Sys2Proof.Machine

/-! ### Landings of requests and result words (R150, R194) -/

section

variable (r : Regs) (n : Nat) (l : Latch)

theorem writeLatch_eq : ∃ x, r.writeLatch n l = { r with latch := x } := by
  unfold Regs.writeLatch
  split
  · exact ⟨_, rfl⟩
  · exact ⟨_, rfl⟩

theorem writeLatch_keeps : (r.writeLatch n l).vreg = r.vreg ∧ (r.writeLatch n l).sreg = r.sreg ∧ (r.writeLatch n l).land = r.land ∧
    (r.writeLatch n l).words = r.words := by
  obtain ⟨x, hx⟩ := writeLatch_eq r n l
  rw [hx]
  exact ⟨rfl, rfl, rfl, rfl⟩

theorem latchAt_writeLatch {a : BitVec 3} (ha : a.toNat = n) : (r.writeLatch n l).latchAt a = l := by
  have hslot : n < 8 := ha ▸ a.isLt
  simp only [Regs.writeLatch, dif_pos hslot, Regs.latchAt, ha, Vector.getElem_set_self]

theorem readV_writeLatch (m : BitVec 5) : (r.writeLatch n l).readV m = r.readV m := by
  obtain ⟨x, hx⟩ := writeLatch_eq r n l
  rw [hx]
  rfl

end

/-- The scalar value that a request lands. -/
def scalarLanded (q : MReq) (size : Nat) (sext : Bool) : SVal :=
  SVal.whole (extendLoad size sext (q.bytes.map fun b => b.getD 0)) (q.okWords.all fun b => b)

/-- The vector value that a request lands. -/
def vectorLanded (q : MReq) : VVal :=
  VVal.ofList ((wordsOfBytes (q.bytes.map fun b => b.getD 0)).zipWith (fun w ok => ⟨w, ok⟩) q.okWords)

theorem landReq_scalar (r : Regs) {q : MReq} {d : BitVec 6} {size : Nat} {sext : Bool} (h : q.dest = .sreg d size sext) :
    r.landReq q = (r.writeS d (scalarLanded q size sext)).writeLatch q.port (.scalar (scalarLanded q size sext)) := by
  simp only [Regs.landReq, MReq.value, h]
  rfl

theorem landReq_vector (r : Regs) {q : MReq} {d : BitVec 5} {n : Nat} (h : q.dest = .vreg d n) :
    r.landReq q = (r.writeV d n (vectorLanded q)).writeLatch q.port (.vector ((vectorLanded q).narrow n)) := by
  simp only [Regs.landReq, MReq.value, h]
  rfl

theorem landReq_land (r : Regs) (q : MReq) : (r.landReq q).land = r.land := by
  cases h : q.dest with
  | sreg d size sext =>
    obtain ⟨x, hx⟩ := writeS_eq r d (scalarLanded q size sext)
    rw [landReq_scalar r h, (writeLatch_keeps ..).2.2.1, hx]
  | vreg d n =>
    rw [landReq_vector r h, (writeLatch_keeps ..).2.2.1]
    rfl

/-- A context whose request has landed. -/
def reqLanded (q : MReq) (rest : List MReq) (c : Ctx) : Ctx :=
  { c with r := { c.r with land := rest }.landReq q, ival := c.ival.note [q.value.1.landed q.port] }

/-- A context in which a late request is the overrun fault. -/
def reqLate (q : MReq) (c : Ctx) : Ctx :=
  { c with r := { c.r with land := c.r.land.map fun x : MReq => if x.id = q.id then { x with late := true } else x } }.postTrap
    ⟨7, q.port, 0, 0, 0⟩

/-- A context whose result word has landed. -/
def wordLanded (w : TWord) (rest : List TWord) (v : SVal) (c : Ctx) : Ctx :=
  { c with r := { c.r with words := rest }.landWord w v, ival := c.ival.note [(RWrite.sreg w.reg v).landed 9] }

/-- A context in which a late result word is the overrun fault. -/
def wordLate (w : TWord) (c : Ctx) : Ctx :=
  { c with r := { c.r with words := c.r.words.map fun x : TWord => if x.id = w.id then { x with late := true } else x } }.postTrap
    ⟨7, 9, 0, 0, 0⟩

section

variable {s : State} {cid : Nat} {q : MReq} {rest : List MReq} (h : s.dueReq cid = some (q, rest))
include h

theorem landingDue_lands (ha : q.arrived = true) : exec (.mLandingDue cid) s = .next (s.modCtx cid (reqLanded q rest)) := by
  simp only [exec_mLandingDue, execMLandingDue, h, ha, if_true]
  rfl

theorem landingDue_freezes (ha : q.arrived = false) (hd : (s.ctx cid).bind.det = false) : exec (.mLandingDue cid) s =
    .next (s.freezeCores cid (some (if q.qn.isSome = true then 12 else 11))) := by
  simp only [exec_mLandingDue, execMLandingDue, h, ha, hd, Bool.false_eq_true, if_false]

theorem landingDue_overruns (ha : q.arrived = false) (hd : (s.ctx cid).bind.det = true) : exec (.mLandingDue cid) s =
    .next (s.modCtx cid (reqLate q)) := by
  simp only [exec_mLandingDue, execMLandingDue, h, ha, hd, Bool.false_eq_true, if_false, if_true]
  rfl

end

section

variable {s : State} {cid : Nat} {w : TWord} {rest : List TWord} (h : s.dueWord cid = some (w, rest))
include h

theorem resultWordDue_lands {v : SVal} (hv : wordValue s cid w = some v) : exec (.resultWordDue cid) s =
    .next (s.modCtx cid (wordLanded w rest v)) := by
  simp only [exec_resultWordDue, execResultWordDue, h, hv]
  rfl

theorem resultWordDue_freezes (hv : wordValue s cid w = none) (hd : (s.ctx cid).bind.det = false) :
    exec (.resultWordDue cid) s = .next (s.freezeCores cid (some 11)) := by
  simp only [exec_resultWordDue, execResultWordDue, h, hv, hd, Bool.false_eq_true, if_false]

theorem resultWordDue_overruns (hv : wordValue s cid w = none) (hd : (s.ctx cid).bind.det = true) :
    exec (.resultWordDue cid) s = .next (s.modCtx cid (wordLate w)) := by
  simp only [exec_resultWordDue, execResultWordDue, h, hv, hd, if_true]
  rfl

end

theorem landWord_eq (r : Regs) (w : TWord) (v : SVal) : r.landWord w v =
    { r.writeS w.reg v with latch := if w.b6 = true then r.latch.set 6 (.scalar v) else r.latch } := by
  obtain ⟨x, hx⟩ := writeS_eq r w.reg v
  unfold Regs.landWord
  dsimp only
  rw [hx]
  cases w.b6 with
  | true => rfl
  | false => rfl

theorem postTrap_traps {c : Ctx} {t : BoundaryTrap} (hs : c.status ≠ .ending) (hi : c.r.inHandler = false) :
    (c.postTrap t).traps = c.traps ++ [t] := congrArg Ctx.traps (postTrap_outside hs hi)

theorem sameCtxBut_modCtx (s : State) (cid : Nat) (f : Ctx → Ctx) : SameCtxBut cid s (s.modCtx cid f) := fun _ hi => ctx_modCtx_off f hi

/-! ### Traps at a boundary (R224, R227) -/

theorem causeReg_toNat (t : TrapInfo) : t.causeReg.toNat = t.flags.toNat * 2 ^ 32 + t.code.toNat * 2 ^ 18 + t.cause.toNat := by
  have hf := t.flags.isLt
  have hc := t.code.isLt
  have ht := t.cause.isLt
  have h1 : (t.flags.setWidth 64 <<< 32 : Word).toNat = t.flags.toNat <<< 32 := by
    rw [BitVec.toNat_shiftLeft, BitVec.toNat_setWidth, Nat.shiftLeft_eq, Nat.shiftLeft_eq]
    omega
  have h2 : (t.code.setWidth 64 <<< 18 : Word).toNat = t.code.toNat <<< 18 := by
    rw [BitVec.toNat_shiftLeft, BitVec.toNat_setWidth, Nat.shiftLeft_eq, Nat.shiftLeft_eq]
    omega
  have h3 : (t.cause.setWidth 64 : Word).toNat = t.cause.toNat := by
    rw [BitVec.toNat_setWidth]
    omega
  rw [TrapInfo.causeReg, BitVec.toNat_or, BitVec.toNat_or, h1, h2, h3, Nat.or_assoc,
    ← Nat.shiftLeft_add_eq_or_of_lt (show t.cause.toNat < 2 ^ 18 by omega), ← Nat.shiftLeft_add_eq_or_of_lt]
  · simp only [Nat.shiftLeft_eq]
    omega
  · simp only [Nat.shiftLeft_eq]
    omega

theorem mem_enterHold' (s : State) (i : Nat) (t : TrapInfo) : (s.enterHold i t).mem = s.mem ∧ (s.enterHold i t).ctxs = s.ctxs := by
  unfold State.enterHold
  split
  · exact ⟨rfl, rfl⟩
  · exact ⟨rfl, rfl⟩

section

variable {s : State} {cid : Nat} (hi : s.issueCores = []) (hl : (s.clockCtxs cid).any s.landsNow = false) (hd : s.trapDue cid = true)
variable (hs : Single s cid)

/-- A context outside a handler takes its oldest trap. -/
def trapTaken (s : State) (cid : Nat) (b : BoundaryTrap) (rest : List BoundaryTrap) : Ctx :=
  { s.ctx cid with traps := rest, yielding := true }.takeTrap (trapInfo s cid b) (s.ctx cid).r.pc 0 After.none

theorem trapWaits_outside (hd : s.trapDue cid = true) (hh : (s.ctx cid).hTraps = []) : (s.ctx cid).r.inHandler = false := by
  unfold State.trapDue Ctx.trapWaits at hd
  simp only [hh, List.isEmpty_nil, Bool.not_true, Bool.false_or, Bool.and_eq_true, Bool.not_eq_true'] at hd
  exact hd.1.1.1.2

include hi hl hd hs

theorem trapAtBoundary_takes {b : BoundaryTrap} {rest : List BoundaryTrap} (hh : (s.ctx cid).hTraps = [])
    (ht : (s.ctx cid).traps = b :: rest) : ∃ t, exec (.trapAtBoundary cid) s = .next t ∧ t.mem = s.mem ∧
      t.ctx cid = trapTaken s cid b rest := by
  have hfirst : firstTrap s Ctx.traps [cid] = some (cid, b) := by simp [firstTrap, ht]
  have hnone : firstTrap s Ctx.hTraps [cid] = none := by simp [firstTrap, hh]
  have hrun : exec (.trapAtBoundary cid) s = .next (((s.modCtx cid fun c => { c with traps := c.traps.drop 1 }).enterHold cid
      (trapInfo s cid b)).placeTrap cid (trapInfo s cid b)) := by
    simp only [exec_trapAtBoundary, execTrapAtBoundary, hi, hl, hd, gangOf_single hs, hfirst, hnone]
    rfl
  obtain ⟨hm, hc⟩ := mem_enterHold' (s.modCtx cid fun c => { c with traps := c.traps.drop 1 }) cid (trapInfo s cid b)
  generalize (s.modCtx cid fun c => { c with traps := c.traps.drop 1 }).enterHold cid (trapInfo s cid b) = u at hrun hm hc
  have hu : u.ctx cid = { s.ctx cid with traps := rest } := by
    rw [ctx_of_ctxs hc, ctx_modCtx, if_pos rfl, ht]
    rfl
  have hsu : Single u cid := single_of_ctx hs ((congrArg Ctx.fused hu).trans rfl) ((congrArg Ctx.bind hu).trans rfl)
  refine ⟨_, hrun, ?_, ?_⟩
  · exact (foldl_keeps State.mem (fun _ _ => by rfl) _ _).trans hm
  · unfold State.placeTrap
    rw [gangOf_single hsu, fetcher_single hsu]
    dsimp only
    rw [List.foldl_cons, List.foldl_nil, ctx_modCtx, if_pos rfl, hu]
    rfl

theorem trapAtBoundary_fails {b : BoundaryTrap} {rest : List BoundaryTrap} (hh : (s.ctx cid).hTraps = b :: rest) :
    exec (.trapAtBoundary cid) s =
      .next (s.modCtx cid fun c => { c with hTraps := [] }.fail b.cause b.slot b.addr c.r.pc) := by
  have hfirst : firstTrap s Ctx.hTraps [cid] = some (cid, b) := by simp [firstTrap, hh]
  simp only [exec_trapAtBoundary, execTrapAtBoundary, hi, hl, hd, gangOf_single hs, hfirst]
  rfl

end

/-! ### Deadlines (R344) -/

/-- A state in which the event of a context's deadline has been acted on. -/
def deadlineMet (s : State) (cid : Nat) : State :=
  s.modCtx cid fun c => { c with abandoned := false, r := { c.r with dlEvent := false } }

/-- A state in which the task of a context is being abandoned. -/
def taskAbandoned (s : State) (cid : Nat) : State :=
  (s.members cid).foldl (State.abandonAt s) ((deadlineMet s cid).abandonSaved (s.ctx cid).bind)

theorem deadlineDue_atBoundary {s : State} {cid : Nat} (h : (s.ctx cid).r.dlEvent = true ∨ (s.ctx cid).abandoned = true)
    (hb : s.atBoundary cid = true) : s.deadlineDue cid = true ∧ ((s.ctx cid).status = .running ∨ (s.ctx cid).status = .bound) := by
  have hst : (s.ctx cid).status = .running ∨ (s.ctx cid).status = .bound := by
    unfold State.atBoundary at hb
    simp only [Bool.or_eq_true, Bool.and_eq_true, beq_iff_eq] at hb
    exact hb.symm.imp (fun h => h.1.1) id
  refine ⟨?_, hst⟩
  unfold State.deadlineDue
  obtain hst | hst := hst
  · simp [hst, hb, h]
  · simp [hst, h]

section

variable {s : State} {cid : Nat}

theorem deadlineEvent_traps (hdl : (s.ctx cid).r.dlEvent = true) (ha : (s.ctx cid).abandoned = false) (hb : s.atBoundary cid = true)
    (ht : (s.ctx cid).r.dlTrap = true) : exec (.deadlineEvent cid) s =
      .next ((deadlineMet s cid).modCtx cid fun c => c.postTrap ⟨10, 0, 0, 0, 0⟩) := by
  obtain ⟨hdue, hst⟩ := deadlineDue_atBoundary (.inl hdl) hb
  simp only [exec_deadlineEvent, execDeadlineEvent, hdue]
  rw [if_neg (by simp), if_neg (by tauto), if_pos (by simp [hdl, ht, ha])]
  rfl

theorem deadlineEvent_abandons (h : (s.ctx cid).r.dlEvent = true ∨ (s.ctx cid).abandoned = true) (hb : s.atBoundary cid = true)
    (ht : (s.ctx cid).r.dlTrap = false ∨ (s.ctx cid).abandoned = true) : exec (.deadlineEvent cid) s = .next (taskAbandoned s cid) := by
  obtain ⟨hdue, hst⟩ := deadlineDue_atBoundary h hb
  simp only [exec_deadlineEvent, execDeadlineEvent, hdue]
  rw [if_neg (by simp), if_neg (by tauto), if_neg]
  · rfl
  · obtain ht | ht := ht
    · simp [ht]
    · simp [ht]

theorem deadlineEvent_waits (h : s.deadlineDue cid = false) : exec (.deadlineEvent cid) s = .next s := by
  simp [execDeadlineEvent, h]

theorem deadlineEvent_lapses (hdl : (s.ctx cid).r.dlEvent = true) (hst : (s.ctx cid).status = .ending) :
    exec (.deadlineEvent cid) s = .next (deadlineMet s cid) := by
  have hdue : s.deadlineDue cid = true := by simp [State.deadlineDue, hdl, hst]
  simp only [exec_deadlineEvent, execDeadlineEvent, hdue]
  rw [if_neg (by simp), if_pos (by simp [hst])]
  rfl

/-- What abandoning does to a context of the task: it ends at its boundary, or is marked. -/
def AbandonedAt (s : State) (i : Nat) (c : Ctx) : Prop :=
  (s.atBoundary i = true → c.status = .ending ∧ c.endInfo = some ⟨4, 10, 0, false, 0, c.r.pc⟩) ∧
    (s.atBoundary i = false → c.abandoned = true ∧ c.status = (s.ctx i).status)

theorem abandonAt_abandons {t : State} {i : Nat} (h : s.atBoundary i = false → (t.ctx i).status = (s.ctx i).status) :
    AbandonedAt s i ((s.abandonAt t i).ctx i) := by
  unfold State.abandonAt AbandonedAt
  rw [ctx_modCtx, if_pos rfl]
  cases hb : s.atBoundary i with
  | true => exact ⟨fun _ => ⟨rfl, rfl⟩, (fun h => nomatch h)⟩
  | false => exact ⟨(fun h => nomatch h), fun _ => ⟨rfl, h hb⟩⟩

theorem abandonAt_foldl_off (l : List Nat) (t : State) {i : Nat} (hi : i ∉ l) : (l.foldl (State.abandonAt s) t).ctx i = t.ctx i :=
  ctx_foldl_off (f := State.abandonAt s) (key := fun i => i) (fun _ _ _ hj => ctx_modCtx_off _ hj) l t (by rwa [List.map_id'])

theorem abandonAt_foldl (l : List Nat) (t : State) {i : Nat} (h : s.atBoundary i = false → (t.ctx i).status = (s.ctx i).status)
    (hi : i ∈ l) : AbandonedAt s i ((l.foldl (State.abandonAt s) t).ctx i) := by
  induction l generalizing t with
  | nil => exact absurd hi List.not_mem_nil
  | cons a l ih =>
    rw [List.foldl_cons]
    by_cases hia : i = a
    · subst hia
      by_cases hl : i ∈ l
      · exact ih _ (fun hb => ((abandonAt_abandons h).2 hb).2) hl
      · rw [abandonAt_foldl_off l _ hl]
        exact abandonAt_abandons h
    · refine ih _ (fun hb => ?_) ((List.mem_cons.mp hi).resolve_left hia)
      rw [State.abandonAt, ctx_modCtx_off _ hia]
      exact h hb

theorem taskAbandoned_abandons {i : Nat} (hi : i ∈ s.members cid) : AbandonedAt s i ((taskAbandoned s cid).ctx i) := by
  refine abandonAt_foldl _ _ (fun _ => ?_) hi
  show ((deadlineMet s cid).ctx i).status = _
  rw [deadlineMet, ctx_modCtx]
  split
  next h => rw [h]
  · rfl

theorem mem_taskAbandoned : (taskAbandoned s cid).mem = s.mem := foldl_keeps State.mem (fun _ _ => by rfl) _ _

end

/-- Settles O48: what each event leaves of its context is written out once, and read off field by field. -/
theorem boundaryEventsHappen : Obligations.BoundaryEventsHappen := by
  refine ⟨?_, ?_, ?_, ?_, ?_, ?_⟩
  · intro cid q rest s hq
    refine ⟨fun ha => ?_, landingDue_freezes hq, fun ha hd hst hin => ⟨_, landingDue_overruns hq ha hd, rfl, ?_, fun x hx hid => ?_⟩⟩
    · refine ⟨_, landingDue_lands hq ha, ?_, rfl, sameCtxBut_modCtx _ _ _, fun d size sext hdest => ?_, fun d n hdest => ?_⟩
      · rw [ctx_modCtx, if_pos rfl]
        exact landReq_land ..
      · have hr : ((s.modCtx cid (reqLanded q rest)).ctx cid).r =
            (({ (s.ctx cid).r with land := rest }.writeS d (scalarLanded q size sext)).writeLatch q.port
              (.scalar (scalarLanded q size sext))) := by
          rw [ctx_modCtx, if_pos rfl]
          exact landReq_scalar _ hdest
        rw [hr]
        refine ⟨fun h => ?_, fun a ha => latchAt_writeLatch _ _ _ ha, fun m hm => ?_, ?_⟩
        · exact (readS_writeLatch ..).trans (readS_writeS_same _ _ h)
        · exact (readS_writeLatch ..).trans (readS_writeS_ne _ _ hm)
        · obtain ⟨x, hx⟩ := writeS_eq { (s.ctx cid).r with land := rest } d (scalarLanded q size sext)
          rw [(writeLatch_keeps ..).1, hx]
      · have hr : ((s.modCtx cid (reqLanded q rest)).ctx cid).r =
            (({ (s.ctx cid).r with land := rest }.writeV d n (vectorLanded q)).writeLatch q.port
              (.vector ((vectorLanded q).narrow n))) := by
          rw [ctx_modCtx, if_pos rfl]
          exact landReq_vector _ hdest
        rw [hr]
        refine ⟨fun i hi => ?_, fun a ha => latchAt_writeLatch _ _ _ ha, fun m hm => ?_, ?_⟩
        · rw [readV_writeLatch, readV_writeV, if_pos rfl]
          exact word_merge _ _ _ hi
        · rw [readV_writeLatch, readV_writeV, if_neg hm]
          rfl
        · rw [(writeLatch_keeps ..).2.1]
          rfl
    · rw [ctx_modCtx, if_pos rfl]
      exact postTrap_traps hst hin
    · rw [ctx_modCtx, if_pos rfl, reqLate, postTrap_r] at hx
      obtain ⟨y, -, rfl⟩ := List.mem_map.mp hx
      by_cases hy : y.id = q.id
      · rw [if_pos hy]
      · rw [if_neg hy] at hid
        exact absurd hid hy
  · intro cid w rest s hw
    refine ⟨fun v hv => ?_, resultWordDue_freezes hw, fun hv hd hst hin => ⟨_, resultWordDue_overruns hw hv hd, rfl, ?_⟩⟩
    · have hr : ((s.modCtx cid (wordLanded w rest v)).ctx cid).r = { { (s.ctx cid).r with words := rest }.writeS w.reg v with
          latch := if w.b6 = true then (s.ctx cid).r.latch.set 6 (.scalar v) else (s.ctx cid).r.latch } := by
        rw [ctx_modCtx, if_pos rfl]
        exact landWord_eq ..
      refine ⟨_, resultWordDue_lands hw hv, ?_, fun h => ?_, fun m hm => ?_, congrArg Regs.latch hr, rfl, sameCtxBut_modCtx _ _ _⟩
      · obtain ⟨x, hx⟩ := writeS_eq { (s.ctx cid).r with words := rest } w.reg v
        rw [hr, hx]
      · rw [hr]
        exact readS_writeS_same _ _ h
      · rw [hr]
        exact readS_writeS_ne _ _ hm
    · rw [ctx_modCtx, if_pos rfl]
      exact postTrap_traps hst hin
  · intro cid s hi hl hd hs
    refine ⟨fun b rest hh ht hv hc => ?_, fun b rest hh ht hv => ?_, fun b rest hh hf => ?_⟩
    · obtain ⟨t, hrun, hm, htaken⟩ := trapAtBoundary_takes hi hl hd hs hh ht
      have htaken := htaken.trans (takeTrap_handled (c := { s.ctx cid with traps := rest, yielding := true }) hv
        (trapWaits_outside hd hh) _ _ _ _)
      have hcause : (trapInfo s cid b).cause.toNat = b.cause := by
        show (BitVec.ofNat 5 b.cause).toNat = b.cause
        rw [BitVec.toNat_ofNat]
        omega
      have hreg : (t.ctx cid).r.trapcause.toNat = b.flags.toNat * 2 ^ 32 + b.code.toNat * 2 ^ 18 + b.cause := by
        rw [htaken, ← hcause]
        exact causeReg_toNat ..
      have hcode := b.code.isLt
      have hflags := b.flags.isLt
      refine ⟨t, hrun, ?_⟩
      rw [hreg]
      refine ⟨congrArg (·.r.pc) htaken, congrArg (·.r.trappc) htaken, congrArg (·.r.inHandler) htaken, congrArg Ctx.traps htaken,
        by omega, by omega, fun hne => ?_, congrArg (·.r.donemask) htaken, congrArg (·.r.save.transfers) htaken,
        congrArg (·.r.save.loops) htaken, congrArg (·.r.sreg) htaken, congrArg (·.r.vreg) htaken, hm⟩
      refine (congrArg (·.r.trapslot) htaken).trans (congrArg (BitVec.ofNat 4) ?_)
      exact if_neg hne
    · obtain ⟨t, hrun, hm, htaken⟩ := trapAtBoundary_takes hi hl hd hs hh ht
      have htaken := htaken.trans (takeTrap_fatal (c := { s.ctx cid with traps := rest, yielding := true }) (.inl hv) _ _ _ _)
      exact ⟨t, hrun, congrArg Ctx.status htaken, hm⟩
    · refine ⟨_, trapAtBoundary_fails hi hl hd hs hh, ?_, ?_, rfl⟩
      · rw [ctx_modCtx, if_pos rfl]
        rfl
      · rw [ctx_modCtx, if_pos rfl]
        simp [Ctx.fail, hf]
  · intro cid s hdl ha hb
    cases ht : (s.ctx cid).r.dlTrap with
    | true =>
      refine ⟨_, deadlineEvent_traps hdl ha hb ht, rfl, fun _ => ?_, (fun h => nomatch h)⟩
      have hst := (deadlineDue_atBoundary (.inl hdl) hb).2
      rw [ctx_modCtx, if_pos rfl, deadlineMet, ctx_modCtx, if_pos rfl]
      refine ⟨?_, ?_⟩
      · rw [postTrap_r]
      · unfold Ctx.postTrap
        rw [if_neg (by obtain h | h := hst <;> simp [h]), if_neg (by simp)]
    | false =>
      refine ⟨_, deadlineEvent_abandons (.inl hdl) hb (.inl ht), mem_taskAbandoned, (fun h => nomatch h), fun _ i hi => ?_⟩
      obtain ⟨hat, hoff⟩ := taskAbandoned_abandons hi
      refine ⟨fun h => ⟨(hat h).1, ?_⟩, hoff⟩
      rw [(hat h).2]
      rfl
  · intro cid s ha hb hm
    obtain ⟨hat, -⟩ := taskAbandoned_abandons hm
    refine ⟨_, deadlineEvent_abandons (.inr ha) hb (.inr ha), mem_taskAbandoned, (hat hb).1, ?_⟩
    rw [(hat hb).2]
    rfl
  · intro cid s hdl
    exact ⟨fun hst => deadlineEvent_waits (by simp [State.deadlineDue, hst]),
      fun hst ht hb => deadlineEvent_waits (by simp [State.deadlineDue, hst, ht, hb]), deadlineEvent_lapses hdl⟩

end Sys2Proof.Claims


namespace Sys2Proof.Claims

open Sys2Proof.Machine

/-! ### Bytes written at consecutive places -/

theorem length_leBytes (n x : Nat) : (leBytes n x).length = n := by
  induction n generalizing x with
  | zero => rfl
  | succ n ih => rw [leBytes, List.length_cons, ih]

theorem cellsAt_cons (a : Nat) (b : Byte) (bs : List Byte) : cellsAt a (b :: bs) = (a, b) :: cellsAt (a + 1) bs := by
  simp only [cellsAt, List.length_cons, List.range_succ_eq_map, List.zipWith_cons_cons, List.zipWith_map_left, Nat.add_zero,
    Nat.succ_eq_add_one]
  congr 2
  funext i b
  rw [Nat.add_assoc, Nat.add_comm 1 i]

theorem memPutAll_cellsAt (m : List Host.Cell) (a : Nat) (bs : List Byte) : memPutAll m (cellsAt a bs) = memPutBytes m a bs := by
  induction bs generalizing m a with
  | nil => rfl
  | cons b bs ih => rw [cellsAt_cons, memPutAll, memPutBytes, ih]

theorem mem_putCells_cellsAt (s : State) (a : Nat) (bs : List Byte) : (s.putCells (cellsAt a bs)).mem = memPutBytes s.mem a bs :=
  memPutAll_cellsAt ..

theorem memGetBytes_memPutBytes {m : List Host.Cell} (h : Memory.wf m = true) {a n : Nat} {bs : List Byte} (hn : bs.length = n) :
    memGetBytes (memPutBytes m a bs) a n = bs := by
  subst hn
  refine List.ext_getElem (by simp [memGetBytes]) fun i _ hi => ?_
  simp only [memGetBytes, List.getElem_map, List.getElem_range]
  exact memGet_memPutBytes_on h a bs hi

theorem memGetBytes_memPutBytes_off {m : List Host.Cell} (h : Memory.wf m = true) {a b n : Nat} {bs : List Byte}
    (hoff : a + n ≤ b ∨ b + bs.length ≤ a) : memGetBytes (memPutBytes m b bs) a n = memGetBytes m a n := by
  refine List.map_congr_left fun i hi => memGet_memPutBytes_off h b bs ?_
  have := List.mem_range.mp hi
  omega

/-! ### Atomics at their area (R161) -/

/-- One operand word of an atomic takes its new value. -/
def atomPut (op : Nat) (s : State) (o : Nat × BitVec 32) : State :=
  s.putCells (cellsAt o.1 (leBytes 4 (atomNew op (s.atomWord o.1) o.2)))

section

variable {op : Nat} {s : State} {o : Nat × BitVec 32} {os : List (Nat × BitVec 32)}

theorem mem_atomPut : (atomPut op s o).mem = memPutBytes s.mem o.1 (leBytes 4 (atomNew op (s.atomWord o.1) o.2)) :=
  mem_putCells_cellsAt ..

theorem memOk_atomPut (h : MemOk s) : MemOk (atomPut op s o) := memWf_memPutAll h _

theorem atomPut_off (h : MemOk s) {a n : Nat} (hoff : a + n ≤ o.1 ∨ o.1 + 4 ≤ a) :
    memGetBytes (atomPut op s o).mem a n = memGetBytes s.mem a n := by
  rw [mem_atomPut]
  exact memGetBytes_memPutBytes_off h (by rwa [length_leBytes])

theorem atomPut_byte_off (h : MemOk s) {a : Nat} (hoff : ¬ (o.1 ≤ a ∧ a < o.1 + 4)) :
    memGet (atomPut op s o).mem a = memGet s.mem a := by
  rw [mem_atomPut]
  exact memGet_memPutBytes_off h _ _ (by rw [length_leBytes]; omega)

theorem atomPut_on (h : MemOk s) :
    memGetBytes (atomPut op s o).mem o.1 4 = leBytes 4 (atomNew op (leNat (memGetBytes s.mem o.1 4)) o.2) := by
  rw [mem_atomPut]
  exact memGetBytes_memPutBytes h (length_leBytes ..)

theorem foldl_atomPut_off (h : MemOk s) {a : Nat} (hoff : ∀ o ∈ os, a + 4 ≤ o.1 ∨ o.1 + 4 ≤ a) :
    memGetBytes (os.foldl (atomPut op) s).mem a 4 = memGetBytes s.mem a 4 := by
  induction os generalizing s with
  | nil => rfl
  | cons o os ih =>
    rw [List.foldl_cons, ih (memOk_atomPut h) fun x hx => hoff x (List.mem_cons_of_mem _ hx),
      atomPut_off h (hoff o List.mem_cons_self)]

theorem foldl_atomPut_byte_off (h : MemOk s) {a : Nat} (hoff : ¬ ∃ o ∈ os, o.1 ≤ a ∧ a < o.1 + 4) :
    memGet (os.foldl (atomPut op) s).mem a = memGet s.mem a := by
  induction os generalizing s with
  | nil => rfl
  | cons o os ih =>
    rw [List.foldl_cons, ih (memOk_atomPut h) fun ⟨x, hx, hin⟩ => hoff ⟨x, List.mem_cons_of_mem _ hx, hin⟩,
      atomPut_byte_off h fun hin => hoff ⟨o, List.mem_cons_self, hin⟩]

/-- Each of several words that do not meet takes its function of the old one. -/
theorem foldl_atomPut_on (h : MemOk s) (hapart : os.Pairwise fun x y => x.1 + 4 ≤ y.1 ∨ y.1 + 4 ≤ x.1) (ho : o ∈ os) :
    memGetBytes (os.foldl (atomPut op) s).mem o.1 4 = leBytes 4 (atomNew op (leNat (memGetBytes s.mem o.1 4)) o.2) := by
  induction os generalizing s with
  | nil => simp at ho
  | cons x os ih =>
    obtain ⟨hx, hos⟩ := List.pairwise_cons.mp hapart
    rw [List.foldl_cons]
    rcases List.mem_cons.mp ho with rfl | ho
    · rw [foldl_atomPut_off (memOk_atomPut h) hx, atomPut_on h]
    · rw [ih (memOk_atomPut h) hos ho, atomPut_off h (hx o ho).symm]

theorem ctx_foldl_atomPut (i : Nat) : (os.foldl (atomPut op) s).ctx i = s.ctx i := by
  induction os generalizing s with
  | nil => rfl
  | cons o os ih => rw [List.foldl_cons, ih]; rfl

/-- The state in which an atomic has filled its request and updates its words. -/
theorem performAtomic_eq (a : MAcc) : s.performAtomic op a =
    a.operands.foldl (atomPut op) (s.modRegs a.cid fun r => r.fillReq a.req (a.locs.map fun l => (l.1, memGet s.mem l.2))) := rfl

end

theorem r_dropAtomic (s : State) (cid pos : Nat) (a : MAcc) (i : Nat) : ((s.dropAtomic cid pos a).ctx i).r = (s.ctx i).r := by
  unfold State.dropAtomic State.dropM
  split
  · rw [ctx_modCtx]
    split
    · next h => rw [h]
    · rfl
  · rfl

theorem r_dropFences (s : State) (cid i : Nat) : ((s.dropFences cid).ctx i).r = (s.ctx i).r := by
  rw [State.dropFences, ctx_modCtx]
  split
  · next h => rw [h]
  · rfl

section

variable {s : State} {cid pos op : Nat} {a : MAcc}

theorem atomicPerform_acts (ha : (s.dropFences cid).atomicAt cid pos = some a) (hk : a.kind = .atomic op)
    (hhere : (s.dropFences cid).atomicHere cid pos a = true) (hdet : (s.ctx cid).bind.det = false) :
    exec (.atomicPerform cid pos) s = .next (((s.dropFences cid).dropAtomic cid pos a).performAtomic op a) := by
  have hd : ((s.dropFences cid).ctx cid).bind.det = false := by rw [State.dropFences, ctx_modCtx, if_pos rfl]; exact hdet
  simp only [exec_atomicPerform, execAtomicPerform, ha, hk, hhere, hd, Bool.not_false, Bool.and_self, if_true]

theorem keyedAtomic_acts (hp : pos < 2000) (ha : (s.dropFences cid).atomicAt cid pos = some a) (hk : a.kind = .atomic op)
    (hhere : (s.dropFences cid).atomicHere cid pos a = true) (hdet : (s.ctx cid).bind.det = true)
    (hframe : (s.dropFences cid).frameReached cid ((s.ctx cid).keyTime a.key + 64) = true)
    (hfirst : (s.dropFences cid).earlierAtomic cid a = false) :
    exec (.keyedPerform cid pos) s = .next (((s.dropFences cid).dropAtomic cid pos a).performAtomic op a) := by
  have hd : ((s.dropFences cid).ctx cid).bind = (s.ctx cid).bind := by rw [State.dropFences, ctx_modCtx, if_pos rfl]
  have ht : ((s.dropFences cid).ctx cid).keyTime a.key = (s.ctx cid).keyTime a.key := by rw [Ctx.keyTime, Ctx.keyTime, hd]
  simp only [exec_keyedPerform, execKeyedPerform, if_pos hp, State.keyedAtomic, ha, hk, hd, hdet, hhere, ht, hframe, hfirst,
    Bool.not_false, Bool.and_self, if_true]

end

/-- What an atomic that performs leaves in memory and in its context's request. -/
theorem performAtomic_effect {s u : State} {op : Nat} {a : MAcc} (h : MemOk s) (hm : u.mem = s.mem)
    (hr : (u.ctx a.cid).r = (s.ctx a.cid).r)
    (hapart : a.operands.Pairwise fun x y => x.1 + 4 ≤ y.1 ∨ y.1 + 4 ≤ x.1) :
    (∀ o ∈ a.operands, memGetBytes (u.performAtomic op a).mem o.1 4 =
        leBytes 4 (atomNew op (leNat (memGetBytes s.mem o.1 4)) o.2)) ∧
      SameMemBut (fun y => ∃ o ∈ a.operands, o.1 ≤ y ∧ y < o.1 + 4) s (u.performAtomic op a) ∧
      ((u.performAtomic op a).ctx a.cid).r = (s.ctx a.cid).r.fillReq a.req (a.locs.map fun l => (l.1, memGet s.mem l.2)) := by
  have hok : MemOk (u.modRegs a.cid fun r => r.fillReq a.req (a.locs.map fun l => (l.1, memGet u.mem l.2))) :=
    show Memory.wf u.mem = true from hm ▸ h
  rw [performAtomic_eq]
  refine ⟨fun o ho => ?_, fun y hy => ?_, ?_⟩
  · rw [foldl_atomPut_on hok hapart ho]
    simp only [modRegs_mem, hm]
  · rw [foldl_atomPut_byte_off hok hy]
    simp only [modRegs_mem, hm]
  · rw [ctx_foldl_atomPut, State.modRegs, ctx_modCtx, if_pos rfl, hr, hm]

/-! ### Loads and acquires (R323, R324) -/

section

variable {s : State} {cid pos : Nat} {a : MAcc}

theorem loadPerform_acts (hp : ((s.dropFences cid).ctx cid).mq[pos]? = some a) (hk : a.kind = .load)
    (hmay : (s.dropFences cid).mayPerform cid a = true) :
    exec (.loadPerform cid pos) s = .next ((s.dropFences cid).performLoad cid a) := by
  simp only [exec_loadPerform, execLoadPerform, hp, hk, hmay, beq_self_eq_true, Bool.and_self, if_true]

theorem acquirePerform_acts (hp : ((s.dropFences cid).ctx cid).mq[pos]? = some a) (hk : a.kind = .acquire)
    (hmay : (s.dropFences cid).mayPerform cid a = true) :
    exec (.acquirePerform cid pos) s = .next ((s.dropFences cid).performLoad cid a) := by
  simp only [exec_acquirePerform, execAcquirePerform, hp, hk, hmay, beq_self_eq_true, Bool.and_self, if_true]

end

/-- The state in which a load has filled its request and left its queue. -/
def loadFilled (s : State) (cid : Nat) (a : MAcc) : State :=
  (s.modRegs cid fun r => r.fillReq a.req (a.locs.map fun l => (l.1, s.loadByte cid a.seq l.2))).dropM cid a.seq

/-- A load leaves its context with its request filled, its entry gone and at most its interval and counters changed. -/
theorem performLoad_effect (s : State) (cid : Nat) (a : MAcc) :
    (s.performLoad cid a).mem = s.mem ∧ ((s.performLoad cid a).ctx cid).mq = ((loadFilled s cid a).ctx cid).mq ∧
      ((s.performLoad cid a).ctx cid).r.land = ((loadFilled s cid a).ctx cid).r.land := by
  unfold State.performLoad
  dsimp only
  split
  · obtain ⟨v, p, h⟩ := ctx_recordLoad (loadFilled s cid a) cid
      ⟨a.first, (a.locs.map fun l => l.2 / 64).dedup, (a.locs.map fun l => (l.1, s.loadByte cid a.seq l.2)).map (·.2)⟩ cid
    refine ⟨mem_recordLoad .., ?_, ?_⟩
    · exact (congrArg Ctx.mq h :)
    · exact (congrArg (fun c : Ctx => c.r.land) h :)
  · exact ⟨rfl, rfl, rfl⟩

theorem loadFilled_mq {s : State} {cid : Nat} {a b : MAcc} (hb : b ∈ ((loadFilled s cid a).ctx cid).mq) (hseq : b.seq = a.seq) :
    b.kind.isFence = true := by
  rw [loadFilled, ctx_dropM] at hb
  simpa [hseq] using (List.mem_filter.mp hb).2

theorem loadFilled_land (s : State) (cid : Nat) (a : MAcc) : ((loadFilled s cid a).ctx cid).r.land =
    (s.ctx cid).r.land.map fun q => if q.id = a.req then
      q.fillAll (a.locs.map fun l => (l.1, s.loadByte cid a.seq l.2)) else q := by
  rw [loadFilled, ctx_dropM, State.modRegs, ctx_modCtx, if_pos rfl]
  rfl

/-! ### The arrival of data (R150, R151, R162) -/

/-- A request arrives once it is whole and its minimum time is reached, or its context is stopped. -/
def arriveReq (s : State) (cid req : Nat) (q : MReq) : MReq :=
  if q.id = req ∧ s.hasArrived cid q then { q with arrived := true } else q

/-- The arrival in a state in which no pop waits any more. -/
def arriveIn (s : State) (cid req : Nat) : State := s.modRegs cid fun r => { r with land := r.land.map (arriveReq s cid req) }

theorem ctx_arriveIn (s : State) (cid req : Nat) : (arriveIn s cid req).ctx cid =
    { s.ctx cid with r := { (s.ctx cid).r with land := (s.ctx cid).r.land.map (arriveReq s cid req) } } := by
  rw [arriveIn, State.modRegs, ctx_modCtx, if_pos rfl]

theorem mDataArrival_plain {s : State} {cid req : Nat} (h : ∀ q ∈ (s.ctx cid).r.land, q.id = req → q.qn = none) :
    exec (.mDataArrival cid req) s = .next (arriveIn s cid req) := by
  rw [exec_mDataArrival, execMDataArrival]
  cases hf : (s.ctx cid).r.land.find? fun q => q.id == req with
  | none => rfl
  | some q =>
    have hq : q.qn = none := h q (List.mem_of_find?_eq_some hf) (by simpa using List.find?_some hf)
    simp only [hq]
    rfl

theorem mDataArrival_pop {s : State} {cid n req : Nat} {q : MReq}
    (hf : (s.ctx cid).r.land.find? (fun q => q.id == req) = some q) (hq : q.qn = some n) :
    exec (.mDataArrival cid req) s = .next (arriveIn (s.servePop cid n) cid req) := by
  simp only [exec_mDataArrival, execMDataArrival, hf, hq]
  rfl

theorem arriveReq_plain (s : State) (cid req : Nat) (q : MReq) : arriveReq s cid req q =
    if q.id = req ∧ q.bytes.all Option.isSome = true ∧
      (q.from_ ≤ (s.core (coreOf cid)).beats ∨ (s.ctx cid).status = .stopped) then { q with arrived := true } else q := by
  have h : (q.id = req ∧ s.hasArrived cid q = true) ↔ (q.id = req ∧ q.bytes.all Option.isSome = true ∧
      (q.from_ ≤ (s.core (coreOf cid)).beats ∨ (s.ctx cid).status = .stopped)) := by
    simp [State.hasArrived]
  simp only [arriveReq, h]

theorem arriveReq_id (s : State) (cid req : Nat) (q : MReq) : (arriveReq s cid req q).id = q.id ∧
    (arriveReq s cid req q).bytes = q.bytes ∧ (q.arrived = true → (arriveReq s cid req q).arrived = true) := by
  unfold arriveReq
  split
  · exact ⟨rfl, rfl, fun _ => rfl⟩
  · exact ⟨rfl, rfl, id⟩

theorem stream_lt {r : Regs} {n : Nat} {st : Stream} (h : r.stream n = some st) : n < 8 := by
  by_contra hn
  have hlen : r.streams.toList.length ≤ n := by simpa using hn
  simp [Regs.stream, List.getD_eq_getElem?_getD, List.getElem?_eq_none hlen] at h

theorem popped_served {id : Nat} {e : List VWord} {x : MReq} (h : (popped id e x).id = id) :
    (popped id e x).bytes = elemBytes e ∧ (popped id e x).arrived = true := by
  unfold popped at h ⊢
  split
  · exact ⟨rfl, rfl⟩
  · next hne => exact absurd (by rwa [if_neg hne] at h) hne

theorem popInto_acts {r : Regs} {n id : Nat} {st : Stream} {e : List VWord} {es : List (List VWord)} (hs : r.stream n = some st)
    (he : st.elems = e :: es) : (r.popInto n id).land = r.land.map (popped id e) ∧
      (r.popInto n id).stream n = if st.closed = true ∧ es = [] then none else some { st with elems := es } := by
  rw [popInto_eq hs he, land_setStream, stream_setStream _ (stream_lt hs), if_pos rfl]
  exact ⟨rfl, rfl⟩

/-! ### Copies (R243) -/

theorem ctx_enter (s : State) (l lvl : Nat) (w : BufWrite) (i : Nat) : (s.enter l lvl w).ctx i = s.ctx i := by
  unfold State.enter
  repeat' split
  all_goals rfl

theorem copies_unprotect (c : Ctx) : c.unprotect.copies = c.copies := by
  obtain ⟨v, p, h⟩ := unprotect_keeps c
  rw [h]

theorem copies_logRows (s : State) (c : Nat) (cells : List Host.Cell) (i : Nat) :
    ((s.logRows c cells).ctx i).copies = (s.ctx i).copies := by
  unfold State.logRows
  dsimp only
  split
  · rfl
  · by_cases hi : i = c
    · subst hi
      split
      · simp [copies_unprotect]
      · simp
    · split
      · simp [hi]
      · simp [hi]

theorem copies_enterPart (cls c n : Nat) (s : State) (part : List (Loc × Option Byte)) (i : Nat) :
    ((enterPart cls c n s part).ctx i).copies = (s.ctx i).copies := by
  unfold enterPart
  dsimp only
  split
  · rfl
  · split
    · exact copies_logRows ..
    · rw [ctx_enter]

theorem copies_foldl_enterPart (cls c n : Nat) (s : State) (parts : List (List (Loc × Option Byte))) (i : Nat) :
    ((parts.foldl (enterPart cls c n) s).ctx i).copies = (s.ctx i).copies := by
  induction parts generalizing s with
  | nil => rfl
  | cons part parts ih => rw [List.foldl_cons, ih, copies_enterPart]

theorem copies_copyWrite {s t : State} {cls c n : Nat} {p : Put} (h : copyWrite s cls c n p = .ok t) (i : Nat) :
    (t.ctx i).copies = (s.ctx i).copies := by
  unfold copyWrite at h
  split at h
  · exact nomatch h
  · split at h
    · obtain rfl := Except.ok.inj h
      exact copies_foldl_enterPart ..
    · exact nomatch h

theorem copies_copyWrites {s t : State} {cls c n : Nat} {ps : List Put} (h : copyWrites s cls c n ps = .ok t) (i : Nat) :
    (t.ctx i).copies = (s.ctx i).copies := by
  induction ps generalizing s with
  | nil => obtain rfl := Except.ok.inj h; rfl
  | cons p ps ih =>
    rw [copyWrites] at h
    cases hp : copyWrite s cls c n p with
    | error e => rw [hp] at h; exact nomatch h
    | ok u => rw [hp] at h; rw [ih h, copies_copyWrite hp]

end Sys2Proof.Claims


namespace Sys2Proof.Claims

open Sys2Proof.Machine

/-! ### The next element of a copy (R243) -/

section

variable {s : State} {cid pos : Nat} {k : Copy}

theorem engineAccess_copy (hp : (s.ctx cid).copies[pos]? = some k) (hready : copyReady s cid k = true)
    (hdet : (s.ctx cid).bind.det = false) : exec (.engineAccessPerform cid 1 pos) s = .next (copyStep s cid pos k) := by
  simp only [exec_engineAccessPerform, execEngineAccessPerform, if_true, copyPerform, hp, hready, hdet, Bool.not_false,
    Bool.and_self]

theorem keyedPerform_copy (hp : (s.ctx cid).copies[pos]? = some k) (hready : copyReady s cid k = true) (hpos : pos < 1000)
    (hdet : (s.ctx cid).bind.det = true) (hframe : s.frameReached cid ((s.ctx cid).keyTime k.cmd.key + 64) = true)
    (hfirst : earlierCopy s k = false) : exec (.keyedPerform cid (2000 + pos)) s = .next (copyStep s cid pos k) := by
  rw [exec_keyedPerform, execKeyedPerform, if_neg (by omega), if_pos (by omega), Nat.add_sub_cancel_left]
  simp only [keyedCopy, hp, hready, hdet, hframe, hfirst, Bool.not_false, Bool.and_self, if_true]

theorem copyStep_moves (h : k.held = none ∨ (s.ctx cid).status ≠ .ending) :
    copyStep s cid pos k = copyElem s cid pos { k with held := none } := by
  unfold copyStep
  split
  · next hk hs => exact absurd h (by simp [hk, hs])
  · rfl

theorem fills_isSome (k : Copy) : k.fills.isSome = k.streams.any fun q => decide (q < 8) := by
  rw [Bool.eq_iff_iff, Copy.fills, List.find?_isSome, List.any_eq_true]

theorem setCopy_at {pos : Nat} {k k' : Copy} (hp : (s.ctx cid).copies[pos]? = some k) :
    ((setCopy s cid pos k').ctx cid).copies[pos]? = some k' := by
  rw [setCopy, ctx_modCtx, if_pos rfl]
  exact List.getElem?_set_self (List.getElem?_eq_some_iff.mp hp).1

end

/-- What a copy's element writes: a stretch each, at its place in the destination row. -/
def copyPuts (u : State) (cid : Nat) (k : Copy) (sts : List Stretch) : List Put :=
  sts.map fun st => stretchPut u cid (addrPlus k.cmd.b (((turned k.cmd (elemAt k.cmd k.pos)).1 : Int) * k.cmd.dstr + st.1)) st

section

variable {s : State} {cid pos : Nat} {k : Copy} {sts : List Stretch} {fl : BitVec 8}

/-- An element without an enabled flag goes into the copy's stream, or to memory. -/
theorem copyElem_moves (hbad : k.pos = 0 → copyBad k = none) (hel : elemStretches s k = .ok (sts, fl))
    (hen : (s.ctx cid).r.enabled fl = 0) : copyElem s cid pos k =
      if k.fills.isSome then setCopy (s.noteSpans cid (copySpans k sts)) cid pos
        { k with pos := k.pos + 1, flags := k.flags ||| fl, bytes := packElem k sts }
      else match copyWrites (s.noteSpans cid (copySpans k sts)) 1 cid k.cmd.seq
          (copyPuts (s.noteSpans cid (copySpans k sts)) cid k sts) with
        | .error e => copyFault (s.noteSpans cid (copySpans k sts)) cid pos k true e
        | .ok t => setCopy t cid pos { k with pos := k.pos + 1, flags := k.flags ||| fl } := by
  have hgood : (if k.pos = 0 then copyBad k else none) = none := by
    split
    · next h => exact hbad h
    · rfl
  unfold copyElem
  simp only [hgood, hel, ctx_noteSpans, hen]
    <;> rfl

theorem copyElem_effect {w : State} {k₀ : Copy} (hp : (s.ctx cid).copies[pos]? = some k₀) (hbad : k.pos = 0 → copyBad k = none)
    (hel : elemStretches s k = .ok (sts, fl)) (hen : (s.ctx cid).r.enabled fl = 0)
    (h : k.fills.isSome = true ∨ copyWrites (s.noteSpans cid (copySpans k sts)) 1 cid k.cmd.seq
      (copyPuts (s.noteSpans cid (copySpans k sts)) cid k sts) = .ok w) :
    ((copyElem s cid pos k).ctx cid).copies[pos]?.map (fun x => (x.pos, x.flags)) = some (k.pos + 1, k.flags ||| fl) ∧
      (k.fills.isSome = true → (copyElem s cid pos k).mem = s.mem) := by
  have hp' : ((s.noteSpans cid (copySpans k sts)).ctx cid).copies[pos]? = some k₀ := by rwa [ctx_noteSpans]
  rw [copyElem_moves hbad hel hen]
  cases hf : k.fills.isSome with
  | true =>
    rw [if_pos rfl, setCopy_at hp']
    exact ⟨rfl, fun _ => mem_noteSpans ..⟩
  | false =>
    have hw := h.resolve_left (by simp [hf])
    rw [if_neg (by simp), hw]
    refine ⟨?_, fun h => nomatch h⟩
    rw [setCopy_at (k := k₀) (by rwa [copies_copyWrites hw])]
    rfl

end

/-! ### The next granule of an `as.ld` (R289) -/

section

variable {s : State} {cid pos : Nat} {a : AsLd}

theorem engineAccess_as (hp : (s.ctx cid).asLds[pos]? = some a) (hready : asReady s cid a = true)
    (hdet : (s.ctx cid).bind.det = false) : exec (.engineAccessPerform cid 7 pos) s = .next (asStep s cid pos a) := by
  rw [exec_engineAccessPerform, execEngineAccessPerform, if_neg (by decide), if_neg (by decide), if_pos rfl]
  simp only [asPerform, hp, hready, hdet, Bool.not_false, Bool.and_self, if_true]

theorem keyedPerform_as (hp : (s.ctx cid).asLds[pos]? = some a) (hready : asReady s cid a = true)
    (hdet : (s.ctx cid).bind.det = true) (hframe : s.frameReached cid ((s.ctx cid).keyTime a.cmd.key + 64) = true)
    (hfirst : earlierAs s a = false) : exec (.keyedPerform cid (3000 + pos)) s = .next (asStep s cid pos a) := by
  rw [exec_keyedPerform, execKeyedPerform, if_neg (by omega), if_neg (by omega), Nat.add_sub_cancel_left]
  simp only [keyedAs, hp, hready, hdet, hframe, hfirst, Bool.not_false, Bool.and_self, if_true]

theorem asStep_moves (h : a.held = none ∨ (s.ctx cid).status ≠ .ending) : asStep s cid pos a =
    asGranule (s.noteWalk cid ((a.cmd.a.toNat + 64 * a.granules) % 2 ^ 64)) cid pos a := by
  unfold asStep
  split
  · next hk hs => exact absurd h (by simp [hk, hs])
  · rfl

/-- The key in the angle store that the next granule of an `as.ld` goes to. -/
def asKey (cid : Nat) (a : AsLd) : Nat :=
  kAngle (dieOf (coreOf cid)) (a.cmd.b.toNat - Config.windowK + 64 * a.granules)

theorem asGranule_moves {ls : List Loc} (hphase : a.status = none → readPhase s (dieOf (coreOf cid)) = false)
    (hloc : locateAll s cid .read ((a.cmd.a.toNat + 64 * a.granules) % 2 ^ 64) 64 = .ok ls) (hreg : ∀ l ∈ ls, l.region = 8) :
    asGranule s cid pos a = setAs (s.putCells (cellsAt (asKey cid a) (ls.map fun l => s.readByte (coreOf cid) 3 l.key))) cid pos
      { a with status := some 0, held := none, granules := a.granules + 1 } := by
  have hopen : ¬ (a.status.isNone = true ∧ readPhase s (dieOf (coreOf cid)) = true) := fun ⟨hn, hr⟩ => by
    rw [hphase (by simpa using hn)] at hr
    exact Bool.false_ne_true hr
  have hall : (ls.all fun l => l.region == 8) = true := by simpa using hreg
  unfold asGranule
  dsimp only
  rw [if_neg hopen]
  simp only [hloc, hall]
  rfl

theorem setAs_at {a' : AsLd} (hp : (s.ctx cid).asLds[pos]? = some a) :
    ((setAs s cid pos a').ctx cid).asLds[pos]? = some a' := by
  rw [setAs, ctx_modCtx, if_pos rfl]
  exact List.getElem?_set_self (List.getElem?_eq_some_iff.mp hp).1

end

theorem length_locateBytes {s : State} {cid va n : Nat} {perm : Perm} {ls : List Loc}
    (h : locateBytes s cid perm va n = .ok ls) : ls.length = n := by
  induction n generalizing ls with
  | zero => obtain rfl := Except.ok.inj h; rfl
  | succ n ih =>
    rw [locateBytes] at h
    cases hb : locateBytes s cid perm va n with
    | error e => rw [hb] at h; exact nomatch h
    | ok ks =>
      have hlen := ih hb
      rw [hb] at h
      dsimp only at h
      cases hl : locate s cid perm ((va + n) % 2 ^ 64) with
      | error e => rw [hl] at h; exact nomatch h
      | ok l =>
        rw [hl] at h
        dsimp only at h
        cases hh : ks.head? with
        | none =>
          rw [hh] at h
          obtain rfl := Except.ok.inj h
          obtain rfl := List.head?_eq_none_iff.mp hh
          exact congrArg (· + 1) hlen
        | some x =>
          rw [hh] at h
          dsimp only at h
          split at h
          · obtain rfl := Except.ok.inj h
            rw [List.length_append, hlen]
            rfl
          · exact nomatch h

theorem length_locateAll {s : State} {cid va n : Nat} {perm : Perm} {ls : List Loc}
    (h : locateAll s cid perm va n = .ok ls) : ls.length = n := by
  unfold locateAll at h
  split at h
  · exact nomatch h
  · exact length_locateBytes h

/-! ### Commands to the scheduler (R345, R346) -/

theorem engineAccess_scheduler {s : State} {cid pos : Nat} {c : Cmd} {rest : List Cmd} (hq : (s.ctx cid).hCmds = c :: rest)
    (hdone : ∀ k < 8, (s.dropFences cid).classDone cid k c.seq 3 = true) : ∃ (u : State) (v : SVal),
      exec (.engineAccessPerform cid 8 pos) s =
        .next (u.modCtx cid fun x => { x with hCmds := rest, r := x.r.readyWord c.req v }) := by
  have hq' : ((s.dropFences cid).ctx cid).hCmds = c :: rest := by rw [State.dropFences, ctx_modCtx, if_pos rfl]; exact hq
  have hall : ((List.range 8).all fun k => (s.dropFences cid).classDone cid k c.seq 3) = true :=
    List.all_eq_true.mpr fun k hk => hdone k (List.mem_range.mp hk)
  rw [exec_engineAccessPerform, execEngineAccessPerform, if_neg (by decide), if_neg (by decide), if_neg (by decide), if_pos rfl]
  simp only [hPerform, hq', hall, Bool.not_true, Bool.false_eq_true, if_false]
  exact ⟨_, _, rfl⟩

/-- Settles O50: each access acts once, by the equation of its step: a load and an arrival on their request, a pop on its
stream, an atomic on its words, a copy and an `as.ld` on their next element and granule. -/
theorem accessesPerform : Obligations.AccessesPerform := by
  refine ⟨?_, ?_, ?_, ?_, ?_, ?_, ?_⟩
  · intro cid pos a s i hp hi hmay
    have hexec : exec i s = .next ((s.dropFences cid).performLoad cid a) := by
      rcases hi with ⟨rfl, hk⟩ | ⟨rfl, hk⟩
      · exact loadPerform_acts hp hk hmay
      · exact acquirePerform_acts hp hk hmay
    obtain ⟨hmem, hmq, hland⟩ := performLoad_effect (s.dropFences cid) cid a
    refine ⟨_, hexec, hmem, fun b hb => loadFilled_mq (hmq ▸ hb), ?_⟩
    rw [hland, loadFilled_land, r_dropFences]
  · intro cid req s hq
    refine ⟨_, mDataArrival_plain hq, rfl, ?_⟩
    rw [ctx_arriveIn]
    exact List.map_congr_left fun q _ => arriveReq_plain s cid req q
  · intro cid n req q x rest st e es s hf hq hx hb hst he
    obtain ⟨hland, hstream⟩ := popInto_acts (id := x.id) hst he
    refine ⟨_, mDataArrival_pop hf hq, ?_, ?_, ?_⟩
    · rw [servePop_eq hx hb]
      rfl
    · intro y hy hid
      rw [ctx_arriveIn, servePop_eq hx hb, State.modRegs, ctx_modCtx, if_pos rfl] at hy
      obtain ⟨z, hz, rfl⟩ := List.mem_map.mp hy
      obtain ⟨w, -, rfl⟩ := List.mem_map.mp (hland ▸ hz)
      obtain ⟨hzid, hbytes, harr⟩ := arriveReq_id (s.modCtx cid fun c => { c with r := c.r.popInto n x.id }) cid req
        (popped x.id e w)
      obtain ⟨hwb, hwa⟩ := popped_served (hzid.symm.trans hid)
      exact ⟨hbytes.trans hwb, harr hwa⟩
    · rw [ctx_arriveIn, servePop_eq hx hb, State.modRegs, ctx_modCtx, if_pos rfl]
      exact hstream
  · intro cid pos op a s i ha hk hapart hok hhere hpos hi
    have hexec : exec i s = .next (((s.dropFences cid).dropAtomic cid pos a).performAtomic op a) := by
      rcases hi with ⟨rfl, hdet⟩ | ⟨rfl, hdet, hframe, hfirst⟩
      · exact atomicPerform_acts ha hk hhere hdet
      · exact keyedAtomic_acts hpos ha hk hhere hdet hframe hfirst
    exact ⟨_, hexec, performAtomic_effect hok (mem_dropAtomic ..) ((r_dropAtomic ..).trans (r_dropFences ..)) hapart⟩
  · intro cid pos k s i hp hready hpos hi
    have hexec : exec i s = .next (copyStep s cid pos k) := by
      rcases hi with ⟨rfl, hdet⟩ | ⟨rfl, hdet, hframe, hfirst⟩
      · exact engineAccess_copy hp hready hdet
      · exact keyedPerform_copy hp hready hpos hdet hframe hfirst
    refine ⟨_, hexec, rfl, ?_⟩
    intro inp row sts fl hheld hbad hel hen u hout
    have hinp := fills_isSome { k with held := none }
    rw [copyStep_moves hheld]
    rcases hout with hin | ⟨w, hw⟩
    · obtain ⟨hnext, hmem⟩ := copyElem_effect (k := { k with held := none }) (w := s) hp hbad hel hen (.inl (hinp.trans hin))
      exact ⟨hnext, fun h => hmem (hinp.trans h)⟩
    · obtain ⟨hnext, hmem⟩ := copyElem_effect (k := { k with held := none }) hp hbad hel hen (.inr hw)
      exact ⟨hnext, fun h => hmem (hinp.trans h)⟩
  · intro cid pos a ls s i hok hp hi hready hheld va u key hphase hloc hreg
    have hexec : exec i s = .next (asStep s cid pos a) := by
      rcases hi with ⟨rfl, hdet⟩ | ⟨rfl, hdet, hframe, hfirst⟩
      · exact engineAccess_as hp hready hdet
      · exact keyedPerform_as hp hready hdet hframe hfirst
    have hlen : (ls.map fun l => u.readByte (coreOf cid) 3 l.key).length = 64 := by
      rw [List.length_map, length_locateAll hloc]
    have hmem : (setAs (u.putCells (cellsAt key (ls.map fun l => u.readByte (coreOf cid) 3 l.key))) cid pos
        { a with status := some 0, held := none, granules := a.granules + 1 }).mem =
        memPutBytes s.mem key (ls.map fun l => u.readByte (coreOf cid) 3 l.key) :=
      (mem_putCells_cellsAt ..).trans (congrArg (memPutBytes · key _) (mem_noteWalk s cid va))
    refine ⟨_, hexec, ?_⟩
    rw [asStep_moves hheld, asGranule_moves hphase hloc hreg]
    refine ⟨?_, fun y hy => ?_, ?_⟩
    · exact (congrArg (memGetBytes · key 64) hmem).trans (memGetBytes_memPutBytes hok hlen)
    · refine (congrArg (memGet · y) hmem).trans (memGet_memPutBytes_off hok _ _ ?_)
      rw [hlen]
      omega
    · rw [setAs_at (a := a)]
      · rfl
      · exact (congrArg (fun c : Ctx => c.asLds[pos]?) (ctx_noteWalk s cid va cid)).trans hp
  · intro cid pos c rest s hq hdone
    obtain ⟨u, v, hexec⟩ := engineAccess_scheduler (pos := pos) hq hdone
    refine ⟨_, hexec, ?_, ?_⟩
    · rw [ctx_modCtx, if_pos rfl]
    · intro w hw hid
      rw [ctx_modCtx, if_pos rfl] at hw
      exact readyWord_ready _ _ _ hw hid

end Sys2Proof.Claims


namespace Sys2Proof.Claims

open Sys2Proof.Machine

/-- A sequencer's command that has to wait for its gang does not end, and an empty table has no transition (R191, R192). -/
theorem seqTransition_waits {core : Nat} {o i : EngOp} {s : State} (hrun : (s.core core).run = some o) (hop : o.cmd.op = 0x0E)
    (hgoes : o.finished = false) (hinner : (s.ctx o.cmd.cid).seqr.inner = some i)
    (hwaits : gangEndWaits s i (s.ctx o.cmd.cid).seqr.issued = true) (htable : (s.ctx o.cmd.cid).seqr.table = []) :
    exec (.seqTransition core) s = .next s := by
  have hnone : ¬ (i.finished && !i.endsLater s && !gangEndWaits s i (s.ctx o.cmd.cid).seqr.issued) = true := by
    rw [hwaits]
    simp
  rw [exec_seqTransition, execSeqTransition]
  simp only [hrun]
  rw [if_neg (by simp [hop, hgoes])]
  simp only [hinner, Option.bind_some, if_neg hnone, htable, List.getElem?_nil]

/-- A command of context `cid` with opcode `op`, of the first operation of its gang. -/
def gangCmd (cid op : Nat) : Cmd where
  cid := cid
  op := op
  a := 0
  b := 0
  c := 0
  d := 0
  m := 0
  dreg := 0
  req := 0
  seq := 0
  scope := 0
  key := ⟨0, 0, 0, 0⟩
  fmts := []
  rmode := 0
  gid := 0

/-- The `seq.run` of context 0. -/
def seqRunOp : EngOp := EngOp.start (gangCmd 0 0x0E)

/-- The `rot.lin` that the sequencer of context 0 has run to its last step. -/
def lastLin : EngOp := { EngOp.start (gangCmd 0 0x05) with finished := true }

/-- A member of a fused gang of two columns. -/
def Ctx.gangMember (c : Ctx) (member : Nat) : Ctx :=
  { c with status := .running, fused := true, bind := { c.bind with gangW := 2, gangH := 1, member := member } }

/-- Context 0 runs its sequencer with a finished `rot.lin`; the other member of its gang has its own command still queued. -/
def mateBehindState : State :=
  (((State.reset.modCtx 0 fun c => { Ctx.gangMember c 0 with seqr := { c.seqr with inner := some lastLin } }).modCtx 2
    fun c => Ctx.gangMember c 1).modCore 0 fun k => { k with run := some seqRunOp }).modCore 1 fun k =>
      { k with engQ := [gangCmd 2 0x05] }

theorem mateBehind_run : (mateBehindState.core 0).run = some seqRunOp := by rfl

theorem mateBehind_inner : (mateBehindState.ctx 0).seqr.inner = some lastLin := by rfl

theorem mateBehind_table : (mateBehindState.ctx 0).seqr.table = [] := by rfl

theorem mateBehind_waits : gangEndWaits mateBehindState lastLin (mateBehindState.ctx 0).seqr.issued = true := by decide

theorem mateBehind_stays : exec (.seqTransition 0) mateBehindState = .next mateBehindState :=
  seqTransition_waits mateBehind_run rfl rfl mateBehind_inner mateBehind_waits mateBehind_table

/-- Refutes O51: the clause of a sequencer's finished command leaves out that a finished `rot.lin` of a fused gang waits for the
other members (`gangEndWaits`, R192). With a member that still has its command queued, the transition does not end it. -/
theorem not_arrayEventsHappen : ¬ Obligations.ArrayEventsHappen := by
  rintro ⟨-, -, -, -, -, -, -, -, -, hinner⟩
  obtain ⟨t, ht, hgone, -, -⟩ := hinner 0 seqRunOp lastLin mateBehindState mateBehind_run rfl rfl mateBehind_inner rfl
    (by decide) rfl
  obtain rfl := Host.Outcome.next.inj (mateBehind_stays.symm.trans ht)
  exact absurd (mateBehind_inner.symm.trans hgone) (by simp)

end Sys2Proof.Claims
